-- ==== Sys2Proof/Word.lean ====
section
/-! DEFINITION. The word types of the OZ3072 and the sparse table that holds memories and register arrays:
bit vectors for what the spec shifts, masks or adds, and plain lists of (key, value) pairs for what is sparse. -/

namespace Sys2Proof

abbrev Byte := BitVec 8
abbrev W16 := BitVec 16
abbrev W32 := BitVec 32
abbrev W64 := BitVec 64

/-- The number of an `x` register (R149). -/
abbrev Reg := BitVec 5
/-- The number of a predicate `p0`–`p7`. -/
abbrev PReg := BitVec 3
/-- The number of a composition register `w0`–`w15`. -/
abbrev WReg := BitVec 4
/-- The number of a stream register `s0`–`s15`. -/
abbrev SReg := BitVec 4

/-- A sparse table: (key, value) pairs, keys strictly rising. What an unlisted key holds is said where the
table is read (`tget`). -/
abbrev Tbl (α : Type) := List (Nat × α)

end Sys2Proof
end

