-- ==== Sys2Proof/Machine/Table.lean ====
section
/-! DEFINITION. Reading and writing a sparse table (`Tbl`): one canonical form, keys strictly rising and no
entry equal to the default `d`, so that equal contents are equal data. -/

namespace Sys2Proof.Machine

/-- The value at key `a`; `d` where the table lists none. -/
def tget {α : Type} (d : α) : Tbl α → Nat → α
  | [], _ => d
  | (k, v) :: t, a => if a = k then v else tget d t a

/-- Write `v` at key `a`, whatever `v` is (the entry stays even where it equals a default). -/
def tset {α : Type} : Tbl α → Nat → α → Tbl α
  | [], a, v => [(a, v)]
  | (k, w) :: t, a, v =>
    if a < k then (a, v) :: (k, w) :: t
    else if a = k then (a, v) :: t
    else (k, w) :: tset t a v

/-- Take key `a` out of the table. -/
def tdel {α : Type} : Tbl α → Nat → Tbl α
  | [], _ => []
  | (k, w) :: t, a => if a = k then tdel t a else (k, w) :: tdel t a

/-- Write `v` at key `a`, keeping the canonical form: writing the default takes the entry out. -/
def tput {α : Type} [DecidableEq α] (d : α) (t : Tbl α) (a : Nat) (v : α) : Tbl α :=
  if v = d then tdel t a else tset t a v

/-- Keys rise strictly, all of them at least `lo`, and no value is the default. -/
def twfFrom {α : Type} [DecidableEq α] (d : α) : Nat → Tbl α → Bool
  | _, [] => true
  | lo, (k, v) :: t => decide (lo ≤ k) && decide (v ≠ d) && twfFrom d (k + 1) t

/-- The canonical form of a table with default `d`. -/
def twf {α : Type} [DecidableEq α] (d : α) (t : Tbl α) : Bool := twfFrom d 0 t

/-- Write a run of values at rising keys from `a`. -/
def tputs {α : Type} [DecidableEq α] (d : α) : Tbl α → Nat → List α → Tbl α
  | t, _, [] => t
  | t, a, v :: vs => tputs d (tput d t a v) (a + 1) vs

/-- The `n` values from key `a` up. -/
def tgets {α : Type} (d : α) (t : Tbl α) : Nat → Nat → List α
  | _, 0 => []
  | a, n + 1 => tget d t a :: tgets d t (a + 1) n

/-- The little-endian number of a list of bytes (R5). -/
def leNat : List Byte → Nat
  | [] => 0
  | b :: bs => b.toNat + 256 * leNat bs

/-- The `n` little-endian bytes of a number (R5). -/
def leBytes : Nat → Nat → List Byte
  | 0, _ => []
  | n + 1, v => BitVec.ofNat 8 v :: leBytes n (v / 256)

/-- ⌈a / b⌉; no caller divides by 0. -/
def ceilDiv (a b : Nat) : Nat := if b = 0 then 0 else (a + b - 1) / b

end Sys2Proof.Machine
end

