-- ==== Sys2Proof/Machine/Num.lean ====
section
/-! DEFINITION. Number formats and exact arithmetic (03_number_formats.md): the formats of R103 to the bit, exact
values as dyadic numbers, and the one rounding each conversion makes (R113, R119). -/

namespace Sys2Proof.Machine

/-- An exact real `m × 2^e` (every value of every format of R103 is one). -/
structure Dy where
  m : Int
  e : Int
  deriving DecidableEq, Repr

/-- `m × 2^k` for a non-negative `k`. -/
def shlInt (m : Int) (k : Nat) : Int := m * (2 ^ k : Nat)

/-- The sum of two exact reals. -/
def Dy.add (a b : Dy) : Dy :=
  if a.e ≤ b.e then ⟨a.m + shlInt b.m (b.e - a.e).toNat, a.e⟩
  else ⟨shlInt a.m (a.e - b.e).toNat + b.m, b.e⟩

def Dy.neg (a : Dy) : Dy := ⟨-a.m, a.e⟩
def Dy.mul (a b : Dy) : Dy := ⟨a.m * b.m, a.e + b.e⟩
def Dy.sub (a b : Dy) : Dy := a.add b.neg
/-- `a × 2^k`. -/
def Dy.scale (a : Dy) (k : Int) : Dy := ⟨a.m, a.e + k⟩
def Dy.lt (a b : Dy) : Bool := decide ((a.sub b).m < 0)
def Dy.le (a b : Dy) : Bool := decide ((a.sub b).m ≤ 0)
def Dy.abs (a : Dy) : Dy := ⟨a.m.natAbs, a.e⟩
def Dy.zero : Dy := ⟨0, 0⟩
def Dy.isZero (a : Dy) : Bool := decide (a.m = 0)
def Dy.ofInt (i : Int) : Dy := ⟨i, 0⟩

/-- The rounding modes of R118. -/
inductive Rm where
  | rne | rtz | rup | rdn | rna
  deriving DecidableEq, Repr

/-- The rounding field of R118; codes 5 to 7 are illegal. -/
def rmOf (c : BitVec 3) : Option Rm :=
  match c.toNat with
  | 0 => some .rne
  | 1 => some .rtz
  | 2 => some .rup
  | 3 => some .rdn
  | 4 => some .rna
  | _ => none

/-- The rounding mode of a field already known legal. -/
def rmD (c : BitVec 3) : Rm := (rmOf c).getD .rne

/-- Round the magnitude `mag / 2^k` of a number of sign `neg` to an integer; the Bool says it was inexact. -/
def roundMag (md : Rm) (neg : Bool) (mag k : Nat) : Nat × Bool :=
  let q := mag / 2 ^ k
  let r := mag % 2 ^ k
  if r = 0 then (q, false)
  else
    let up : Bool :=
      match md with
      | .rne => decide (2 * r > 2 ^ k) || (decide (2 * r = 2 ^ k) && decide (q % 2 = 1))
      | .rtz => false
      | .rup => !neg
      | .rdn => neg
      | .rna => decide (2 * r ≥ 2 ^ k)
    (if up then q + 1 else q, true)

/-- Round an exact real to an integer (R8, R118). -/
def Dy.roundInt (md : Rm) (a : Dy) : Int × Bool :=
  if 0 ≤ a.e then (shlInt a.m a.e.toNat, false)
  else
    let (q, ix) := roundMag md (decide (a.m < 0)) a.m.natAbs (-a.e).toNat
    (if a.m < 0 then -(q : Int) else (q : Int), ix)

/-- `to_anchor(x, a)`: `round_ne(x / 2^a)`, ties to the even integer (R115). -/
def toAnchor (x : Dy) (a : Int) : Int := ((x.scale (-a)).roundInt .rne).1

def clampInt (lo hi v : Int) : Int := if v < lo then lo else if hi < v then hi else v

/-- The five flags of one lane: NV, DZ, OF, UF, NX from bit 4 down (R121). -/
abbrev Flags := BitVec 5
def fNV : Flags := 16#5
def fDZ : Flags := 8#5
def fOF : Flags := 4#5
def fUF : Flags := 2#5
def fNX : Flags := 1#5

/-- A decoded operand: a NaN (whether signalling, and its sign bit), an infinity, or the finite value
`±mag × 2^exp` (a zero keeps its sign). NaV decodes as a quiet NaN. -/
inductive FVal where
  | nan (sig neg : Bool)
  | inf (neg : Bool)
  | fin (neg : Bool) (mag : Nat) (exp : Int)
  deriving DecidableEq, Repr

/-- The value of a finite operand (zero for a non-finite one). -/
def FVal.dy : FVal → Dy
  | .fin neg mag exp => ⟨if neg then -(mag : Int) else (mag : Int), exp⟩
  | _ => Dy.zero

def FVal.isNan : FVal → Bool
  | .nan _ _ => true
  | _ => false
def FVal.isSig : FVal → Bool
  | .nan s _ => s
  | _ => false
def FVal.isInf : FVal → Bool
  | .inf _ => true
  | _ => false
def FVal.isFin : FVal → Bool
  | .fin _ _ _ => true
  | _ => false
def FVal.isZero : FVal → Bool
  | .fin _ mag _ => decide (mag = 0)
  | _ => false
def FVal.neg : FVal → Bool
  | .nan _ n => n
  | .inf n => n
  | .fin n _ _ => n
def FVal.negate : FVal → FVal
  | .nan s n => .nan s (!n)
  | .inf n => .inf (!n)
  | .fin n m e => .fin (!n) m e

/-- A binary floating-point format of R106: exponent bits, fraction width, bias, whether it has infinities and
IEEE NaNs (`ieee`), whether its top code alone is a NaN (`topNan`, FP8 E4M3), and its canonical NaN (R108). -/
structure FFmt where
  ebits : Nat
  w : Nat
  bias : Nat
  ieee : Bool
  topNan : Bool
  sig : Bool
  canon : Nat
  deriving DecidableEq, Repr

def fmtFP32 : FFmt := ⟨8, 23, 127, true, false, true, 0x7FC00000⟩
def fmtFP16 : FFmt := ⟨5, 10, 15, true, false, true, 0x7E00⟩
def fmtBF16 : FFmt := ⟨8, 7, 127, true, false, true, 0x7FC0⟩
def fmtE4M3 : FFmt := ⟨4, 3, 7, false, true, false, 0x7F⟩
def fmtE5M2 : FFmt := ⟨5, 2, 15, true, false, false, 0x7E⟩
def fmtE2M3 : FFmt := ⟨2, 3, 1, false, false, false, 0⟩
def fmtE3M2 : FFmt := ⟨3, 2, 3, false, false, false, 0⟩
def fmtE2M1 : FFmt := ⟨2, 1, 1, false, false, false, 0⟩

/-- The bit of the sign. -/
def FFmt.signBit (f : FFmt) : Nat := 2 ^ (f.ebits + f.w)
/-- The exponent of the least significant bit of a subnormal: `1 − B − w` (R107). -/
def FFmt.emin (f : FFmt) : Int := 1 - (f.bias : Int) - (f.w : Int)
/-- The code of the infinity (formats that have one). -/
def FFmt.infCode (f : FFmt) : Nat := (2 ^ f.ebits - 1) * 2 ^ f.w
/-- The code of the largest finite magnitude. -/
def FFmt.maxCode (f : FFmt) : Nat :=
  if f.ieee then f.infCode - 1
  else if f.topNan then 2 ^ (f.ebits + f.w) - 2
  else 2 ^ (f.ebits + f.w) - 1
def FFmt.hasNan (f : FFmt) : Bool := f.ieee || f.topNan

/-- Decode a code (R107). -/
def FFmt.decode (f : FFmt) (code : Nat) : FVal :=
  let neg := decide (code / f.signBit % 2 = 1)
  let body := code % f.signBit
  let e := body / 2 ^ f.w
  let fr := body % 2 ^ f.w
  if f.ieee && decide (e = 2 ^ f.ebits - 1) then
    if fr = 0 then .inf neg else .nan (f.sig && decide (fr < 2 ^ (f.w - 1))) neg
  else if f.topNan && decide (body = f.signBit - 1) then .nan false neg
  else if e = 0 then .fin neg fr f.emin
  else .fin neg (2 ^ f.w + fr) (f.emin + (e : Int) - 1)

def FFmt.withSign (f : FFmt) (neg : Bool) (body : Nat) : Nat := if neg then f.signBit + body else body

/-- A NaN result: the canonical NaN, or +0 with invalid in a format without NaN (R108, R119). -/
def FFmt.nanOut (f : FFmt) (fl : Flags) : Nat × Flags :=
  if f.hasNan then (f.canon, fl) else (0, fl ||| fNV)

/-- An infinite value in the format (R119): where it has none, ±largest with invalid and inexact. -/
def FFmt.infOut (f : FFmt) (neg : Bool) : Nat × Flags :=
  if f.ieee then (f.withSign neg f.infCode, 0) else (f.withSign neg f.maxCode, fNV ||| fNX)

/-- What an overflow delivers (R119). -/
def FFmt.overflow (f : FFmt) (md : Rm) (neg : Bool) : Nat :=
  if f.ieee then
    match md, neg with
    | .rtz, _ => f.withSign neg f.maxCode
    | .rup, true => f.withSign true f.maxCode
    | .rdn, false => f.maxCode
    | _, _ => f.withSign neg f.infCode
  else f.withSign neg f.maxCode

/-- Round the non-zero magnitude `mag × 2^exp` of sign `neg` to the format, with OF, UF and NX (R119, R121). -/
def FFmt.roundMagTo (f : FFmt) (md : Rm) (neg : Bool) (mag : Nat) (exp : Int) : Nat × Flags :=
  let top : Int := exp + (Nat.log2 mag : Int)
  let unb : Int := top - (f.w : Int)
  let lsb : Int := if unb < f.emin then f.emin else unb
  let at' (l : Int) : Nat × Bool :=
    if exp ≤ l then roundMag md neg mag (l - exp).toNat else (mag * 2 ^ (exp - l).toNat, false)
  let (q, ix) := at' lsb
  let body : Nat := ((lsb - f.emin).toNat) * 2 ^ f.w + q
  if body > f.maxCode then (f.overflow md neg, fOF ||| fNX)
  else
    let tiny : Bool :=
      decide (unb < f.emin) &&
        !(decide (unb = f.emin - 1) && decide ((at' unb).1 = 2 ^ (f.w + 1)))
    (f.withSign neg body,
      if ix then (if tiny then fUF ||| fNX else fNX) else 0)

/-- Round an exact real to the format; `negZero` is the sign an exact zero takes. -/
def FFmt.round (f : FFmt) (md : Rm) (x : Dy) (negZero : Bool) : Nat × Flags :=
  if x.m = 0 then (f.withSign negZero 0, 0)
  else f.roundMagTo md (decide (x.m < 0)) x.m.natAbs x.e

/-- Convert an operand to the format (R108, R119, R252). -/
def FFmt.convert (f : FFmt) (md : Rm) (v : FVal) : Nat × Flags :=
  match v with
  | .nan s _ => f.nanOut (if s then fNV else 0)
  | .inf n => f.infOut n
  | .fin n m e => if m = 0 then (f.withSign n 0, 0) else f.roundMagTo md n m e

/-! ### Tapered formats (R111 to R113) -/

/-- The number of consecutive bits of `body`, from bit `k − 1` down, that equal `lead`. -/
def ztRun (body : Nat) (lead : Bool) : Nat → Nat
  | 0 => 0
  | k + 1 => if decide (body / 2 ^ k % 2 = 1) == lead then ztRun body lead k + 1 else 0

/-- The magnitude of a ZT body of `nb` bits, in units of 2^−12; body 0 counts as zero (R111). -/
def ztMag (nb body : Nat) : Nat :=
  if body = 0 then 0
  else
    let lead := decide (body / 2 ^ (nb - 1) % 2 = 1)
    let m := ztRun body lead nb
    let r : Int := if lead then (m : Int) - 1 else -(m : Int)
    let left : Nat := if m = nb then 0 else nb - m - 1
    let e : Nat := if left ≥ 1 then body / 2 ^ (left - 1) % 2 else 0
    let fw : Nat := left - 1
    let fr : Nat := if left ≥ 2 then body % 2 ^ fw else 0
    (2 ^ fw + fr) * 2 ^ ((2 * r + (e : Int) - (fw : Int) + 12).toNat)

/-- Decode a ZT code of `n` bits; NaV is the NaN (R111). -/
def ztDecode (n code : Nat) : FVal :=
  let body := code % 2 ^ (n - 1)
  let s := decide (code / 2 ^ (n - 1) % 2 = 1)
  if body = 0 then (if s then .nan false true else .fin false 0 0)
  else .fin s (ztMag (n - 1) body) (-12)

/-- The largest body not above `b` whose magnitude is at most `mag × 2^exp`. -/
def ztFloor (nb : Nat) (x : Dy) : Nat → Nat
  | 0 => 0
  | b + 1 => if Dy.le ⟨ztMag nb (b + 1), -12⟩ x then b + 1 else ztFloor nb x b

/-- Round to a ZT format of `n` bits (R113). -/
def ztConvert (n : Nat) (md : Rm) (v : FVal) : Nat × Flags :=
  match v with
  | .nan _ _ => (2 ^ (n - 1), fNV)
  | .inf _ => (2 ^ (n - 1), fNV)
  | .fin neg mag exp =>
    if mag = 0 then (0, 0)
    else
      let nb := n - 1
      let x : Dy := ⟨mag, exp⟩
      let top := 2 ^ nb - 1
      let lo := ztFloor nb x top
      let put (b : Nat) : Nat := if b = 0 then 0 else if neg then 2 ^ nb + b else b
      let dlo := x.sub ⟨ztMag nb lo, -12⟩
      if dlo.isZero then (put lo, 0)
      else if lo = top then (put top, fOF ||| fNX)
      else
        let dhi := Dy.sub ⟨ztMag nb (lo + 1), -12⟩ x
        let up : Bool :=
          match md with
          | .rne => dhi.lt dlo || (!(dlo.lt dhi) && decide (lo % 2 = 1))
          | .rtz => false
          | .rup => !neg
          | .rdn => neg
          | .rna => !(dlo.lt dhi)
        (put (if up then lo + 1 else lo), if lo = 0 then fUF ||| fNX else fNX)

/-! ### MXINT8 and E8M0 (R109, R110, R255) -/

/-- An MXINT8 code as an operand: `i × 2^−6` (R110). -/
def mxint8Decode (code : Nat) : FVal :=
  let c := code % 256
  if c < 128 then .fin false c (-6) else .fin true (256 - c) (-6)

/-- `clamp(round_rm(v × 64), −127, 127)` as a code, with the flags of R255. -/
def mxint8Convert (md : Rm) (v : FVal) : Nat × Flags :=
  match v with
  | .nan _ _ => (0, fNV)
  | .inf n => (if n then 0x81 else 0x7F, fNV ||| fNX)
  | .fin n m e =>
    let (i, ix) := Dy.roundInt md ⟨if n then -(m : Int) else m, e + 6⟩
    let c := clampInt (-127) 127 i
    ((c % 256).toNat, if c ≠ i then fOF ||| fNX else if ix then fNX else 0)

/-- The exponent of an E8M0 code; none for NaN (R109). -/
def e8m0 (code : Nat) : Option Int := if code % 256 = 255 then none else some ((code % 256 : Nat) - 127)

/-! ### Format codes (R103) -/

/-- The formats of R103. -/
inductive Fmt where
  | n8 | n16 | n32 | n64 | i8 | i16 | i32 | i64
  | fp16 | bf16 | fp32 | c64 | e4m3 | e5m2 | e2m3 | e3m2 | e2m1
  | mxint8 | e8m0 | zt8 | zt6 | q64 | w128
  deriving DecidableEq, Repr

/-- The format of a 5-bit code; codes 0x17–0x1F are reserved (R103). -/
def fmtOf (c : Nat) : Option Fmt :=
  match c with
  | 0x00 => some .n8 | 0x01 => some .n16 | 0x02 => some .n32 | 0x03 => some .n64
  | 0x04 => some .i8 | 0x05 => some .i16 | 0x06 => some .i32 | 0x07 => some .i64
  | 0x08 => some .fp16 | 0x09 => some .bf16 | 0x0A => some .fp32 | 0x0B => some .c64
  | 0x0C => some .e4m3 | 0x0D => some .e5m2 | 0x0E => some .e2m3 | 0x0F => some .e3m2
  | 0x10 => some .e2m1 | 0x11 => some .mxint8 | 0x12 => some .e8m0 | 0x13 => some .zt8
  | 0x14 => some .zt6 | 0x15 => some .q64 | 0x16 => some .w128
  | _ => none

/-- The width in bits (R103). -/
def Fmt.width : Fmt → Nat
  | .n8 | .i8 | .e4m3 | .e5m2 | .mxint8 | .e8m0 | .zt8 => 8
  | .n16 | .i16 | .fp16 | .bf16 => 16
  | .n32 | .i32 | .fp32 => 32
  | .n64 | .i64 | .c64 | .q64 => 64
  | .e2m3 | .e3m2 | .zt6 => 6
  | .e2m1 => 4
  | .w128 => 128

/-- FP4, the 6-bit formats: dimension 0 is packed (R105, R202). -/
def Fmt.packed : Fmt → Bool
  | .e2m3 | .e3m2 | .zt6 | .e2m1 => true
  | _ => false

/-- Elements of a packing group: 2 for FP4, 4 for the 6-bit formats (R203). -/
def Fmt.group : Fmt → Nat
  | .e2m1 => 2
  | .e2m3 | .e3m2 | .zt6 => 4
  | _ => 1

/-- The binary floating-point description, where the format is one of R106. -/
def Fmt.ff : Fmt → Option FFmt
  | .fp32 => some fmtFP32 | .fp16 => some fmtFP16 | .bf16 => some fmtBF16
  | .e4m3 => some fmtE4M3 | .e5m2 => some fmtE5M2
  | .e2m3 => some fmtE2M3 | .e3m2 => some fmtE3M2 | .e2m1 => some fmtE2M1
  | _ => none

/-- The element's value: every operand format of R103; integers decode as themselves. -/
def Fmt.decode (f : Fmt) (code : Nat) : FVal :=
  match f with
  | .zt8 => ztDecode 8 code
  | .zt6 => ztDecode 6 code
  | .mxint8 => mxint8Decode code
  | .i8 | .i16 | .i32 | .i64 =>
    let c := code % 2 ^ f.width
    if c < 2 ^ (f.width - 1) then .fin false c 0 else .fin true (2 ^ f.width - c) 0
  | _ =>
    match f.ff with
    | some g => g.decode code
    | none => .fin false (code % 2 ^ f.width) 0

/-- Round a value to a floating-point, ZT or MXINT8 format (R113, R119, R255). -/
def Fmt.convert (f : Fmt) (md : Rm) (v : FVal) : Nat × Flags :=
  match f with
  | .zt8 => ztConvert 8 md v
  | .zt6 => ztConvert 6 md v
  | .mxint8 => mxint8Convert md v
  | _ =>
    match f.ff with
    | some g => g.convert md v
    | none => (0, 0)

/-- The matrix operand formats of R103. -/
def Fmt.matrixOk : Fmt → Bool
  | .i8 | .fp16 | .bf16 | .e4m3 | .e5m2 | .e2m3 | .e3m2 | .e2m1 | .mxint8 | .zt8 | .zt6 => true
  | _ => false

/-- The MX element formats of R129. -/
def Fmt.mxOk : Fmt → Bool
  | .e4m3 | .e5m2 | .e2m3 | .e3m2 | .e2m1 | .mxint8 => true
  | _ => false

end Sys2Proof.Machine
end

