-- ==== Sys2Proof/Syntax.lean ====
section
/-! DEFINITION. The instructions of the OZ3072: one constructor per row of spec/opcode_table.json. Conductor words
(R137) carry their fields; engine words (R140) carry the fields of their layout (R232, R233, R301, R321, R348);
the events of 95_what_each_step_holds.md carry what the agent that causes them chooses. -/

namespace Sys2Proof

/-- The four engine queues (R27), in engine-code order. -/
inductive Queue where
  | v | m | g | x
  deriving DecidableEq, Repr

/-- Load widths of major 0x10, codes 0 to 6 (R170). -/
inductive LWidth where
  | b | h | w | d | bu | hu | wu
  deriving DecidableEq, Repr

/-- Store widths, codes 0 to 3 (R170). -/
inductive SWidth where
  | b | h | w | d
  deriving DecidableEq, Repr

/-- Scopes of R78, codes 0 to 4. -/
inductive Scope where
  | core | cluster | partition | device | fabric
  deriving DecidableEq, Repr

/-- Atomic sizes of R137: 32 or 64 bits. -/
inductive ASize where
  | w | d
  deriving DecidableEq, Repr

/-- Atomic orders of R137. -/
inductive AOrder where
  | none | acq | rel | ar
  deriving DecidableEq, Repr

/-- The port operations of R69, in the code order of R137 and R349; cas has words of its own. -/
inductive AmoOp where
  | add | qadd | smin | smax | umin | umax | and | or | xor | swap | fadd
  deriving DecidableEq, Repr

/-- The tagged operations of R66. -/
inductive TagKind where
  | readFull | take | put | setFull | clear
  deriving DecidableEq, Repr

/-- What every engine word holds around its operands: the token byte (R36, R37) and IDLE (R42). -/
structure EHead where
  pop : Option Queue
  push : Option Queue
  idle : BitVec 10
  deriving DecidableEq, Repr

/-- The VR layout (R232). -/
structure VWord where
  h : EHead
  vd : BitVec 5
  va : BitVec 5
  vb : BitVec 5
  vc : BitVec 5
  m : BitVec 3
  mz : Bool
  rm : BitVec 3
  nf : Bool
  ty : BitVec 4
  fn : BitVec 8
  deriving DecidableEq, Repr

/-- The VI layout of vsplat (R233). -/
structure VSplat where
  h : EHead
  vd : BitVec 5
  size : BitVec 2
  imm : W32
  deriving DecidableEq, Repr

/-- The GI layout (R301). -/
structure GI where
  h : EHead
  gd : BitVec 3
  sel : Bool
  imm : W32
  deriving DecidableEq, Repr

/-- The GK layout (R301). -/
structure GK where
  h : EHead
  gd : BitVec 3
  kind : BitVec 3
  tr : Bool
  deriving DecidableEq, Repr

/-- The GS layout (R301). -/
structure GS where
  h : EHead
  gd : BitVec 3
  ss : SReg
  k1 : BitVec 8
  k2 : BitVec 5
  deriving DecidableEq, Repr

/-- The MS layout (R321). -/
structure MS where
  h : EHead
  t : Bool
  b : Bool
  bank : Bool
  ss : SReg
  k2 : BitVec 5
  g : BitVec 3
  orow : BitVec 7
  rm : BitVec 3
  z : Bool
  deriving DecidableEq, Repr

/-- The MT layout (R321). -/
structure MT where
  h : EHead
  td : Bool
  ts : Bool
  imm : BitVec 10
  deriving DecidableEq, Repr

/-- The XC layout (R348); `ext` is the word-specific part [34:10]. -/
structure XC where
  h : EHead
  sd : SReg
  ss : SReg
  cnt : Bool
  lvl : BitVec 3
  slot : BitVec 3
  ext : BitVec 25
  deriving DecidableEq, Repr

/-- The body of a submit-graph packet (R408). -/
structure SubmitPkt where
  part : Nat
  gflags : Nat
  nodes : Nat
  image : Nat
  tag : W64
  root : Nat
  ntab : W64
  deriving DecidableEq, Repr

/-- A record ring of R478: a completion ring, or the trap ring. -/
inductive RingId where
  | cq (q : Nat)
  | tr
  deriving DecidableEq, Repr

/-- What a remote request does at the owning port (R484, R485). -/
inductive RemoteOp where
  | load (n : Nat)
  | store (bytes : List Byte)
  /-- A copy piece: bytes of one 64-byte line, by their places in it, written whole or not at all (R352). -/
  | piece (bytes : List (Nat × Byte))
  | amo (op : AmoOp) (size : ASize) (v : W64)
  | cas (size : ASize) (cmp new : W64)
  | tag (k : TagKind) (v : W64)
  /-- The write of xseq: a Set-full where a scratchpad lies there, else a release store (R372). -/
  | seqw (v : W64)
  /-- The checks of a store of `n` bytes, without the store (R281, R341). -/
  | probe (n : Nat)
  /-- The request of a sequence number is withdrawn, where a pending list holds it (R345). -/
  | withdraw (seq : Nat)
  deriving DecidableEq, Repr

/-- A request arriving at a Volley port (R485 to R487): the source device, its sequence number there, the offset in
the exported aperture, the operation, its class (R484), and the core that sent it, with the sequence number of that core's
request of the class before it, if any (R485). -/
structure RemoteReq where
  src : Nat
  seq : Nat
  off : Nat
  op : RemoteOp
  cls : Nat := 1
  core : Nat := 0
  after : Option Nat := none
  deriving DecidableEq, Repr

/-- A host access through a BAR (R472, R473): BAR2 or BAR4, a read of `n` bytes, a write of bytes, or an AtomicOp. -/
structure BarAccess where
  bar4 : Bool
  off : Nat
  read : Nat
  write : List Byte
  atomic : Bool := false
  deriving DecidableEq, Repr

/-- The place of an error that the accumulator scrub finds (R320): a row of a tile, or a bank of a macro. -/
inductive ScrubPlace where
  | row (tile : Bool) (row : Nat)
  | bank (mac : Bool) (bank : Bool)
  deriving DecidableEq, Repr

/-- The instructions and events of the part. -/
inductive Instr where
  | add (rd rs1 rs2 : Reg)
  | sub (rd rs1 rs2 : Reg)
  | and_ (rd rs1 rs2 : Reg)
  | or_ (rd rs1 rs2 : Reg)
  | xor (rd rs1 rs2 : Reg)
  | sll (rd rs1 rs2 : Reg)
  | srl (rd rs1 rs2 : Reg)
  | sra (rd rs1 rs2 : Reg)
  | slt (rd rs1 rs2 : Reg)
  | sltu (rd rs1 rs2 : Reg)
  | mul (rd rs1 rs2 : Reg)
  | div (rd rs1 rs2 : Reg)
  | clz (rd rs1 : Reg)
  | ctz (rd rs1 : Reg)
  | popc (rd rs1 : Reg)
  | bswap (rd rs1 : Reg)
  | addi (rd rs1 : Reg) (imm : W16)
  | ori (rd rs1 : Reg) (imm : W16)
  | slli (rd rs1 : Reg) (sh : BitVec 6)
  | srli (rd rs1 : Reg) (sh : BitVec 6)
  | lui (rd : Reg) (imm : W16)
  | lsi (rd rs1 : Reg) (imm : W16)
  | lpc (rd : Reg) (imm : W16)
  | ldB (rd rs1 : Reg) (off : BitVec 13)
  | ldH (rd rs1 : Reg) (off : BitVec 13)
  | ldW (rd rs1 : Reg) (off : BitVec 13)
  | ldD (rd rs1 : Reg) (off : BitVec 13)
  | ldBu (rd rs1 : Reg) (off : BitVec 13)
  | ldHu (rd rs1 : Reg) (off : BitVec 13)
  | ldWu (rd rs1 : Reg) (off : BitVec 13)
  | stB (rt rs1 : Reg) (off : BitVec 13)
  | stH (rt rs1 : Reg) (off : BitVec 13)
  | stW (rt rs1 : Reg) (off : BitVec 13)
  | stD (rt rs1 : Reg) (off : BitVec 13)
  | ldS (rd rs1 : Reg) (width : LWidth) (sc : Scope)
  | ldAcq (rd rs1 : Reg) (width : LWidth) (sc : Scope)
  | stS (rt rs1 : Reg) (width : SWidth) (sc : Scope)
  | stRel (rt rs1 : Reg) (width : SWidth) (sc : Scope)
  | ldf (rd rs1 : Reg)
  | ldt (rd rs1 : Reg)
  | ste (rs1 rs2 : Reg)
  | stf (rs1 rs2 : Reg)
  | tclr (rs1 : Reg)
  | tagrd (rd rs1 : Reg)
  | fenceAcq (sc : Scope)
  | fenceRel (sc : Scope)
  | fenceFull (sc : Scope)
  | amoAdd (rd rs1 rs2 : Reg) (z : ASize) (o : AOrder) (sc : Scope)
  | amoQadd (rd rs1 rs2 : Reg) (o : AOrder) (sc : Scope)
  | amoSwap (rd rs1 rs2 : Reg) (z : ASize) (o : AOrder) (sc : Scope)
  | cas (rd rs1 rs2 : Reg) (z : ASize) (o : AOrder) (sc : Scope)
  | beq (rt rs1 : Reg) (off : W16)
  | bne (rt rs1 : Reg) (off : W16)
  | blt (rt rs1 : Reg) (off : W16)
  | bge (rt rs1 : Reg) (off : W16)
  | bltu (rt rs1 : Reg) (off : W16)
  | bgeu (rt rs1 : Reg) (off : W16)
  | jal (off : BitVec 26)
  | jalr (rd rs1 : Reg) (off : BitVec 15)
  | jtab (rt rs1 : Reg) (len : BitVec 6) (dflt : BitVec 9)
  | loop (rs1 : Reg) (stm : BitVec 3) (len : W16)
  | rot
  | lbrk
  | lcrd (rd : Reg)
  | lcwr (rs1 : Reg)
  | psetEq (pd : PReg) (rs1 rs2 : Reg)
  | pand (pd pa pb : PReg)
  | pmov (pd pa : PReg)
  | wins (wd : WReg) (rs1 : Reg) (pos len : BitVec 6)
  | wmov (wa : WReg) (xj : Reg)
  | wrd (xj : Reg) (wa : WReg)
  | wcpy (wa wj : WReg)
  | wtmpl (wd : WReg) (idx : W16)
  | emit (q : Queue) (pd : PReg) (ws : WReg)
  | emitt (q : Queue) (pd : PReg) (idx : W16)
  | qstat (rd : Reg) (q : Queue)
  | tkpush (q : Queue)
  | tkpop (q : Queue)
  | sset (sd : SReg) (rs1 : Reg) (fld : BitVec 5)
  | sget (rd : Reg) (ss : SReg) (fld : BitVec 5)
  | scpy (sd ss : SReg)
  | sclr (sd : SReg)
  | mark (qs : BitVec 4)
  | join (qs : BitVec 4)
  | bar (lvl : Scope) (slot : BitVec 3)
  | waitCyc (rs1 : Reg)
  | waitGtc (rs1 : Reg)
  | crr (rd : Reg) (num : BitVec 12)
  | crw (num : BitVec 12) (rs1 : Reg)
  | spawn (strand : BitVec 2) (rs1 : Reg)
  | exit
  | yield
  | nop
  | start (rs1 : Reg)
  | ilock
  | fret (verdict : BitVec 2)
  | vnop (h : EHead)
  | vmov (w : VWord)
  | vsplat (w : VSplat)
  | vxrd (w : VWord)
  | vxclr (w : VWord)
  | vfadd (w : VWord)
  | vfsub (w : VWord)
  | vfmul (w : VWord)
  | vfma (w : VWord)
  | vfms (w : VWord)
  | vfnma (w : VWord)
  | vfdiv (w : VWord)
  | vfsqrt (w : VWord)
  | vfmin (w : VWord)
  | vfmax (w : VWord)
  | vfabs (w : VWord)
  | vfneg (w : VWord)
  | vfexp2 (w : VWord)
  | vflog2 (w : VWord)
  | vfrsqrt (w : VWord)
  | vfrcp (w : VWord)
  | vadd (w : VWord)
  | vsub (w : VWord)
  | vmul (w : VWord)
  | vmulh (w : VWord)
  | vmad (w : VWord)
  | vmin (w : VWord)
  | vmax (w : VWord)
  | vabs (w : VWord)
  | vand (w : VWord)
  | vor (w : VWord)
  | vxor (w : VWord)
  | vsll (w : VWord)
  | vsrl (w : VWord)
  | vsra (w : VWord)
  | vpopc (w : VWord)
  | vfcmp (w : VWord)
  | vcmp (w : VWord)
  | vsel (w : VWord)
  | vclass (w : VWord)
  | vmand (w : VWord)
  | vmor (w : VWord)
  | vmxor (w : VWord)
  | vmnot (w : VWord)
  | vmpopc (w : VWord)
  | vcvt (w : VWord)
  | vcvti (w : VWord)
  | vcvtf (w : VWord)
  | vpack (w : VWord)
  | vunpk (w : VWord)
  | vperm (w : VWord)
  | vrot (w : VWord)
  | vslide (w : VWord)
  | vzip (w : VWord)
  | vunzip (w : VWord)
  | vbcast (w : VWord)
  | vcmul (w : VWord)
  | vcmac (w : VWord)
  | vconj (w : VWord)
  | vbfly2 (w : VWord)
  | vbfly4 (w : VWord)
  | vtwid (w : VWord)
  | vrevb (w : VWord)
  | vfsum (w : VWord)
  | vfrmax (w : VWord)
  | vfrmin (w : VWord)
  | vfdot (w : VWord)
  | vrsum (w : VWord)
  | vrmax (w : VWord)
  | vrmin (w : VWord)
  | vld (w : VWord)
  | vst (w : VWord)
  | vldf (w : VWord)
  | vldt (w : VWord)
  | vste (w : VWord)
  | vstf (w : VWord)
  | vgath (w : VWord)
  | vscat (w : VWord)
  | vldm (w : VWord)
  | vstm (w : VWord)
  | mnop (h : EHead)
  | mldb (w : MS)
  | mldbG (w : MS)
  | mldbp (w : MS)
  | mma (w : MS)
  | mmaG (w : MS)
  | mmap (w : MS)
  | mmapG (w : MS)
  | mmat (w : MS)
  | mmatG (w : MS)
  | mzero (w : MT)
  | manch (w : MT)
  | movclr (w : MT)
  | mtrap (w : MT)
  | mstat (w : MS)
  | mshift (w : MT)
  | mdrn (w : MS)
  | mdrnMx (w : MS)
  | madd (w : MT)
  | msave (w : MS)
  | mrest (w : MS)
  | mmov (w : MT)
  | gnop (h : EHead)
  | gseed (w : GI)
  | gscope (w : GI)
  | gkind (w : GK)
  | gorig (w : GI)
  | gfreq (w : GS)
  | gparm (w : GI)
  | gload (w : GS)
  | gsave (w : GS)
  | gfill (w : GS)
  | gvec (w : GS)
  | gdraw (w : GI)
  | gskip (w : GI)
  | gclr (w : GI)
  | xnop (h : EHead)
  | xcpy (w : XC)
  | xcpyc (w : XC)
  | xfill (w : XC)
  | xgath (w : XC)
  | xscat (w : XC)
  | xtab (w : XC)
  | xdec (w : XC)
  | xamo (w : XC)
  | xcas (w : XC)
  | xste (w : XC)
  | xstf (w : XC)
  | xldf (w : XC)
  | xtclr (w : XC)
  | xget (w : XC)
  | xput (w : XC)
  | xgetc (w : XC)
  | xputc (w : XC)
  | xbar (w : XC)
  | xseq (w : XC)
  | illegalCWord (w : W32)
  | illegalEWord (q : Queue) (w : W64)
  | waitTargetReached (strand : BitVec 2)
  | watchTaken (strand : BitVec 2)
  | taggedWaitTimeout (strand : BitVec 2)
  | memoryAccessPerformed (strand : BitVec 2)
  | scheduleMiss (q : Queue)
  | sqPoll (q : Nat)
  | packetReread (q : Nat)
  | msixCoalesceExpiry (r : RingId)
  | prologueLimit (conductor : BitVec 2)
  | launchStart (task : Nat)
  | vstepTransitionComplete (cluster : Nat)
  | launchEnd (task : Nat)
  | longLatencyResult (strand : BitVec 2)
  | min_ (rd rs1 rs2 : Reg)
  | max_ (rd rs1 rs2 : Reg)
  | minu (rd rs1 rs2 : Reg)
  | maxu (rd rs1 rs2 : Reg)
  | mulh (rd rs1 rs2 : Reg)
  | mulhu (rd rs1 rs2 : Reg)
  | mulhsu (rd rs1 rs2 : Reg)
  | divu (rd rs1 rs2 : Reg)
  | rem (rd rs1 rs2 : Reg)
  | remu (rd rs1 rs2 : Reg)
  | andi (rd rs1 : Reg) (imm : W16)
  | xori (rd rs1 : Reg) (imm : W16)
  | srai (rd rs1 : Reg) (sh : BitVec 6)
  | slti (rd rs1 : Reg) (imm : W16)
  | sltiu (rd rs1 : Reg) (imm : W16)
  | amoSmin (rd rs1 rs2 : Reg) (z : ASize) (o : AOrder) (sc : Scope)
  | amoSmax (rd rs1 rs2 : Reg) (z : ASize) (o : AOrder) (sc : Scope)
  | amoUmin (rd rs1 rs2 : Reg) (z : ASize) (o : AOrder) (sc : Scope)
  | amoUmax (rd rs1 rs2 : Reg) (z : ASize) (o : AOrder) (sc : Scope)
  | amoAnd (rd rs1 rs2 : Reg) (z : ASize) (o : AOrder) (sc : Scope)
  | amoOr (rd rs1 rs2 : Reg) (z : ASize) (o : AOrder) (sc : Scope)
  | amoXor (rd rs1 rs2 : Reg) (z : ASize) (o : AOrder) (sc : Scope)
  | psetNe (pd : PReg) (rs1 rs2 : Reg)
  | psetLt (pd : PReg) (rs1 rs2 : Reg)
  | psetGe (pd : PReg) (rs1 rs2 : Reg)
  | psetLtu (pd : PReg) (rs1 rs2 : Reg)
  | psetGeu (pd : PReg) (rs1 rs2 : Reg)
  | por (pd pa pb : PReg)
  | pxor (pd pa pb : PReg)
  | pandn (pd pa pb : PReg)
  | watchArm (n : BitVec 3) (v : W64)
  | watchDisarm (n : BitVec 3) (v : W64)
  | blockEnd
  | faultStrandStart
  | vectorWordCompletion
  | vectorRemoteAccessDone
  | matrixCheckPoint
  | matrixLanding
  | accumulatorScrubError (place : ScrubPlace)
  | generatorWriteLanding
  | fillElementWrite
  | fillComplete
  | copyPiecePerformed
  | copyWordComplete
  | taggedResend
  | taggedOpArrival
  | atomicAtPort
  | raceSampleReplace (target oldLine newLine : Nat)
  | sqDoorbell (q : Nat)
  | loadImage (q image addr size : Nat) (vbase : W64)
  | submitGraph (q : Nat) (p : SubmitPkt)
  | cancel (q : Nat) (tag : W64) (node : Nat)
  | wake (q : Nat) (tag : W64) (node lid off : Nat) (value : W64)
  | nopPacket (q : Nat)
  | tornClear (q : Nat)
  | queueEnable (q : Nat) (v : W64)
  | queueDisable (q : Nat) (v : W64)
  | ringEnable (r : RingId) (v : W64)
  | ringDisable (r : RingId) (v : W64)
  | ringTailWrite (r : RingId) (v : W64)
  | hostBarAccess (a : BarAccess)
  | compatEnable (v : W64)
  | prgResponse (tag : Nat) (failure : Bool)
  | atsInvalidation (page : Nat)
  | featureAbsentRepark (task : Nat)
  | prologueStart
  | agingTick
  | fabricArrivalMessage (fgroup slot : Nat)
  | fabricAbort (fgroup fidx : Nat)
  | dieFailure (die : Nat)
  | bursarSample
  | freezeComplete (task : Nat)
  | imageSaved (task : Nat)
  | restoreComplete (task : Nat)
  | haltComplete (task : Nat)
  | gatingTurn
  | dieUngated (die : Nat)
  | selfRefreshEnter (stack : Nat)
  | selfRefreshExit (stack : Nat)
  | curveSubmit (v : W64)
  | curveDecision
  | curveActivate
  | curveExpire
  | seqloWrite (v : W64)
  | bursarLock (v : W64)
  | rtSwitch
  | rtCopy
  | rtSwitchDrained
  | rtActiveWrite (entry dw : Nat) (v : W64)
  | rtShadowWrite (entry dw : Nat) (v : W64)
  | partNextWrite (v : W64)
  | shootdownAll
  | shootdownAsn (asn : Nat)
  | shootdownRange (asn : Nat)
  | shootdownComplete
  | hbmRetire (stack channel : Nat)
  | walkComplete
  | foldDelivered
  | volleyRequest (r : RemoteReq)
  /-- A response: error 0 performed, 1 to 3 as R487 and R12 give them, 4 refused by a full pending list (R366),
  5 withdrawn from one (R345). -/
  | volleyAck (id : Nat) (error : BitVec 3) (value : W64)
  | disciplineSend
  | disciplineReceive (port : Nat) (offset : Int)
  | disciplineTimeout
  | ppsEdge
  | ppsTimeout
  | linkDown (port : Nat)
  | reroute (port : Nat)
  | destinationUnreachable (dev : Nat)
  | volleyLock (v : W64)
  | managementMessage (exp : Option (Nat × Nat × W64)) (route : Option (Nat × Byte))
  | waitOpenThreshold (who : Nat)
  | watchStopFreeze
  | stopNow (task lid : Nat)
  | stopAtCycle (task lid : Nat)
  | stopResume (task lid : Nat)
  | stopCycleReached
  | debugRead
  | debugWrite (v : W64)
  | sideTableClear
  | sideTableClearDone
  | mailboxMessage (src dst : Nat) (body : List Byte)
  | firmwareCommit
  | recoveryCommit
  | trialExpiry
  | coreWatchdog (mc : BitVec 3)
  | deviceReset
  | dieReset (dies : W16)
  | dieSelfTestDone (die : Nat) (pass : Bool)
  | powerOn
  | resetPin
  | thermalTrip
  | attestRequest (v : W64)
  | attestReport
  | ethernetDatagram (src : Nat) (payload : List Byte)
  | railStale (rail : Nat)
  | registerWrite (off : Nat) (v : W64)
  | instructionFetchFault
  | configurationWrite (atom : Bool) (pri : Option Nat) (ats : Bool)
  | pseudoChannelFailure (stack channel : Nat)
  | railReading (rail mw mv : Nat)
  | linkUp (port : Nat)
  deriving DecidableEq, Repr

end Sys2Proof
end

