-- ==== Sys2Proof/Machine/Layout.lean ====
section
/-! DEFINITION. Which fields each word uses and their limits: the tables of R236, R267, R273, R276, R302, R322
and R349, read as checks. Every check is static; what depends on a snapshot is checked when the word issues. -/

namespace Sys2Proof.Machine

/-- The vector element types of R231. -/
inductive VTy where
  | f32 | f16 | bf16 | i8 | i16 | i32 | i64 | n8 | n16 | n32 | n64
  deriving DecidableEq, Repr

/-- The type of a 4-bit code; 3 and 12 to 15 are reserved (R231). -/
def vtyOf (c : Nat) : Option VTy :=
  match c with
  | 0 => some .f32 | 1 => some .f16 | 2 => some .bf16
  | 4 => some .i8 | 5 => some .i16 | 6 => some .i32 | 7 => some .i64
  | 8 => some .n8 | 9 => some .n16 | 10 => some .n32 | 11 => some .n64
  | _ => none

def VTy.width : VTy → Nat
  | .i8 | .n8 => 8
  | .f16 | .bf16 | .i16 | .n16 => 16
  | .f32 | .i32 | .n32 => 32
  | .i64 | .n64 => 64

def VTy.isF : VTy → Bool
  | .f32 | .f16 | .bf16 => true
  | _ => false

def VTy.signed : VTy → Bool
  | .i8 | .i16 | .i32 | .i64 => true
  | _ => false

/-- Elements of a register: 2,048 / w (R230). -/
def VTy.n (t : VTy) : Nat := 2048 / t.width

/-- The float format of a type (integer types read as FP32; never used for them). -/
def VTy.ff : VTy → FFmt
  | .f16 => fmtFP16
  | .bf16 => fmtBF16
  | _ => fmtFP32

/-- The type field of a word, FP32 where the code is reserved (a legal word's never is). -/
def vty (w : VWord) : VTy := (vtyOf w.ty.toNat).getD .f32

/-- The types a word accepts (R236). -/
inductive VTypes where
  | none | f | i | isigned | fi | zero
  deriving DecidableEq, Repr

def VTypes.ok (ts : VTypes) (c : BitVec 4) : Bool :=
  match ts, vtyOf c.toNat with
  | .none, _ => c == 0
  | .zero, _ => c == 0
  | _, Option.none => false
  | .f, some t => t.isF
  | .i, some t => !t.isF
  | .isigned, some t => t.signed
  | .fi, some _ => true

/-- How a word uses a register field: not at all, as a vector register, or as a mask number in bits [2:0]. -/
inductive VUse where
  | no | reg | mask | maskDst
  deriving DecidableEq, Repr

def VUse.ok (u : VUse) (f : BitVec 5) : Bool :=
  match u with
  | .no => f == 0
  | .reg => true
  | .mask => f.extractLsb' 3 2 == 0
  | .maskDst => f.extractLsb' 3 2 == 0 && f.extractLsb' 0 3 != 0

/-- The fields a VR word uses (R236, R267, R273, R276); `fn` is checked apart. -/
structure VShape where
  vd : VUse := .reg
  va : VUse := .reg
  vb : VUse := .no
  vc : VUse := .no
  m : Bool := true
  mz : Bool := true
  rm : Bool := false
  nf : Bool := false
  ty : VTypes := .none
  deriving DecidableEq, Repr

/-- Every field outside the shape is zero, rm is a mode, and the type is accepted (R234). -/
def vshapeOk (s : VShape) (w : VWord) : Bool :=
  s.vd.ok w.vd && s.va.ok w.va && s.vb.ok w.vb && s.vc.ok w.vc
  && (s.m || w.m == 0) && (s.mz || !w.mz)
  && (if s.rm then (rmOf w.rm).isSome else w.rm == 0)
  && (s.nf || !w.nf) && s.ty.ok w.ty

def fn0 (w : VWord) : Bool := w.fn == 0
/-- Only fn[0] may be set. -/
def fnBit0 (w : VWord) : Bool := w.fn.extractLsb' 1 7 == 0
/-- log2 N of the word's type. -/
def vlogN (w : VWord) : Nat := Nat.log2 (vty w).n

def shBin (t : VTypes) : VShape := { vb := .reg, ty := t }
def shUn (t : VTypes) : VShape := { ty := t }
def shTri (t : VTypes) : VShape := { vb := .reg, vc := .reg, ty := t }

/-- R236 row 0x02. -/
def wfVmov (w : VWord) : Bool :=
  w.fn.extractLsb' 2 6 == 0 &&
  match w.fn.toNat with
  | 0 => vshapeOk {} w
  | 1 => vshapeOk { vd := .maskDst } w
  | 2 => vshapeOk { va := .mask } w
  | _ => false

/-- vsplat (R259). -/
def wfVsplat (w : VSplat) : Bool :=
  match w.size.toNat with
  | 2 => w.imm.extractLsb' 16 16 == 0
  | 3 => w.imm.extractLsb' 8 24 == 0
  | _ => true

def wfVxrd (w : VWord) : Bool := vshapeOk { va := .no, m := false, mz := false } w && fn0 w
def wfVxclr (w : VWord) : Bool := vshapeOk { vd := .no, va := .no, mz := false } w && fn0 w

/-- Floating-point words with rm and nf: two, three or one operand. -/
def wfF2 (w : VWord) : Bool := vshapeOk { shBin .f with rm := true, nf := true } w && fn0 w
def wfF3 (w : VWord) : Bool := vshapeOk { shTri .f with rm := true, nf := true } w && fn0 w
def wfF1 (w : VWord) : Bool := vshapeOk { shUn .f with rm := true, nf := true } w && fn0 w
/-- vfmin, vfmax. -/
def wfFmm (w : VWord) : Bool := vshapeOk { shBin .f with nf := true } w && fn0 w
/-- vfabs, vfneg, vclass. -/
def wfFsign (w : VWord) : Bool := vshapeOk (shUn .f) w && fn0 w

/-- Integer words: with a saturation bit, or without. -/
def wfI2s (w : VWord) : Bool := vshapeOk (shBin .i) w && fnBit0 w
def wfI2 (w : VWord) : Bool := vshapeOk (shBin .i) w && fn0 w
def wfI3s (w : VWord) : Bool := vshapeOk (shTri .i) w && fnBit0 w
def wfVabs (w : VWord) : Bool := vshapeOk (shUn .isigned) w && fnBit0 w
def wfVpopc (w : VWord) : Bool := vshapeOk (shUn .i) w && fn0 w

/-- Shift words (R245). -/
def wfShift (w : VWord) : Bool :=
  if w.fn.getLsbD 0 then
    vshapeOk (shUn .i) w && !w.fn.getLsbD 7 && decide ((w.fn.extractLsb' 1 6).toNat < (vty w).width)
  else vshapeOk (shBin .i) w && w.fn == 0

/-- Compare words (R246, R247): `mx` the highest condition code. -/
def wfCmp (t : VTypes) (mx : Nat) (nf : Bool) (w : VWord) : Bool :=
  let tm := w.fn.getLsbD 3
  vshapeOk { shBin t with nf := nf, vd := if tm then .maskDst else .reg } w
  && w.fn.extractLsb' 4 4 == 0 && decide ((w.fn.extractLsb' 0 3).toNat ≤ mx)
  && (!tm || decide (32 ≤ (vty w).width))

def wfVsel (w : VWord) : Bool := vshapeOk (shTri .fi) w && fn0 w

/-- Mask words (R250). -/
def wfMask2 (w : VWord) : Bool :=
  vshapeOk { vd := .maskDst, va := .mask, vb := .mask, m := false, mz := false } w && fn0 w
def wfMask1 (w : VWord) : Bool := vshapeOk { vd := .maskDst, va := .mask, m := false, mz := false } w && fn0 w
def wfVmpopc (w : VWord) : Bool := vshapeOk { va := .mask, m := false, mz := false } w && fn0 w

/-- The destination type of a conversion word: fn[3:0] (R251). -/
def cvtDst (w : VWord) : Option VTy := vtyOf (w.fn.extractLsb' 0 4).toNat
/-- The position k of a conversion word: fn[6:4]. -/
def cvtPos (w : VWord) : Nat := (w.fn.extractLsb' 4 3).toNat

/-- Conversion words (R251 to R254): `g` is the test on (source, destination). -/
def wfCvt (g : VTy → VTy → Bool) (w : VWord) : Bool :=
  vshapeOk { ty := .fi, rm := true, nf := true } w &&
  match vtyOf w.ty.toNat, cvtDst w with
  | some s, some d =>
    g s d && decide (cvtPos w < Nat.max s.width d.width / Nat.min s.width d.width)
  | _, _ => false

def wfVcvt (w : VWord) : Bool :=
  wfCvt (fun s d =>
    if s.isF then d.isF && !w.fn.getLsbD 7
    else !d.isF && w.rm == 0 && !w.nf) w
def wfVcvti (w : VWord) : Bool := wfCvt (fun s d => s.isF && !d.isF && !w.fn.getLsbD 7) w
def wfVcvtf (w : VWord) : Bool := wfCvt (fun s d => !s.isF && d.isF && !w.fn.getLsbD 7) w

/-- The narrow format of vpack and vunpk: fn[4:0] (R255). -/
def packFmt (w : VWord) : Option Fmt := fmtOf (w.fn.extractLsb' 0 5).toNat
def packPiece (w : VWord) : Nat := (w.fn.extractLsb' 5 3).toNat
/-- The number of pieces of R255. -/
def packPieces : Fmt → Nat
  | .e4m3 | .e5m2 | .mxint8 | .zt8 => 4
  | .e2m3 | .e3m2 | .zt6 => 5
  | .e2m1 => 8
  | _ => 0
def wfPack (w : VWord) : Bool :=
  vshapeOk { ty := .zero, rm := true, nf := true } w &&
  match packFmt w with
  | some f => decide (packPiece w < packPieces f)
  | none => false

/-- Permutes (R257). -/
def wfVperm (w : VWord) : Bool := vshapeOk (shBin .fi) w && fn0 w
def wfLane1 (w : VWord) : Bool := vshapeOk (shUn .fi) w && decide (w.fn.toNat < (vty w).n)
def wfVslide (w : VWord) : Bool := vshapeOk (shBin .fi) w && decide (w.fn.toNat < (vty w).n)
def wfZip (w : VWord) : Bool := vshapeOk (shBin .fi) w && fnBit0 w

/-- Complex words (R267). -/
def wfVcmul (w : VWord) : Bool := vshapeOk { shBin .zero with rm := true, nf := true } w && fnBit0 w
def wfVcmac (w : VWord) : Bool := vshapeOk { shTri .zero with rm := true, nf := true } w && fnBit0 w
def wfVconj (w : VWord) : Bool := vshapeOk (shUn .zero) w && fn0 w
def wfVbfly2 (w : VWord) : Bool :=
  if w.fn.getLsbD 3 then
    vshapeOk { shTri .zero with rm := true, nf := true } w && w.fn.extractLsb' 0 3 == 0 && w.fn.extractLsb' 5 3 == 0
  else
    vshapeOk { shBin .zero with rm := true, nf := true } w && decide ((w.fn.extractLsb' 0 3).toNat ≤ 4)
      && w.fn.extractLsb' 4 4 == 0
def wfVbfly4 (w : VWord) : Bool :=
  vshapeOk { shUn .zero with rm := true, nf := true } w && w.fn.extractLsb' 3 5 == 0
def wfVtwid (w : VWord) : Bool :=
  let n := (w.fn.extractLsb' 0 5).toNat
  vshapeOk (shUn .zero) w && !w.fn.getLsbD 7 && decide (1 ≤ n ∧ n ≤ 16)
    && (!w.fn.getLsbD 6 || decide (w.va.toNat ≤ n - 1))
def wfVrevb (w : VWord) : Bool :=
  let n := (w.fn.extractLsb' 0 4).toNat
  vshapeOk (shUn .fi) w && w.fn.extractLsb' 4 4 == 0 && decide (1 ≤ n ∧ n ≤ vlogN w)

/-- Reductions (R273). -/
def wfRed (s : VShape) (satBit : Bool) (w : VWord) : Bool :=
  vshapeOk { s with mz := false } w && decide ((w.fn.extractLsb' 0 4).toNat ≤ vlogN w)
    && w.fn.extractLsb' 5 3 == 0 && (satBit || !w.fn.getLsbD 4)

/-- Memory words (R276); bit [44], the top bit of the va field, is reserved. -/
def wfVmem (load : Bool) (w : VWord) : Bool := vshapeOk { mz := load, vc := .reg } w && !w.va.getLsbD 4
def wfVidx (load : Bool) (w : VWord) : Bool :=
  vshapeOk { mz := load, vb := .reg } w && !w.va.getLsbD 4 && fn0 w
def wfVmaskMem (load : Bool) (w : VWord) : Bool :=
  vshapeOk { vd := if load then .maskDst else .mask, m := false, mz := false, vc := .reg } w && !w.va.getLsbD 4

/-! ### Generator words (R302) -/

def wfGnoSel (w : GI) : Bool := !w.sel
def wfGclr (w : GI) : Bool := !w.sel && w.imm == 0
def wfGkind (w : GK) : Bool := w.kind != 7
def wfGs (w : GS) : Bool := w.k1 == 0 && w.k2 == 0

/-! ### Matrix words (R322): the MS fields a word uses -/

structure MShape where
  t : Bool := false
  b : Bool := false
  bank : Bool := false
  k2 : Bool := false
  g : Bool := false
  orow : Bool := false
  rm : Bool := false
  z : Bool := false
  deriving DecidableEq, Repr

def mshapeOk (s : MShape) (w : MS) : Bool :=
  (s.t || !w.t) && (s.b || !w.b) && (s.bank || !w.bank) && (s.k2 || w.k2 == 0) && (s.g || w.g == 0)
  && (s.orow || w.orow == 0) && (if s.rm then (rmOf w.rm).isSome else w.rm == 0) && (s.z || !w.z)

/-- MT words: which of td, ts and imm10 are used. -/
def mtOk (ts imm : Bool) (w : MT) : Bool := (ts || !w.ts) && (imm || w.imm == 0)
def wfMtrap (w : MT) : Bool := !w.ts && w.imm.extractLsb' 1 9 == 0

/-! ### Copy words (R349) -/

/-- Scopes 0 to 4 are legal (R78). -/
def scopeOf (c : Nat) : Option Scope :=
  match c with
  | 0 => some .core | 1 => some .cluster | 2 => some .partition | 3 => some .device | 4 => some .fabric
  | _ => none

def Scope.code : Scope → Nat
  | .core => 0 | .cluster => 1 | .partition => 2 | .device => 3 | .fabric => 4

/-- The operation of a code of R137 and R349. -/
def amoOf (c : Nat) : Option AmoOp :=
  match c with
  | 0 => some .add | 1 => some .qadd | 2 => some .smin | 3 => some .smax | 4 => some .umin | 5 => some .umax
  | 6 => some .and | 7 => some .or | 8 => some .xor | 9 => some .swap | 10 => some .fadd
  | _ => none

/-- The counted slot of a copy word: `cnt` says whether the row allows it (R348, R349). -/
def xcntOk (allowed : Bool) (w : XC) : Bool :=
  if w.cnt then allowed && (scopeOf w.lvl.toNat).isSome else w.lvl == 0 && w.slot == 0

/-- Fields of `ext`, whose bit 0 is bit 10 of the word. -/
def xSi (w : XC) : Nat := (w.ext.extractLsb' 21 4).toNat
def xTab (w : XC) : Bool := w.ext.getLsbD 0
def xC0 (w : XC) : Nat := (w.ext.extractLsb' 5 20).toNat
def xNc (w : XC) : Nat := (w.ext.extractLsb' 1 4).toNat + 1
def xOp (w : XC) : Option AmoOp := amoOf (w.ext.extractLsb' 21 4).toNat
def xSize (w : XC) : ASize := if w.ext.getLsbD 20 then .d else .w
def xOrder (w : XC) : AOrder :=
  match (w.ext.extractLsb' 18 2).toNat with
  | 0 => .none | 1 => .acq | 2 => .rel | _ => .ar
def xScope (w : XC) : Option Scope := scopeOf (w.ext.extractLsb' 15 3).toNat
def xRet (w : XC) : Bool := w.ext.getLsbD 14
def xSr (w : XC) : Nat := (w.ext.extractLsb' 10 4).toNat
def xAnchor (w : XC) : BitVec 10 := w.ext.extractLsb' 0 10
def xTk (w : XC) : Bool := w.ext.getLsbD 24
def xRm (w : XC) : BitVec 3 := w.ext.extractLsb' 22 3

def wfX2 (w : XC) : Bool := xcntOk true w && w.ext == 0
def wfXcpyc (w : XC) : Bool := xcntOk true w && w.ext.extractLsb' 0 22 == 0 && (rmOf (xRm w)).isSome
def wfXidx (w : XC) : Bool := xcntOk true w && w.ext.extractLsb' 0 21 == 0
def wfXtab (w : XC) : Bool := xcntOk false w && w.sd == 0 && w.ext.extractLsb' 1 24 == 0
def wfXdec (w : XC) : Bool := xcntOk true w
def wfXamo (w : XC) : Bool :=
  xcntOk true w && (xScope w).isSome && (xRet w || xSr w == 0) &&
  match xOp w with
  | none => false
  | some .fadd => xSize w == .w
  | some .qadd => xSize w == .d
  | some _ => xAnchor w == 0
def wfXcas (w : XC) : Bool :=
  xcntOk true w && (xScope w).isSome && !xRet w && xAnchor w == 0
def wfXldf (w : XC) : Bool := xcntOk true w && w.ext.extractLsb' 0 24 == 0
def wfXtclr (w : XC) : Bool := xcntOk false w && w.ss == 0 && w.ext == 0
def wfXbar (w : XC) : Bool := xcntOk true w && w.cnt && w.sd == 0 && w.ext == 0
def wfXseq (w : XC) : Bool :=
  xcntOk true w && w.ss == 0 && w.ext.extractLsb' 0 15 == 0 && w.ext.extractLsb' 18 7 == 0 && (xScope w).isSome

/-! ### Conductor words whose fields have limits of their own (R137, R138) -/

/-- pos + length must not exceed 64; `len` is the field, length minus 1 (R196). -/
def wfWins (pos len : BitVec 6) : Bool := decide (pos.toNat + (len.toNat + 1) ≤ 64)

end Sys2Proof.Machine
end

