-- ==== Sys2Proof/WellFormed.lean ====
section
/-! DEFINITION. Which instructions are well formed: every field inside the limits that the opcode maps state
(R137, R138, R236, R267, R273, R276, R302, R322, R349). A word that is not is read as ILLEGAL_C_WORD or
ILLEGAL_E_WORD by the decoder. Events carry no encoding and are all well formed. -/

namespace Sys2Proof

/-- The static limits of an instruction's fields. -/
def Instr.wf : Instr → Bool
  | .add _ _ _ => true
  | .sub _ _ _ => true
  | .and_ _ _ _ => true
  | .or_ _ _ _ => true
  | .xor _ _ _ => true
  | .sll _ _ _ => true
  | .srl _ _ _ => true
  | .sra _ _ _ => true
  | .slt _ _ _ => true
  | .sltu _ _ _ => true
  | .min_ _ _ _ => true
  | .max_ _ _ _ => true
  | .minu _ _ _ => true
  | .maxu _ _ _ => true
  | .mul _ _ _ => true
  | .mulh _ _ _ => true
  | .mulhu _ _ _ => true
  | .mulhsu _ _ _ => true
  | .div _ _ _ => true
  | .divu _ _ _ => true
  | .rem _ _ _ => true
  | .remu _ _ _ => true
  | .clz _ _ => true
  | .ctz _ _ => true
  | .popc _ _ => true
  | .bswap _ _ => true
  | .addi _ _ _ => true
  | .andi _ _ _ => true
  | .ori _ _ _ => true
  | .xori _ _ _ => true
  | .slli _ _ _ => true
  | .srli _ _ _ => true
  | .srai _ _ _ => true
  | .slti _ _ _ => true
  | .sltiu _ _ _ => true
  | .lui _ _ => true
  | .lsi _ _ _ => true
  | .lpc _ _ => true
  | .ldB _ _ _ => true
  | .ldH _ _ _ => true
  | .ldW _ _ _ => true
  | .ldD _ _ _ => true
  | .ldBu _ _ _ => true
  | .ldHu _ _ _ => true
  | .ldWu _ _ _ => true
  | .stB _ _ _ => true
  | .stH _ _ _ => true
  | .stW _ _ _ => true
  | .stD _ _ _ => true
  | .ldS _ _ _ _ => true
  | .ldAcq _ _ _ _ => true
  | .stS _ _ _ _ => true
  | .stRel _ _ _ _ => true
  | .ldf _ _ => true
  | .ldt _ _ => true
  | .ste _ _ => true
  | .stf _ _ => true
  | .tclr _ => true
  | .tagrd _ _ => true
  | .fenceAcq _ => true
  | .fenceRel _ => true
  | .fenceFull _ => true
  | .amoAdd _ _ _ _ _ _ => true
  | .amoQadd _ _ _ _ _ => true
  | .amoSmin _ _ _ _ _ _ => true
  | .amoSmax _ _ _ _ _ _ => true
  | .amoUmin _ _ _ _ _ _ => true
  | .amoUmax _ _ _ _ _ _ => true
  | .amoAnd _ _ _ _ _ _ => true
  | .amoOr _ _ _ _ _ _ => true
  | .amoXor _ _ _ _ _ _ => true
  | .amoSwap _ _ _ _ _ _ => true
  | .cas _ _ _ _ _ _ => true
  | .beq _ _ _ => true
  | .bne _ _ _ => true
  | .blt _ _ _ => true
  | .bge _ _ _ => true
  | .bltu _ _ _ => true
  | .bgeu _ _ _ => true
  | .jal _ => true
  | .jalr _ _ _ => true
  | .jtab _ _ _ _ => true
  | .loop _ _ len => len != 0
  | .rot => true
  | .lbrk => true
  | .lcrd _ => true
  | .lcwr _ => true
  | .psetEq pd _ _ => pd != 0
  | .psetNe pd _ _ => pd != 0
  | .psetLt pd _ _ => pd != 0
  | .psetGe pd _ _ => pd != 0
  | .psetLtu pd _ _ => pd != 0
  | .psetGeu pd _ _ => pd != 0
  | .pand pd _ _ => pd != 0
  | .por pd _ _ => pd != 0
  | .pxor pd _ _ => pd != 0
  | .pandn pd _ _ => pd != 0
  | .pmov pd _ => pd != 0
  | .wins _ _ pos len => Machine.wfWins pos len
  | .wmov _ _ => true
  | .wrd _ _ => true
  | .wcpy _ _ => true
  | .wtmpl _ _ => true
  | .emit _ _ _ => true
  | .emitt _ _ _ => true
  | .qstat _ _ => true
  | .tkpush _ => true
  | .tkpop _ => true
  | .sset _ _ fld => decide (fld.toNat ≤ 10)
  | .sget _ _ fld => decide (fld.toNat ≤ 10)
  | .scpy _ _ => true
  | .sclr _ => true
  | .mark qs => qs != 0
  | .join qs => qs != 0
  | .bar _ _ => true
  | .waitCyc _ => true
  | .waitGtc _ => true
  | .waitTargetReached _ => true
  | .crr _ _ => true
  | .crw _ _ => true
  | .watchArm _ _ => true
  | .watchDisarm _ _ => true
  | .watchTaken _ => true
  | .spawn _ _ => true
  | .exit => true
  | .yield => true
  | .nop => true
  | .start _ => true
  | .ilock => true
  | .fret _ => true
  | .blockEnd => true
  | .taggedWaitTimeout _ => true
  | .memoryAccessPerformed _ => true
  | .faultStrandStart => true
  | .scheduleMiss _ => true
  | .vnop _ => true
  | .vmov w => Machine.wfVmov w
  | .vsplat w => Machine.wfVsplat w
  | .vxrd w => Machine.wfVxrd w
  | .vxclr w => Machine.wfVxclr w
  | .vfadd w => Machine.wfF2 w
  | .vfsub w => Machine.wfF2 w
  | .vfmul w => Machine.wfF2 w
  | .vfma w => Machine.wfF3 w
  | .vfms w => Machine.wfF3 w
  | .vfnma w => Machine.wfF3 w
  | .vfdiv w => Machine.wfF2 w
  | .vfsqrt w => Machine.wfF1 w
  | .vfmin w => Machine.wfFmm w
  | .vfmax w => Machine.wfFmm w
  | .vfabs w => Machine.wfFsign w
  | .vfneg w => Machine.wfFsign w
  | .vfexp2 w => Machine.wfF1 w
  | .vflog2 w => Machine.wfF1 w
  | .vfrsqrt w => Machine.wfF1 w
  | .vfrcp w => Machine.wfF1 w
  | .vadd w => Machine.wfI2s w
  | .vsub w => Machine.wfI2s w
  | .vmul w => Machine.wfI2s w
  | .vmulh w => Machine.wfI2 w
  | .vmad w => Machine.wfI3s w
  | .vmin w => Machine.wfI2 w
  | .vmax w => Machine.wfI2 w
  | .vabs w => Machine.wfVabs w
  | .vand w => Machine.wfI2 w
  | .vor w => Machine.wfI2 w
  | .vxor w => Machine.wfI2 w
  | .vsll w => Machine.wfShift w
  | .vsrl w => Machine.wfShift w
  | .vsra w => Machine.wfShift w
  | .vpopc w => Machine.wfVpopc w
  | .vfcmp w => Machine.wfCmp .f 6 true w
  | .vcmp w => Machine.wfCmp .i 5 false w
  | .vsel w => Machine.wfVsel w
  | .vclass w => Machine.wfFsign w
  | .vmand w => Machine.wfMask2 w
  | .vmor w => Machine.wfMask2 w
  | .vmxor w => Machine.wfMask2 w
  | .vmnot w => Machine.wfMask1 w
  | .vmpopc w => Machine.wfVmpopc w
  | .vcvt w => Machine.wfVcvt w
  | .vcvti w => Machine.wfVcvti w
  | .vcvtf w => Machine.wfVcvtf w
  | .vpack w => Machine.wfPack w
  | .vunpk w => Machine.wfPack w
  | .vperm w => Machine.wfVperm w
  | .vrot w => Machine.wfLane1 w
  | .vslide w => Machine.wfVslide w
  | .vzip w => Machine.wfZip w
  | .vunzip w => Machine.wfZip w
  | .vbcast w => Machine.wfLane1 w
  | .vcmul w => Machine.wfVcmul w
  | .vcmac w => Machine.wfVcmac w
  | .vconj w => Machine.wfVconj w
  | .vbfly2 w => Machine.wfVbfly2 w
  | .vbfly4 w => Machine.wfVbfly4 w
  | .vtwid w => Machine.wfVtwid w
  | .vrevb w => Machine.wfVrevb w
  | .vfsum w => Machine.wfRed { Machine.shUn .f with rm := true, nf := true } false w
  | .vfrmax w => Machine.wfRed { Machine.shUn .f with nf := true } false w
  | .vfrmin w => Machine.wfRed { Machine.shUn .f with nf := true } false w
  | .vfdot w => Machine.wfRed { Machine.shBin .f with rm := true, nf := true } false w
  | .vrsum w => Machine.wfRed (Machine.shUn .i) true w
  | .vrmax w => Machine.wfRed (Machine.shUn .i) false w
  | .vrmin w => Machine.wfRed (Machine.shUn .i) false w
  | .vld w => Machine.wfVmem true w
  | .vst w => Machine.wfVmem false w
  | .vldf w => Machine.wfVmem true w
  | .vldt w => Machine.wfVmem true w
  | .vste w => Machine.wfVmem false w
  | .vstf w => Machine.wfVmem false w
  | .vgath w => Machine.wfVidx true w
  | .vscat w => Machine.wfVidx false w
  | .vldm w => Machine.wfVmaskMem true w
  | .vstm w => Machine.wfVmaskMem false w
  | .vectorWordCompletion => true
  | .vectorRemoteAccessDone => true
  | .mnop _ => true
  | .mldb w => Machine.mshapeOk { b := true, bank := true, k2 := true } w
  | .mldbG w => Machine.mshapeOk { b := true, bank := true, k2 := true, g := true } w
  | .mldbp w => Machine.mshapeOk { bank := true, k2 := true } w
  | .mma w => Machine.mshapeOk { t := true, b := true, bank := true, k2 := true, orow := true } w
  | .mmaG w => Machine.mshapeOk { t := true, b := true, bank := true, k2 := true, g := true, orow := true } w
  | .mmap w => Machine.mshapeOk { bank := true, k2 := true, orow := true } w
  | .mmapG w => Machine.mshapeOk { bank := true, k2 := true, g := true, orow := true } w
  | .mmat w => Machine.mshapeOk { t := true, b := true, bank := true, k2 := true, orow := true } w
  | .mmatG w => Machine.mshapeOk { t := true, b := true, bank := true, k2 := true, g := true, orow := true } w
  | .mzero w => Machine.mtOk false false w
  | .manch w => Machine.mtOk false true w
  | .movclr w => Machine.mtOk false false w
  | .mtrap w => Machine.wfMtrap w
  | .mstat w => Machine.mshapeOk { t := true } w
  | .mshift w => Machine.mtOk false true w
  | .mdrn w => Machine.mshapeOk { t := true, k2 := true, orow := true, rm := true, z := true } w
  | .mdrnMx w => Machine.mshapeOk { t := true, k2 := true, orow := true, z := true } w
  | .madd w => Machine.mtOk true false w
  | .msave w => Machine.mshapeOk { t := true, k2 := true, orow := true } w
  | .mrest w => Machine.mshapeOk { t := true, k2 := true, orow := true, z := true } w
  | .mmov w => Machine.mtOk true false w
  | .matrixCheckPoint => true
  | .matrixLanding => true
  | .accumulatorScrubError _ => true
  | .gnop _ => true
  | .gseed _ => true
  | .gscope w => Machine.wfGnoSel w
  | .gkind w => Machine.wfGkind w
  | .gorig _ => true
  | .gfreq w => Machine.wfGs w
  | .gparm _ => true
  | .gload w => Machine.wfGs w
  | .gsave w => Machine.wfGs w
  | .gfill w => Machine.wfGs w
  | .gvec _ => true
  | .gdraw w => Machine.wfGnoSel w
  | .gskip w => Machine.wfGnoSel w
  | .gclr w => Machine.wfGclr w
  | .generatorWriteLanding => true
  | .fillElementWrite => true
  | .fillComplete => true
  | .xnop _ => true
  | .xcpy w => Machine.wfX2 w
  | .xcpyc w => Machine.wfXcpyc w
  | .xfill w => Machine.wfX2 w
  | .xgath w => Machine.wfXidx w
  | .xscat w => Machine.wfXidx w
  | .xtab w => Machine.wfXtab w
  | .xdec w => Machine.wfXdec w
  | .xamo w => Machine.wfXamo w
  | .xcas w => Machine.wfXcas w
  | .xste w => Machine.wfX2 w
  | .xstf w => Machine.wfX2 w
  | .xldf w => Machine.wfXldf w
  | .xtclr w => Machine.wfXtclr w
  | .xget w => Machine.wfX2 w
  | .xput w => Machine.wfX2 w
  | .xgetc w => Machine.wfXidx w
  | .xputc w => Machine.wfXidx w
  | .xbar w => Machine.wfXbar w
  | .xseq w => Machine.wfXseq w
  | .copyPiecePerformed => true
  | .copyWordComplete => true
  | .taggedResend => true
  | .taggedOpArrival => true
  | .atomicAtPort => true
  | .raceSampleReplace _ _ _ => true
  | .sqDoorbell _ => true
  | .sqPoll _ => true
  | .packetReread _ => true
  | .loadImage _ _ _ _ _ => true
  | .submitGraph _ _ => true
  | .cancel _ _ _ => true
  | .wake _ _ _ _ _ _ => true
  | .nopPacket _ => true
  | .tornClear _ => true
  | .queueEnable _ _ => true
  | .queueDisable _ _ => true
  | .ringEnable _ _ => true
  | .ringDisable _ _ => true
  | .ringTailWrite _ _ => true
  | .msixCoalesceExpiry _ => true
  | .hostBarAccess _ => true
  | .compatEnable _ => true
  | .prgResponse _ _ => true
  | .atsInvalidation _ => true
  | .featureAbsentRepark _ => true
  | .prologueStart => true
  | .prologueLimit _ => true
  | .agingTick => true
  | .launchStart _ => true
  | .vstepTransitionComplete _ => true
  | .launchEnd _ => true
  | .fabricArrivalMessage _ _ => true
  | .fabricAbort _ _ => true
  | .dieFailure _ => true
  | .bursarSample => true
  | .freezeComplete _ => true
  | .imageSaved _ => true
  | .restoreComplete _ => true
  | .haltComplete _ => true
  | .gatingTurn => true
  | .dieUngated _ => true
  | .selfRefreshEnter _ => true
  | .selfRefreshExit _ => true
  | .curveSubmit _ => true
  | .curveDecision => true
  | .curveActivate => true
  | .curveExpire => true
  | .seqloWrite _ => true
  | .bursarLock _ => true
  | .rtSwitch => true
  | .rtCopy => true
  | .rtSwitchDrained => true
  | .rtActiveWrite _ _ _ => true
  | .rtShadowWrite _ _ _ => true
  | .partNextWrite _ => true
  | .shootdownAll => true
  | .shootdownAsn _ => true
  | .shootdownRange _ => true
  | .shootdownComplete => true
  | .hbmRetire _ _ => true
  | .walkComplete => true
  | .foldDelivered => true
  | .volleyRequest _ => true
  | .volleyAck _ _ _ => true
  | .disciplineSend => true
  | .disciplineReceive _ _ => true
  | .disciplineTimeout => true
  | .ppsEdge => true
  | .ppsTimeout => true
  | .linkDown _ => true
  | .reroute _ => true
  | .destinationUnreachable _ => true
  | .volleyLock _ => true
  | .managementMessage _ _ => true
  | .waitOpenThreshold _ => true
  | .watchStopFreeze => true
  | .stopNow _ _ => true
  | .stopAtCycle _ _ => true
  | .stopResume _ _ => true
  | .stopCycleReached => true
  | .debugRead => true
  | .debugWrite _ => true
  | .sideTableClear => true
  | .sideTableClearDone => true
  | .mailboxMessage _ _ _ => true
  | .firmwareCommit => true
  | .recoveryCommit => true
  | .trialExpiry => true
  | .coreWatchdog _ => true
  | .deviceReset => true
  | .dieReset _ => true
  | .dieSelfTestDone _ _ => true
  | .powerOn => true
  | .resetPin => true
  | .thermalTrip => true
  | .attestRequest _ => true
  | .attestReport => true
  | .ethernetDatagram _ _ => true
  | .railStale _ => true
  | .registerWrite _ _ => true
  | .longLatencyResult _ => true
  | .illegalCWord _ => true
  | .illegalEWord _ _ => true
  | .instructionFetchFault => true
  | .configurationWrite _ _ _ => true
  | .pseudoChannelFailure _ _ => true
  | .railReading _ _ _ => true
  | .linkUp _ => true

end Sys2Proof
end

