-- ==== Sys2Proof/Decode.lean ====
section
/-! DEFINITION. The decoder and the encoder. Conductor words follow the opcode map of R137, engine words the
opcode maps of R142 to R145 and the layouts of R140, R232, R233, R301, R321 and R348. Decoding is total: a word
that R138 or R146 makes illegal decodes to ILLEGAL_C_WORD or ILLEGAL_E_WORD. Lean's code generator builds at most
245 constructors with fields, so the functions that build the rest of `Instr` are marked noncomputable; the kernel
evaluates them as any other. -/

namespace Sys2Proof

open Sys2Proof.Machine

/-! ### Fields of a conductor word (R135) -/

def cMajor (w : W32) : Nat := (w.extractLsb' 26 6).toNat
def cRd (w : W32) : Reg := w.extractLsb' 21 5
def cRs1 (w : W32) : Reg := w.extractLsb' 16 5
def cRs2 (w : W32) : Reg := w.extractLsb' 11 5
def cFn (w : W32) : BitVec 11 := w.extractLsb' 0 11
def cImm (w : W32) : W16 := w.extractLsb' 0 16
def cOff13 (w : W32) : BitVec 13 := w.extractLsb' 0 13
def cQueueBits (w : W32) : BitVec 2 := w.extractLsb' 24 2
/-- The `n` bits from bit `lo` are zero (a reserved field, R138). -/
def cZero (w : W32) (lo n : Nat) : Bool := w.extractLsb' lo n == 0

/-- The queue of an engine code (R27). -/
def queueOf (c : BitVec 2) : Queue :=
  match c.toNat with
  | 0 => .v | 1 => .m | 2 => .g | _ => .x
def Queue.code : Queue → BitVec 2
  | .v => 0 | .m => 1 | .g => 2 | .x => 3

def lwidthOf (c : BitVec 3) : Option LWidth :=
  match c.toNat with
  | 0 => some .b | 1 => some .h | 2 => some .w | 3 => some .d | 4 => some .bu | 5 => some .hu | 6 => some .wu
  | _ => none
def LWidth.code : LWidth → BitVec 3
  | .b => 0 | .h => 1 | .w => 2 | .d => 3 | .bu => 4 | .hu => 5 | .wu => 6
def swidthOf (c : BitVec 3) : Option SWidth :=
  match c.toNat with
  | 0 => some .b | 1 => some .h | 2 => some .w | 3 => some .d
  | _ => none
def SWidth.code : SWidth → BitVec 3
  | .b => 0 | .h => 1 | .w => 2 | .d => 3
/-- A scope in three bits (R78). -/
def scope3 (c : BitVec 3) : Option Scope := scopeOf c.toNat
def Scope.bits (s : Scope) : BitVec 3 := BitVec.ofNat 3 (Sys2Proof.Machine.Scope.code s)
def asizeOf (b : Bool) : ASize := if b then .d else .w
def ASize.bit : ASize → BitVec 1
  | .w => 0 | .d => 1
def aorderOf (c : BitVec 2) : AOrder :=
  match c.toNat with
  | 0 => .none | 1 => .acq | 2 => .rel | _ => .ar
def AOrder.bits : AOrder → BitVec 2
  | .none => 0 | .acq => 1 | .rel => 2 | .ar => 3

/-! ### Decoding a conductor word (R137, R138) -/

/-- `some i` where the reserved fields are zero. -/
def guardOpt (b : Bool) (i : Instr) : Option Instr := if b then some i else none

noncomputable def decAlu (w : W32) : Option Instr :=
  let d := cRd w; let a := cRs1 w; let b := cRs2 w
  match (cFn w).toNat with
  | 0 => some (.add d a b)
  | 1 => some (.sub d a b)
  | 2 => some (.and_ d a b)
  | 3 => some (.or_ d a b)
  | 4 => some (.xor d a b)
  | 5 => some (.sll d a b)
  | 6 => some (.srl d a b)
  | 7 => some (.sra d a b)
  | 8 => some (.slt d a b)
  | 9 => some (.sltu d a b)
  | 10 => some (.min_ d a b)
  | 11 => some (.max_ d a b)
  | 12 => some (.minu d a b)
  | 13 => some (.maxu d a b)
  | _ => none

noncomputable def decMul (w : W32) : Option Instr :=
  let d := cRd w; let a := cRs1 w; let b := cRs2 w
  match (cFn w).toNat with
  | 0 => some (.mul d a b)
  | 1 => some (.mulh d a b)
  | 2 => some (.mulhu d a b)
  | 3 => some (.mulhsu d a b)
  | 4 => some (.div d a b)
  | 5 => some (.divu d a b)
  | 6 => some (.rem d a b)
  | 7 => some (.remu d a b)
  | _ => none

def decBits (w : W32) : Option Instr :=
  let d := cRd w; let a := cRs1 w
  match (cImm w).toNat with
  | 0 => some (.clz d a)
  | 1 => some (.ctz d a)
  | 2 => some (.popc d a)
  | 3 => some (.bswap d a)
  | _ => none

noncomputable def decShiftImm (w : W32) : Option Instr :=
  let d := cRd w; let a := cRs1 w; let sh := w.extractLsb' 0 6
  match (w.extractLsb' 6 10).toNat with
  | 0 => some (.slli d a sh)
  | 1 => some (.srli d a sh)
  | 2 => some (.srai d a sh)
  | _ => none

def decLoad (w : W32) : Option Instr :=
  let d := cRd w; let a := cRs1 w; let o := cOff13 w
  match (w.extractLsb' 13 3).toNat with
  | 0 => some (.ldB d a o)
  | 1 => some (.ldH d a o)
  | 2 => some (.ldW d a o)
  | 3 => some (.ldD d a o)
  | 4 => some (.ldBu d a o)
  | 5 => some (.ldHu d a o)
  | 6 => some (.ldWu d a o)
  | _ => none

def decStore (w : W32) : Option Instr :=
  let d := cRd w; let a := cRs1 w; let o := cOff13 w
  match (w.extractLsb' 13 3).toNat with
  | 0 => some (.stB d a o)
  | 1 => some (.stH d a o)
  | 2 => some (.stW d a o)
  | 3 => some (.stD d a o)
  | _ => none

def decScopedLoad (w : W32) : Option Instr :=
  let d := cRd w; let a := cRs1 w
  match lwidthOf (w.extractLsb' 13 3), scope3 (w.extractLsb' 10 3), (w.extractLsb' 0 10).toNat with
  | some wd, some sc, 0x000 => some (.ldS d a wd sc)
  | some wd, some sc, 0x100 => some (.ldAcq d a wd sc)
  | _, _, _ => none

def decScopedStore (w : W32) : Option Instr :=
  let d := cRd w; let a := cRs1 w
  match swidthOf (w.extractLsb' 13 3), scope3 (w.extractLsb' 10 3), (w.extractLsb' 0 10).toNat with
  | some wd, some sc, 0x000 => some (.stS d a wd sc)
  | some wd, some sc, 0x100 => some (.stRel d a wd sc)
  | _, _, _ => none

def decTagged (w : W32) : Option Instr :=
  let d := cRd w; let a := cRs1 w; let b := cRs2 w
  match (cFn w).toNat with
  | 0 => guardOpt (b == 0) (.ldf d a)
  | 1 => guardOpt (b == 0) (.ldt d a)
  | 2 => guardOpt (d == 0) (.ste a b)
  | 3 => guardOpt (d == 0) (.stf a b)
  | 4 => guardOpt (d == 0 && b == 0) (.tclr a)
  | 5 => guardOpt (b == 0) (.tagrd d a)
  | _ => none

def decFence (w : W32) : Option Instr :=
  match scope3 (w.extractLsb' 10 3), (w.extractLsb' 0 10).toNat, cZero w 13 13 with
  | some sc, 0x100, true => some (.fenceAcq sc)
  | some sc, 0x200, true => some (.fenceRel sc)
  | some sc, 0x300, true => some (.fenceFull sc)
  | _, _, _ => none

noncomputable def decAmo (w : W32) : Option Instr :=
  let d := cRd w; let a := cRs1 w; let b := cRs2 w
  let z := asizeOf (w.getLsbD 6); let o := aorderOf (w.extractLsb' 4 2)
  match scope3 (w.extractLsb' 1 3), w.getLsbD 0 with
  | some sc, false =>
    match (w.extractLsb' 7 4).toNat with
    | 0 => some (.amoAdd d a b z o sc)
    | 1 => guardOpt (w.getLsbD 6) (.amoQadd d a b o sc)
    | 2 => some (.amoSmin d a b z o sc)
    | 3 => some (.amoSmax d a b z o sc)
    | 4 => some (.amoUmin d a b z o sc)
    | 5 => some (.amoUmax d a b z o sc)
    | 6 => some (.amoAnd d a b z o sc)
    | 7 => some (.amoOr d a b z o sc)
    | 8 => some (.amoXor d a b z o sc)
    | 9 => some (.amoSwap d a b z o sc)
    | _ => none
  | _, _ => none

def decCas (w : W32) : Option Instr :=
  match scope3 (w.extractLsb' 1 3), w.getLsbD 0, cZero w 7 4 with
  | some sc, false, true =>
    some (.cas (cRd w) (cRs1 w) (cRs2 w) (asizeOf (w.getLsbD 6)) (aorderOf (w.extractLsb' 4 2)) sc)
  | _, _, _ => none

def decJumpReg (w : W32) : Option Instr :=
  if w.getLsbD 15 then some (.jtab (cRd w) (cRs1 w) (w.extractLsb' 9 6) (w.extractLsb' 0 9))
  else some (.jalr (cRd w) (cRs1 w) (w.extractLsb' 0 15))

def decRot (w : W32) : Option Instr :=
  match (w.extractLsb' 0 16).toNat with
  | 0 => guardOpt (cRd w == 0 && cRs1 w == 0) .rot
  | 1 => guardOpt (cRd w == 0 && cRs1 w == 0) .lbrk
  | 2 => guardOpt (cRs1 w == 0) (.lcrd (cRd w))
  | 3 => guardOpt (cRd w == 0) (.lcwr (cRs1 w))
  | _ => none

noncomputable def decPset (w : W32) : Option Instr :=
  let pd : PReg := w.extractLsb' 21 3; let a := cRs1 w; let b := cRs2 w
  if cZero w 24 2 && pd != 0 then
    match (cFn w).toNat with
    | 0 => some (.psetEq pd a b)
    | 1 => some (.psetNe pd a b)
    | 2 => some (.psetLt pd a b)
    | 3 => some (.psetGe pd a b)
    | 4 => some (.psetLtu pd a b)
    | 5 => some (.psetGeu pd a b)
    | _ => none
  else none

noncomputable def decPlogic (w : W32) : Option Instr :=
  let pd : PReg := w.extractLsb' 21 3; let a : PReg := w.extractLsb' 16 3; let b : PReg := w.extractLsb' 11 3
  if cZero w 24 2 && cZero w 19 2 && cZero w 14 2 && pd != 0 then
    match (cFn w).toNat with
    | 0 => some (.pand pd a b)
    | 1 => some (.por pd a b)
    | 2 => some (.pxor pd a b)
    | 3 => some (.pandn pd a b)
    | 4 => guardOpt (b == 0) (.pmov pd a)
    | _ => none
  else none

def decWins (w : W32) : Option Instr :=
  let pos := w.extractLsb' 10 6; let len := w.extractLsb' 4 6
  guardOpt (cZero w 25 1 && cZero w 0 4 && wfWins pos len) (.wins (w.extractLsb' 21 4) (cRs1 w) pos len)

def decWmov (w : W32) : Option Instr :=
  let wa : WReg := w.extractLsb' 21 4; let j := cRs1 w
  if cZero w 25 1 then
    match (cImm w).toNat with
    | 0 => some (.wmov wa j)
    | 1 => some (.wrd j wa)
    | 2 => guardOpt (cZero w 20 1) (.wcpy wa (w.extractLsb' 16 4))
    | _ => none
  else none

def decYieldGroup (w : W32) : Option Instr :=
  match (w.extractLsb' 0 16).toNat with
  | 0 => guardOpt (cZero w 23 3) (.spawn (w.extractLsb' 21 2) (cRs1 w))
  | 1 => guardOpt (cZero w 16 10) .exit
  | 2 => guardOpt (cZero w 16 10) .yield
  | 3 => guardOpt (cZero w 16 10) .nop
  | _ => none

/-- The field code of sset and sget is one of R201's table, 0 to 10; every other is reserved (R204). -/
def cField (w : W32) : Bool := decide ((w.extractLsb' 11 5).toNat ≤ 10)

/-- The instruction of a legal conductor word; none where R138 makes it illegal. -/
noncomputable def decodeLegalC (w : W32) : Option Instr :=
  let d := cRd w; let a := cRs1 w; let imm := cImm w
  match cMajor w with
  | 0x01 => decAlu w
  | 0x02 => decMul w
  | 0x03 => decBits w
  | 0x04 => some (.addi d a imm)
  | 0x05 => some (.andi d a imm)
  | 0x06 => some (.ori d a imm)
  | 0x07 => some (.xori d a imm)
  | 0x08 => decShiftImm w
  | 0x09 => some (.slti d a imm)
  | 0x0A => some (.sltiu d a imm)
  | 0x0B => guardOpt (a == 0) (.lui d imm)
  | 0x0C => some (.lsi d a imm)
  | 0x0D => guardOpt (a == 0) (.lpc d imm)
  | 0x10 => decLoad w
  | 0x11 => decStore w
  | 0x12 => decScopedLoad w
  | 0x13 => decScopedStore w
  | 0x14 => decTagged w
  | 0x15 => decFence w
  | 0x18 => decAmo w
  | 0x19 => decCas w
  | 0x1C => some (.beq d a imm)
  | 0x1D => some (.bne d a imm)
  | 0x1E => some (.blt d a imm)
  | 0x1F => some (.bge d a imm)
  | 0x20 => some (.bltu d a imm)
  | 0x21 => some (.bgeu d a imm)
  | 0x22 => some (.jal (w.extractLsb' 0 26))
  | 0x23 => decJumpReg w
  | 0x24 => guardOpt (cZero w 21 2 && imm != 0) (.loop a (w.extractLsb' 23 3) imm)
  | 0x25 => decRot w
  | 0x26 => decPset w
  | 0x27 => decPlogic w
  | 0x28 => decWins w
  | 0x29 => decWmov w
  | 0x2A => guardOpt (cZero w 25 1 && cZero w 16 5) (.wtmpl (w.extractLsb' 21 4) imm)
  | 0x2B => guardOpt (cZero w 0 17) (.emit (queueOf (cQueueBits w)) (w.extractLsb' 21 3) (w.extractLsb' 17 4))
  | 0x2C => guardOpt (cZero w 16 5) (.emitt (queueOf (cQueueBits w)) (w.extractLsb' 21 3) imm)
  | 0x2D => guardOpt (cZero w 18 3 && cZero w 0 16) (.qstat d (queueOf (w.extractLsb' 16 2)))
  | 0x2E => guardOpt (cZero w 0 24) (.tkpush (queueOf (cQueueBits w)))
  | 0x2F => guardOpt (cZero w 0 24) (.tkpop (queueOf (cQueueBits w)))
  | 0x30 => guardOpt (cZero w 25 1 && cZero w 0 11 && cField w) (.sset (w.extractLsb' 21 4) a (w.extractLsb' 11 5))
  | 0x31 => guardOpt (cZero w 20 1 && cZero w 0 11 && cField w) (.sget d (w.extractLsb' 16 4) (w.extractLsb' 11 5))
  | 0x32 => guardOpt (cZero w 25 1 && cZero w 20 1 && cZero w 0 16) (.scpy (w.extractLsb' 21 4) (w.extractLsb' 16 4))
  | 0x33 => guardOpt (cZero w 25 1 && cZero w 0 21) (.sclr (w.extractLsb' 21 4))
  | 0x34 => guardOpt (cZero w 0 22 && !cZero w 22 4) (.mark (w.extractLsb' 22 4))
  | 0x35 => guardOpt (cZero w 0 22 && !cZero w 22 4) (.join (w.extractLsb' 22 4))
  | 0x36 =>
    match scope3 (w.extractLsb' 13 3) with
    | some l => guardOpt (cZero w 16 10 && cZero w 0 10) (.bar l (w.extractLsb' 10 3))
    | none => none
  | 0x37 =>
    match (cImm w).toNat with
    | 0 => guardOpt (d == 0) (.waitCyc a)
    | 1 => guardOpt (d == 0) (.waitGtc a)
    | _ => none
  | 0x38 =>
    if w.getLsbD 15 then guardOpt (cZero w 12 3 && d == 0) (.crw (w.extractLsb' 0 12) a)
    else guardOpt (cZero w 12 3 && a == 0) (.crr d (w.extractLsb' 0 12))
  | 0x39 => decYieldGroup w
  | 0x3A =>
    match (cImm w).toNat with
    | 0 => guardOpt (d == 0) (.start a)
    | 1 => guardOpt (d == 0 && a == 0) .ilock
    | _ => none
  | 0x3B => guardOpt (cZero w 2 24) (.fret (w.extractLsb' 0 2))
  | _ => none

/-- The instruction of any 32 bits (R138, R139). -/
noncomputable def decodeC (w : W32) : Instr := (decodeLegalC w).getD (.illegalCWord w)

/-! ### Engine words (R140) -/

/-- One half of the token byte: the flag and the partner (R36, R37). -/
def tokOf (flag : Bool) (partner : BitVec 2) : Option (Option Queue) :=
  if flag then some (some (queueOf partner)) else if partner == 0 then some none else none
def tokBits : Option Queue → BitVec 3
  | none => 0
  | some q => 1#1 ++ q.code

/-- The token byte and IDLE; none where the token byte breaks R37. -/
def headOf (w : W64) : Option EHead :=
  match tokOf (w.getLsbD 55) (w.extractLsb' 53 2), tokOf (w.getLsbD 52) (w.extractLsb' 50 2) with
  | some p, some u => some { pop := p, push := u, idle := w.extractLsb' 0 10 }
  | _, _ => none

def eOpcode (w : W64) : Nat := (w.extractLsb' 56 8).toNat

def unpackVR (h : EHead) (w : W64) : VWord :=
  { h := h, vd := w.extractLsb' 45 5, va := w.extractLsb' 40 5, vb := w.extractLsb' 35 5, vc := w.extractLsb' 30 5,
    m := w.extractLsb' 27 3, mz := w.getLsbD 26, rm := w.extractLsb' 23 3, nf := w.getLsbD 22,
    ty := w.extractLsb' 18 4, fn := w.extractLsb' 10 8 }
def unpackVI (h : EHead) (w : W64) : VSplat :=
  { h := h, vd := w.extractLsb' 45 5, size := w.extractLsb' 43 2, imm := w.extractLsb' 10 32 }
def unpackGI (h : EHead) (w : W64) : GI :=
  { h := h, gd := w.extractLsb' 47 3, sel := w.getLsbD 46, imm := w.extractLsb' 10 32 }
def unpackGK (h : EHead) (w : W64) : GK :=
  { h := h, gd := w.extractLsb' 47 3, kind := w.extractLsb' 44 3, tr := w.getLsbD 43 }
def unpackGS (h : EHead) (w : W64) : GS :=
  { h := h, gd := w.extractLsb' 47 3, ss := w.extractLsb' 40 4, k1 := w.extractLsb' 32 8, k2 := w.extractLsb' 27 5 }
def unpackMS (h : EHead) (w : W64) : MS :=
  { h := h, t := w.getLsbD 49, b := w.getLsbD 48, bank := w.getLsbD 47, ss := w.extractLsb' 43 4,
    k2 := w.extractLsb' 38 5, g := w.extractLsb' 35 3, orow := w.extractLsb' 28 7, rm := w.extractLsb' 25 3,
    z := w.getLsbD 24 }
def unpackMT (h : EHead) (w : W64) : MT :=
  { h := h, td := w.getLsbD 49, ts := w.getLsbD 48, imm := w.extractLsb' 38 10 }
def unpackXC (h : EHead) (w : W64) : XC :=
  { h := h, sd := w.extractLsb' 46 4, ss := w.extractLsb' 42 4, cnt := w.getLsbD 41, lvl := w.extractLsb' 38 3,
    slot := w.extractLsb' 35 3, ext := w.extractLsb' 10 25 }

/-- `some` of a well-formed instruction whose layout's reserved bits are zero. -/
def wfOpt (rsv : Bool) (i : Instr) : Option Instr := if rsv && i.wf then some i else none

def eZero (w : W64) (lo n : Nat) : Bool := w.extractLsb' lo n == 0

/-- The vector word of an opcode (R142); none for an opcode not listed. -/
def decodeV (h : EHead) (w : W64) : Option Instr :=
  match eOpcode w with
  | 0x01 => wfOpt (eZero w 10 40) (.vnop h)
  | 0x02 => wfOpt true (.vmov (unpackVR h w))
  | 0x03 => wfOpt (eZero w 42 1) (.vsplat (unpackVI h w))
  | 0x04 => wfOpt true (.vxrd (unpackVR h w))
  | 0x05 => wfOpt true (.vxclr (unpackVR h w))
  | 0x10 => wfOpt true (.vfadd (unpackVR h w))
  | 0x11 => wfOpt true (.vfsub (unpackVR h w))
  | 0x12 => wfOpt true (.vfmul (unpackVR h w))
  | 0x13 => wfOpt true (.vfma (unpackVR h w))
  | 0x14 => wfOpt true (.vfms (unpackVR h w))
  | 0x15 => wfOpt true (.vfnma (unpackVR h w))
  | 0x16 => wfOpt true (.vfdiv (unpackVR h w))
  | 0x17 => wfOpt true (.vfsqrt (unpackVR h w))
  | 0x18 => wfOpt true (.vfmin (unpackVR h w))
  | 0x19 => wfOpt true (.vfmax (unpackVR h w))
  | 0x1A => wfOpt true (.vfabs (unpackVR h w))
  | 0x1B => wfOpt true (.vfneg (unpackVR h w))
  | 0x1C => wfOpt true (.vfexp2 (unpackVR h w))
  | 0x1D => wfOpt true (.vflog2 (unpackVR h w))
  | 0x1E => wfOpt true (.vfrsqrt (unpackVR h w))
  | 0x1F => wfOpt true (.vfrcp (unpackVR h w))
  | 0x20 => wfOpt true (.vadd (unpackVR h w))
  | 0x21 => wfOpt true (.vsub (unpackVR h w))
  | 0x22 => wfOpt true (.vmul (unpackVR h w))
  | 0x23 => wfOpt true (.vmulh (unpackVR h w))
  | 0x24 => wfOpt true (.vmad (unpackVR h w))
  | 0x25 => wfOpt true (.vmin (unpackVR h w))
  | 0x26 => wfOpt true (.vmax (unpackVR h w))
  | 0x27 => wfOpt true (.vabs (unpackVR h w))
  | 0x28 => wfOpt true (.vand (unpackVR h w))
  | 0x29 => wfOpt true (.vor (unpackVR h w))
  | 0x2A => wfOpt true (.vxor (unpackVR h w))
  | 0x2B => wfOpt true (.vsll (unpackVR h w))
  | 0x2C => wfOpt true (.vsrl (unpackVR h w))
  | 0x2D => wfOpt true (.vsra (unpackVR h w))
  | 0x2E => wfOpt true (.vpopc (unpackVR h w))
  | 0x30 => wfOpt true (.vfcmp (unpackVR h w))
  | 0x31 => wfOpt true (.vcmp (unpackVR h w))
  | 0x32 => wfOpt true (.vsel (unpackVR h w))
  | 0x33 => wfOpt true (.vclass (unpackVR h w))
  | 0x34 => wfOpt true (.vmand (unpackVR h w))
  | 0x35 => wfOpt true (.vmor (unpackVR h w))
  | 0x36 => wfOpt true (.vmxor (unpackVR h w))
  | 0x37 => wfOpt true (.vmnot (unpackVR h w))
  | 0x38 => wfOpt true (.vmpopc (unpackVR h w))
  | 0x40 => wfOpt true (.vcvt (unpackVR h w))
  | 0x41 => wfOpt true (.vcvti (unpackVR h w))
  | 0x42 => wfOpt true (.vcvtf (unpackVR h w))
  | 0x43 => wfOpt true (.vpack (unpackVR h w))
  | 0x44 => wfOpt true (.vunpk (unpackVR h w))
  | 0x50 => wfOpt true (.vperm (unpackVR h w))
  | 0x51 => wfOpt true (.vrot (unpackVR h w))
  | 0x52 => wfOpt true (.vslide (unpackVR h w))
  | 0x53 => wfOpt true (.vzip (unpackVR h w))
  | 0x54 => wfOpt true (.vunzip (unpackVR h w))
  | 0x55 => wfOpt true (.vbcast (unpackVR h w))
  | 0x60 => wfOpt true (.vcmul (unpackVR h w))
  | 0x61 => wfOpt true (.vcmac (unpackVR h w))
  | 0x62 => wfOpt true (.vconj (unpackVR h w))
  | 0x63 => wfOpt true (.vbfly2 (unpackVR h w))
  | 0x64 => wfOpt true (.vbfly4 (unpackVR h w))
  | 0x65 => wfOpt true (.vtwid (unpackVR h w))
  | 0x66 => wfOpt true (.vrevb (unpackVR h w))
  | 0x70 => wfOpt true (.vfsum (unpackVR h w))
  | 0x71 => wfOpt true (.vfrmax (unpackVR h w))
  | 0x72 => wfOpt true (.vfrmin (unpackVR h w))
  | 0x73 => wfOpt true (.vfdot (unpackVR h w))
  | 0x74 => wfOpt true (.vrsum (unpackVR h w))
  | 0x75 => wfOpt true (.vrmax (unpackVR h w))
  | 0x76 => wfOpt true (.vrmin (unpackVR h w))
  | 0x80 => wfOpt true (.vld (unpackVR h w))
  | 0x81 => wfOpt true (.vst (unpackVR h w))
  | 0x82 => wfOpt true (.vldf (unpackVR h w))
  | 0x83 => wfOpt true (.vldt (unpackVR h w))
  | 0x84 => wfOpt true (.vste (unpackVR h w))
  | 0x85 => wfOpt true (.vstf (unpackVR h w))
  | 0x86 => wfOpt true (.vgath (unpackVR h w))
  | 0x87 => wfOpt true (.vscat (unpackVR h w))
  | 0x88 => wfOpt true (.vldm (unpackVR h w))
  | 0x89 => wfOpt true (.vstm (unpackVR h w))
  | _ => none

/-- The matrix word of an opcode (R143); none for an opcode not listed. -/
def decodeM (h : EHead) (w : W64) : Option Instr :=
  match eOpcode w with
  | 0x01 => wfOpt (eZero w 10 40) (.mnop h)
  | 0x10 => wfOpt (eZero w 10 14) (.mldb (unpackMS h w))
  | 0x11 => wfOpt (eZero w 10 14) (.mldbG (unpackMS h w))
  | 0x12 => wfOpt (eZero w 10 14) (.mldbp (unpackMS h w))
  | 0x20 => wfOpt (eZero w 10 14) (.mma (unpackMS h w))
  | 0x21 => wfOpt (eZero w 10 14) (.mmaG (unpackMS h w))
  | 0x22 => wfOpt (eZero w 10 14) (.mmap (unpackMS h w))
  | 0x23 => wfOpt (eZero w 10 14) (.mmapG (unpackMS h w))
  | 0x24 => wfOpt (eZero w 10 14) (.mmat (unpackMS h w))
  | 0x25 => wfOpt (eZero w 10 14) (.mmatG (unpackMS h w))
  | 0x30 => wfOpt (eZero w 10 28) (.mzero (unpackMT h w))
  | 0x31 => wfOpt (eZero w 10 28) (.manch (unpackMT h w))
  | 0x32 => wfOpt (eZero w 10 28) (.movclr (unpackMT h w))
  | 0x33 => wfOpt (eZero w 10 28) (.mtrap (unpackMT h w))
  | 0x34 => wfOpt (eZero w 10 14) (.mstat (unpackMS h w))
  | 0x35 => wfOpt (eZero w 10 28) (.mshift (unpackMT h w))
  | 0x40 => wfOpt (eZero w 10 14) (.mdrn (unpackMS h w))
  | 0x41 => wfOpt (eZero w 10 14) (.mdrnMx (unpackMS h w))
  | 0x42 => wfOpt (eZero w 10 28) (.madd (unpackMT h w))
  | 0x43 => wfOpt (eZero w 10 14) (.msave (unpackMS h w))
  | 0x44 => wfOpt (eZero w 10 14) (.mrest (unpackMS h w))
  | 0x45 => wfOpt (eZero w 10 28) (.mmov (unpackMT h w))
  | _ => none

/-- The generator word of an opcode (R144); none for an opcode not listed. -/
def decodeG (h : EHead) (w : W64) : Option Instr :=
  match eOpcode w with
  | 0x01 => wfOpt (eZero w 10 40) (.gnop h)
  | 0x10 => wfOpt (eZero w 42 4) (.gseed (unpackGI h w))
  | 0x11 => wfOpt (eZero w 42 4) (.gscope (unpackGI h w))
  | 0x12 => wfOpt (eZero w 10 33) (.gkind (unpackGK h w))
  | 0x13 => wfOpt (eZero w 42 4) (.gorig (unpackGI h w))
  | 0x14 => wfOpt (eZero w 44 3 && eZero w 10 17) (.gfreq (unpackGS h w))
  | 0x15 => wfOpt (eZero w 42 4) (.gparm (unpackGI h w))
  | 0x16 => wfOpt (eZero w 44 3 && eZero w 10 17) (.gload (unpackGS h w))
  | 0x17 => wfOpt (eZero w 44 3 && eZero w 10 17) (.gsave (unpackGS h w))
  | 0x20 => wfOpt (eZero w 44 3 && eZero w 10 17) (.gfill (unpackGS h w))
  | 0x21 => wfOpt (eZero w 44 3 && eZero w 10 17) (.gvec (unpackGS h w))
  | 0x22 => wfOpt (eZero w 42 4) (.gdraw (unpackGI h w))
  | 0x23 => wfOpt (eZero w 42 4) (.gskip (unpackGI h w))
  | 0x24 => wfOpt (eZero w 42 4) (.gclr (unpackGI h w))
  | _ => none

/-- The copy word of an opcode (R145); none for an opcode not listed. -/
def decodeX (h : EHead) (w : W64) : Option Instr :=
  match eOpcode w with
  | 0x01 => wfOpt (eZero w 10 40) (.xnop h)
  | 0x10 => wfOpt true (.xcpy (unpackXC h w))
  | 0x11 => wfOpt true (.xcpyc (unpackXC h w))
  | 0x12 => wfOpt true (.xfill (unpackXC h w))
  | 0x13 => wfOpt true (.xgath (unpackXC h w))
  | 0x14 => wfOpt true (.xscat (unpackXC h w))
  | 0x20 => wfOpt true (.xtab (unpackXC h w))
  | 0x21 => wfOpt true (.xdec (unpackXC h w))
  | 0x30 => wfOpt true (.xamo (unpackXC h w))
  | 0x31 => wfOpt true (.xcas (unpackXC h w))
  | 0x32 => wfOpt true (.xste (unpackXC h w))
  | 0x33 => wfOpt true (.xstf (unpackXC h w))
  | 0x34 => wfOpt true (.xldf (unpackXC h w))
  | 0x35 => wfOpt true (.xtclr (unpackXC h w))
  | 0x40 => wfOpt true (.xget (unpackXC h w))
  | 0x41 => wfOpt true (.xput (unpackXC h w))
  | 0x42 => wfOpt true (.xgetc (unpackXC h w))
  | 0x43 => wfOpt true (.xputc (unpackXC h w))
  | 0x50 => wfOpt true (.xbar (unpackXC h w))
  | 0x51 => wfOpt true (.xseq (unpackXC h w))
  | _ => none

/-- The instruction of a legal engine word of a queue; none where R146 makes it illegal on its bits alone (the
snapshot codes and a zero IDLE in a timed section are checked when it is about to issue). -/
def decodeLegalE (q : Queue) (w : W64) : Option Instr :=
  match headOf w with
  | none => none
  | some h =>
    match q with
    | .v => decodeV h w
    | .m => decodeM h w
    | .g => decodeG h w
    | .x => decodeX h w

/-- The instruction of any 64 bits at the head of a queue (R146). -/
def decodeE (q : Queue) (w : W64) : Instr := (decodeLegalE q w).getD (.illegalEWord q w)

/-! ### Encoding -/

/-- What the encoder gives: a conductor word, an engine word of a queue, or nothing for an event. -/
inductive Encoding where
  | cword (w : W32)
  | eword (q : Queue) (w : W64)
  | event
  deriving DecidableEq, Repr

def packR (mj : BitVec 6) (rd rs1 rs2 : Reg) (fn : BitVec 11) : W32 := mj ++ rd ++ rs1 ++ rs2 ++ fn
def packI (mj : BitVec 6) (rd rs1 : Reg) (imm : W16) : W32 := mj ++ rd ++ rs1 ++ imm
/-- Major, and one 26-bit field. -/
def packJ (mj : BitVec 6) (f : BitVec 26) : W32 := mj ++ f

def packHead (op : BitVec 8) (h : EHead) (f : BitVec 40) : W64 := op ++ tokBits h.pop ++ tokBits h.push ++ f ++ h.idle

def b1 (b : Bool) : BitVec 1 := BitVec.ofBool b

def packVR (op : BitVec 8) (w : VWord) : W64 :=
  packHead op w.h (w.vd ++ w.va ++ w.vb ++ w.vc ++ w.m ++ b1 w.mz ++ w.rm ++ b1 w.nf ++ w.ty ++ w.fn)
def packVI (op : BitVec 8) (w : VSplat) : W64 := packHead op w.h (w.vd ++ w.size ++ 0#1 ++ w.imm)
def packGI (op : BitVec 8) (w : GI) : W64 := packHead op w.h (w.gd ++ b1 w.sel ++ 0#4 ++ w.imm)
def packGK (op : BitVec 8) (w : GK) : W64 := packHead op w.h (w.gd ++ w.kind ++ b1 w.tr ++ 0#33)
def packGS (op : BitVec 8) (w : GS) : W64 := packHead op w.h (w.gd ++ 0#3 ++ w.ss ++ w.k1 ++ w.k2 ++ 0#17)
def packMS (op : BitVec 8) (w : MS) : W64 :=
  packHead op w.h (b1 w.t ++ b1 w.b ++ b1 w.bank ++ w.ss ++ w.k2 ++ w.g ++ w.orow ++ w.rm ++ b1 w.z ++ 0#14)
def packMT (op : BitVec 8) (w : MT) : W64 := packHead op w.h (b1 w.td ++ b1 w.ts ++ w.imm ++ 0#28)
def packXC (op : BitVec 8) (w : XC) : W64 :=
  packHead op w.h (w.sd ++ w.ss ++ b1 w.cnt ++ w.lvl ++ w.slot ++ w.ext)

/-- The low 11 bits of an atomic word (R137, major 0x18). -/
def amoFn (op : BitVec 4) (z : ASize) (o : AOrder) (sc : Scope) : BitVec 11 := op ++ z.bit ++ o.bits ++ sc.bits ++ 0#1

/-- The words of an instruction (R137, R142 to R145). -/
def encode : Instr → Encoding
  | .add d a b => .cword (packR 0x01 d a b 0)
  | .sub d a b => .cword (packR 0x01 d a b 1)
  | .and_ d a b => .cword (packR 0x01 d a b 2)
  | .or_ d a b => .cword (packR 0x01 d a b 3)
  | .xor d a b => .cword (packR 0x01 d a b 4)
  | .sll d a b => .cword (packR 0x01 d a b 5)
  | .srl d a b => .cword (packR 0x01 d a b 6)
  | .sra d a b => .cword (packR 0x01 d a b 7)
  | .slt d a b => .cword (packR 0x01 d a b 8)
  | .sltu d a b => .cword (packR 0x01 d a b 9)
  | .min_ d a b => .cword (packR 0x01 d a b 10)
  | .max_ d a b => .cword (packR 0x01 d a b 11)
  | .minu d a b => .cword (packR 0x01 d a b 12)
  | .maxu d a b => .cword (packR 0x01 d a b 13)
  | .mul d a b => .cword (packR 0x02 d a b 0)
  | .mulh d a b => .cword (packR 0x02 d a b 1)
  | .mulhu d a b => .cword (packR 0x02 d a b 2)
  | .mulhsu d a b => .cword (packR 0x02 d a b 3)
  | .div d a b => .cword (packR 0x02 d a b 4)
  | .divu d a b => .cword (packR 0x02 d a b 5)
  | .rem d a b => .cword (packR 0x02 d a b 6)
  | .remu d a b => .cword (packR 0x02 d a b 7)
  | .clz d a => .cword (packI 0x03 d a 0)
  | .ctz d a => .cword (packI 0x03 d a 1)
  | .popc d a => .cword (packI 0x03 d a 2)
  | .bswap d a => .cword (packI 0x03 d a 3)
  | .addi d a i => .cword (packI 0x04 d a i)
  | .andi d a i => .cword (packI 0x05 d a i)
  | .ori d a i => .cword (packI 0x06 d a i)
  | .xori d a i => .cword (packI 0x07 d a i)
  | .slti d a i => .cword (packI 0x09 d a i)
  | .sltiu d a i => .cword (packI 0x0A d a i)
  | .lsi d a i => .cword (packI 0x0C d a i)
  | .slli d a sh => .cword (packI 0x08 d a (0#10 ++ sh))
  | .srli d a sh => .cword (packI 0x08 d a (1#10 ++ sh))
  | .srai d a sh => .cword (packI 0x08 d a (2#10 ++ sh))
  | .lui d i => .cword (packI 0x0B d 0 i)
  | .lpc d i => .cword (packI 0x0D d 0 i)
  | .ldB d a o => .cword (packI 0x10 d a (0#3 ++ o))
  | .ldH d a o => .cword (packI 0x10 d a (1#3 ++ o))
  | .ldW d a o => .cword (packI 0x10 d a (2#3 ++ o))
  | .ldD d a o => .cword (packI 0x10 d a (3#3 ++ o))
  | .ldBu d a o => .cword (packI 0x10 d a (4#3 ++ o))
  | .ldHu d a o => .cword (packI 0x10 d a (5#3 ++ o))
  | .ldWu d a o => .cword (packI 0x10 d a (6#3 ++ o))
  | .stB d a o => .cword (packI 0x11 d a (0#3 ++ o))
  | .stH d a o => .cword (packI 0x11 d a (1#3 ++ o))
  | .stW d a o => .cword (packI 0x11 d a (2#3 ++ o))
  | .stD d a o => .cword (packI 0x11 d a (3#3 ++ o))
  | .ldS d a wd sc => .cword (packI 0x12 d a (wd.code ++ sc.bits ++ 0x000#10))
  | .ldAcq d a wd sc => .cword (packI 0x12 d a (wd.code ++ sc.bits ++ 0x100#10))
  | .stS d a wd sc => .cword (packI 0x13 d a (wd.code ++ sc.bits ++ 0x000#10))
  | .stRel d a wd sc => .cword (packI 0x13 d a (wd.code ++ sc.bits ++ 0x100#10))
  | .ldf d a => .cword (packR 0x14 d a 0 0)
  | .ldt d a => .cword (packR 0x14 d a 0 1)
  | .ste a b => .cword (packR 0x14 0 a b 2)
  | .stf a b => .cword (packR 0x14 0 a b 3)
  | .tclr a => .cword (packR 0x14 0 a 0 4)
  | .tagrd d a => .cword (packR 0x14 d a 0 5)
  | .fenceAcq sc => .cword (packJ 0x15 (0#13 ++ sc.bits ++ 0x100#10))
  | .fenceRel sc => .cword (packJ 0x15 (0#13 ++ sc.bits ++ 0x200#10))
  | .fenceFull sc => .cword (packJ 0x15 (0#13 ++ sc.bits ++ 0x300#10))
  | .amoAdd d a b z o sc => .cword (packR 0x18 d a b (amoFn 0 z o sc))
  | .amoQadd d a b o sc => .cword (packR 0x18 d a b (amoFn 1 .d o sc))
  | .amoSmin d a b z o sc => .cword (packR 0x18 d a b (amoFn 2 z o sc))
  | .amoSmax d a b z o sc => .cword (packR 0x18 d a b (amoFn 3 z o sc))
  | .amoUmin d a b z o sc => .cword (packR 0x18 d a b (amoFn 4 z o sc))
  | .amoUmax d a b z o sc => .cword (packR 0x18 d a b (amoFn 5 z o sc))
  | .amoAnd d a b z o sc => .cword (packR 0x18 d a b (amoFn 6 z o sc))
  | .amoOr d a b z o sc => .cword (packR 0x18 d a b (amoFn 7 z o sc))
  | .amoXor d a b z o sc => .cword (packR 0x18 d a b (amoFn 8 z o sc))
  | .amoSwap d a b z o sc => .cword (packR 0x18 d a b (amoFn 9 z o sc))
  | .cas d a b z o sc => .cword (packR 0x19 d a b (amoFn 0 z o sc))
  | .beq t a i => .cword (packI 0x1C t a i)
  | .bne t a i => .cword (packI 0x1D t a i)
  | .blt t a i => .cword (packI 0x1E t a i)
  | .bge t a i => .cword (packI 0x1F t a i)
  | .bltu t a i => .cword (packI 0x20 t a i)
  | .bgeu t a i => .cword (packI 0x21 t a i)
  | .jal o => .cword (packJ 0x22 o)
  | .jalr d a o => .cword (packI 0x23 d a (0#1 ++ o))
  | .jtab t a l f => .cword (packI 0x23 t a (1#1 ++ l ++ f))
  | .loop a stm len => .cword (packJ 0x24 (stm ++ 0#2 ++ a ++ len))
  | .rot => .cword (packI 0x25 0 0 0)
  | .lbrk => .cword (packI 0x25 0 0 1)
  | .lcrd d => .cword (packI 0x25 d 0 2)
  | .lcwr a => .cword (packI 0x25 0 a 3)
  | .psetEq p a b => .cword (packJ 0x26 (0#2 ++ p ++ a ++ b ++ 0#11))
  | .psetNe p a b => .cword (packJ 0x26 (0#2 ++ p ++ a ++ b ++ 1#11))
  | .psetLt p a b => .cword (packJ 0x26 (0#2 ++ p ++ a ++ b ++ 2#11))
  | .psetGe p a b => .cword (packJ 0x26 (0#2 ++ p ++ a ++ b ++ 3#11))
  | .psetLtu p a b => .cword (packJ 0x26 (0#2 ++ p ++ a ++ b ++ 4#11))
  | .psetGeu p a b => .cword (packJ 0x26 (0#2 ++ p ++ a ++ b ++ 5#11))
  | .pand p a b => .cword (packJ 0x27 (0#2 ++ p ++ 0#2 ++ a ++ 0#2 ++ b ++ 0#11))
  | .por p a b => .cword (packJ 0x27 (0#2 ++ p ++ 0#2 ++ a ++ 0#2 ++ b ++ 1#11))
  | .pxor p a b => .cword (packJ 0x27 (0#2 ++ p ++ 0#2 ++ a ++ 0#2 ++ b ++ 2#11))
  | .pandn p a b => .cword (packJ 0x27 (0#2 ++ p ++ 0#2 ++ a ++ 0#2 ++ b ++ 3#11))
  | .pmov p a => .cword (packJ 0x27 (0#2 ++ p ++ 0#2 ++ a ++ 0#2 ++ 0#3 ++ 4#11))
  | .wins wd a pos len => .cword (packJ 0x28 (0#1 ++ wd ++ a ++ pos ++ len ++ 0#4))
  | .wmov wa j => .cword (packJ 0x29 (0#1 ++ wa ++ j ++ 0#16))
  | .wrd j wa => .cword (packJ 0x29 (0#1 ++ wa ++ j ++ 1#16))
  | .wcpy wa j => .cword (packJ 0x29 (0#1 ++ wa ++ 0#1 ++ j ++ 2#16))
  | .wtmpl wd i => .cword (packJ 0x2A (0#1 ++ wd ++ 0#5 ++ i))
  | .emit q p ws => .cword (packJ 0x2B (q.code ++ p ++ ws ++ 0#17))
  | .emitt q p i => .cword (packJ 0x2C (q.code ++ p ++ 0#5 ++ i))
  | .qstat d q => .cword (packJ 0x2D (d ++ 0#3 ++ q.code ++ 0#16))
  | .tkpush q => .cword (packJ 0x2E (q.code ++ 0#24))
  | .tkpop q => .cword (packJ 0x2F (q.code ++ 0#24))
  | .sset sd a f => .cword (packJ 0x30 (0#1 ++ sd ++ a ++ f ++ 0#11))
  | .sget d ss f => .cword (packJ 0x31 (d ++ 0#1 ++ ss ++ f ++ 0#11))
  | .scpy sd ss => .cword (packJ 0x32 (0#1 ++ sd ++ 0#1 ++ ss ++ 0#16))
  | .sclr sd => .cword (packJ 0x33 (0#1 ++ sd ++ 0#21))
  | .mark qs => .cword (packJ 0x34 (qs ++ 0#22))
  | .join qs => .cword (packJ 0x35 (qs ++ 0#22))
  | .bar l k => .cword (packJ 0x36 (0#10 ++ l.bits ++ k ++ 0#10))
  | .waitCyc a => .cword (packI 0x37 0 a 0)
  | .waitGtc a => .cword (packI 0x37 0 a 1)
  | .crr d n => .cword (packI 0x38 d 0 (0#4 ++ n))
  | .crw n a => .cword (packI 0x38 0 a (1#1 ++ 0#3 ++ n))
  | .spawn k a => .cword (packJ 0x39 (0#3 ++ k ++ a ++ 0#16))
  | .exit => .cword (packJ 0x39 1)
  | .yield => .cword (packJ 0x39 2)
  | .nop => .cword (packJ 0x39 3)
  | .start a => .cword (packI 0x3A 0 a 0)
  | .ilock => .cword (packI 0x3A 0 0 1)
  | .fret v => .cword (packJ 0x3B (0#24 ++ v))
  | .vnop h => .eword .v (packHead 0x01 h 0)
  | .vmov w => .eword .v (packVR 0x02 w)
  | .vsplat w => .eword .v (packVI 0x03 w)
  | .vxrd w => .eword .v (packVR 0x04 w)
  | .vxclr w => .eword .v (packVR 0x05 w)
  | .vfadd w => .eword .v (packVR 0x10 w)
  | .vfsub w => .eword .v (packVR 0x11 w)
  | .vfmul w => .eword .v (packVR 0x12 w)
  | .vfma w => .eword .v (packVR 0x13 w)
  | .vfms w => .eword .v (packVR 0x14 w)
  | .vfnma w => .eword .v (packVR 0x15 w)
  | .vfdiv w => .eword .v (packVR 0x16 w)
  | .vfsqrt w => .eword .v (packVR 0x17 w)
  | .vfmin w => .eword .v (packVR 0x18 w)
  | .vfmax w => .eword .v (packVR 0x19 w)
  | .vfabs w => .eword .v (packVR 0x1A w)
  | .vfneg w => .eword .v (packVR 0x1B w)
  | .vfexp2 w => .eword .v (packVR 0x1C w)
  | .vflog2 w => .eword .v (packVR 0x1D w)
  | .vfrsqrt w => .eword .v (packVR 0x1E w)
  | .vfrcp w => .eword .v (packVR 0x1F w)
  | .vadd w => .eword .v (packVR 0x20 w)
  | .vsub w => .eword .v (packVR 0x21 w)
  | .vmul w => .eword .v (packVR 0x22 w)
  | .vmulh w => .eword .v (packVR 0x23 w)
  | .vmad w => .eword .v (packVR 0x24 w)
  | .vmin w => .eword .v (packVR 0x25 w)
  | .vmax w => .eword .v (packVR 0x26 w)
  | .vabs w => .eword .v (packVR 0x27 w)
  | .vand w => .eword .v (packVR 0x28 w)
  | .vor w => .eword .v (packVR 0x29 w)
  | .vxor w => .eword .v (packVR 0x2A w)
  | .vsll w => .eword .v (packVR 0x2B w)
  | .vsrl w => .eword .v (packVR 0x2C w)
  | .vsra w => .eword .v (packVR 0x2D w)
  | .vpopc w => .eword .v (packVR 0x2E w)
  | .vfcmp w => .eword .v (packVR 0x30 w)
  | .vcmp w => .eword .v (packVR 0x31 w)
  | .vsel w => .eword .v (packVR 0x32 w)
  | .vclass w => .eword .v (packVR 0x33 w)
  | .vmand w => .eword .v (packVR 0x34 w)
  | .vmor w => .eword .v (packVR 0x35 w)
  | .vmxor w => .eword .v (packVR 0x36 w)
  | .vmnot w => .eword .v (packVR 0x37 w)
  | .vmpopc w => .eword .v (packVR 0x38 w)
  | .vcvt w => .eword .v (packVR 0x40 w)
  | .vcvti w => .eword .v (packVR 0x41 w)
  | .vcvtf w => .eword .v (packVR 0x42 w)
  | .vpack w => .eword .v (packVR 0x43 w)
  | .vunpk w => .eword .v (packVR 0x44 w)
  | .vperm w => .eword .v (packVR 0x50 w)
  | .vrot w => .eword .v (packVR 0x51 w)
  | .vslide w => .eword .v (packVR 0x52 w)
  | .vzip w => .eword .v (packVR 0x53 w)
  | .vunzip w => .eword .v (packVR 0x54 w)
  | .vbcast w => .eword .v (packVR 0x55 w)
  | .vcmul w => .eword .v (packVR 0x60 w)
  | .vcmac w => .eword .v (packVR 0x61 w)
  | .vconj w => .eword .v (packVR 0x62 w)
  | .vbfly2 w => .eword .v (packVR 0x63 w)
  | .vbfly4 w => .eword .v (packVR 0x64 w)
  | .vtwid w => .eword .v (packVR 0x65 w)
  | .vrevb w => .eword .v (packVR 0x66 w)
  | .vfsum w => .eword .v (packVR 0x70 w)
  | .vfrmax w => .eword .v (packVR 0x71 w)
  | .vfrmin w => .eword .v (packVR 0x72 w)
  | .vfdot w => .eword .v (packVR 0x73 w)
  | .vrsum w => .eword .v (packVR 0x74 w)
  | .vrmax w => .eword .v (packVR 0x75 w)
  | .vrmin w => .eword .v (packVR 0x76 w)
  | .vld w => .eword .v (packVR 0x80 w)
  | .vst w => .eword .v (packVR 0x81 w)
  | .vldf w => .eword .v (packVR 0x82 w)
  | .vldt w => .eword .v (packVR 0x83 w)
  | .vste w => .eword .v (packVR 0x84 w)
  | .vstf w => .eword .v (packVR 0x85 w)
  | .vgath w => .eword .v (packVR 0x86 w)
  | .vscat w => .eword .v (packVR 0x87 w)
  | .vldm w => .eword .v (packVR 0x88 w)
  | .vstm w => .eword .v (packVR 0x89 w)
  | .mnop h => .eword .m (packHead 0x01 h 0)
  | .mldb w => .eword .m (packMS 0x10 w)
  | .mldbG w => .eword .m (packMS 0x11 w)
  | .mldbp w => .eword .m (packMS 0x12 w)
  | .mma w => .eword .m (packMS 0x20 w)
  | .mmaG w => .eword .m (packMS 0x21 w)
  | .mmap w => .eword .m (packMS 0x22 w)
  | .mmapG w => .eword .m (packMS 0x23 w)
  | .mmat w => .eword .m (packMS 0x24 w)
  | .mmatG w => .eword .m (packMS 0x25 w)
  | .mzero w => .eword .m (packMT 0x30 w)
  | .manch w => .eword .m (packMT 0x31 w)
  | .movclr w => .eword .m (packMT 0x32 w)
  | .mtrap w => .eword .m (packMT 0x33 w)
  | .mstat w => .eword .m (packMS 0x34 w)
  | .mshift w => .eword .m (packMT 0x35 w)
  | .mdrn w => .eword .m (packMS 0x40 w)
  | .mdrnMx w => .eword .m (packMS 0x41 w)
  | .madd w => .eword .m (packMT 0x42 w)
  | .msave w => .eword .m (packMS 0x43 w)
  | .mrest w => .eword .m (packMS 0x44 w)
  | .mmov w => .eword .m (packMT 0x45 w)
  | .gnop h => .eword .g (packHead 0x01 h 0)
  | .gseed w => .eword .g (packGI 0x10 w)
  | .gscope w => .eword .g (packGI 0x11 w)
  | .gkind w => .eword .g (packGK 0x12 w)
  | .gorig w => .eword .g (packGI 0x13 w)
  | .gfreq w => .eword .g (packGS 0x14 w)
  | .gparm w => .eword .g (packGI 0x15 w)
  | .gload w => .eword .g (packGS 0x16 w)
  | .gsave w => .eword .g (packGS 0x17 w)
  | .gfill w => .eword .g (packGS 0x20 w)
  | .gvec w => .eword .g (packGS 0x21 w)
  | .gdraw w => .eword .g (packGI 0x22 w)
  | .gskip w => .eword .g (packGI 0x23 w)
  | .gclr w => .eword .g (packGI 0x24 w)
  | .xnop h => .eword .x (packHead 0x01 h 0)
  | .xcpy w => .eword .x (packXC 0x10 w)
  | .xcpyc w => .eword .x (packXC 0x11 w)
  | .xfill w => .eword .x (packXC 0x12 w)
  | .xgath w => .eword .x (packXC 0x13 w)
  | .xscat w => .eword .x (packXC 0x14 w)
  | .xtab w => .eword .x (packXC 0x20 w)
  | .xdec w => .eword .x (packXC 0x21 w)
  | .xamo w => .eword .x (packXC 0x30 w)
  | .xcas w => .eword .x (packXC 0x31 w)
  | .xste w => .eword .x (packXC 0x32 w)
  | .xstf w => .eword .x (packXC 0x33 w)
  | .xldf w => .eword .x (packXC 0x34 w)
  | .xtclr w => .eword .x (packXC 0x35 w)
  | .xget w => .eword .x (packXC 0x40 w)
  | .xput w => .eword .x (packXC 0x41 w)
  | .xgetc w => .eword .x (packXC 0x42 w)
  | .xputc w => .eword .x (packXC 0x43 w)
  | .xbar w => .eword .x (packXC 0x50 w)
  | .xseq w => .eword .x (packXC 0x51 w)
  | .illegalCWord w => .cword w
  | .illegalEWord q w => .eword q w
  | .waitTargetReached _ => .event
  | .watchTaken _ => .event
  | .taggedWaitTimeout _ => .event
  | .memoryAccessPerformed _ => .event
  | .scheduleMiss _ => .event
  | .sqPoll _ => .event
  | .packetReread _ => .event
  | .msixCoalesceExpiry _ => .event
  | .prologueLimit _ => .event
  | .launchStart _ => .event
  | .vstepTransitionComplete _ => .event
  | .launchEnd _ => .event
  | .longLatencyResult _ => .event
  | .watchArm _ _ => .event
  | .watchDisarm _ _ => .event
  | .blockEnd => .event
  | .faultStrandStart => .event
  | .vectorWordCompletion => .event
  | .vectorRemoteAccessDone => .event
  | .matrixCheckPoint => .event
  | .matrixLanding => .event
  | .accumulatorScrubError _ => .event
  | .generatorWriteLanding => .event
  | .fillElementWrite => .event
  | .fillComplete => .event
  | .copyPiecePerformed => .event
  | .copyWordComplete => .event
  | .taggedResend => .event
  | .taggedOpArrival => .event
  | .atomicAtPort => .event
  | .raceSampleReplace _ _ _ => .event
  | .sqDoorbell _ => .event
  | .loadImage _ _ _ _ _ => .event
  | .submitGraph _ _ => .event
  | .cancel _ _ _ => .event
  | .wake _ _ _ _ _ _ => .event
  | .nopPacket _ => .event
  | .tornClear _ => .event
  | .queueEnable _ _ => .event
  | .queueDisable _ _ => .event
  | .ringEnable _ _ => .event
  | .ringDisable _ _ => .event
  | .ringTailWrite _ _ => .event
  | .hostBarAccess _ => .event
  | .compatEnable _ => .event
  | .prgResponse _ _ => .event
  | .atsInvalidation _ => .event
  | .featureAbsentRepark _ => .event
  | .prologueStart => .event
  | .agingTick => .event
  | .fabricArrivalMessage _ _ => .event
  | .fabricAbort _ _ => .event
  | .dieFailure _ => .event
  | .bursarSample => .event
  | .freezeComplete _ => .event
  | .imageSaved _ => .event
  | .restoreComplete _ => .event
  | .haltComplete _ => .event
  | .gatingTurn => .event
  | .dieUngated _ => .event
  | .selfRefreshEnter _ => .event
  | .selfRefreshExit _ => .event
  | .curveSubmit _ => .event
  | .curveDecision => .event
  | .curveActivate => .event
  | .curveExpire => .event
  | .seqloWrite _ => .event
  | .bursarLock _ => .event
  | .rtSwitch => .event
  | .rtCopy => .event
  | .rtSwitchDrained => .event
  | .rtActiveWrite _ _ _ => .event
  | .rtShadowWrite _ _ _ => .event
  | .partNextWrite _ => .event
  | .shootdownAll => .event
  | .shootdownAsn _ => .event
  | .shootdownRange _ => .event
  | .shootdownComplete => .event
  | .hbmRetire _ _ => .event
  | .walkComplete => .event
  | .foldDelivered => .event
  | .volleyRequest _ => .event
  | .volleyAck _ _ _ => .event
  | .disciplineSend => .event
  | .disciplineReceive _ _ => .event
  | .disciplineTimeout => .event
  | .ppsEdge => .event
  | .ppsTimeout => .event
  | .linkDown _ => .event
  | .reroute _ => .event
  | .destinationUnreachable _ => .event
  | .volleyLock _ => .event
  | .managementMessage _ _ => .event
  | .waitOpenThreshold _ => .event
  | .watchStopFreeze => .event
  | .stopNow _ _ => .event
  | .stopAtCycle _ _ => .event
  | .stopResume _ _ => .event
  | .stopCycleReached => .event
  | .debugRead => .event
  | .debugWrite _ => .event
  | .sideTableClear => .event
  | .sideTableClearDone => .event
  | .mailboxMessage _ _ _ => .event
  | .firmwareCommit => .event
  | .recoveryCommit => .event
  | .trialExpiry => .event
  | .coreWatchdog _ => .event
  | .deviceReset => .event
  | .dieReset _ => .event
  | .dieSelfTestDone _ _ => .event
  | .powerOn => .event
  | .resetPin => .event
  | .thermalTrip => .event
  | .attestRequest _ => .event
  | .attestReport => .event
  | .ethernetDatagram _ _ => .event
  | .railStale _ => .event
  | .registerWrite _ _ => .event
  | .instructionFetchFault => .event
  | .configurationWrite _ _ _ => .event
  | .pseudoChannelFailure _ _ => .event
  | .railReading _ _ _ => .event
  | .linkUp _ => .event

/-! ### The host's reading of a table row -/

/-- Whether an instruction is one of the illegal words. -/
def Instr.isIllegal : Instr → Bool
  | .illegalCWord _ => true
  | .illegalEWord _ _ => true
  | _ => false

noncomputable section

/-- The queue that a word of the opcode table stands in: which it is is not in its bits (R146), so it is the first of
V, M, G and X whose decoder accepts the word. -/
def tableQueue (w : W64) : Queue :=
  if (decodeLegalE .v w).isSome then .v
  else if (decodeLegalE .m w).isSome then .m
  else if (decodeLegalE .g w).isSome then .g
  else if (decodeLegalE .x w).isSome then .x
  else .v

/-- The instruction of `nbits` table bits `w`: 32 bits are a conductor word, 64 bits an engine word of the queue that
`tableQueue` names; none where the decoder refuses. -/
def decodeTableWord (nbits w : Nat) : Option Instr :=
  if nbits ≤ 32 then decodeLegalC (BitVec.ofNat 32 w)
  else decodeLegalE (tableQueue (BitVec.ofNat 64 w)) (BitVec.ofNat 64 w)

end

end Sys2Proof
end

