-- ==== Sys2Proof/Machine/Crypto.lean ====
section
/-! DEFINITION. CRC-32C (R100), SHA-512 and Ed25519 (R447, R449, R470, R517, R520, R521) over byte lists. -/

namespace Sys2Proof.Machine

/-! ### CRC-32C -/

/-- One bit of the reflected CRC with polynomial 0x82F63B78. -/
def crcBit (c : W32) : W32 := if c.getLsbD 0 then (c >>> 1) ^^^ 0x82F63B78 else c >>> 1

def crcByte (c : W32) (b : Byte) : W32 :=
  crcBit (crcBit (crcBit (crcBit (crcBit (crcBit (crcBit (crcBit (c ^^^ b.setWidth 32))))))))

/-- CRC-32C of a list of bytes: initial value and final exclusive or all ones. -/
def crc32c (l : List Byte) : W32 := ~~~(l.foldl crcByte 0xFFFFFFFF)

/-! ### SHA-512 -/

/-- The round constants: the first 64 bits of the fractional parts of the cube roots of the first 80 primes. -/
def sha512K0 : List W64 := [0x428A2F98D728AE22, 0x7137449123EF65CD, 0xB5C0FBCFEC4D3B2F, 0xE9B5DBA58189DBBC, 0x3956C25BF348B538, 0x59F111F1B605D019, 0x923F82A4AF194F9B, 0xAB1C5ED5DA6D8118]
def sha512K1 : List W64 := [0xD807AA98A3030242, 0x12835B0145706FBE, 0x243185BE4EE4B28C, 0x550C7DC3D5FFB4E2, 0x72BE5D74F27B896F, 0x80DEB1FE3B1696B1, 0x9BDC06A725C71235, 0xC19BF174CF692694]
def sha512K2 : List W64 := [0xE49B69C19EF14AD2, 0xEFBE4786384F25E3, 0x0FC19DC68B8CD5B5, 0x240CA1CC77AC9C65, 0x2DE92C6F592B0275, 0x4A7484AA6EA6E483, 0x5CB0A9DCBD41FBD4, 0x76F988DA831153B5]
def sha512K3 : List W64 := [0x983E5152EE66DFAB, 0xA831C66D2DB43210, 0xB00327C898FB213F, 0xBF597FC7BEEF0EE4, 0xC6E00BF33DA88FC2, 0xD5A79147930AA725, 0x06CA6351E003826F, 0x142929670A0E6E70]
def sha512K4 : List W64 := [0x27B70A8546D22FFC, 0x2E1B21385C26C926, 0x4D2C6DFC5AC42AED, 0x53380D139D95B3DF, 0x650A73548BAF63DE, 0x766A0ABB3C77B2A8, 0x81C2C92E47EDAEE6, 0x92722C851482353B]
def sha512K5 : List W64 := [0xA2BFE8A14CF10364, 0xA81A664BBC423001, 0xC24B8B70D0F89791, 0xC76C51A30654BE30, 0xD192E819D6EF5218, 0xD69906245565A910, 0xF40E35855771202A, 0x106AA07032BBD1B8]
def sha512K6 : List W64 := [0x19A4C116B8D2D0C8, 0x1E376C085141AB53, 0x2748774CDF8EEB99, 0x34B0BCB5E19B48A8, 0x391C0CB3C5C95A63, 0x4ED8AA4AE3418ACB, 0x5B9CCA4F7763E373, 0x682E6FF3D6B2B8A3]
def sha512K7 : List W64 := [0x748F82EE5DEFB2FC, 0x78A5636F43172F60, 0x84C87814A1F0AB72, 0x8CC702081A6439EC, 0x90BEFFFA23631E28, 0xA4506CEBDE82BDE9, 0xBEF9A3F7B2C67915, 0xC67178F2E372532B]
def sha512K8 : List W64 := [0xCA273ECEEA26619C, 0xD186B8C721C0C207, 0xEADA7DD6CDE0EB1E, 0xF57D4F7FEE6ED178, 0x06F067AA72176FBA, 0x0A637DC5A2C898A6, 0x113F9804BEF90DAE, 0x1B710B35131C471B]
def sha512K9 : List W64 := [0x28DB77F523047D84, 0x32CAAB7B40C72493, 0x3C9EBE0A15C9BEBC, 0x431D67C49C100D4C, 0x4CC5D4BECB3E42B6, 0x597F299CFC657E2A, 0x5FCB6FAB3AD6FAEC, 0x6C44198C4A475817]
def sha512K : List W64 :=
  sha512K0 ++ sha512K1 ++ sha512K2 ++ sha512K3 ++ sha512K4 ++ sha512K5 ++ sha512K6 ++ sha512K7 ++ sha512K8 ++ sha512K9

/-- The initial hash: square roots of the first 8 primes. -/
def sha512H : List W64 := [0x6A09E667F3BCC908, 0xBB67AE8584CAA73B, 0x3C6EF372FE94F82B, 0xA54FF53A5F1D36F1, 0x510E527FADE682D1, 0x9B05688C2B3E6C1F, 0x1F83D9ABFB41BD6B, 0x5BE0CD19137E2179]

/-- A big-endian word. -/
def beWord (l : List Byte) : W64 := BitVec.ofNat 64 (leNat l.reverse)
def beBytes (v : W64) : List Byte := (leBytes 8 v.toNat).reverse

def bigSigma0 (x : W64) : W64 := x.rotateRight 28 ^^^ x.rotateRight 34 ^^^ x.rotateRight 39
def bigSigma1 (x : W64) : W64 := x.rotateRight 14 ^^^ x.rotateRight 18 ^^^ x.rotateRight 41
def smallSigma0 (x : W64) : W64 := x.rotateRight 1 ^^^ x.rotateRight 8 ^^^ x >>> 7
def smallSigma1 (x : W64) : W64 := x.rotateRight 19 ^^^ x.rotateRight 61 ^^^ x >>> 6

/-- Extend the message schedule by `n` words; the newest stands first. -/
def shaExtend : Nat → List W64 → List W64
  | 0, w => w
  | n + 1, w => shaExtend n ((smallSigma1 (w.getD 1 0) + w.getD 6 0 + smallSigma0 (w.getD 14 0) + w.getD 15 0) :: w)

/-- One round on the eight working variables. -/
def shaRound : List W64 → W64 × W64 → List W64
  | [a, b, c, d, e, f, g, h], (k, w) =>
    let t1 := h + bigSigma1 e + ((e &&& f) ^^^ (~~~e &&& g)) + k + w
    let t2 := bigSigma0 a + ((a &&& b) ^^^ (a &&& c) ^^^ (b &&& c))
    [t1 + t2, a, b, c, d + t1, e, f, g]
  | l, _ => l

/-- Cut a list into pieces of `k` elements, `n` of them. -/
def pieces {α : Type} (k : Nat) : Nat → List α → List (List α)
  | 0, _ => []
  | n + 1, l => l.take k :: pieces k n (l.drop k)

/-- The compression of one block of 128 bytes. -/
def shaBlock (h : List W64) (b : List Byte) : List W64 :=
  let w := (shaExtend 64 ((pieces 8 16 b).map beWord).reverse).reverse
  let r := (sha512K.zip w).foldl shaRound h
  (h.zip r).map fun (x, y) => x + y

/-- The padding after `n` bytes. -/
def shaPad (n : Nat) : List Byte :=
  0x80#8 :: List.replicate ((239 - n % 128) % 128) 0 ++ (leBytes 16 (8 * n)).reverse

/-- The 64-byte SHA-512 digest. -/
def sha512 (m : List Byte) : List Byte :=
  let p := m ++ shaPad m.length
  ((pieces 128 (p.length / 128) p).foldl shaBlock sha512H).flatMap beBytes

/-! ### Ed25519 (RFC 8032) -/

def edP : Nat := 2 ^ 255 - 19
def edL : Nat := 2 ^ 252 + 27742317777372353535851937790883648493

/-- A power modulo `edP`; `n` bounds the bits of the exponent. -/
def edPow : Nat → Nat → Nat → Nat
  | 0, _, _ => 1
  | n + 1, b, e =>
    let h := edPow n (b * b % edP) (e / 2)
    if e % 2 = 1 then h * b % edP else h

def edInv (x : Nat) : Nat := edPow 255 x (edP - 2)
def edD : Nat := (edP - 121665) * edInv 121666 % edP
/-- A square root of −1. -/
def edI : Nat := edPow 255 2 ((edP - 1) / 4)

/-- A point in extended homogeneous coordinates. -/
structure EdPt where
  x : Nat
  y : Nat
  z : Nat
  t : Nat
  deriving DecidableEq, Repr

def edZero : EdPt := ⟨0, 1, 1, 0⟩

def edAdd (p q : EdPt) : EdPt :=
  let a := (p.y + edP - p.x) * (q.y + edP - q.x) % edP
  let b := (p.y + p.x) * (q.y + q.x) % edP
  let c := p.t * 2 * edD % edP * q.t % edP
  let d := p.z * 2 * q.z % edP
  let e := b + edP - a
  let f := d + edP - c
  let g := d + c
  let h := b + a
  ⟨e * f % edP, g * h % edP, f * g % edP, e * h % edP⟩

/-- `k` times a point; `n` bounds the bits of `k`. -/
def edMul : Nat → Nat → EdPt → EdPt
  | 0, _, _ => edZero
  | n + 1, k, p =>
    let h := edMul n (k / 2) (edAdd p p)
    if k % 2 = 1 then edAdd h p else h

def edEq (p q : EdPt) : Bool :=
  decide (p.x * q.z % edP = q.x * p.z % edP) && decide (p.y * q.z % edP = q.y * p.z % edP)

/-- The x of a y with a given sign, where there is one. -/
def edRecover (y sign : Nat) : Option Nat :=
  if edP ≤ y then none
  else
    let u := (y * y + edP - 1) % edP
    let v := (edD * (y * y % edP) + 1) % edP
    let v3 := v * v % edP * v % edP
    let x := u * v3 % edP * edPow 255 (u * (v3 * v3 % edP * v % edP) % edP) ((edP - 5) / 8) % edP
    let vx := v * (x * x % edP) % edP
    let r := if vx = u then some x else if vx = (edP - u) % edP then some (x * edI % edP) else none
    match r with
    | none => none
    | some x => if x = 0 ∧ sign = 1 then none else if x % 2 = sign then some x else some ((edP - x) % edP)

/-- The point of 32 bytes. -/
def edDecode (b : List Byte) : Option EdPt :=
  let n := leNat b
  let y := n % 2 ^ 255
  (edRecover y (n / 2 ^ 255 % 2)).map fun x => ⟨x, y, 1, x * y % edP⟩

def edEncode (p : EdPt) : List Byte :=
  let i := edInv p.z
  leBytes 32 (p.y * i % edP + p.x * i % edP % 2 * 2 ^ 255)

/-- The base point: y = 4/5, x even. -/
def edBase : EdPt :=
  let y := 4 * edInv 5 % edP
  let x := (edRecover y 0).getD 0
  ⟨x, y, 1, x * y % edP⟩

/-- Verification of a 64-byte signature of `m` under a 32-byte public key, by the cofactored equation. -/
def edVerify (pub m sig : List Byte) : Bool :=
  let rb := sig.take 32
  let sv := leNat (sig.drop 32)
  match edDecode pub, edDecode rb with
  | some a, some r =>
    let k := leNat (sha512 (rb ++ pub ++ m)) % edL
    decide (sv < edL) && decide (sig.length = 64)
      && edEq (edMul 4 8 (edMul 256 sv edBase)) (edMul 4 8 (edAdd r (edMul 256 k a)))
  | _, _ => false

/-- The secret scalar and the prefix of a 32-byte seed. -/
def edSecret (seed : List Byte) : Nat × List Byte :=
  let h := sha512 seed
  (leNat (h.take 32) % 2 ^ 254 / 8 * 8 + 2 ^ 254, h.drop 32)

def edPublic (seed : List Byte) : List Byte := edEncode (edMul 256 (edSecret seed).1 edBase)

/-- The signature of `m` under a seed. -/
def edSign (seed m : List Byte) : List Byte :=
  let (a, pre) := edSecret seed
  let r := leNat (sha512 (pre ++ m)) % edL
  let rb := edEncode (edMul 256 r edBase)
  let k := leNat (sha512 (rb ++ edPublic seed ++ m)) % edL
  rb ++ leBytes 32 ((r + k * a) % edL)

end Sys2Proof.Machine
end

