-- ==== Sys2Proof/Machine/FpOps.lean ====
section
/-! DEFINITION. The exact functions that the floating-point words round once (R241 to R243, R246, R249, R266), and
the transcendental values the spec defines as correctly rounded reals (R242, R294, R296), each computed to a
precision beyond every rounding boundary of its format, with a last odd bit that keeps the result off a tie. -/

namespace Sys2Proof.Machine

/-- NaN operands: invalid for a signalling one (R108). -/
def nanFlags (vs : List FVal) : Flags := if vs.any FVal.isSig then fNV else 0

/-- A product's sign. -/
def xorNeg (a b : FVal) : Bool := a.neg != b.neg

/-- One term of a sum (R266): an operand or a product, signed. -/
structure Term where
  neg : Bool
  inf : Bool
  dy : Dy
  deriving DecidableEq, Repr

/-- The term of one operand that is not a NaN. -/
def termOf (v : FVal) : Term := ⟨v.neg, v.isInf, v.dy⟩

/-- The term of a product of two operands that are not NaNs; none for `0 × ∞`. -/
def termMul (a b : FVal) : Option Term :=
  if (a.isInf && b.isZero) || (a.isZero && b.isInf) then none
  else some ⟨xorNeg a b, a.isInf || b.isInf, a.dy.mul b.dy⟩

def Term.negate (t : Term) : Term := ⟨!t.neg, t.inf, t.dy.neg⟩

/-- The exact sum of finite terms. -/
def sumTerms (ts : List Term) : Dy := ts.foldl (fun a t => a.add t.dy) Dy.zero

/-- The sign of an exact zero sum under R119: the common sign of all-zero terms of one sign, else +0, or −0
under RDN. -/
def zeroSignIeee (md : Rm) (ts : List Term) : Bool :=
  if ts.all (fun t => t.dy.isZero) && ts.all (fun t => t.neg) then true
  else if ts.all (fun t => t.dy.isZero) && ts.all (fun t => !t.neg) then false
  else decide (md = .rdn)

/-- The sign of an exact zero sum under R266: −0 when every term is −0, or under RDN when some term is −0. -/
def zeroSignTerms (md : Rm) (ts : List Term) : Bool :=
  let mz (t : Term) : Bool := t.neg && !t.inf && t.dy.isZero
  ts.all mz || (decide (md = .rdn) && ts.any mz)

/-- Deliver a sum of terms, infinities included, rounded once (R266 steps 2 to 4). -/
def deliverSum (f : FFmt) (md : Rm) (zs : Rm → List Term → Bool) (ts : List (Option Term)) : Nat × Flags :=
  if ts.any Option.isNone then (f.canon, fNV)
  else
    let us := ts.filterMap id
    let pinf := us.any fun t => t.inf && !t.neg
    let ninf := us.any fun t => t.inf && t.neg
    if pinf && ninf then (f.canon, fNV)
    else if pinf then (f.infCode, 0)
    else if ninf then (f.withSign true f.infCode, 0)
    else f.round md (sumTerms us) (zs md us)

/-- a + b (R241). -/
def fAdd (f : FFmt) (md : Rm) (a b : FVal) : Nat × Flags :=
  if a.isNan || b.isNan then (f.canon, nanFlags [a, b])
  else deliverSum f md zeroSignIeee [some (termOf a), some (termOf b)]

/-- a − b (R241). -/
def fSub (f : FFmt) (md : Rm) (a b : FVal) : Nat × Flags := fAdd f md a b.negate

/-- a × b (R241). -/
def fMul (f : FFmt) (md : Rm) (a b : FVal) : Nat × Flags :=
  if a.isNan || b.isNan then (f.canon, nanFlags [a, b])
  else deliverSum f md zeroSignIeee [termMul a b]

/-- a × b + c, fused; `0 × ∞` signals invalid even with a NaN third operand (R241). -/
def fMa (f : FFmt) (md : Rm) (a b c : FVal) : Nat × Flags :=
  if a.isNan || b.isNan then (f.canon, nanFlags [a, b, c])
  else if (termMul a b).isNone then (f.canon, fNV)
  else if c.isNan then (f.canon, nanFlags [c])
  else deliverSum f md zeroSignIeee [termMul a b, some (termOf c)]

/-- The largest `r` with `r² ≤ n`, by bits from `k − 1` down. -/
def isqrtBits (n : Nat) : Nat → Nat → Nat
  | 0, r => r
  | k + 1, r => if (r + 2 ^ k) * (r + 2 ^ k) ≤ n then isqrtBits n k (r + 2 ^ k) else isqrtBits n k r

def isqrt (n : Nat) : Nat := isqrtBits n (Nat.log2 n / 2 + 1) 0

/-- An inexact magnitude known to lie strictly between `q` and `q + 1`, or exactly `q`, in units of `2^e`: the
last bit, odd, marks the inexact case (no rounding boundary lies inside the unit). -/
def sticky (exact : Bool) (q : Nat) (e : Int) : Nat × Int := (2 * q + (if exact then 0 else 1), e - 1)

/-- a / b, correctly rounded (R241, R242). -/
def fDiv (f : FFmt) (md : Rm) (a b : FVal) : Nat × Flags :=
  if a.isNan || b.isNan then (f.canon, nanFlags [a, b])
  else
    let n := xorNeg a b
    match a, b with
    | .inf _, .inf _ => (f.canon, fNV)
    | .inf _, _ => (f.withSign n f.infCode, 0)
    | _, .inf _ => (f.withSign n 0, 0)
    | .fin _ ma ea, .fin _ mb eb =>
      if mb = 0 then (if ma = 0 then (f.canon, fNV) else (f.withSign n f.infCode, fDZ))
      else if ma = 0 then (f.withSign n 0, 0)
      else
        let num := ma * 2 ^ 96
        let (q, e) := sticky (decide (num % mb = 0)) (num / mb) (ea - eb - 96)
        f.roundMagTo md n q e
    | _, _ => (f.canon, 0)

/-- `mag × 2^exp` with an even exponent. -/
def evenExp (mag : Nat) (exp : Int) : Nat × Int := if exp % 2 = 0 then (mag, exp) else (2 * mag, exp - 1)

/-- √a, correctly rounded; √(−0) = −0 (R241). -/
def fSqrt (f : FFmt) (md : Rm) (a : FVal) : Nat × Flags :=
  match a with
  | .nan s _ => (f.canon, if s then fNV else 0)
  | .inf n => if n then (f.canon, fNV) else (f.infCode, 0)
  | .fin n m e =>
    if m = 0 then (f.withSign n 0, 0)
    else if n then (f.canon, fNV)
    else
      let (m', e') := evenExp m e
      let s := isqrt (m' * 2 ^ 128)
      let (q, ex) := sticky (decide (s * s = m' * 2 ^ 128)) s (e' / 2 - 64)
      f.roundMagTo md false q ex

/-- 1 / √a, correctly rounded (R241). -/
def fRsqrt (f : FFmt) (md : Rm) (a : FVal) : Nat × Flags :=
  match a with
  | .nan s _ => (f.canon, if s then fNV else 0)
  | .inf n => if n then (f.canon, fNV) else (0, 0)
  | .fin n m e =>
    if m = 0 then (f.withSign n f.infCode, fDZ)
    else if n then (f.canon, fNV)
    else
      let (m', e') := evenExp m e
      let s := isqrt (2 ^ 256 / m')
      let (q, ex) := sticky (decide (s * s * m' = 2 ^ 256)) s (-(e' / 2) - 128)
      f.roundMagTo md false q ex

/-- 1 / a, as vfdiv with a numerator of 1 (R241). -/
def fRcp (f : FFmt) (md : Rm) (a : FVal) : Nat × Flags := fDiv f md (.fin false 1 0) a

/-! ### Transcendental values

Fixed-point numbers with 256 fraction bits. Each result below is within 2^−240 of the exact real, and no value of
FP32, FP16 or BF16, and no midpoint of two, lies that near an irrational value of these functions (DEDUCED). -/

/-- ln 2 × 2^256, rounded down. -/
def ln2Fix : Nat := 0xb17217f7d1cf79abc9e3b39803f2f6af40f343267298b62d8a0d175b8baafa2b
/-- π × 2^256, rounded down. -/
def piFix : Nat := 0x3243f6a8885a308d313198a2e03707344a4093822299f31d0082efa98ec4e6c89

/-- The terms `x^k / k!` from `k` on, summed: `n` of them, `t` the running term, 256 fraction bits. -/
def expSeries (x : Nat) : Nat → Nat → Nat → Nat
  | 0, _, _ => 0
  | n + 1, k, t => t + expSeries x n (k + 1) (t * x / 2 ^ 256 / (k + 1))

/-- 2^f × 2^256 for a fraction `f × 2^256` below 1. -/
def exp2Frac (f : Nat) : Nat := expSeries (f * ln2Fix / 2 ^ 256) 80 0 (2 ^ 256)

/-- 2^a, correctly rounded (R241, R242). -/
def fExp2 (f : FFmt) (md : Rm) (a : FVal) : Nat × Flags :=
  match a with
  | .nan s _ => (f.canon, if s then fNV else 0)
  | .inf n => if n then (0, 0) else (f.infCode, 0)
  | .fin n m e =>
    let x : Dy := ⟨if n then -(m : Int) else m, e⟩
    if m = 0 then f.roundMagTo md false 1 0
    else if (Dy.ofInt 1000).lt x then f.roundMagTo md false 3 1000
    else if x.lt (Dy.ofInt (-1000)) then f.roundMagTo md false 3 (-1000)
    else
      let ip := (x.roundInt .rdn).1
      let fr := x.sub (Dy.ofInt ip)
      if fr.isZero then f.roundMagTo md false 1 ip
      else
        let fx := ((fr.scale 256).roundInt .rdn).1.toNat
        let (q, ex) := sticky false (exp2Frac fx) (ip - 256)
        f.roundMagTo md false q ex

/-- The odd powers `z^(2k+1) / (2k+1)` summed: `n` of them, `t` the running power. -/
def atanhSeries (z2 : Nat) : Nat → Nat → Nat → Nat
  | 0, _, _ => 0
  | n + 1, k, t => t / (2 * k + 1) + atanhSeries z2 n (k + 1) (t * z2 / 2 ^ 256)

/-- ln m × 2^256 for `m × 2^256` in [1, 2). -/
def lnFix (m : Nat) : Nat :=
  let z := (m - 2 ^ 256) * 2 ^ 256 / (m + 2 ^ 256)
  2 * atanhSeries (z * z / 2 ^ 256) 90 0 z

/-- log2 a, correctly rounded; 1 gives +0 in every mode (R241, R242). -/
def fLog2 (f : FFmt) (md : Rm) (a : FVal) : Nat × Flags :=
  match a with
  | .nan s _ => (f.canon, if s then fNV else 0)
  | .inf n => if n then (f.canon, fNV) else (f.infCode, 0)
  | .fin n m e =>
    if m = 0 then (f.withSign true f.infCode, fDZ)
    else if n then (f.canon, fNV)
    else
      let lg := Nat.log2 m
      let ip : Int := e + (lg : Int)
      if m = 2 ^ lg then f.round md (Dy.ofInt ip) false
      else
        let mx := m * 2 ^ 256 / 2 ^ lg
        let fr : Nat := lnFix mx * 2 ^ 256 / ln2Fix
        let v : Int := ip * ((2 ^ 256 : Nat) : Int) + (fr : Int)
        let (q, ex) := sticky false (if v < 0 then v.natAbs - 1 else v.natAbs) (-256)
        f.roundMagTo md (decide (v < 0)) q ex

/-! ### Minimum, maximum, signs, classes and compares (R243, R246, R249) -/

/-- Order of two operands that are not NaNs, −0 below +0. -/
def fBelow (a b : FVal) : Bool :=
  match a, b with
  | .inf n, .inf n' => n && !n'
  | .inf n, _ => n
  | _, .inf n => !n
  | _, _ => a.dy.lt b.dy || (a.isZero && b.isZero && a.neg && !b.neg)

/-- vfmin (`mx = false`) and vfmax: the code delivered, not rounded (R243). -/
def fMinMax (f : FFmt) (mx : Bool) (ca cb : Nat) : Nat × Flags :=
  let a := f.decode ca
  let b := f.decode cb
  let fl := nanFlags [a, b]
  match a.isNan, b.isNan with
  | true, true => (f.canon, fl)
  | true, false => (cb, fl)
  | false, true => (ca, fl)
  | false, false => (if mx then (if fBelow a b then cb else ca) else (if fBelow b a then cb else ca), fl)

/-- vfabs: the sign cleared; a NaN gives the canonical NaN of sign 0 (R243). -/
def fAbs (f : FFmt) (c : Nat) : Nat := if (f.decode c).isNan then f.canon else c % f.signBit

/-- vfneg: the sign inverted; a NaN gives the canonical NaN of the inverse sign (R243). -/
def fNeg (f : FFmt) (c : Nat) : Nat :=
  let v := f.decode c
  if v.isNan then f.withSign (!v.neg) f.canon
  else f.withSign (!v.neg) (c % f.signBit)

/-- The class bit of vclass (R249). -/
def fClass (f : FFmt) (c : Nat) : Nat :=
  match f.decode c with
  | .nan s _ => if s then 2 ^ 8 else 2 ^ 9
  | .inf n => if n then 2 ^ 0 else 2 ^ 7
  | .fin n m _ =>
    if m = 0 then (if n then 2 ^ 3 else 2 ^ 4)
    else if m < 2 ^ f.w then (if n then 2 ^ 2 else 2 ^ 5)
    else (if n then 2 ^ 1 else 2 ^ 6)

/-- The seven conditions of vfcmp (R246). -/
inductive FCond where
  | eq | ne | lt | le | gt | ge | un
  deriving DecidableEq, Repr

def fcondOf (n : Nat) : Option FCond :=
  match n with
  | 0 => some .eq | 1 => some .ne | 2 => some .lt | 3 => some .le | 4 => some .gt | 5 => some .ge | 6 => some .un
  | _ => none

/-- Numeric order of two operands that are not NaNs (zeros equal). -/
def fLt (a b : FVal) : Bool :=
  match a, b with
  | .inf n, .inf n' => n && !n'
  | .inf n, _ => n
  | _, .inf n => !n
  | _, _ => a.dy.lt b.dy

/-- The condition, and its flags (R246). -/
def fCompare (c : FCond) (a b : FVal) : Bool × Flags :=
  if a.isNan || b.isNan then
    match c with
    | .un | .ne => (true, nanFlags [a, b])
    | .eq => (false, nanFlags [a, b])
    | _ => (false, fNV)
  else
    let l := fLt a b
    let g := fLt b a
    (match c with
      | .eq => !l && !g
      | .ne => l || g
      | .lt => l
      | .le => !g
      | .gt => g
      | .ge => !l
      | .un => false, 0)

/-! ### The phase functions (R296) and the Gaussian table (R294) -/

/-- The alternating series of sine, 256 fraction bits: `n` pairs of terms from degree `k`. -/
def sinSeries (x2 : Nat) : Nat → Nat → Nat → Int
  | 0, _, _ => 0
  | n + 1, k, t => (t : Int) - sinSeries x2 n (k + 2) (t * x2 / 2 ^ 256 / ((k + 1) * (k + 2)))

/-- `Q[a] := round_ne(sin(2πa / 65,536))` as an FP32 value, for `a` from 0 to 16,384 (R296). -/
def quarterSine (a : Nat) : Nat :=
  if a = 0 then 0
  else if a ≥ 16384 then 0x3F800000
  else
    let x := piFix * 2 * a / 65536
    let s := (sinSeries (x * x / 2 ^ 256) 40 1 x).toNat
    (fmtFP32.roundMagTo .rne false (2 * s + 1) (-257)).1

/-- Negate an FP32 code. -/
def negCode32 (c : Nat) : Nat := if c < 2 ^ 31 then c + 2 ^ 31 else c - 2 ^ 31

/-- `S(h)` of R296. -/
def phaseS (h : Nat) : Nat :=
  let a := h % 16384
  match h / 16384 % 4 with
  | 0 => quarterSine a
  | 1 => quarterSine (16384 - a)
  | 2 => negCode32 (quarterSine a)
  | _ => negCode32 (quarterSine (16384 - a))

/-- An FP32 zero of either sign as +0. -/
def posZero32 (c : Nat) : Nat := if c % 2 ^ 31 = 0 then 0 else c

def dec32 (c : Nat) : FVal := fmtFP32.decode c

/-- `sinp(φ)` (R296). -/
def sinp (phi : Nat) : Nat :=
  let h := phi / 65536 % 65536
  let fr := phi % 65536
  if fr = 0 then posZero32 (phaseS h)
  else
    let sa := phaseS h
    let sb := phaseS ((h + 1) % 65536)
    let d := (fSub fmtFP32 .rne (dec32 sb) (dec32 sa)).1
    let p := (fMul fmtFP32 .rne (dec32 d) (.fin false fr (-16))).1
    posZero32 (fAdd fmtFP32 .rne (dec32 sa) (dec32 p)).1

/-- `cosp(φ)` (R296). -/
def cosp (phi : Nat) : Nat := sinp ((phi + 2 ^ 30) % 2 ^ 32)

/-- The series of `Φ(x) − 1/2` times √(2π): `Σ (−1)^k x^(2k+1) / (2^k k! (2k+1))`, 256 fraction bits. -/
def phiSeries (x2 : Nat) : Nat → Nat → Nat → Int
  | 0, _, _ => 0
  | n + 1, k, t => ((t / (2 * k + 1) : Nat) : Int) - phiSeries x2 n (k + 1) (t * x2 / 2 ^ 256 / (2 * (k + 1)))

/-- `√(2π) × 2^256`. -/
def sqrt2Pi : Nat := isqrt (2 * piFix * 2 ^ 256)

/-- Whether `Φ(x) ≤ 1/2 + j / 4096`, for `x = n × 2^−190` not negative. -/
def phiLe (n j : Nat) : Bool :=
  let x := n * 2 ^ 66
  decide (phiSeries (x * x / 2 ^ 256) 130 0 x * 4096 ≤ ((sqrt2Pi * j : Nat) : Int))

/-- An FP32 code of [0, 2^32) as a multiple of 2^−190 (below 2^−149 × 2^−41 nothing is lost). -/
def fix190 (c : Nat) : Nat :=
  match dec32 c with
  | .fin _ m e => m * 2 ^ (e + 190).toNat
  | _ => 0

/-- The largest code below `c + 2^k` whose value is at most Φ⁻¹(1/2 + j/4096), found from bit `k − 1` down. -/
def phiSearch (j : Nat) : Nat → Nat → Nat
  | 0, c => c
  | k + 1, c => if phiLe (fix190 (c + 2 ^ k)) j then phiSearch j k (c + 2 ^ k) else phiSearch j k c

/-- `round_ne(Φ⁻¹(1/2 + j/4096))` for `j` from 1 to 2,047, between 2^−11 and 4. -/
def phiInv (j : Nat) : Nat :=
  let base := 0x3A000000
  let c := phiSearch j 27 base
  if phiLe ((fix190 c + fix190 (c + 1)) / 2) j then c + 1 else c

/-- `T[i]` of R294. -/
def gaussTable (i : Nat) : Nat :=
  if i = 0 then 0xC0800000
  else if i ≥ 4096 then 0x40800000
  else if i = 2048 then 0
  else if i < 2048 then negCode32 (phiInv (2048 - i))
  else phiInv (i - 2048)

end Sys2Proof.Machine
end

