-- ==== Sys2Proof/Config.lean ====
section
/-! DEFINITION. What the device's form, its one-time-programmable storage and its board fix, and the values that the
spec leaves free. None of them has a body: nothing can be proved of their values. DESIGN CHOICE, log entries 9 and 10. -/

namespace Sys2Proof.Config

/-- Whether the device is the module OZ3072-M (R1). -/
opaque formM : Bool
/-- Usable park bytes of a controller on the package, as the board sets them (R402). -/
opaque boardPark : Nat → Nat
/-- Silicon revision (R516). -/
opaque silicon : BitVec 16
/-- The firmware version of a running image, which its digest names (R516; DEDUCED, log entry 140). -/
opaque fwVersion : List Byte → BitVec 32
/-- The facility key digests of one-time-programmable storage; none where a slot is not provisioned (R449). -/
opaque otpKey : Nat → Option (BitVec 512)
/-- The SHA-512 digest of the firmware key, where it is provisioned (R517). -/
opaque otpFwKey : Option (BitVec 512)
/-- The firmware public key that ROM holds (R517 gives its digest only). -/
opaque fwPub : BitVec 256
/-- What a facility key digest slot that is not provisioned holds (R521). -/
opaque otpBlank : Nat → BitVec 512
/-- The debug lock of one-time-programmable storage (R516). -/
opaque dbgLock : Bool
/-- Fallback ceiling and ceiling, in W, where they are provisioned (R452, R454). -/
opaque otpFallback : Option Nat
opaque otpCeil : Option Nat
/-- The rollback floor provisioned before the first boot (R517). -/
opaque otpFloor : BitVec 16
/-- The Ed25519 seed of the device identity key, which mc5 derives from a fused secret (R520). -/
opaque identitySeed : BitVec 256
/-- Whether a write of the sequence record in board flash reads back correctly (R449). -/
opaque flashOk : Nat → Bool
/-- What a stale reading of rail 19 or 22 counts for, in mW: R444 rates no share for them (R526). -/
opaque railShare : Nat → Nat
/-- Which of several readers a race report names (R94). -/
opaque freeReader : Nat → Nat
/-- Which free record of the side table a new fold takes (R511). -/
opaque freeFoldSlot : Nat → Nat
/-- The value of a record field whose meaning the record's kind and status do not give (R439). -/
opaque freeField : Nat → Nat
/-- Which free address-space number a graph receives (R380, R412). -/
opaque freeAsn : Nat → Nat
/-- Which walk of a pool of walkers returns next (R386). -/
opaque freeWalk : Nat → Nat
/-- The page that the host's translation agent gives for an untranslated page, between two invalidations (R483). -/
opaque freeAts : Nat → Nat → Nat
/-- A byte of a park image in its range: the layout is the device's own (R463). -/
opaque freeImage : Nat → Byte
/-- What firmware reserves of a park controller for park images: first offset and bytes (R402). -/
opaque parkReserve : Nat → Nat × Nat
/-- Where firmware's reserved range of hub SRAM for page tables begins, in units of 4,096 bytes (R407). -/
opaque tableBase : Nat
/-- Whether a shed performs an access already sent (R465). -/
opaque freeShed : Nat → Bool
/-- Feature bits of compute dies beyond bit 0 are clear (R153); the die in slot d passes its self-test when an
event says so. The mask a die reads is bit 0. -/
def features : BitVec 32 := 1

end Sys2Proof.Config
end

