-- ==== Sys2Proof/Machine/StateCore.lean ====
section
/-! DEFINITION. The state of one core: its four strands, its stream registers, its queues and token links, its
scratchpad, its four engines and its fault handling. Sparse tables hold register arrays; what an unlisted key holds is
said at each field. -/

namespace Sys2Proof.Machine

/-- A stream register (R201). -/
structure Strm where
  base : W64 := 0
  fmt : BitVec 5 := 0
  ext0 : W32 := 0
  ext1 : W32 := 0
  ext2 : W32 := 0
  str0 : W32 := 0
  str1 : W64 := 0
  str2 : W64 := 0
  sgeo : BitVec 2 := 0
  sbase : W64 := 0
  sstr : W64 := 0
  deriving DecidableEq, Repr

/-- A composition register: value and origin (R156, R195). -/
structure WComp where
  val : W64 := 0
  origin : W16 := 0xFFFF
  deriving DecidableEq, Repr

/-- Loop state (R163). -/
structure LoopSt where
  act : Bool := false
  stm : BitVec 3 := 0
  ec : BitVec 3 := 0
  q : Bool := false
  beg : W64 := 0
  fin : W64 := 0
  deriving DecidableEq, Repr

/-- Where an access ends: a scratchpad byte of a physical core, or a physical address of R63. -/
inductive Loc where
  | scr (core off : Nat)
  | named (pa : Nat)
  deriving DecidableEq, Repr

/-- What a memory instruction of the conductor does at the port (R165): a load into a register, a store, a tagged
operation, a tag read, an atomic, a compare-and-swap, a fence, the entry load of jtab, the template load of wtmpl or
emitt, and the taking of a watch. -/
inductive MemOp where
  | load (z : LWidth) (rd : Nat)
  | store (n : Nat) (v : W64)
  | tag (k : TagKind) (rd : Nat) (v : W64)
  | tagrd (rd : Nat)
  | amo (op : AmoOp) (z : ASize) (rd : Nat) (v : W64)
  | cas (z : ASize) (rd : Nat) (cmp new : W64)
  | fence
  | jtab
  | wtmpl (wd idx : Nat)
  | emitt (q idx : Nat)
  | watch (n : Nat) (v : W64)
  deriving DecidableEq, Repr

/-- Permission bits (R62): R 1, W 2, X 4, A 8, T 16. -/
abbrev Perm := BitVec 5

/-- What a memory instruction asks for (R173). -/
structure Req where
  op : MemOp
  va : W64
  len : Nat
  need : Perm
  /-- Whether alignment is checked: template loads skip step 1 (R197). -/
  align : Bool := true
  write : Bool := false
  rel : Bool := false
  acq : Bool := false
  plain : Bool := true
  /-- Matched precisely against the core's own watchpoints (R502). -/
  watched : Bool := false
  /-- An atomic that the host window does not perform (R74). -/
  hostNo : Bool := false
  deriving DecidableEq, Repr

/-- An entry of a micro-TLB, a cluster TLB or the walk caches (R385, R391): a leaf, or the table entry of level `lvl`. -/
structure TlbE where
  asn : Nat
  lvl : Nat
  vpn : Nat
  leaf : W64
  rd : Nat := 0
  wr : Nat := 0
  rem : Nat := 0
  lost : Bool := false
  deriving DecidableEq, Repr

/-- What a waiting strand waits for (R19, R179, R208, R209). -/
inductive Wait where
  /-- Registers of the strand still await their results, or its access is in flight (R164, R165). -/
  | result (rs : List Nat)
  /-- The tag of word `word` of physical core `core`; `limit` is the cycle 1,024 after the wait began (R179); the
  virtual address the instruction used (R498). -/
  | tag (core word limit : Nat) (va : W64)
  /-- A token on the engine-to-conductor link, or room on the conductor-to-engine link, of engine `q`. -/
  | token (q : Nat)
  | room (q : Nat)
  /-- Entries of the queues of a mask (R199). -/
  | entry (qs : BitVec 4)
  /-- A section switch is pending (R44). -/
  | sect
  /-- Every queue and every word must drain: a section switch, or a yield; the strand's own words, for exit. -/
  | drain
  | drainYield
  | drainOwn
  | join (qs : BitVec 4)
  /-- A barrier slot, and its phase when the strand issued bar (R208). -/
  | bar (lvl slot phase : Nat)
  | cyc (t : W64)
  | gtc (t : W64)
  /-- An access of the core issued before must be performed first (R206). -/
  | order
  /-- A page walk for the strand's next C-word (R386). -/
  | walk
  /-- The word at the strand's pc, asked of another device (R187). -/
  | fetch
  deriving DecidableEq, Repr

/-- The run state of a strand (R20, R47). -/
inductive Run where
  | idle
  | ready
  | waiting
  | faulted
  deriving DecidableEq, Repr

/-- An access of a conductor that has been sent and not yet performed (R165): the operation, the C-word, the order
number of its issue, where it goes, its order roles, and its generation stamp (R395). -/
structure Flight where
  op : MemOp
  word : W32
  ord : Nat
  loc : Loc
  va : W64
  len : Nat
  write : Bool
  rel : Bool
  acq : Bool
  plain : Bool
  gen : Bool
  /-- The id of the request sent to another device, for the Volley window. -/
  req : Option Nat := none
  /-- The translation used, whose counters the access advances (R391). -/
  ent : Option TlbE := none
  /-- What is asked for, while a page walk for it is outstanding; `loc` is then what the tables gave at issue (R386). -/
  walk : Option Req := none
  deriving DecidableEq, Repr

/-- A strand (R162, R195). Unlisted registers hold 0; an unlisted `w` register holds 0 with origin 0xFFFF. -/
structure Strand where
  run : Run := .idle
  /-- What the strand waits for, or last waited for with no issue since. -/
  wait : Option Wait := none
  /-- The flag wait not yet ended by an issue, and the cycle at which it began (R499); who ended it, agent and lid (R498). -/
  flag : Option (Wait × Nat) := none
  by_ : Nat × Nat := (0xFF, 0)
  pc : W64 := 0
  x : Tbl W64 := []
  p : BitVec 8 := 0
  lc : W64 := 0
  loop : LoopSt := {}
  w : Tbl WComp := []
  eseq : W32 := 0
  /-- Results of long-latency instructions not yet landed: register, value, cycle (R164). -/
  pend : List (Nat × W64 × Nat) := []
  flight : Option Flight := none
  /-- The next instruction is performed without a watchpoint check of its core (R503). -/
  noWatch : Bool := false
  /-- The barrier slot the strand has issued bar on, and the slot's phase then (R208). -/
  barOn : Option (Nat × Nat × Nat) := none
  /-- Instructions issued in the current block (R20). -/
  block : Nat := 0
  /-- A word that another device answered a fetch with, and its address (R187). -/
  fetched : Option (W64 × W32) := none
  deriving DecidableEq, Repr

/-- A token: the strand and emit sequence number of its word (R35). -/
structure Tok where
  strand : Nat
  eseq : W32
  deriving DecidableEq, Repr

/-- An emitted word with its snapshots and provenance (R28). `snaps` is keyed by stream register number; `seq` is the
core's emission order; `at` the cycle of emission. -/
structure QWord where
  bits : W64 := 0
  strand : Nat := 0
  pc : W64 := 0
  eseq : W32 := 0
  tmpl : W16 := 0xFFFF
  seq : Nat := 0
  at_ : Nat := 0
  snaps : Tbl Strm := []
  /-- A word that faulted after its issue and issues again: its tokens are already taken (R39). -/
  held : Bool := false
  /-- The first piece or position not yet performed, and whether the counted add was applied (R341, R376). -/
  next : Nat := 0
  added : Bool := false
  /-- Watchpoints do not stop this issue: the word was resumed after a precise watchpoint (R503). -/
  noWatch : Bool := false
  /-- A null word that stands for a skipped word leaves `cseq` unchanged (R218). -/
  skipped : Bool := false
  /-- The link entry reserved at the first issue of a held word (R39). -/
  resv : Option Nat := none
  deriving DecidableEq, Repr

/-- An entry of a queue: a word or a marker (R27, R40). -/
inductive QEntry where
  | word (w : QWord)
  | marker (strand seq : Nat)
  deriving DecidableEq, Repr

/-- A word an engine has issued and not completed: the write it still owes, by engine. -/
structure Issued where
  w : QWord
  /-- Cycle of issue. -/
  t : Nat
  /-- Cycle of completion where the engine's rules fix it; none while it is open (R529). -/
  due : Option Nat
  push : Option Nat
  /-- The region table's generation when the word's requests were mapped (R395). -/
  gen : Bool := false
  /-- The word has raised a fault after its issue and waits for a verdict (R39). -/
  faulted : Bool := false
  deriving DecidableEq, Repr

/-- What a vector word still owes its destination (R238): the bits of `msk` take those of `val`. -/
inductive VDest where
  | none
  | reg (vd : Nat) (val msk : BitVec 2048)
  | mask (md : Nat) (val msk : W64)
  | clearVx (msk : BitVec 320)
  deriving DecidableEq, Repr

/-- One access of a vector memory word: the element, its address and length, where it lies, the register bit its
first byte stands at, and the bytes a store writes. -/
structure VAcc where
  el : Nat
  va : W64
  len : Nat
  loc : Loc
  pos : Nat
  data : List Byte
  /-- The translation used (R391). -/
  ent : Option TlbE := none
  deriving DecidableEq, Repr

structure VIssued where
  i : Issued
  dest : VDest
  flags : BitVec 320
  /-- The accesses still to be performed, of a memory word outside the own scratchpad; it holds its queue (R284). -/
  acc : Option (List VAcc)
  /-- The memory word loads. -/
  load : Bool := false
  deriving DecidableEq, Repr

/-- The vector engine (R228): unlisted registers and masks hold 0; `m0` is all ones and is not held. -/
structure Vec where
  v : Tbl (BitVec 2048) := []
  m : Tbl W64 := []
  vx : BitVec 320 := 0
  fly : List VIssued := []
  /-- Registers holding an uncorrectable error until written whole (R261). -/
  bad : List Nat := []
  /-- The cycle at which the class C unit is free again (R239). -/
  cFree : Nat := 0
  deriving DecidableEq, Repr

/-- A generator (R287); unlisted frequencies hold 0. -/
structure Gen where
  seed : W64 := 0
  scope : W32 := 0
  kind : BitVec 3 := 0
  tr : Bool := false
  row0 : W32 := 0
  col0 : W32 := 0
  draw : W32 := 0
  parm : W64 := 0
  f : Tbl W32 := []
  deriving DecidableEq, Repr

/-- A change of one generator, as a generator word makes it when it lands (R304 to R306). -/
inductive GUpd where
  | seedLo (v : W32)
  | seedHi (v : W32)
  | scope (v : W32)
  | kind (k : BitVec 3) (tr : Bool)
  | row (v : W32)
  | col (v : W32)
  | parmLo (v : W32)
  | parmHi (v : W32)
  | draw (v : W32)
  | skip (v : W32)
  | clr
  | freq (f : Tbl W32)
  | image (g : Gen)
  deriving DecidableEq, Repr

/-- A fill word's progress (R310): the generator as read at issue, its stream, the row of gvec, the next position in
stream order and their number. -/
structure Fill where
  g : Gen
  m : Strm
  row : Option (Nat × Nat)
  next : Nat
  count : Nat
  deriving DecidableEq, Repr

/-- A generator word in flight: what it owes its generator, its accesses outside the own scratchpad still to be
performed (it then holds its queue), and a fill word's progress (R310). -/
structure GIssued where
  i : Issued
  upd : Option (Nat × GUpd) := none
  acc : Option (List VAcc) := none
  fill : Option Fill := none
  deriving DecidableEq, Repr

/-- The generator unit (R287). -/
structure GenUnit where
  g : Tbl Gen := []
  fly : List GIssued := []
  bad : List Nat := []
  deriving DecidableEq, Repr

/-- A tile (R318): unlisted elements are 0; keyed by 128 × row + column. -/
structure Tile where
  el : Tbl (BitVec 128) := []
  anch : BitVec 10 := 0
  ovf : BitVec 128 := 0
  st : Bool := false
  te : Bool := true
  bad : BitVec 128 := 0
  deriving DecidableEq, Repr

/-- A bank (R318): unlisted elements are 0, unlisted scales 0x7F; keyed by 128 × row + column, 128 × block + column. -/
structure Bank where
  el : Tbl W16 := []
  fmt : BitVec 5 := 0x1F
  sgeo : BitVec 2 := 0
  sc : Tbl Byte := []
  bad : Bool := false
  deriving DecidableEq, Repr

/-- The tile words of R330. -/
inductive MtOp where
  | zero | anch | ovclr | trap | shift | add | mov
  deriving DecidableEq, Repr

/-- What a matrix word does: its pairs (macro, tile), macros, tiles and flags (R326, R329 to R332). `tr` says that rows
and K positions change places; `grp` is the number of K rows of one check point. -/
inductive MKind where
  | mul (pairs : List (Nat × Nat)) (bank : Nat) (tr : Bool)
  | load (macros : List Nat) (bank grp : Nat)
  | tile (op : MtOp) (td ts : Nat) (imm : BitVec 10)
  | stat (t : Nat)
  | drain (mx : Bool) (t : Nat) (rm : BitVec 3) (z : Bool)
  | save (t : Nat)
  | rest (t : Nat) (acc : Bool)
  deriving DecidableEq, Repr

/-- A matrix word with its snapshot: dimension 2 index, first row, generator drawn from. -/
structure MPlan where
  kind : MKind
  m : Strm := {}
  k2 : Nat := 0
  orow : Nat := 0
  gn : Option Nat := none
  deriving DecidableEq, Repr

/-- A matrix word in flight (R334). -/
structure MIssued where
  i : Issued
  p : MPlan
  /-- The generator as read at issue (R337). -/
  gen : Option Gen := none
  /-- Cycles from one check point to the next. -/
  per : Nat := 1
  /-- Strips, row groups or rows: how many there are, and how many have been read (or, by a drain or save, written). -/
  cps : Nat := 0
  next : Nat := 0
  /-- The locations of its addresses, where one lies outside the own scratchpad. -/
  locs : Option (List (W64 × Loc)) := none
  /-- The translations of its addresses (R391). -/
  ents : List TlbE := []
  /-- The codes read at each check point passed, elements before scales. -/
  buf : List (List Nat) := []
  deriving DecidableEq, Repr

/-- The matrix engine (R318): tiles by number; banks by 2 × macro + bank. -/
structure Mat where
  a : Tbl Tile := []
  b : Tbl Bank := []
  fly : List MIssued := []
  /-- The first cycle in which a word may issue (R335). -/
  free : Nat := 0
  /-- By object (tile t, or 2 + bank), the first cycle in which a landing may follow the last one or the last reader's
  completion (R336). -/
  last : Tbl Nat := []
  deriving DecidableEq, Repr

/-- A code table of the copy engine (R357). -/
structure CodeTab where
  count : Tbl W16 := []
  sym : Tbl Byte := []
  valid : Bool := false
  deriving DecidableEq, Repr

/-- Where the operation stands that a copy word has sent (R366): on its way to the port, in the pending list, or refused
and sent again at a cycle. -/
inductive Sent where
  | way
  | held
  | refused (at_ : Nat)
  deriving DecidableEq, Repr

/-- The copy engine (R344): its code tables, and the word in progress. -/
structure Cpy where
  tab : Tbl CodeTab := []
  run : Option Issued := none
  /-- Pieces performed; elements of them; operations of the piece in progress performed one by one. -/
  next : Nat := 0
  elem : Nat := 0
  part : Nat := 0
  /-- The checks of the piece in progress have passed. -/
  begun : Bool := false
  /-- The values that the piece in progress has read: by element, by access; its elements and bytes. -/
  vals : List (List Nat) := []
  len : Nat := 0
  bytes : Nat := 0
  /-- What the operation in progress returned. -/
  got : Option W64 := none
  /-- The tagged elements lie in the own scratchpad (R366). -/
  own : Bool := false
  sent : Option Sent := none
  /-- Where the operation sent goes, and the translation that it used (R389). -/
  to_ : Option Loc := none
  ent : Option TlbE := none
  /-- The cycle at which a pending list first held the operation in progress (R498, R499). -/
  since : Option Nat := none
  /-- The lids of the cores whose operations on the same word a freezing port held before this one's: those arrive first
  (R346). -/
  behind : List Nat := []
  /-- The counted slot, and the bytes of the counted add not yet subtracted (R370). -/
  slot : Option (Nat × Nat) := none
  left : Nat := 0
  /-- `cseq.x` at issue (R372). -/
  seqAt : W64 := 0
  /-- n, total and the offsets of xdec's object, once read (R362). -/
  head : List Nat := []
  /-- The decoded bytes of xdec's chunk in use, and its place among the word's chunks (R362). -/
  chunk : Option (Nat × List Byte) := none
  deriving DecidableEq, Repr

/-- One of the four engines' queues (R27, R43, R199). -/
structure Eng where
  q : List QEntry := []
  /-- Stopped by a word fault (R48). -/
  stop : Bool := false
  /-- Cycle of the core in which the previous word issued (R42); none before the first issue of a launch. -/
  prev : Option Int := none
  /-- In a timed section, the cycle from which the next IDLE counts instead: the stamp, or the end of a hold, with no word
  issued since (R43, R219). A stamp may lie before the core's count began. -/
  base : Option Int := none
  /-- Strands waiting for an entry, in the order in which they began to wait (R199). -/
  waiters : List Nat := []
  /-- Words completed since launch (R215). -/
  cseq : W64 := 0
  /-- The wait of the word at the head: kind of R498, object, the cycle at which it began. -/
  wait : Option (Nat × W64 × Nat) := none
  /-- The cycle in which the word at the head first claimed the value pipeline (R312). -/
  claim : Option Nat := none
  deriving DecidableEq, Repr

/-- A trap record (R52). -/
structure Trap where
  gtc : W64
  task : W32
  seq : W32
  lid : W16
  strand : Byte
  level : Byte
  code : W16
  engine : Byte
  pc : W64
  position : W64
  eseq : W32
  tmpl : W16
  addr : W64
  detail : W64
  deriving DecidableEq, Repr

/-- A record that waits for the fault strand, with the word that faulted: the C-word, or the E-word. -/
structure Pending where
  trap : Trap
  word : W64
  /-- Pieces performed and in all, of a copy word (R347). -/
  prog : W64
  /-- The word had issued before it faulted (R39). -/
  issued : Bool
  deriving DecidableEq, Repr

/-- A verdict given and not yet in effect (R219): the record, fret's code, flt.word and flt.pc. -/
structure Verdict where
  p : Pending
  code : BitVec 2
  word : W64
  pc : W64
  deriving DecidableEq, Repr

/-- A race record of a scratchpad line (R92). `others` names the further readers behind `rm`, from which R94 lets the
device choose. -/
structure RaceRec where
  wv : Bool := false
  wlid : Nat := 0
  rv : Bool := false
  rlid : Nat := 0
  rm : Bool := false
  others : List Nat := []
  deriving DecidableEq, Repr

/-- A tagged operation held in a bank port's pending list (R67): who sent it, the word, the operation. A copy engine's
carries the address that it used. -/
inductive Sender where
  | copy (core : Nat) (va : W64)
  | volley (src seq : Nat)
  deriving DecidableEq, Repr

structure Held where
  sender : Sender
  word : Nat
  kind : TagKind
  val : W64
  deriving DecidableEq, Repr

/-- A barrier slot (R75). -/
structure Slot where
  arrived : W16 := 0
  pending : W64 := 0
  phase : BitVec 12 := 0
  /-- The last member to arrive: agent and lid (R498). -/
  last : Nat × Nat := (0xFF, 0)
  deriving DecidableEq, Repr

/-- Whether a core runs a task (R212, R47, R434). -/
inductive CoreRun where
  | off
  | on
  /-- No strand is live, or the core stopped issuing after a fault (R47); the drain of R41 may still go on. -/
  | finished
  | ending
  | yielded
  /-- Frozen by a park, or stopped by the Proctor. -/
  | frozen
  deriving DecidableEq, Repr

/-- A core. -/
structure Core where
  run : CoreRun := .off
  /-- What the core was doing when it was frozen. -/
  was : CoreRun := .off
  /-- What its own count of cycles is above `sched.cyc` of its cluster: changed at a resume (R45). -/
  off : Int := 0
  task : Nat := 0
  lid : Nat := 0
  ncores : Nat := 0
  opIndex : Nat := 0
  /-- dom.* by level (R25). -/
  dom : Tbl W64 := []
  strands : Tbl Strand := []
  /-- The strand whose block runs (R20). -/
  cs : Nat := 0
  /-- A wait has ended the block of that strand (R20). -/
  ended : Bool := false
  /-- The next cycle in which the conductor may issue (R19). -/
  slotAt : Nat := 0
  sreg : Tbl Strm := []
  eng : Tbl Eng := []
  /-- Token links: engine to engine 5 × from + to, conductor to engine 20 + q, engine to conductor 25 + q. -/
  links : Tbl (List Tok) := []
  resv : Tbl Nat := []
  timed : Bool := false
  /-- Strands whose switch instruction is pending, in issue order (R44, R213). -/
  switching : List Nat := []
  bars : Tbl Slot := []
  /-- The phase in which the core last arrived, by 8 × level + slot (R208). -/
  arrivals : Tbl Nat := []
  /-- Word-fault hold (R48). -/
  hold : Bool := false
  /-- The cycle at which the hold began (R499): the core stops issuing in the cycle after it. -/
  holdAt : Nat := 0
  /-- The cycle of the fault that ended the core's issuing, where no fault strand handles it (R47). -/
  endAt : Nat := 0
  /-- The engine that completed a word last (R498). -/
  lastDone : Nat := 0
  /-- The record the fault strand handles; records waiting; verdicts given. -/
  handling : Option Pending := none
  pendRecs : List Pending := []
  verdicts : List Verdict := []
  recSeq : W32 := 0
  /-- The records of the present cycle, in the order of R50, which its end hands over. -/
  newRecs : List Trap := []
  /-- Records the hub's trap buffer has no room for (R478). -/
  outRecs : List Trap := []
  fltWord : W64 := 0
  fltPc : W64 := 0
  yldSaved : Bool := false
  /-- Emission and access order of the core (R81). -/
  ord : Nat := 0
  relCount : W64 := 0
  scr : List Host.Cell := []
  /-- Words of the scratchpad whose tag is full, rising. -/
  full : Tbl Unit := []
  race : Tbl RaceRec := []
  /-- Scratchpad lines holding an uncorrectable error (R12). -/
  bad : Tbl Unit := []
  held : List Held := []
  /-- Who last changed the tag of a word of the scratchpad, and the strand that last popped a token (R498). -/
  tagBy : Tbl (Nat × Nat) := []
  popBy : Nat := 0
  /-- Agents whose present wait has been reported open; 8 is the copy engine's held operation (R499). -/
  opened : List Nat := []
  utlb : List TlbE := []
  /-- Acknowledgements of requests to other devices that a word of a queue has sent: queue, address, error, value. -/
  acks : List (Nat × Nat × BitVec 2 × W64) := []
  vec : Vec := {}
  gen : GenUnit := {}
  mat : Mat := {}
  cpy : Cpy := {}
  /-- Watchpoints wp.adr, wp.ctl, wp.stat (R500). -/
  wpAdr : Tbl W64 := []
  wpCtl : Tbl W64 := []
  wpStat : W64 := 0
  /-- Watched locations of armed watchpoints (R501). -/
  wpLoc : Tbl Loc := []
  deriving DecidableEq, Repr

end Sys2Proof.Machine
end

