-- ==== Sys2Proof/Machine/StateHub.lean ====
section
/-! DEFINITION. The state of the hub: the memory manager, the Referee with its images, graphs, nodes and tasks, the
Bursar, the host link, the Volley ports, the Proctor and the management block. -/

namespace Sys2Proof.Machine

/-! ### Memory manager (R388, R393 to R401) -/

/-- A page walk that a cluster has requested (R386). Who waits for it: (core, strand), or (core, 4 + queue). -/
structure WalkReq where
  cluster : Nat
  asn : Nat
  root : W64
  va : W64
  waiters : List (Nat × Nat)
  deriving DecidableEq, Repr

/-- The memory manager; unlisted region-table entries are 0. -/
structure Mm where
  act : Tbl (BitVec 256) := []
  shd : Tbl (BitVec 256) := []
  busy : Bool := false
  /-- The command in progress is a copy (R396). -/
  copying : Bool := false
  gen : Bool := false
  rej : Bool := false
  inval : Bool := false
  idx : BitVec 6 := 0
  why : BitVec 4 := 0
  mode : Nat := 1
  next : Nat := 1
  inv : W64 := 0
  inva : W64 := 0
  invn : W64 := 0
  invBusy : Bool := false
  invErr : Bool := false
  /-- The range of the shootdown in progress: first address and units of 64 KiB (R388). -/
  invAt : Nat × Nat := (0, 0)
  /-- Retired pseudo-channels, by 512 × stack + channel. -/
  ret : Tbl Unit := []
  /-- Stacks in self-refresh. -/
  sr : BitVec 8 := 0
  /-- Walk requests that no walker has taken, in arrival order; walks in progress, oldest first (R386). -/
  walks : List WalkReq := []
  walking : List WalkReq := []
  /-- Misses that their cluster's 64 outstanding requests leave no room for. -/
  late : List (Nat × Nat) := []
  /-- The cluster whose request each pool of walkers took last. -/
  served : Tbl Nat := []
  /-- The hub's walk caches: table entries of levels 1 to 4 (R385). -/
  wc : List TlbE := []
  deriving DecidableEq, Repr

/-! ### Images (R157 to R161) -/

/-- An operating-point entry (R160). -/
structure OpEntry where
  vstep : Nat
  fmt : Nat
  clusters : Nat
  watts : Nat
  micros : Nat
  deriving DecidableEq, Repr

/-- A footprint entry (R160). -/
structure FootEntry where
  kind : Nat
  slot : Nat
  size : Nat
  off : Int
  deriving DecidableEq, Repr

/-- A kernel descriptor with its tables (R159, R160). -/
structure Kernel where
  entry : Nat := 0
  poolBase : Nat := 0
  poolCount : Nat := 0
  queues : List Nat := []
  feature : W32 := 0
  onfault : Option Nat := none
  ops : List OpEntry := []
  discs : List (Nat × Nat) := []
  foots : List FootEntry := []
  deriving DecidableEq, Repr

/-- A loaded image: where its bytes stand, where it is mapped, and what the loader read from it. -/
structure Image where
  addr : Nat := 0
  size : Nat := 0
  vbase : W64 := 0
  codeOff : Nat := 0
  codeSize : Nat := 0
  poolOff : Nat := 0
  poolN : Nat := 0
  dataOff : Nat := 0
  dataSize : Nat := 0
  kernels : List Kernel := []
  deriving DecidableEq, Repr

/-! ### Graphs, nodes and tasks (R408 to R442) -/

/-- A node record as submitted (R409, R410, R433). -/
structure NodeRec where
  kernel : Nat := 0
  prio : Nat := 0
  eclass : Nat := 0
  nflags : W16 := 0
  opmask : Byte := 0
  pred : W64 := 0
  args : W64 := 0
  deadline : W64 := 0
  pro : W64 := 0
  ext0 : W64 := 0
  ext1 : W64 := 0
  ext2 : W64 := 0
  gran : W64 := 0
  fgroup : Nat := 0
  fdev : Nat := 0
  fidx : Nat := 0
  lbase : Nat := 0
  ntot : Nat := 0
  /-- Device ids of fmap. -/
  fmap : List Nat := []
  deriving DecidableEq, Repr

/-- The states of R415. -/
inductive NodeSt where
  | waiting | prologue | ready | running | parked | yielded | done
  deriving DecidableEq, Repr

/-- A node of a graph in flight. -/
structure Node where
  r : NodeRec := {}
  /-- Read and write footprints: first and last byte (R413). -/
  reads : List (Nat × Nat) := []
  writes : List (Nat × Nat) := []
  /-- Every predecessor, by index (R413). -/
  preds : W64 := 0
  st : NodeSt := .waiting
  status : Nat := 0
  /-- GTC at which the node became ready, for aging; the ready time of its launch. -/
  readyAt : Nat := 0
  /-- Launch values taken at the prologue's verdict, or the record's (R419). -/
  args : W64 := 0
  e0 : W64 := 0
  e1 : W64 := 0
  e2 : W64 := 0
  g0 : W64 := 0
  repIndex : Nat := 0
  repCount : Nat := 1
  /-- Task id of the current launch or prologue run. -/
  task : Nat := 0
  /-- The prologue conductor that runs it. -/
  pro : Option Nat := none
  restarted : Bool := false
  /-- The entry a restart keeps (R442), and whether it restarts from a park image that the task of this id holds. -/
  entry : Option Nat := none
  image : Option Nat := none
  deriving DecidableEq, Repr

/-- A graph in flight (R408). -/
structure Graph where
  queue : Nat := 0
  order : Nat := 0
  tag : W64 := 0
  part : Nat := 0
  gflags : W16 := 0
  image : Nat := 0
  root : W64 := 0
  asn : Nat := 0
  nodes : List Node := []
  err : Bool := false
  /-- The graph record has been written, or was not asked for (R441). -/
  ended : Bool := false
  /-- Entries mc2 wrote to map the image: addresses of leaves and table entries (R407). -/
  mapped : List Nat := []
  /-- No longer in flight: ended, every persistent node done, and unmapped (R407, R441). -/
  closed : Bool := false
  /-- Tables mc2 took from its reserved range for the mapping (R407). -/
  tables : List Nat := []
  deriving DecidableEq, Repr

/-- Where a task stands (R415). -/
inductive TaskSt where
  | dispatched | running | freezing | saving | parked | yielded | restoring | halting | ended
  deriving DecidableEq, Repr

/-- A launch of a node, or a prologue run. -/
structure Task where
  st : TaskSt := .dispatched
  graph : Nat := 0
  node : Nat := 0
  asn : Nat := 0
  root : W64 := 0
  image : Nat := 0
  kernel : Kernel := {}
  /-- Virtual addresses of the code and the pool of the kernel's image. -/
  codeVa : W64 := 0
  poolVa : W64 := 0
  entry : Nat := 0
  watts : Nat := 0
  vstep : Nat := 0
  /-- Physical clusters, in the order of lids; empty while the task holds none. -/
  clusters : List Nat := []
  nclus : Nat := 0
  lbase : Nat := 0
  n : Nat := 0
  det : Bool := false
  detfault : Bool := false
  norestart : Bool := false
  persist : Bool := false
  yieldable : Bool := false
  fabric : Bool := false
  /-- Partition, device and fabric slots, by 8 × level + slot; cluster slots by 64 + 8 × cluster position + slot. -/
  slots : Tbl Slot := []
  raceStat : W64 := 0
  raceAddr : W64 := 0
  raceLids : W64 := 0
  repIndex : Nat := 0
  repCount : Nat := 1
  deadline : W64 := 0
  yldReq : Bool := false
  /-- Status and detail with which the task ends, once decided. -/
  ending : Option (Nat × Option W64) := none
  late : Bool := false
  overdraw : Bool := false
  restarted : Bool := false
  wasParked : Bool := false
  /-- Parked for a feature its die lacks: the Referee itself resumes it (R55). -/
  repark : Bool := false
  wasYielded : Bool := false
  start : Nat := 0
  traps : Nat := 0
  /-- The park image: its cores by lid, physical core numbers in them counted from the first lid (R221, R463), and the
  task's slots at the park. -/
  saved : Tbl Core := []
  savedSlots : Tbl Slot := []
  /-- What a yield keeps: its cores by lid (R222). -/
  ylds : Tbl Core := []
  /-- Stopped by the Proctor (R507). -/
  stopped : Bool := false
  /-- The range of park memory that its images take: address and bytes (R402, R427). -/
  range : Option (Nat × Nat) := none
  /-- `saved` holds an image of a park, from which a restart resumes (R442). -/
  imaged : Bool := false
  deriving DecidableEq, Repr

/-- The Referee (R403, R412, R443). -/
structure Ref where
  images : Tbl Image := []
  graphs : Tbl Graph := []
  nextGraph : Nat := 1
  tasks : Tbl Task := []
  nextTask : Nat := 1
  age : Nat := 10000
  /-- The order number of the next graph of each queue (R423). -/
  orders : Tbl Nat := []
  /-- Which prologue conductors run which (graph, node) (R417). -/
  pros : Tbl (Nat × Nat) := []
  /-- GTC of the last aging evaluation, and the `ref.age` in force then (R425). -/
  agedAt : Nat := 0
  agedWith : Nat := 10000
  /-- The selection of this hub cycle evaluates (R416, R425). -/
  again : Bool := false
  /-- Verdicts of prologues that have exited, and cancel packets, that the next hub cycle takes: conductor; queue, graph tag
  and node (R416). -/
  said : List Nat := []
  cancels : List (Nat × W64 × Nat) := []
  /-- Hub cycles since reset, which prologues count (R417). -/
  cyc : Nat := 0
  deriving DecidableEq, Repr

/-- A cluster of the device: its clock, its counter and its cluster TLB (R45, R385). -/
structure Cluster where
  cyc : Nat := 0
  vstep : Nat := 0
  /-- The vstep being moved to; the clock stands still (R45). -/
  moving : Option Nat := none
  /-- GTC at which the transition began. -/
  moveAt : Nat := 0
  /-- Phase of the core clock against the hub clock, in units of 10 kHz × ns. -/
  acc : Nat := 0
  task : Nat := 0
  tlb : List TlbE := []
  deriving DecidableEq, Repr

/-! ### Bursar (R444 to R471) -/

/-- A segment of a curve record (R447). -/
structure Seg where
  start : Nat
  watts : Nat
  ramp : Nat
  hint : Nat
  deriving DecidableEq, Repr

/-- A curve (R447, R451). -/
structure Curve where
  seq : W64
  vfrom : Nat
  vto : Nat
  segs : List Seg
  deriving DecidableEq, Repr

/-- The state of a compute die (R468). -/
inductive DieSt where
  | powered
  /-- Free since a GTC value; `shed` says a shed victim left it. -/
  | free (at_ : Nat) (shed : Bool)
  | gated (at_ : Nat)
  | ungating (at_ : Nat)
  | failed
  deriving DecidableEq, Repr

/-- A grade in progress (R457 to R460): its victims and those not yet at their end state. -/
structure GradeRec where
  grade : Nat
  at_ : Nat
  victims : List Nat
  left : List Nat
  /-- The dies whose gating belongs to the grade. -/
  dies : List Nat
  deriving DecidableEq, Repr

/-- The Bursar. Sample lists stand newest first; a die not listed has been free since 0. -/
structure Bur where
  /-- Package power of the last 100 samples, and the power not drawn by clusters of the last 10, in mW (R446). -/
  p : List Nat := []
  u : List Nat := []
  budget : Int := 0
  /-- GTC of the last sample. -/
  sampledAt : Nat := 0
  active : Option Curve := none
  pendingC : Option Curve := none
  /-- GTC at which a curve last began or expired; none since reset. The curve in force before that, and the GTC of the change
  before (R456). -/
  changed : Option Nat := none
  before : Option Curve × Option Nat := (none, none)
  deciding : Option W64 := none
  last : BitVec 3 := 0
  ovr : Bool := false
  seq : W64 := 0
  seqlo : W64 := 0
  lock : Bool := false
  lo : Bool := false
  hi : Bool := false
  bandBad : Bool := false
  grades : List GradeRec := []
  /-- GTC at which a grade or release last was in progress. -/
  gradeAt : Option Nat := none
  /-- Parked tasks, in the order in which they were taken as victims; tasks released, in release order. -/
  parkedQ : List Nat := []
  releasing : List Nat := []
  /-- GTC at which a slowed cluster last rose one vstep (R459). -/
  risen : Tbl Nat := []
  dies : Tbl DieSt := []
  failures : Tbl Nat := []
  lastGate : Option Nat := none
  /-- Dies that a park gated, and that are gated still (R468). -/
  parkDies : List Nat := []
  /-- Overdraws of the Referee to report: task and GTC (R428, R470). -/
  overs : List (Nat × Nat) := []
  /-- Dies that a release or a dispatch needs, with the task released, or 0. -/
  wanted : List (Nat × Nat) := []
  evbase : W64 := 0
  evsize : W64 := 0
  evhead : W16 := 0
  evtail : W16 := 0
  evlost : Bool := false
  evseq : W64 := 0
  curW : Nat := 0
  tgtW : Nat := 0
  deriving DecidableEq, Repr

/-! ### Host link (R472 to R483) -/

/-- A submission queue (R475 to R477). -/
structure Sq where
  base : W64 := 0
  cfg : W64 := 0
  head : W32 := 0
  torn : Bool := false
  stopped : Bool := false
  /-- Re-reads made of the packet at head; one will be due, one is due (R101). -/
  rereads : Nat := 0
  rereadDue : Bool := false
  reread : Bool := false
  /-- Reads that doorbells, polls and a torn packet's clearing have asked for and that are not yet made (R476). -/
  owed : Nat := 0
  /-- GTC of the last read. -/
  readAt : Nat := 0
  /-- GTC of the last poll. -/
  polled : Nat := 0
  deriving DecidableEq, Repr

/-- A record ring (R478 to R480): `wait` holds records not yet written, oldest first. -/
structure Ring where
  base : W64 := 0
  cfg : W64 := 0
  head : W32 := 0
  tail : W32 := 0
  wait : List (List Byte) := []
  /-- GTC of the last message, and whether one is held back (R480). -/
  sentAt : Nat := 0
  heldMsg : Bool := false
  deriving DecidableEq, Repr

/-- The host link. -/
structure HostLink where
  sq : Tbl Sq := []
  cq : Tbl Ring := []
  tr : Ring := {}
  /-- Records of cores that were turned off while the buffer of 4,096 was full, which it takes next (R478). -/
  owed : List (List Byte) := []
  hwbase : W64 := 0
  hwsize : W64 := 0
  apbase : W64 := 0
  apfail : Bool := false
  atom : Bool := false
  pri : Bool := false
  ats : Bool := false
  compatEn : Bool := false
  compatFail : Bool := false
  tags : Tbl Trap := []
  /-- ATS translations held: untranslated page, page; the invalidations so far (R483). Page requests sent: tag and page
  address. -/
  atc : Tbl Nat := []
  atsGen : Nat := 0
  pageReqs : List (Nat × W64) := []
  /-- Messages sent, newest first: MSI-X vectors (R480). -/
  msgs : List Nat := []
  /-- The MSI-X table and pending bits (R515). -/
  msix : Tbl W64 := []
  /-- Host memory by bus address (R474, R475). -/
  mem : List Host.Cell := []
  /-- Data returned by the last BAR read, or Unsupported Request; bytes of other devices arrive with their answers. -/
  rdata : List Byte := []
  unsupported : Bool := false
  /-- The host's outstanding page-request allocation (R482). -/
  alloc : Nat := 0
  /-- The queue that the fetcher served last (R403). -/
  served : Nat := 63
  deriving DecidableEq, Repr

/-! ### Volley (R484 to R495) -/

/-- What the device puts on the fabric. -/
inductive VolMsg where
  /-- A request, with its class (R484). -/
  | req (id dev off : Nat) (op : RemoteOp) (cls : Nat)
  /-- An answer, in the class of its request. -/
  | ack (dev seq : Nat) (err : BitVec 2) (value : W64) (cls : Nat)
  | arrive (dev fgroup slot : Nat)
  | abort (dev fgroup fidx : Nat)
  | discipline (port : Nat) (gtc : W64)
  /-- The two-way exchange by which a receiver measures the link delay (R491). -/
  | delay (port : Nat) (gtc : W64)
  /-- A tagged operation that a full pending list refuses (R67). -/
  | refuse (dev seq : Nat)
  /-- A tagged operation that its sender has withdrawn from a pending list (R345). -/
  | withdrawn (dev seq : Nat)
  deriving DecidableEq, Repr

/-- Who waits for a remote request: a strand, or the word of a queue that holds it, by the address used. -/
inductive Origin where
  | strand (core k : Nat)
  | engine (core q va : Nat)
  /-- A strand whose next C-word lies on another device (R187). -/
  | fetch (core k : Nat)
  /-- The host, through BAR4 (R473): the place and length of bytes to be read; none for a write. -/
  | host (read : Option (Nat × Nat))
  deriving DecidableEq, Repr

structure VolReq where
  id : Nat
  dev : Nat
  off : Nat
  op : RemoteOp
  origin : Origin
  /-- Its class (R484). -/
  cls : Nat
  /-- The region table's generation when the request was mapped (R395). -/
  gen : Bool := false
  /-- The translation used by a copy word or a fetch (R389); a flight and a word in flight hold their own. -/
  ent : Option TlbE := none
  deriving DecidableEq, Repr

structure Vol where
  id : BitVec 14 := 0x3FFF
  tmaster : Bool := false
  pps : Bool := false
  lock : Bool := false
  up : W16 := 0
  synced : Bool := false
  ppsSeen : Bool := false
  ppsoff : W32 := 0
  rtbase : W64 := 0
  tmo : Nat := 1000
  exp : Tbl (BitVec 256) := []
  /-- The duplicate filter: source, sequence, the recorded answer (R486). -/
  seen : List (Nat × Nat × VolMsg) := []
  fly : List VolReq := []
  nextId : Nat := 0
  out : List VolMsg := []
  /-- GTC of the last discipline message and of the last edge; ticks still to add or omit; GTC of the last slew. -/
  discAt : Nat := 0
  /-- The silence since then has been reported (R491). -/
  late : Bool := false
  edgeAt : Nat := 0
  slew : Int := 0
  slewAt : Nat := 0
  /-- GTC from which each port has been down (R493). -/
  downAt : Tbl Nat := []
  /-- Fabric arrivals held for a part not yet running: fgroup, slot (R433). -/
  held : List (Nat × Nat) := []
  /-- Requests held for a parked task: task, lid, request, its offset that in the scratchpad (R467, R487), and the lids whose
  operations on the same word come first (R346). -/
  parkedReqs : List (Nat × Nat × RemoteReq × List Nat) := []
  deriving DecidableEq, Repr

/-! ### Proctor (R496 to R512) -/

/-- A watch in a port's table (R501): its owner and number, and where it watches. -/
structure Watch where
  core : Nat
  n : Nat
  loc : Loc
  mask : W16
  stop : Bool
  deriving DecidableEq, Repr

/-- A fold the hub has not accepted (R392). -/
structure Fold where
  asn : Nat
  size : Nat
  page : W64
  rd : Nat
  wr : Nat
  rem : Nat
  lost : Bool
  deriving DecidableEq, Repr

structure Pro where
  ctl : BitVec 4 := 0
  base : W64 := 0
  size : Nat := 0
  head : W32 := 0
  tail : W32 := 0
  thr : W32 := 1024
  open_ : W32 := 16777216
  lost : Bool := false
  stfull : Bool := false
  stbusy : Bool := false
  stbase : W64 := 0
  stsize : Nat := 0
  stopcyc : W64 := 0
  stopped : Bool := false
  armed : Bool := false
  late : Bool := false
  err : Bool := false
  derr : Bool := false
  task : Nat := 0
  lid : Nat := 0
  dsel : W64 := 0
  ddat : W64 := 0
  watches : List Watch := []
  folds : List Fold := []
  /-- A stop match whose freeze is due: the writer's task and lid (R505). -/
  freeze : Option (Nat × Nat) := none
  deriving DecidableEq, Repr

/-! ### Management block (R513 to R527) -/

/-- A rail reading (R526). -/
structure Rail where
  mw : Nat := 0
  mv : Nat := 0
  at_ : Nat := 0
  /-- Its age has been reported (R526). -/
  stale : Bool := false
  deriving DecidableEq, Repr

structure Mg where
  act : Bool := false
  /-- The digest field of the running image: what runs is what was loaded (R516). -/
  img : List Byte := []
  trial : Bool := false
  next : Bool := false
  bad : BitVec 2 := 0
  recovery : Bool := false
  /-- GTC at which the trial began. -/
  trialAt : Nat := 0
  pass : W16 := 0
  busy : W16 := 0
  /-- GTC at which the reset of each die began (R524). -/
  dieAt : Tbl Nat := []
  err : Bool := false
  cause : BitVec 3 := 0
  tempDie : W16 := 0
  tempHub : W16 := 0
  rails : Tbl Rail := []
  /-- The rollback floor in OTP (R517, R518). -/
  floor : W16 := 0
  att : Option W64 := none
  attDone : Bool := false
  attErr : Bool := false
  /-- Mailboxes of mc0 to mc7: sender and message (R514). -/
  mbox : Tbl (List (Nat × List Byte)) := []
  /-- Board flash: the two slots (slot s from s × 64 MiB), and the sequence record from 128 MiB (R450, R517). -/
  flash : List Host.Cell := []
  /-- Management datagrams sent: destination and payload; the source of the last accepted curve (R522). -/
  sent : List (Nat × List Byte) := []
  curveSrc : Option Nat := none
  /-- The curve record in decision came in a datagram: its source and its bytes. -/
  cinSrc : Option (Nat × List Byte) := none
  deriving DecidableEq, Repr

end Sys2Proof.Machine
end

