-- ==== Sys2Proof/Machine/State.lean ====
section
/-! DEFINITION. The state of the whole device, the reasons a step can stop, and the state after reset. -/

namespace Sys2Proof.Machine

/-- Why a step stops with a fault. The machine's own faults (trap records, word-fault holds) are next states. -/
inductive Fault where
  /-- Raised by `step`, when the agenda names a core, a queue or a cluster the device does not have. Safe: the
  agenda is an input of the model, and hardware has no such turn. -/
  | noSuchAgent
  deriving DecidableEq, Repr

/-- Why a step has no meaning. -/
inductive Refusal where
  /-- Raised by the dispatcher for an instruction not yet modelled. Safe: nothing is proved of it. -/
  | notModelled (mnemonic : String)
  deriving DecidableEq, Repr

/-- One turn of the device (the model's own: which agent acts next; DESIGN CHOICE, log entry 1). -/
inductive Turn where
  /-- The clock edge of a cluster, or of the hub. -/
  | tick (cluster : Nat)
  | hubTick
  /-- The conductor of a core issues; `defer` leaves an access outside the own scratchpad in flight (R529). -/
  | issue (core : Nat) (defer : Bool)
  /-- An engine of a core tries its queue. -/
  | engine (core : Nat) (q : Queue)
  /-- The same, or an event, leaving the misses of its accesses to the hub's walkers (R386). -/
  | engineLate (core : Nat) (q : Queue)
  | eventLate (core : Nat) (i : Instr)
  /-- The host writes its own memory; the sensors deliver the hottest junctions of the dies and of the hub. -/
  | hostMem (addr : Nat) (bytes : List Byte)
  | temps (die hub : W16)
  /-- Firmware steps GTC at boot (R492); it writes a slot's flash (R519). -/
  | gtcStep (gtc : Nat)
  | flashWrite (slot : Bool) (off : Nat) (bytes : List Byte)
  /-- An event with a core in whose context it happens. -/
  | event (core : Nat) (i : Instr)
  deriving DecidableEq, Repr

/-- A sampled line's record (R96): task, first lid, whether it wrote, the bytes it touched, its release count. -/
structure SampRec where
  task : Nat
  lid : Nat
  wrote : Bool
  bytes : W64
  rel : W64
  deriving DecidableEq, Repr

/-- The device. -/
structure State where
  /-- The core in whose context the current instruction or event acts: 96 × cluster + position, or 3072 + i for
  prologue conductor i. -/
  cur : Nat := 0
  /-- Whether the current issue leaves its access in flight. -/
  defer : Bool := false
  cores : Tbl Core := []
  clusters : Tbl Cluster := []
  /-- Named memory, by physical address (R63); an unlisted byte reads 0 (DESIGN CHOICE, log entry 3). -/
  mem : List Host.Cell := []
  /-- Lines of named memory holding an uncorrectable error, by line number (R12). -/
  bad : Tbl Unit := []
  /-- The race samples of the memory targets, by line number (R96); `none` for a sampled line no access has met. -/
  samp : Tbl (Option SampRec) := []
  gtc : Nat := 0
  mm : Mm := {}
  ref : Ref := {}
  bur : Bur := {}
  host : HostLink := {}
  vol : Vol := {}
  pro : Pro := {}
  mg : Mg := {}
  /-- Which agents act next; empty: the default schedule. -/
  agenda : List Turn := []
  /-- The model's own counter of free values taken (DESIGN CHOICE, log entry 9). -/
  fresh : Nat := 0
  deriving DecidableEq, Repr

/-- The machine after a power-on reset: every field at the value its structure states. No task runs, no core is on,
and nothing is in memory; the clusters are powered and free. Where the spec gives no value the field's own is a DESIGN
CHOICE, log entries 4 to 7. -/
def State.reset : State := {}

end Sys2Proof.Machine
end

