-- ==== Sys2Proof/Machine/Mem.lean ====
section
/-! DEFINITION. Named memory and scratchpads byte by byte: the region table (R393, R394), what a physical address
backs (R63, R64), reading and writing at a location, uncorrectable lines (R12). -/

namespace Sys2Proof.Machine

/-! ### Cores, clusters and tasks by number -/

def getCore (s : State) (c : Nat) : Core := tget {} s.cores c
def setCore (s : State) (c : Nat) (k : Core) : State := { s with cores := tset s.cores c k }
def getCluster (s : State) (k : Nat) : Cluster := tget {} s.clusters k
def setCluster (s : State) (k : Nat) (c : Cluster) : State := { s with clusters := tset s.clusters k c }
def getTask (s : State) (t : Nat) : Task := tget {} s.ref.tasks t
def setTask (s : State) (t : Nat) (v : Task) : State := { s with ref := { s.ref with tasks := tset s.ref.tasks t v } }

/-- Cores 0 to 3071 are those of the clusters; 3072 to 3075 stand for the prologue conductors (R417). -/
def isPrologue (c : Nat) : Bool := decide (3072 ≤ c)
def clusterOf (c : Nat) : Nat := c / 96

/-- `sched.cyc` of a core's cluster. -/
def schedCyc (s : State) (c : Nat) : Nat := (getCluster s (clusterOf c)).cyc

/-- The cycle count that a core's conductor and engines run by: `sched.cyc`, shifted so that a park does not show (R45),
or hub cycles for a prologue (R417). -/
def cycOf (s : State) (c : Nat) : Nat :=
  if isPrologue c then s.ref.cyc else ((schedCyc s c : Int) + (getCore s c).off).toNat

/-- Answer a request of another device; the answer is recorded for a request that arrives again (R485, R486). -/
def answerReq (s : State) (src seq : Nat) (m : VolMsg) : State :=
  { s with vol := { s.vol with seen := (src, seq, m) :: s.vol.seen, out := s.vol.out ++ [m] } }

/-- The class of a message (R484): an answer has that of its request, and only tagged operations are refused or withdrawn. That
a group's abort belongs to class 0 is a reading (DEDUCED, log entry 135). -/
def VolMsg.cls : VolMsg → Nat
  | .req _ _ _ _ c | .ack _ _ _ _ c => c
  | .arrive _ _ _ | .abort _ _ _ | .discipline _ _ | .delay _ _ | .refuse _ _ | .withdrawn _ _ => 0

/-- The core whose strand or engine waits for a remote request; the host is no core. -/
def Origin.core : Origin → Nat
  | .strand c _ | .engine c _ _ | .fetch c _ => c
  | .host _ => 4096

/-- The physical core of a lid of a task (R17): none while the task holds no clusters or the lid is not its own. -/
def coreOfLid (t : Task) (lid : Nat) : Option Nat :=
  if lid < t.lbase then none
  else match t.clusters[(lid - t.lbase) / 96]? with
    | some k => some (96 * k + (lid - t.lbase) % 96)
    | none => none

/-! ### The region table (R393, R394) -/

/-- Field `w` bits wide from bit `lo` of a 256-bit table entry. -/
def rtField (e : BitVec 256) (lo w : Nat) : Nat := (e.extractLsb' lo w).toNat
def rtEn (e : BitVec 256) : Bool := e.getLsbD 0
def rtGran (e : BitVec 256) : Nat := 4096 * 2 ^ rtField e 1 4
def rtN (e : BitVec 256) : Nat := rtField e 5 3 + 1
def rtTarget (e : BitVec 256) (k : Nat) : Nat := rtField e (8 + 5 * k) 5
def rtBase (e : BitVec 256) : Nat := rtField e 64 64
def rtSize (e : BitVec 256) : Nat := rtField e 128 64
def rtToff (e : BitVec 256) : Nat := rtField e 192 64

/-- The mapping of R394 through one entry. An offset that no target has stays that target's, as its last one: none of
targets 0 to 12 backs it (R64). -/
def rtApply (e : BitVec 256) (a : Nat) : Nat :=
  let o := a - rtBase e
  let g := rtGran e
  let chunk := o / g
  rtTarget e (chunk % rtN e) * 2 ^ 47 + Nat.min (rtToff e + chunk / rtN e * g + o % g) (2 ^ 47 - 1)

/-- The first enabled entry that covers an address. -/
def rtFind (a : Nat) : Tbl (BitVec 256) → Option (BitVec 256)
  | [] => none
  | (_, e) :: t => if rtEn e && decide (rtBase e ≤ a) && decide (a < rtBase e + rtSize e) then some e else rtFind a t

/-- A system physical address to a target physical address (R393): unmapped addresses map unchanged. -/
def regionMap (s : State) (a : Nat) : Nat :=
  match rtFind a s.mm.act with
  | some e => rtApply e a
  | none => a

/-! ### What is backed (R63, R64, R400, R402, R474) -/

/-- Usable bytes of park controller `c` (R402). -/
def parkCap (c : Nat) : Nat := if Config.formM then 240 * 2 ^ 30 else Config.boardPark c

def paTarget (pa : Nat) : Nat := pa / 2 ^ 47
def paOff (pa : Nat) : Nat := pa % 2 ^ 47

/-- Whether a set of keys holds a key. -/
def member (t : Tbl Unit) (k : Nat) : Bool := t.any fun e => decide (e.1 = k)

/-- Whether a pseudo-channel is retired. -/
def retired (s : State) (stack off : Nat) : Bool := member s.mm.ret (512 * stack + off / 65536 % 512)

/-- Whether a target backs an offset. -/
def backed (s : State) (pa : Nat) : Bool :=
  let t := paTarget pa
  let o := paOff pa
  if t ≤ 7 then decide (o < 64 * 2 ^ 30) && !retired s t o
  else if t ≤ 11 then decide (o < parkCap (t - 8))
  else if t = 12 then decide (o < 512 * 2 ^ 20)
  else if t = 13 then decide (o < s.host.hwsize.toNat)
  else decide (t = 14)

/-- A request to a stack in self-refresh waits until the stack has left it, and proceeds (R401). -/
def awaken (s : State) (pa : Nat) : State :=
  if paTarget pa < 8 ∧ s.mm.sr.getLsbD (paTarget pa) then
    { s with mm := { s.mm with sr := s.mm.sr &&& ~~~(1#8 <<< paTarget pa) } }
  else s

/-! ### Bytes -/

/-- The page that an untranslated page of the host stands for: as held, else as the host's agent gives it (R483; DEDUCED, log
entry 137). -/
def atsPage (s : State) (p : Nat) : Nat := ((s.host.atc.find? fun e => e.1 = p).map (·.2)).getD (Config.freeAts s.host.atsGen p)

/-- The bus address of a host-window offset (R474), in compatibility mode translated through ATS (R483). -/
def busOf (s : State) (off : Nat) : Nat :=
  let b := s.host.hwbase.toNat + off
  if s.host.compatEn then 4096 * atsPage s (b / 4096) + b % 4096 else b

/-- The bytes of the host window from an offset. -/
def hostGets (s : State) (off n : Nat) : List Byte :=
  if s.host.compatEn then (List.range n).map fun i => tget 0 s.host.mem (busOf s (off + i)) else tgets 0 s.host.mem (busOf s off) n

/-- Host memory with bytes written at an offset of the window. -/
def hostPuts (s : State) (off : Nat) (bs : List Byte) : List Host.Cell :=
  if s.host.compatEn then bs.zipIdx.foldl (fun m (b, i) => tput 0 m (busOf s (off + i)) b) s.host.mem
  else tputs 0 s.host.mem (busOf s off) bs

/-- The `n` bytes from a location. -/
def readLoc (s : State) (l : Loc) (n : Nat) : List Byte :=
  match l with
  | .scr c o => tgets 0 (getCore s c).scr o n
  | .named pa => if paTarget pa = 13 then hostGets s (paOff pa) n else tgets 0 s.mem pa n

/-- Lines `lo` to `lo + n − 1`. -/
def lineRange (lo : Nat) : Nat → List Nat
  | 0 => []
  | n + 1 => lo :: lineRange (lo + 1) n

/-- The lines that `n` bytes from `a` touch; the lines they cover whole (R12). -/
def linesOf (a n : Nat) : List Nat := if n = 0 then [] else lineRange (a / 64) ((a + n - 1) / 64 - a / 64 + 1)
def linesWhole (a n : Nat) : List Nat := lineRange ((a + 63) / 64) ((a + n) / 64 - (a + 63) / 64)

def delAll (t : Tbl Unit) : List Nat → Tbl Unit
  | [] => t
  | k :: ks => delAll (tdel t k) ks

/-- Write bytes at a location; lines covered whole lose their uncorrectable error (R12). -/
def writeLoc (s : State) (l : Loc) (bs : List Byte) : State :=
  match l with
  | .scr c o =>
    let k := getCore s c
    setCore s c { k with scr := tputs 0 k.scr o bs, bad := delAll k.bad (linesWhole o bs.length) }
  | .named pa =>
    if paTarget pa = 13 then
      { s with host := { s.host with mem := hostPuts s (paOff pa) bs } }
    else { s with mem := tputs 0 s.mem pa bs, bad := delAll s.bad (linesWhole pa bs.length) }

/-- The first line, counted from the access's first line, that holds an uncorrectable error (R12). -/
def firstBad (bad : Tbl Unit) (a n : Nat) : Option Nat :=
  ((linesOf a n).find? fun k => member bad k).map fun k => k - a / 64

def uncorrectable (s : State) (l : Loc) (n : Nat) : Option Nat :=
  match l with
  | .scr c o => firstBad (getCore s c).bad o n
  | .named pa => if paTarget pa < 13 then firstBad s.bad pa n else none

/-- A little-endian number read at a location, and one written. -/
def readNat (s : State) (l : Loc) (n : Nat) : Nat := leNat (readLoc s l n)
def writeNat (s : State) (l : Loc) (n v : Nat) : State := writeLoc s l (leBytes n v)

/-- Bytes at a system physical address, through the region table (hub agents). -/
def readSpa (s : State) (a n : Nat) : List Byte := readLoc s (.named (regionMap s a)) n
def writeSpa (s : State) (a : Nat) (bs : List Byte) : State :=
  writeLoc (awaken s (regionMap s a)) (.named (regionMap s a)) bs

/-- Take a free value: the counter's value, and the state with the counter advanced. -/
def takeFresh (s : State) : Nat × State := (s.fresh, { s with fresh := s.fresh + 1 })

end Sys2Proof.Machine
end

