-- ==== Sys2Proof/Machine/Ring.lean ====
section
/-! DEFINITION. The record rings of the hub: completion and trap rings with their messages (R478 to R480), Page
Requests in compatibility mode (R482), and the Proctor's trace ring (R496, R497). -/

namespace Sys2Proof.Machine

/-! ### Completion and trap rings -/

/-- The low 32 bits below the slots of a ring: 2^(lg + 4), lg at most 12 (R475, R481). -/
def ringSlots (cfg : W64) : Nat := 2 ^ (Nat.min (cfg.extractLsb' 2 4).toNat 12 + 4)
def ringEn (cfg : W64) : Bool := cfg.getLsbD 0
def ringLoc (cfg : W64) : Bool := cfg.getLsbD 1
def ringMod (cfg : W64) : Nat := (cfg.extractLsb' 8 8).toNat
def ringInt (cfg : W64) : Bool := cfg.getLsbD 16

/-- Put bytes at a ring's address: a bus address of the host, or a system physical address (R475). -/
def ringPut (s : State) (spa : Bool) (a : Nat) (bs : List Byte) : State :=
  if spa then writeSpa s a bs else { s with host := { s.host with mem := tputs 0 s.host.mem a bs } }

def ringGet (s : State) (spa : Bool) (a n : Nat) : List Byte :=
  if spa then readSpa s a n else tgets 0 s.host.mem a n

def sendMsix (s : State) (v : Nat) : State := { s with host := { s.host with msgs := v :: s.host.msgs } }

def getRing (s : State) (r : RingId) : Ring :=
  match r with
  | .cq q => tget {} s.host.cq q
  | .tr => s.host.tr

def setRing (s : State) (r : RingId) (v : Ring) : State :=
  match r with
  | .cq q => { s with host := { s.host with cq := tset s.host.cq q v } }
  | .tr => { s with host := { s.host with tr := v } }

def ringVector : RingId → Nat
  | .cq q => q
  | .tr => 64

/-- Whether a ring lies at system physical addresses (the trap ring lies in hub SRAM). -/
def ringSpa (r : RingId) (cfg : W64) : Bool :=
  match r with
  | .cq _ => ringLoc cfg
  | .tr => true

/-- The message that follows a record (R480): sent, or held back by coalescing. -/
def ringMsg (s : State) (r : RingId) : State :=
  let g := getRing s r
  if !ringInt g.cfg then s
  else if ringMod g.cfg = 0 ∨ g.sentAt = 0 ∨ g.sentAt + 1000 * ringMod g.cfg ≤ s.gtc then
    sendMsix (setRing s r { g with sentAt := s.gtc, heldMsg := false }) (ringVector r)
  else setRing s r { g with heldMsg := true }

/-- Write the waiting records of a ring while it is enabled and has room (R478); `fuel` bounds the records written. -/
def ringFlush (r : RingId) : Nat → State → State
  | 0, s => s
  | n + 1, s =>
    let g := getRing s r
    match g.wait with
    | [] => s
    | b :: rest =>
      if ringEn g.cfg && decide ((g.head - g.tail).toNat < ringSlots g.cfg) then
        let a := g.base.toNat + 64 * (g.head.toNat % ringSlots g.cfg)
        let s := ringPut s (ringSpa r g.cfg) a b
        let s := setRing s r { g with head := g.head + 1, wait := rest }
        ringFlush r n (ringMsg s r)
      else s

/-- Hand a record to a ring (R478). -/
def ringAdd (s : State) (r : RingId) (b : List Byte) : State :=
  let g := getRing s r
  let s := setRing s r { g with wait := g.wait ++ [b] }
  ringFlush r (g.wait.length + 1) s

/-! ### Trap records (R52, R478, R482) -/

/-- The 64 bytes of a trap record (R52). -/
def trapBytes (t : Trap) : List Byte :=
  leBytes 8 t.gtc.toNat ++ leBytes 4 t.task.toNat ++ leBytes 4 t.seq.toNat
  ++ leBytes 2 t.lid.toNat ++ [t.strand, t.level] ++ leBytes 2 t.code.toNat ++ [t.engine, 0]
  ++ leBytes 8 t.pc.toNat ++ leBytes 8 t.position.toNat
  ++ leBytes 4 t.eseq.toNat ++ leBytes 2 t.tmpl.toNat ++ [0, 0]
  ++ leBytes 8 t.addr.toNat ++ leBytes 8 t.detail.toNat

/-- Doubleword `i` of a trap record (R216). -/
def trapWord (t : Trap) (i : Nat) : W64 := BitVec.ofNat 64 (leNat ((trapBytes t).drop (8 * i) |>.take 8))

/-- The lowest free compatibility tag (R482). -/
def freeTag (t : Tbl Trap) : Nat → Nat → Option Nat
  | _, 0 => none
  | k, n + 1 => if t.any (fun e => e.1 = k) then freeTag t (k + 1) n else some k

/-- The trap record of 64 bytes. -/
def trapOfBytes (b : List Byte) : Trap :=
  let f (o n : Nat) : Nat := leNat ((b.drop o).take n)
  { gtc := .ofNat _ (f 0 8), task := .ofNat _ (f 8 4), seq := .ofNat _ (f 12 4), lid := .ofNat _ (f 16 2),
    strand := .ofNat _ (f 18 1), level := .ofNat _ (f 19 1), code := .ofNat _ (f 20 2), engine := .ofNat _ (f 22 1),
    pc := .ofNat _ (f 24 8), position := .ofNat _ (f 32 8), eseq := .ofNat _ (f 40 4), tmpl := .ofNat _ (f 44 2),
    addr := .ofNat _ (f 48 8), detail := .ofNat _ (f 56 8) }

/-- Send the waiting trap records as Page Requests while tags are free and the host's allocation allows (R482, R483). -/
def pageFlush : Nat → State → State
  | 0, s => s
  | n + 1, s =>
    match s.host.tr.wait, freeTag s.host.tags 0 256 with
    | b :: rest, some t =>
      if s.host.compatFail || decide (s.host.alloc ≤ s.host.tags.length) then s
      else
        let r := trapOfBytes b
        let s := { s with host := { s.host with
          tr := { s.host.tr with wait := rest }
          tags := tset s.host.tags t r
          pageReqs := s.host.pageReqs ++ [(t, r.addr &&& ~~~(0xFFF : W64))] } }
        pageFlush n (sendMsix s 64)
    | _, _ => s

/-- Let waiting trap records leave the hub buffer: to the trap ring, or as Page Requests. -/
def trapWrite (s : State) : State :=
  if s.host.compatEn then pageFlush s.host.tr.wait.length s else ringFlush .tr s.host.tr.wait.length s

/-- The buffer takes records owed while it has space, and is written out again; `fuel` bounds the rounds. -/
def takeOwed : Nat → State → State
  | 0, s => s
  | n + 1, s =>
    let room := 4096 - s.host.tr.wait.length
    takeOwed n (trapWrite { s with host := { s.host with
      tr := { s.host.tr with wait := s.host.tr.wait ++ s.host.owed.take room }, owed := s.host.owed.drop room } })

/-- Write out what waits. -/
def trapFlush (s : State) : State := takeOwed s.host.owed.length (trapWrite s)

/-- Whether the hub buffer of R478 has room for a record. -/
def trapRoom (s : State) : Bool := s.host.owed.isEmpty && decide (s.host.tr.wait.length < 4096)

/-- Hand a trap record to the hub buffer (R478). -/
def trapAdd (s : State) (t : Trap) : State :=
  trapFlush { s with host := { s.host with tr := { s.host.tr with wait := s.host.tr.wait ++ [trapBytes t] } } }

/-! ### The trace ring (R496, R497) -/

/-- A trace record (R497). -/
structure Trace where
  task : Nat := 0
  lid : Nat := 0
  kind : Nat
  who : Nat := 0xFF
  object : W64 := 0
  cycles : Nat := 0
  sub : Nat := 0
  akind : Nat := 0xFF
  alid : Nat := 0
  pc : W64 := 0
  eseq : W32 := 0
  tmpl : W16 := 0xFFFF
  hit : W16 := 0
  value : W64 := 0
  dev : Nat := 0
  deriving DecidableEq, Repr

def traceBytes (g : Nat) (t : Trace) : List Byte :=
  leBytes 8 g ++ leBytes 4 t.task ++ leBytes 2 t.lid ++ leBytes 1 t.kind ++ leBytes 1 t.who
  ++ leBytes 8 t.object.toNat
  ++ leBytes 4 (Nat.min t.cycles (2 ^ 32 - 1)) ++ leBytes 1 t.sub ++ leBytes 1 t.akind ++ leBytes 2 t.alid
  ++ leBytes 8 t.pc.toNat
  ++ leBytes 4 t.eseq.toNat ++ leBytes 2 t.tmpl.toNat ++ leBytes 2 t.hit.toNat
  ++ leBytes 8 t.value.toNat ++ leBytes 8 (t.dev % 2 ^ 14)

/-- Bit of `pr.ctl` that enables a record kind (R512). -/
def traceBit (kind : Nat) : Nat := if kind ≤ 2 then 1 else if kind = 3 then 2 else 3

/-- Write a trace record, or drop it where the ring is full (R496). -/
def traceAdd (s : State) (t : Trace) : State :=
  let p := s.pro
  if p.ctl.getLsbD 0 && p.ctl.getLsbD (traceBit t.kind) && decide (0 < p.size) then
    if (p.head - p.tail).toNat < p.size then
      let s := writeSpa s (p.base.toNat + 64 * (p.head.toNat % p.size)) (traceBytes s.gtc t)
      { s with pro := { s.pro with head := p.head + 1 } }
    else { s with pro := { p with lost := true } }
  else s

end Sys2Proof.Machine
end

