-- ==== Sys2Proof/Machine/Xlate.lean ====
section
/-! DEFINITION. Translation: the page walk (R381 to R384), the TLBs (R385 to R387), access counters and their folds
(R391, R392, R510, R511), and what an address reaches (R58 to R64). -/

namespace Sys2Proof.Machine

/-! ### Permissions (R62) -/

def pR : Perm := 1
def pW : Perm := 2
def pX : Perm := 4
def pA : Perm := 8
def pT : Perm := 16

/-! ### The page walk -/

/-- Bits [63:57] equal bit 56 (R58). -/
def canonical (va : W64) : Bool := va.extractLsb' 57 7 == if va.getLsbD 56 then 127 else 0

/-- The local window (R59). -/
def localBase : W64 := 0xFFFFFFFFFFE00000
def inLocal (va : W64) : Bool := va.extractLsb' 21 43 == localBase.extractLsb' 21 43
/-- The backed bytes of a scratchpad (R59). -/
def scrSize : Nat := 0x1C0000

/-- The index of a walk level (R381). -/
def walkIndex (va : W64) (lvl : Nat) : Nat :=
  match lvl with
  | 1 => (va.extractLsb' 48 9).toNat
  | 2 => (va.extractLsb' 39 9).toNat
  | 3 => (va.extractLsb' 30 9).toNat
  | 4 => (va.extractLsb' 21 9).toNat
  | _ => (va.extractLsb' 16 5).toNat

/-- log2 of the bytes that an entry of a level maps. -/
def pageShift (lvl : Nat) : Nat := match lvl with | 1 => 48 | 2 => 39 | 3 => 30 | 4 => 21 | _ => 16

/-- A page-table entry, read (R382). -/
inductive Pte where
  | bad
  | table (next : Nat)
  | leaf
  deriving DecidableEq, Repr

def leafPerm (e : W64) : Perm := e.extractLsb' 3 5
def leafScr (e : W64) : Bool := e.extractLsb' 0 2 == 2
def leafCnt (e : W64) : Bool := e.getLsbD 8
def leafIndex (e : W64) : Nat := (e.extractLsb' 16 7).toNat
def leafPage (e : W64) : Nat := (e.extractLsb' 16 36).toNat * 65536

/-- Read an entry of a level; `bad` covers invalid and malformed entries (R382). -/
def pteOf (lvl : Nat) (e : W64) : Pte :=
  let ty := (e.extractLsb' 0 2).toNat
  let rsv (lo n : Nat) : Bool := e.extractLsb' lo n == 0
  if e.getLsbD 2 then
    if ty = 0 ∧ lvl ≤ 4 then
      if rsv 52 12 && rsv 3 5 && (decide (lvl = 4) || rsv 8 4) then .table ((e.extractLsb' 8 44).toNat * 256) else .bad
    else .bad
  else if ty = 1 then
    if decide (3 ≤ lvl) && rsv 52 12 && rsv 9 7 && (leafPerm e &&& pT == 0) && decide (leafPage e % 2 ^ pageShift lvl = 0)
    then .leaf else .bad
  else if ty = 2 then
    if decide (lvl = 4) && rsv 23 41 && rsv 9 7 && (leafPerm e &&& pT != 0) then .leaf else .bad
  else .bad

/-- The walk of R383 from a level at a table address: the leaf and its level, or the detail of fault 0x0010. -/
def walkFrom (s : State) (va : W64) : Nat → Nat → Nat → Except Nat (W64 × Nat)
  | 0, _, lvl => .error lvl
  | n + 1, tab, lvl =>
    let pa := regionMap s (tab + 8 * walkIndex va lvl)
    if !(backed s pa && decide (paTarget pa ≤ 12)) || (uncorrectable s (.named pa) 8).isSome then .error (lvl + 8)
    else
      let e : W64 := BitVec.ofNat 64 (readNat s (.named pa) 8)
      match pteOf lvl e with
      | .bad => .error lvl
      | .table next => walkFrom s va n next (lvl + 1)
      | .leaf => .ok (e, lvl)

def walk (s : State) (root va : W64) : Except Nat (W64 × Nat) := walkFrom s va 5 root.toNat 1

/-! ### Folds into the side table (R392, R510, R511) -/

def satAdd (a b : Nat) : Nat := Nat.min (a + b) (2 ^ 64 - 1)

/-- Address of record `i` of the side table. -/
def stAddr (s : State) (i : Nat) : Nat := s.pro.stbase.toNat + 64 * i

/-- The first record from `i` on that satisfies a test on its first two doublewords. -/
def stFind (s : State) (f : W64 → W64 → Bool) : Nat → Nat → Option Nat
  | _, 0 => none
  | i, n + 1 =>
    let w (o : Nat) : W64 := BitVec.ofNat 64 (leNat (readSpa s (stAddr s i + o) 8))
    if f (w 0) (w 8) then some i else stFind s f (i + 1) n

/-- The records whose valid bit is clear. -/
def stFree (s : State) : Nat → Nat → List Nat
  | _, 0 => []
  | i, n + 1 =>
    if (leNat (readSpa s (stAddr s i) 1)) % 2 = 0 then i :: stFree s (i + 1) n else stFree s (i + 1) n

/-- What the hub reads of `n` bytes at a system physical address leaves no stack in self-refresh (R401). -/
def awakenSpan (s : State) (a n : Nat) : State :=
  if s.mm.sr = 0 then s else (List.range (n / 4096 + 2)).foldl (fun s i => awaken s (regionMap s (a / 4096 * 4096 + 4096 * i))) s

/-- Write the doublewords of record `i` of the side table from its first on (R510). -/
def stPut (s : State) (i : Nat) (l : List Nat) : State :=
  l.zipIdx.foldl (fun s e => writeSpa s (stAddr s i + 8 * e.2) (leBytes 8 e.1)) s

/-- Apply a fold to the table (R511). -/
def foldApply (s : State) (f : Fold) : State :=
  let head : W64 := BitVec.ofNat 64 (1 + (if f.lost then 2 else 0) + f.size * 4 + f.asn * 65536)
  let key (w : W64) : Bool := w.getLsbD 0 && decide ((w.extractLsb' 2 2).toNat = f.size) && decide ((w.extractLsb' 16 12).toNat = f.asn)
  let found := stFind s (fun w p => key w && p == f.page) 0 s.pro.stsize
  let s := awakenSpan s (stAddr s 0) (64 * ((found.map (· + 1)).getD s.pro.stsize))
  match found with
  | some i =>
    let v (o : Nat) : Nat := leNat (readSpa s (stAddr s i + o) 8)
    stPut s i [(BitVec.ofNat 64 (v 0) ||| head).toNat, f.page.toNat, satAdd (v 16) f.rd, satAdd (v 24) f.wr, satAdd (v 32) f.rem]
  | none =>
    match stFree s 0 s.pro.stsize with
    | [] => { s with pro := { s.pro with stfull := true } }
    | l =>
      let (n, s) := takeFresh s
      stPut s (l.getD (Config.freeFoldSlot n % l.length) 0) [head.toNat, f.page.toNat, f.rd, f.wr, f.rem, 0, 0, 0]

/-- Whether the hub can accept a fold: it holds up to 64 while a clear of the table is in progress. -/
def foldRoom (s : State) : Bool := decide (s.pro.folds.length < 64)

/-- A fold reaches the hub (R392, R511). -/
def foldSend (s : State) (f : Fold) : State :=
  if s.pro.stbusy then { s with pro := { s.pro with folds := s.pro.folds ++ [f] } } else foldApply s f

def pageCode (lvl : Nat) : Nat := match lvl with | 3 => 2 | 4 => 1 | _ => 0

/-- The virtual page base of an entry, in the bits of R510. -/
def tlbPage (e : TlbE) : W64 := BitVec.ofNat 64 (e.vpn * 2 ^ pageShift e.lvl)

def tlbFold (e : TlbE) : Fold :=
  { asn := e.asn, size := pageCode e.lvl, page := tlbPage e, rd := e.rd, wr := e.wr, rem := e.rem, lost := e.lost }

/-- Fold an entry that leaves a micro-TLB, whatever its counters hold (R392). -/
def foldOut (s : State) (e : TlbE) : State :=
  if leafCnt e.leaf then foldSend s (tlbFold e) else s

def foldAll (s : State) : List TlbE → State
  | [] => s
  | e :: es => foldAll (foldOut s e) es

/-! ### TLBs (R385) -/

def tlbHit (asn : Nat) (va : W64) (e : TlbE) : Bool :=
  decide (e.asn = asn) && decide (e.vpn = va.toNat % 2 ^ 57 / 2 ^ pageShift e.lvl)

def tlbFind (l : List TlbE) (asn : Nat) (va : W64) : Option TlbE := l.find? (tlbHit asn va)

/-- Fill a micro-TLB: the newest entry stands first; past 64 the oldest is evicted, and folds. -/
def utlbFill (s : State) (c : Nat) (e : TlbE) : State :=
  let k := getCore s c
  let l := e :: k.utlb
  foldAll (setCore s c { k with utlb := l.take 64 }) (l.drop 64)

/-- Fill a cluster TLB of 4,096 entries. -/
def ctlbFill (s : State) (k : Nat) (e : TlbE) : State :=
  let cl := getCluster s k
  setCluster s k { cl with tlb := (e :: cl.tlb).take 4096 }

def mkTlbE (asn : Nat) (va : W64) (leaf : W64) (lvl : Nat) : TlbE :=
  { asn := asn, lvl := lvl, vpn := va.toNat % 2 ^ 57 / 2 ^ pageShift lvl, leaf := leaf }

/-! ### The walk caches (R385) -/

/-- Where a walk begins: the table that the entry of the lowest level names which the walk caches hold for the address, and
its level; the root where they hold none. -/
def walkStart (s : State) (asn : Nat) (root va : W64) : Nat × Nat :=
  (([4, 3, 2, 1].findSome? fun lvl =>
    (s.mm.wc.find? fun e => decide (e.lvl = lvl) && tlbHit asn va e).bind fun e =>
      match pteOf lvl e.leaf with
      | .table next => some (next, lvl + 1)
      | _ => none)).getD (root.toNat, 1)

/-- The entries that a walk reads from a table on: address, entry, level. -/
def walkReads (s : State) (va : W64) : Nat → Nat → Nat → List (Nat × W64 × Nat)
  | 0, _, _ => []
  | n + 1, tab, lvl =>
    let pa := regionMap s (tab + 8 * walkIndex va lvl)
    if !backed s pa then []
    else
      let e : W64 := BitVec.ofNat 64 (readNat s (.named pa) 8)
      (pa, e, lvl) :: match pteOf lvl e with
        | .table next => walkReads s va n next (lvl + 1)
        | _ => []

/-- A walk by the hub: its outcome, and the state in which the walk caches hold the table entries that it has read, and the
stacks that hold them have left self-refresh (R401). A walk that faults fills nothing (R384). -/
def hubWalk (s : State) (asn : Nat) (root va : W64) : State × Except Nat (W64 × Nat) :=
  let (tab, lvl) := walkStart s asn root va
  let l := walkReads s va (6 - lvl) tab lvl
  let r := walkFrom s va (6 - lvl) tab lvl
  let s := l.foldl (fun s e => awaken s e.1) s
  match r with
  | .error d => (s, .error d)
  | .ok r =>
    let new := (l.filter fun e => e.2.1.getLsbD 2).map fun e => mkTlbE asn va e.2.1 e.2.2
    ({ s with mm := { s.mm with wc := (new ++ s.mm.wc).take 1024 } }, .ok r)

/-- The leaf of an address, through the TLBs or by a walk (R385); the state with the TLBs filled. -/
def leafOf (s : State) (c : Nat) (va : W64) : State × Except Nat (W64 × Nat) :=
  let k := getCore s c
  let t := getTask s k.task
  match tlbFind k.utlb t.asn va with
  | some e => (s, .ok (e.leaf, e.lvl))
  | none =>
    match (if isPrologue c then none else tlbFind (getCluster s (clusterOf c)).tlb t.asn va) with
    | some e => (utlbFill s c (mkTlbE t.asn va e.leaf e.lvl), .ok (e.leaf, e.lvl))
    | none =>
      match hubWalk s t.asn t.root va with
      | (s, .error d) => (s, .error d)
      | (s, .ok (leaf, lvl)) =>
        let e := mkTlbE t.asn va leaf lvl
        let s := if isPrologue c then s else ctlbFill s (clusterOf c) e
        (utlbFill s c e, .ok (leaf, lvl))

/-- Remove the matching entries of every TLB and of the walk caches; those of micro-TLBs fold. -/
def dropTlbs (s : State) (f : TlbE → Bool) : State :=
  let gone := s.cores.flatMap fun (_, k) => k.utlb.filter f
  let s := { s with
    cores := s.cores.map fun (c, k) => (c, { k with utlb := k.utlb.filter fun e => !f e })
    clusters := s.clusters.map fun (c, k) => (c, { k with tlb := k.tlb.filter fun e => !f e })
    mm := { s.mm with wc := s.mm.wc.filter fun e => !f e } }
  foldAll s gone

/-- Whether an address would miss both TLBs, so that a walk request goes to the hub (R386). -/
def tlbMiss (s : State) (c : Nat) (va : W64) : Bool :=
  let k := getCore s c
  let t := getTask s k.task
  (tlbFind k.utlb t.asn va).isNone && (tlbFind (getCluster s (clusterOf c)).tlb t.asn va).isNone

/-- A walk now would find a leaf: a miss that would fault is not left to a walker, the access faults at once. -/
def walkOk (s : State) (c : Nat) (va : W64) : Bool :=
  let t := getTask s (getCore s c).task
  match (hubWalk s t.asn t.root va).2 with
  | .ok _ => true
  | .error _ => false

/-! ### What an address reaches -/

/-- A fault's code and detail. -/
structure Flt where
  code : W16
  addr : W64 := 0
  detail : W64 := 0
  deriving DecidableEq, Repr

/-- What an access finds: a location, its permission bits, or a fault. -/
inductive Reach where
  | ok (loc : Loc) (perm : Perm)
  | flt (f : Flt)
  deriving DecidableEq, Repr

def fltXlate (va : W64) (d : Nat) : Flt := { code := 0x0010, addr := va, detail := BitVec.ofNat 64 d }

/-- The physical core that index i of an SCR entry names (R61). -/
def scrCore (c i : Nat) : Nat := 96 * clusterOf c + i

/-- The permission bits of a mapping to a physical target: the host link clears A where AtomicOps are off (R74). -/
def effPerm (s : State) (pa : Nat) (p : Perm) : Perm :=
  if paTarget pa = 13 && !s.host.atom then p &&& ~~~pA else p

/-- What a request does at the port that it reaches: in compatibility mode the device keeps the ATS translation of a host
page (R483), and a stack leaves self-refresh (R401). -/
def atcNote (s : State) (pa : Nat) : State :=
  let s := awaken s pa
  let page := (s.host.hwbase.toNat + paOff pa) / 4096
  if paTarget pa = 13 ∧ s.host.compatEn ∧ !s.host.atc.any fun e => e.1 = page then
    { s with host := { s.host with atc := (page, Config.freeAts s.host.atsGen page) :: s.host.atc } }
  else s

/-- Steps 2 to 5 of R173 for the bytes from `va` of one access, which lie within one page. `need` are the permission
bits; with `remoteT` the T bit is left to a Volley target's own entry (R487); `hostNo` marks an atomic that the host
window refuses (R74). -/
def reach (s : State) (c : Nat) (va : W64) (len : Nat) (need : Perm) (remoteT hostNo : Bool) : State × Reach :=
  if !canonical va then (s, .flt (fltXlate va 0))
  else if inLocal va then
    let off := (va.extractLsb' 0 21).toNat
    if isPrologue c || decide (off + len > scrSize) then (s, .flt (fltXlate va 0))
    else
      let p : Perm := pR ||| pW ||| pA ||| pT
      if need &&& ~~~p != 0 then (s, .flt { code := 0x0011, addr := va, detail := p.setWidth 64 })
      else (s, .ok (.scr c off) p)
  else
    match leafOf s c va with
    | (s, .error d) => (s, .flt (fltXlate va d))
    | (s, .ok (leaf, lvl)) =>
      let p := leafPerm leaf
      if leafScr leaf then
        let off := (va.extractLsb' 0 21).toNat
        if isPrologue c || decide (96 ≤ leafIndex leaf) || decide (off + len > scrSize) then
          (s, .flt (fltXlate va 0))
        else if need &&& ~~~p != 0 then (s, .flt { code := 0x0011, addr := va, detail := p.setWidth 64 })
        else (s, .ok (.scr (scrCore c (leafIndex leaf)) off) p)
      else
        let spa := leafPage leaf + va.toNat % 2 ^ pageShift lvl
        let pa := regionMap s spa
        let p := effPerm s pa p
        let need' := if remoteT && decide (paTarget pa = 14) then need &&& ~~~pT else need
        if need' &&& ~~~p != 0 || (hostNo && decide (paTarget pa = 13)) then (s, .flt { code := 0x0011, addr := va, detail := p.setWidth 64 })
        else if !backed s pa then
          (s, .flt { code := 0x0012, addr := va, detail := BitVec.ofNat 64 (paTarget pa) })
        else (atcNote s pa, .ok (.named pa) p)

/-! ### Access counters (R391) -/

/-- Whether a location counts as remote for a core (R391). -/
def isRemote (c : Nat) (l : Loc) : Bool :=
  match l with
  | .scr k _ => decide (k ≠ c)
  | .named pa => decide (paTarget pa = 13 ∨ paTarget pa = 14)

/-- One counter after one more line: the new value, and whether a count was lost by saturation. -/
def bump (room : Bool) (n : Nat) : Nat × Bool := if n ≥ 65535 && !room then (65535, true) else (n + 1, false)

/-- Advance the counters of one entry for a line, and fold where one would reach 65,536 (R392). -/
def countEntry (s : State) (e : TlbE) (rd wr rem : Bool) : State × TlbE :=
  let room := foldRoom s
  let (r, l1) := if rd then bump room e.rd else (e.rd, false)
  let (w, l2) := if wr then bump room e.wr else (e.wr, false)
  let (m, l3) := if rem then bump room e.rem else (e.rem, false)
  let e := { e with rd := r, wr := w, rem := m, lost := e.lost || l1 || l2 || l3 }
  if room && decide (r ≥ 65536 ∨ w ≥ 65536 ∨ m ≥ 65536) then
    (foldSend s (tlbFold e), { e with rd := 0, wr := 0, rem := 0, lost := false })
  else (s, e)

/-- Replace the first matching entry of a TLB. -/
def tlbPut (asn : Nat) (va : W64) (n : TlbE) : List TlbE → List TlbE
  | [] => []
  | e :: es => if tlbHit asn va e then n :: es else e :: tlbPut asn va n es

/-- The translation of an address that a core's micro-TLB holds. -/
def entOf (s : State) (c : Nat) (va : W64) : Option TlbE :=
  if inLocal va then none else tlbFind (getCore s c).utlb (getTask s (getCore s c).task).asn va

/-- Count one line that an access of core `c` touches at `va` through a translation (R391). Where that entry has left the
micro-TLB since, and has folded, the line is a fold of its own. -/
def countLine (s : State) (c : Nat) (ent : Option TlbE) (va : W64) (l : Loc) (rd wr : Bool) : State :=
  match ent with
  | none => s
  | some f =>
    if leafCnt f.leaf then
      let one (b : Bool) : Nat := if b then 1 else 0
      match (tlbFind (getCore s c).utlb f.asn va).filter fun e => leafCnt e.leaf with
      | none => foldSend s (tlbFold { f with rd := one rd, wr := one wr, rem := one (isRemote c l), lost := false })
      | some e =>
        let (s, e') := countEntry s e rd wr (isRemote c l)
        let k := getCore s c
        setCore s c { k with utlb := tlbPut f.asn va e' k.utlb }
    else s

end Sys2Proof.Machine
end

