-- ==== Sys2Proof/Machine/Referee.lean ====
section
/-! DEFINITION. The Referee's tables: how a node ends and what that makes ready (R414, R415, R421, R439 to R441), how
ready nodes are ranked (R422, R423), how an entry is chosen (R426 to R429) and what a dispatch allocates (R431). -/

namespace Sys2Proof.Machine

def getGraph (s : State) (g : Nat) : Graph := tget {} s.ref.graphs g
def setGraph (s : State) (g : Nat) (v : Graph) : State := { s with ref := { s.ref with graphs := tset s.ref.graphs g v } }
def getNode (g : Graph) (i : Nat) : Node := g.nodes.getD i {}

/-- The selection of this hub cycle evaluates (R416, R425). -/
def evalSoon (s : State) : State := { s with ref := { s.ref with again := true } }
def setNode (s : State) (g i : Nat) (v : Node) : State :=
  let gr := getGraph s g
  setGraph s g { gr with nodes := gr.nodes.set i v }

/-! ### Completion records (R439) -/

structure Record where
  tag : W64 := 0
  node : Nat := 0xFFFF
  /-- `none` stands for a field whose meaning the record's kind and status do not give: a free value. -/
  rep : Option Nat := none
  kind : Nat
  status : Nat
  entry : Nat := 0xFF
  rflags : Nat := 0
  start : Option Nat := none
  finish : Nat := 0
  traps : Nat := 0
  queue : Nat
  detail : Option W64 := none
  task : Option Nat := none
  deriving DecidableEq, Repr

/-- The stated value, or a free one. -/
def fieldOr (n : Nat) (o : Option Nat) : Nat := o.getD (Config.freeField n)

/-- The 64 bytes of R439; `n` numbers the free values. -/
def recordBytes (n : Nat) (r : Record) : List Byte :=
  leBytes 8 r.tag.toNat ++ leBytes 2 r.node ++ leBytes 1 (fieldOr n r.rep) ++ leBytes 1 r.kind ++ leBytes 1 r.status
  ++ leBytes 1 r.entry ++ leBytes 2 r.rflags ++ leBytes 8 (fieldOr (n + 1) r.start) ++ leBytes 8 r.finish
  ++ leBytes 4 r.traps ++ leBytes 1 r.queue ++ [0, 0, 0] ++ leBytes 8 (fieldOr (n + 2) (r.detail.map (·.toNat)))
  ++ leBytes 4 (fieldOr (n + 3) r.task) ++ [0, 0, 0, 0] ++ leBytes 8 0

def writeRecord (s : State) (r : Record) : State :=
  ringAdd { s with fresh := s.fresh + 4 } (.cq r.queue) (recordBytes s.fresh r)

/-- Statuses that make a graph error (R440). -/
def graphError (status : Nat) : Bool := decide (status = 2 ∨ status = 7 ∨ status = 8 ∨ status = 9)

/-- The flags of a launch's record (R439). -/
def launchFlags (t : Task) : Nat :=
  (if t.late then 1 else 0) + (if t.restarted then 2 else 0) + (if t.wasParked then 4 else 0)
  + (if t.wasYielded then 8 else 0) + (if t.overdraw then 16 else 0)

/-- The record of a node's launch or end, where R408 asks for one. -/
def nodeRecord (s : State) (g i : Nat) (status : Nat) (detail : Option W64) (task : Nat) : State :=
  let gr := getGraph s g
  let nd := getNode gr i
  if gr.gflags.getLsbD 1 || graphError status then
    let t := getTask s task
    writeRecord s {
      tag := gr.tag, node := i, rep := some nd.repIndex, kind := 1, status := status
      entry := if t.nclus = 0 then 0xFF else t.entry
      rflags := launchFlags t, start := if t.nclus = 0 then none else some t.start, finish := s.gtc, traps := t.traps
      queue := gr.queue, detail := detail, task := if task = 0 then none else some task }
  else s

/-! ### A node becomes ready (R414) -/

/-- The graph before this one in its queue has ended, where gflags[0] asks for it. -/
def serialOk (s : State) (gr : Graph) : Bool :=
  !gr.gflags.getLsbD 0
  || s.ref.graphs.all fun (_, h) => !(decide (h.queue = gr.queue) && decide (h.order + 1 = gr.order)) || h.ended

/-- Every predecessor of a node is done. -/
def predsDone (gr : Graph) (nd : Node) : Bool :=
  (List.range gr.nodes.length).all fun j => !nd.preds.getLsbD j || (getNode gr j).st == .done

/-- The state a waiting node takes when nothing holds it any more. -/
def readyNode (now : Nat) (nd : Node) : Node :=
  { nd with
    st := if nd.r.pro == 0 then .ready else .prologue
    readyAt := now, args := nd.r.args, e0 := nd.r.ext0, e1 := nd.r.ext1, e2 := nd.r.ext2, g0 := nd.r.gran }

/-- A task id that no run has had (R412), or 0 where none is left of the 32 bits. -/
def takeId (s : State) : Nat × State :=
  if s.ref.nextTask < 2 ^ 32 then (s.ref.nextTask, { s with ref := { s.ref with nextTask := s.ref.nextTask + 1 } }) else (0, s)

/-- Wake a waiting node that nothing holds any more: it is ready, and the selection evaluates (R425), or it enters Prologue
and takes a task id (R417). -/
def wakeNode (g : Nat) (s : State) (i : Nat) : State :=
  let gr := getGraph s g
  let nd := getNode gr i
  if nd.st == .waiting && serialOk s gr && predsDone gr nd then
    let u := readyNode s.gtc nd
    if u.st == .prologue then
      let (id, s) := takeId s
      setNode s g i { u with task := id }
    else setNode (evalSoon s) g i u
  else s

/-- Wake the waiting nodes of every graph. -/
def wakeNodes (s : State) : State :=
  s.ref.graphs.foldl (fun s (g, gr) => (List.range gr.nodes.length).foldl (wakeNode g) s) s

/-! ### A node ends -/

/-- A run is over: it keeps nothing, and the translations of an address-space number of its own go (R380). -/
def closeTask (s : State) (id : Nat) : State :=
  let t := getTask s id
  let s := setTask s id { t with st := .ended, saved := [], ylds := [] }
  if t.asn = (getGraph s t.graph).asn then s else dropTlbs s fun e => decide (e.asn = t.asn)

/-- The records that a core, running or saved, has not handed to the hub go to it: none is lost. One for which the buffer has no
room stays owed, and goes first once there is room (R478; DEDUCED, log entry 138). -/
def handOver (s : State) (k : Core) : State :=
  (k.outRecs ++ k.newRecs).foldl (fun s t =>
    if trapRoom s then trapAdd s t else { s with host := { s.host with owed := s.host.owed ++ [trapBytes t] } }) s

/-- The records of a task's cores. -/
def handOverTask (s : State) (task : Nat) : State :=
  (s.cores.filter fun (c, k) => decide (k.task = task) && !isPrologue c).foldl (fun s (_, k) => handOver s k) s

/-- Take a node's prologue conductor away; its run is over. -/
def dropPrologue (s : State) (nd : Node) : State :=
  match nd.pro with
  | some p =>
    let s := handOver (foldAll s (getCore s (3072 + p)).utlb) (getCore s (3072 + p))
    closeTask { s with
      ref := { s.ref with pros := tdel s.ref.pros p, said := s.ref.said.filter (· ≠ p) }
      cores := tdel s.cores (3072 + p) } nd.task
  | none => s

/-- The messages that the end of a fabric part with a status other than 0 or 1 sends (R433). -/
def abortMsgs (s : State) (nd : Node) (status : Nat) : State :=
  if nd.r.nflags.getLsbD 5 && decide (1 < status) then
    let msgs := (List.range nd.r.fmap.length).filterMap fun j =>
      if j = nd.r.fidx then none else some (VolMsg.abort (nd.r.fmap.getD j 0) nd.r.fgroup nd.r.fidx)
    { s with vol := { s.vol with out := s.vol.out ++ msgs } }
  else s

/-- Set a node done with a status, and write its record. -/
def endNode (s : State) (g i status : Nat) (detail : Option W64) (task : Nat) : State :=
  let nd := getNode (getGraph s g) i
  let s := abortMsgs (dropPrologue s nd) nd status
  let s := setNode s g i { nd with st := .done, status := status, pro := none }
  nodeRecord s g i status detail task

/-- Tagged operations of other devices that will never be performed: the task has ended (R465, R487). -/
def refuseRemote (s : State) : List (Nat × Nat × Nat) → State
  | [] => s
  | (src, seq, cls) :: l => refuseRemote (answerReq s src seq (.ack src seq 1 0 cls)) l

/-- A core's pending list is withdrawn. -/
def dropHeld (s : State) (c : Nat) : State :=
  let k := getCore s c
  refuseRemote (setCore s c { k with held := [] }) (k.held.filterMap fun h => match h.sender with
    | .volley src seq => some (src, seq, 0)
    | .copy _ _ => none)

/-- Nothing of other devices waits any more for a task that has ended. -/
def dropParked (s : State) (task : Nat) : State :=
  refuseRemote { s with vol := { s.vol with parkedReqs := s.vol.parkedReqs.filter fun e => e.1 ≠ task } }
    ((s.vol.parkedReqs.filter fun e => e.1 = task).map fun e => (e.2.2.1.src, e.2.2.1.seq, e.2.2.1.cls))

/-- What a node that is not dispatched leaves, and the run that its record names: that of its prologue, or the launch that a
restart was to resume from its image; none between repetitions. -/
def leaveEarly (s : State) (g i : Nat) : State × Nat :=
  let nd := getNode (getGraph s g) i
  (if nd.image.isSome then closeTask (dropParked s nd.task) nd.task else s, if nd.st == .prologue || nd.image.isSome then nd.task else 0)

/-- End with status 4 a node that is not dispatched (R437, R441). -/
def endEarly (s : State) (g i : Nat) : State :=
  let (s, id) := leaveEarly s g i
  endNode s g i 4 none id

/-- A node that is neither dispatched nor done. -/
def notDispatched (nd : Node) : Bool := nd.st == .waiting || nd.st == .ready || nd.st == .prologue

/-- End with status 4 every node that has not been dispatched (R441). -/
def endPending (s : State) (g : Nat) : List Nat → State
  | [] => s
  | i :: is => endPending (if notDispatched (getNode (getGraph s g) i) then endEarly s g i else s) g is

def nodePersist (nd : Node) : Bool := nd.r.nflags.getLsbD 3

/-- Whether every node, or every non-persistent node, is done. -/
def allDone (gr : Graph) (persistToo : Bool) : Bool :=
  gr.nodes.all fun nd => nd.st == .done || (nodePersist nd && !persistToo)

/-- Write invalid the entries mc2 wrote for a graph's image (R407). -/
def unmapEntries (s : State) : List Nat → State
  | [] => s
  | a :: as => unmapEntries (writeSpa s a (leBytes 8 0)) as

/-- The end of a graph (R441), and the release of its image once no node of it is left (R407). -/
def endGraph (s : State) (g : Nat) : State :=
  let gr := getGraph s g
  let s :=
    if !gr.ended && allDone gr false then
      let s := setGraph s g { gr with ended := true }
      if gr.gflags.getLsbD 2 then
        writeRecord s {
          tag := gr.tag, kind := 2, status := if gr.err then 14 else 0, finish := s.gtc, queue := gr.queue }
      else s
    else s
  if (getGraph s g).ended && allDone gr true && !gr.closed then
    let s := unmapEntries s gr.mapped
    let s := setGraph s g { getGraph s g with mapped := [], tables := [], closed := true }
    dropTlbs s fun e => decide (e.asn = gr.asn)
  else s

/-- A node is done: graph errors end what is not dispatched, successors become ready, the graph may end. -/
def nodeDone (s : State) (g i status : Nat) (detail : Option W64) (task : Nat) : State :=
  let s := endNode s g i status detail task
  let s :=
    if graphError status then
      let s := setGraph s g { getGraph s g with err := true }
      endPending s g (List.range (getGraph s g).nodes.length)
    else s
  wakeNodes (endGraph (wakeNodes s) g)

/-! ### Ranking (R422, R423) -/

def effPrio (s : State) (nd : Node) : Nat := Nat.min 15 (nd.r.prio + (s.gtc - nd.readyAt) / (s.ref.age * 1000))

/-- The keys of R423, smaller first. -/
def rankKey (s : State) (gr : Graph) (i : Nat) (nd : Node) : List Nat :=
  [15 - effPrio s nd, if nd.r.deadline == 0 then 2 ^ 64 else nd.r.deadline.toNat, nd.r.eclass, nd.readyAt,
   gr.queue, gr.order, i]

def lexLt : List Nat → List Nat → Bool
  | a :: as, b :: bs => if a < b then true else if b < a then false else lexLt as bs
  | _, _ => false

/-- Insert by key into a list sorted by key. -/
def insKey {α : Type} (k : List Nat) (a : α) : List (List Nat × α) → List (List Nat × α)
  | [] => [(k, a)]
  | (k', b) :: t => if lexLt k k' then (k, a) :: (k', b) :: t else (k', b) :: insKey k a t

/-- Sort by key. -/
def sortKey {α : Type} : List (List Nat × α) → List (List Nat × α)
  | [] => []
  | (k, a) :: t => insKey k a (sortKey t)

/-- The nodes that satisfy a test, in rank order: (graph, node). -/
def ranked (s : State) (f : Node → Bool) : List (Nat × Nat) :=
  let all := s.ref.graphs.flatMap fun (g, gr) =>
    (List.range gr.nodes.length).filterMap fun i =>
      let nd := getNode gr i
      if f nd then some (rankKey s gr i nd, (g, i)) else none
  (sortKey all).map (·.2)

/-! ### Power (R426, R454) -/

/-- Whether a task holds clusters and committed watts. -/
def taskHolds (t : Task) : Bool :=
  match t.st with
  | .parked | .yielded | .ended => false
  | _ => true

def committed (s : State) : Nat := (s.ref.tasks.filter fun (_, t) => taskHolds t && decide (0 < t.nclus)).foldl (fun a (_, t) => a + t.watts) 0

def headroom (s : State) : Int := s.bur.budget - committed s

/-- The ceiling in W (R454): the module's rated maximum, or the provisioned value. -/
def ceilW : Nat := if Config.formM then 4800 else (Config.otpCeil.getD 180)

def sumNat (l : List Nat) : Nat := l.foldl (· + ·) 0

/-- `committed + w` stays at or below the ceiling less U (R454), exactly, U being an average over the samples. -/
def underCeil (s : State) (w : Nat) : Bool :=
  let n := Nat.max 1 s.bur.u.length
  decide (((committed s + w) * 1000 * n + sumNat s.bur.u) ≤ ceilW * 1000 * n)

/-! ### Clusters (R397, R427, R468) -/

def dieState (s : State) (d : Nat) : DieSt := tget (.free 0 false) s.bur.dies d

def dieUsable (s : State) (d : Nat) : Bool :=
  match dieState s d with
  | .powered | .free _ _ => true
  | _ => false

/-- The dies of a partition (R397). -/
def partDies (s : State) (p : Nat) : List Nat :=
  (List.range 16).filter fun d => decide (16 * p / s.mm.mode ≤ d ∧ d < 16 * (p + 1) / s.mm.mode)

/-- The free clusters of a partition's usable dies; every die has feature bit 0, and no other (R153). -/
def capable (s : State) (p : Nat) (feature : W32) : List Nat :=
  if feature &&& ~~~Config.features != 0 then []
  else (partDies s p).flatMap fun d =>
    if dieUsable s d then [2 * d, 2 * d + 1].filter fun k => (getCluster s k).task = 0 else []

/-! ### The entry chosen (R428) -/

structure Cand where
  e : Nat
  op : OpEntry
  deriving DecidableEq, Repr

/-- The first candidate of least measure. -/
def leastBy (f : Cand → Nat) : List Cand → Option Cand
  | [] => none
  | c :: cs =>
    match leastBy f cs with
    | some d => if f d < f c then some d else some c
    | none => some c

/-- The entries a node allows: opmask, and a fabric part's range of lids (R409, R433). -/
def allowed (k : Kernel) (nd : Node) : List Cand :=
  (List.range k.ops.length).filterMap fun e =>
    match k.ops[e]? with
    | some op =>
      if nd.r.opmask.getLsbD e && (!nd.r.nflags.getLsbD 5 || decide (nd.r.lbase + 96 * op.clusters ≤ nd.r.ntot))
          && (match nd.entry with | some x => decide (x = e) | none => true)
      then some { e := e, op := op } else none
    | none => none

/-- Which entry, and whether overdraw or late is flagged. -/
structure Choice where
  c : Cand
  overdraw : Bool
  late : Bool
  deriving DecidableEq, Repr

/-- R428, over the free clusters and the headroom that are left. -/
def chooseEntry (s : State) (k : Kernel) (nd : Node) (freeN : Nat) (head : Int) : Option Choice :=
  let C := (allowed k nd).filter fun c => decide (c.op.clusters ≤ freeN)
  let dl := nd.r.deadline.toNat
  let D := if dl = 0 then C else C.filter fun c => decide (s.gtc + 1000 * c.op.micros ≤ dl)
  let H := C.filter fun c => decide ((c.op.watts : Int) ≤ head)
  let DH := D.filter fun c => decide ((c.op.watts : Int) ≤ head)
  match leastBy (fun c => c.op.watts * c.op.micros) DH with
  | some c => some ⟨c, false, false⟩
  | none =>
    if dl ≠ 0 ∧ D ≠ [] ∧ nd.r.eclass ≤ 1 then
      (leastBy (fun c => c.op.watts) D).map fun c => ⟨c, true, false⟩
    else if dl ≠ 0 ∧ D = [] ∧ H ≠ [] then
      (leastBy (fun c => c.op.micros) H).map fun c => ⟨c, false, true⟩
    else none

/-! ### Dispatch (R431) -/

def imageOf (s : State) (gr : Graph) : Image := tget {} s.ref.images gr.image
def kernelOf (s : State) (gr : Graph) (nd : Node) : Kernel := (imageOf s gr).kernels.getD nd.r.kernel {}

/-- The hub barrier slots that a task takes: eight each of the partition and the device, and of the fabric (R75, R433). -/
def slotsOf (fabric : Bool) : Nat := if fabric then 24 else 16

/-- Hub barrier slots in use, of the 1,024 (R75). -/
def slotsUsed (s : State) : Nat :=
  s.ref.tasks.foldl (fun a (_, t) => if t.st == .ended || decide (t.nclus = 0) then a else a + slotsOf t.fabric) 0

/-- Start a cluster's transition to another vstep; one in progress goes on to it (R45). -/
def Cluster.moveTo (c : Cluster) (now k : Nat) : Cluster :=
  { c with moving := some k, moveAt := if c.moving.isSome then c.moveAt else now }

/-- Give clusters to a task, and start the vstep moves (R429). -/
def takeClusters (s : State) (task vstep : Nat) : List Nat → State
  | [] => s
  | k :: ks =>
    let c := getCluster s k
    let c := { c with task := task, moving := none }
    let s := setCluster s k (if c.vstep = vstep then c else c.moveTo s.gtc vstep)
    takeClusters { s with bur := { s.bur with dies := tput (.free 0 false) s.bur.dies (k / 2) .powered } } task vstep ks

/-- Graphs in flight (R407, R412). -/
def graphsInFlight (s : State) : List (Nat × Graph) := s.ref.graphs.filter fun (_, g) => !g.closed

/-- Runs that are not over. -/
def liveTasks (s : State) : List (Nat × Task) := s.ref.tasks.filter fun (_, t) => t.st != .ended

/-- An address-space number that no graph in flight and no run holds (R380). -/
def pickAsn (s : State) : Nat × State :=
  let l := (List.range 4096).filter fun a =>
    !((graphsInFlight s).any fun (_, g) => decide (g.asn = a)) && !(liveTasks s).any fun (_, t) => decide (t.asn = a)
  let (n, s) := takeFresh s
  (l.getD (Config.freeAsn n % l.length) 0, s)

/-- The address-space number of a new run: its graph's, or, where another run of the graph holds that, one of its own: two
tasks running or parked never share one (R380). -/
def runAsn (s : State) (gr : Graph) : Nat × State :=
  if (liveTasks s).any fun (_, t) => decide (t.asn = gr.asn) then pickAsn s else (gr.asn, s)

/-- The park controllers of a partition (R397). -/
def parkCtls (s : State) (p : Nat) : List Nat :=
  if s.mm.mode = 8 then [p / 2] else (List.range 4).filter fun c => decide (4 * p / s.mm.mode ≤ c ∧ c < 4 * (p + 1) / s.mm.mode)

/-- The HBM stacks of a partition (R397). -/
def partStacks (s : State) (p : Nat) : List Nat :=
  (List.range 8).filter fun k => decide (8 * p / s.mm.mode ≤ k ∧ k < 8 * (p + 1) / s.mm.mode)

/-- Bytes of the park image of one core of a kernel: fixed state, scratchpad and tags (R463). -/
def imageBytes (k : Kernel) : Nat :=
  let n := scrSize - sumNat (k.discs.map (·.2))
  786432 + n + ceilDiv n 64

/-- Ranges of park memory that runs hold: address and bytes. -/
def liveRanges (s : State) : List (Nat × Nat) := (liveTasks s).filterMap (·.2.range)

/-- A range of park memory for the images of a task of `n` bytes: the first that is free of what firmware reserves in the
controllers of the partition (R402, R427). -/
def parkRange (s : State) (p n : Nat) : Option (Nat × Nat) :=
  (parkCtls s p).findSome? fun c =>
    let (o, m) := Config.parkReserve c
    let base := (8 + c) * 2 ^ 47 + o
    let fits (a : Nat) : Bool :=
      decide (base ≤ a) && decide (a + n ≤ base + Nat.min m (parkCap c - o))
      && (liveRanges s).all fun r => decide (a + n ≤ r.1 ∨ r.1 + r.2 ≤ a)
    ((base :: (liveRanges s).map fun r => r.1 + r.2).find? fits).map fun a => (a, n)

/-- The range of a node's images under an entry. -/
def rangeFor (s : State) (gr : Graph) (k : Kernel) (clusters : Nat) : Option (Nat × Nat) :=
  parkRange s gr.part (96 * clusters * imageBytes k)

/-- Dispatch a node under an entry on the first clusters of a list. -/
def dispatch (s : State) (g i : Nat) (ch : Choice) (free : List Nat) : State :=
  let gr := getGraph s g
  let nd := getNode gr i
  let im := imageOf s gr
  let k := kernelOf s gr nd
  let range := rangeFor s gr k ch.c.op.clusters
  let (asn, s) := runAsn s gr
  let (id, s) := takeId s
  let cl := free.take ch.c.op.clusters
  let fab := nd.r.nflags.getLsbD 5
  let t : Task := {
    st := .dispatched, graph := g, node := i, asn := asn, root := gr.root, image := gr.image, kernel := k, range := range
    codeVa := im.vbase + BitVec.ofNat 64 im.codeOff
    poolVa := im.vbase + BitVec.ofNat 64 (im.poolOff + 8 * k.poolBase)
    entry := ch.c.e, watts := ch.c.op.watts, vstep := ch.c.op.vstep
    clusters := cl, nclus := ch.c.op.clusters
    lbase := if fab then nd.r.lbase else 0
    n := if fab then nd.r.ntot else 96 * ch.c.op.clusters
    det := nd.r.nflags.getLsbD 0, detfault := nd.r.nflags.getLsbD 1, norestart := nd.r.nflags.getLsbD 2
    persist := nd.r.nflags.getLsbD 3, yieldable := nd.r.nflags.getLsbD 4, fabric := fab
    repIndex := nd.repIndex, repCount := nd.repCount, deadline := nd.r.deadline
    late := ch.late, overdraw := ch.overdraw, restarted := nd.restarted, start := s.gtc }
  let s := { s with
    bur := { s.bur with overs := if ch.overdraw then s.bur.overs ++ [(id, s.gtc)] else s.bur.overs } }
  let s := setTask s id t
  let s := setNode s g i { nd with st := .running, task := id }
  takeClusters s id t.vstep cl

/-- f(k) in hundredths (R445). -/
def fTab : List Nat := [100, 88, 77, 67, 58, 49, 41, 34, 27, 23, 19, 15]

/-- The vstep of a task's entry. -/
def entryVstep (t : Task) : Nat := match t.kernel.ops[t.entry]? with
  | some e => e.vstep
  | none => 0

/-- The vstep at which a task resumes under a headroom: the lowest-numbered one, not below its entry's, at which the
estimate of R445 for its watts lies within the headroom (R426, R435). -/
def resumeStep (t : Task) (head : Int) : Option Nat :=
  ((List.range 12).drop (entryVstep t)).find? fun k =>
    decide (((t.watts * fTab.getD k 15 : Nat) : Int) ≤ head * (fTab.getD (entryVstep t) 15 : Nat))

/-- Resume a yielded task on other clusters, with its entry, at a vstep (R435). -/
def resumeYield (s : State) (g i : Nat) (free : List Nat) (k : Nat) : State :=
  let nd := getNode (getGraph s g) i
  let t := getTask s nd.task
  let cl := free.take t.nclus
  let s := setTask s nd.task { t with st := .restoring, clusters := cl, yldReq := false, vstep := k }
  let s := setNode s g i { nd with st := .running }
  takeClusters s nd.task k cl

/-! ### Evaluation (R423 to R425, R434) -/

/-- What a reserving node keeps: by partition the clusters held back, and the headroom held back. -/
structure Reserve where
  parts : List (Nat × Nat)
  head : Int
  deriving DecidableEq, Repr

def reservedIn (r : Reserve) (p : Nat) : Nat := (r.parts.filter fun (q, _) => q = p).foldl (fun a (_, n) => a + n) 0

/-- Want gated dies powered for a task released, or, as 0, for a dispatch that lacks clusters (R468): the longest gated of
those that no release wants, for `n` clusters; a task released takes those that a park gated before any other (DEDUCED from the
worked example of 14_bursar_budget.md, log entry 136). -/
def wantDies (s : State) (p n task : Nat) : State :=
  let gated := (partDies s p).filterMap fun d =>
    match dieState s d with
    | .gated a =>
      if s.bur.wanted.any fun e => e.1 = d && e.2 ≠ 0 then none
      else some ([if task ≠ 0 ∧ !s.bur.parkDies.contains d then 1 else 0, a, d], d)
    | _ => none
  let ds := ((sortKey gated).map (·.2)).take ((n + 1) / 2)
  { s with bur := { s.bur with wanted := (s.bur.wanted.filter fun e => !ds.contains e.1) ++ ds.map fun d => (d, task) } }

/-- The lowest-ranked yieldable running task below a priority whose clusters would be enough (R434). -/
def yieldVictim (s : State) (prio need freeN p : Nat) : Option Nat :=
  let l := ranked s fun nd =>
    nd.st == .running && (getTask s nd.task).yieldable && (getTask s nd.task).st == .running
    && decide (effPrio s nd < prio)
    && decide (need ≤ freeN + (getTask s nd.task).clusters.length)
    && decide ((getGraph s (getTask s nd.task).graph).part = p)
  (l.getLast?).map fun (g, i) => (getNode (getGraph s g) i).task

def requestYield (s : State) (prio need freeN p : Nat) : State :=
  match yieldVictim s prio need freeN p with
  | some t => setTask s t { getTask s t with yldReq := true }
  | none => s

def minNat (d : Nat) : List Nat → Nat
  | [] => d
  | a :: as => Nat.min a (minNat d as)

/-- Try one node (R427, R428, R454): one that yielded, or that restarts from a park image (R442), resumes its task. -/
def tryNode (s : State) (r : Reserve) (g i : Nat) : State × Reserve :=
  let gr := getGraph s g
  let nd := getNode gr i
  let k := kernelOf s gr nd
  let cap := capable s gr.part k.feature
  let freeN := cap.length - reservedIn r gr.part
  let head := headroom s - r.head
  let back := nd.st == .yielded || nd.image.isSome
  let need :=
    if back then (getTask s nd.task).nclus else minNat 1000 ((allowed k nd).map fun c => c.op.clusters)
  let fail (s : State) : State × Reserve :=
    let s := if decide (freeN < need) then requestYield (wantDies s gr.part (need - freeN) 0) (effPrio s nd) need freeN gr.part else s
    if decide (effPrio s nd = 15) && decide (reservedIn r gr.part = 0) then
      (s, { parts := (gr.part, need) :: r.parts,
            head := r.head + (minNat (2 ^ 32) ((allowed k nd).map fun c => c.op.watts) : Nat) })
    else (s, r)
  if back then
    let t := getTask s nd.task
    match (if t.nclus ≤ freeN ∧ underCeil s t.watts then resumeStep t head else none) with
    | some v => (resumeYield s g i cap v, r)
    | none => fail s
  else if slotsUsed s + slotsOf (nd.r.nflags.getLsbD 5) > 1024 ∨ 2 ^ 32 ≤ s.ref.nextTask then (s, r)
  else
    match chooseEntry s k nd freeN head with
    | some ch =>
      if !underCeil s ch.c.op.watts then fail s
      else if (rangeFor s gr k ch.c.op.clusters).isNone then (s, r)
      else (dispatch s g i ch cap, r)
    | none => fail s

def tryAll (s : State) (r : Reserve) : List (Nat × Nat) → State
  | [] => s
  | (g, i) :: l => let (s, r) := tryNode s r g i; tryAll s r l

/-- An evaluation: every ready or yielded node in rank order. What dispatches need of gated dies is found afresh. -/
def evaluate (s : State) : State :=
  let s := { s with ref := { s.ref with again := false }, bur := { s.bur with wanted := s.bur.wanted.filter fun e => e.2 ≠ 0 } }
  tryAll s { parts := [], head := 0 } (ranked s fun nd => nd.st == .ready || nd.st == .yielded)

/-! ### The end of a launch -/

/-- Free a task's clusters (R432): their dies become free where both clusters are (R468). -/
def freeClusters (s : State) (shed : Bool) : List Nat → State
  | [] => s
  | k :: ks =>
    let c := getCluster s k
    let s := setCluster s k { c with task := 0, moving := none }
    let s :=
      if (getCluster s (k / 2 * 2)).task = 0 ∧ (getCluster s (k / 2 * 2 + 1)).task = 0 ∧ dieUsable s (k / 2) then
        { s with bur := { s.bur with dies := tput (.free 0 false) s.bur.dies (k / 2) (.free s.gtc shed) } }
      else s
    freeClusters s shed ks

/-- A core that no task runs on keeps its micro-TLB. -/
def offCore (k : Core) : Core := { utlb := k.utlb }

/-- Turn off the cores of a list of clusters; their watches leave the ports, and responses to them are not awaited. -/
def coresOff (s : State) (cl : List Nat) : State :=
  let mine (c : Nat) : Bool := cl.contains (c / 96) && !isPrologue c
  { s with
    cores := (s.cores.map fun (c, k) => (c, if mine c then offCore k else k)).filter fun (_, k) => decide (k ≠ {})
    vol := { s.vol with fly := s.vol.fly.filter fun r => !mine r.origin.core }
    pro := { s.pro with watches := s.pro.watches.filter fun w => !mine w.core } }

/-- Every TLB entry of a list of clusters is dropped; counters fold (R387, R392). -/
def dropClusterTlbs (s : State) (cl : List Nat) : State :=
  let gone := s.cores.flatMap fun (c, k) => if cl.contains (c / 96) && !isPrologue c then k.utlb else []
  let s := { s with
    cores := s.cores.map fun (c, k) => (c, if cl.contains (c / 96) && !isPrologue c then { k with utlb := [] } else k)
    clusters := s.clusters.map fun (i, k) => (i, if cl.contains i then { k with tlb := [] } else k) }
  foldAll s gone

/-- The clusters of the dies on which a list of clusters lies. -/
def wholeDies (cl : List Nat) : List Nat := (List.range 32).filter fun k => cl.any fun c => decide (c / 2 = k / 2)

/-- The Bursar and the Proctor wait for nothing of a launch that is over; no die is powered for it (R461). -/
def forgetTask (s : State) (task : Nat) : State :=
  { s with
    pro := if s.pro.task = task then { s.pro with stopped := false, armed := false } else s.pro
    bur := { s.bur with
      parkedQ := s.bur.parkedQ.filter (· ≠ task), releasing := s.bur.releasing.filter (· ≠ task)
      wanted := s.bur.wanted.filter fun e => e.2 ≠ task ∨ task = 0
      grades := s.bur.grades.map fun g => { g with left := g.left.filter (· ≠ task) } } }

/-- A launch ends with a status (R415, R421, R432): record, next repetition or node done, clusters freed. -/
def launchOver (s : State) (task status : Nat) (detail : Option W64) (shed : Bool) : State :=
  let t := getTask s task
  let nd := getNode (getGraph s t.graph) t.node
  let late := t.late || (t.deadline != 0 && decide (t.deadline.toNat < s.gtc))
  let s := ((s.cores.filter fun (c, k) => decide (k.task = task) && !isPrologue c) ++ t.saved).foldl (fun s (_, k) => handOver s k) s
  let s := closeTask (setTask s task { t with late := late }) task
  let s := ((s.cores.filter fun (_, k) => k.task = task).map (·.1)).foldl dropHeld (dropParked s task)
  let s := if shed then dropClusterTlbs s (wholeDies t.clusters) else s
  let s := coresOff (freeClusters s shed t.clusters) t.clusters
  let s :=
    if decide (status ≤ 1) && decide (nd.repIndex + 1 < nd.repCount) then
      let s := nodeRecord s t.graph t.node status detail task
      setNode s t.graph t.node { nd with st := .ready, repIndex := nd.repIndex + 1, readyAt := s.gtc, restarted := false, entry := none }
    else nodeDone s t.graph t.node status detail task
  evalSoon (forgetTask s task)

/-- The effective priorities of the nodes not dispatched have changed since the last aging evaluation (R422, R425). -/
def agingDue (s : State) : Bool :=
  s.ref.graphs.any fun (_, gr) => gr.nodes.any fun nd =>
    (nd.st == .ready || nd.st == .yielded)
    && decide (effPrio s nd ≠ effPrio { s with gtc := s.ref.agedAt, ref := { s.ref with age := s.ref.agedWith } } nd)

/-- The Referee evaluates in a cycle in which an effective priority has changed (R425). -/
def ageNow (s : State) : State :=
  if agingDue s then evalSoon { s with ref := { s.ref with agedAt := s.gtc, agedWith := s.ref.age } } else s

/-- AGING_TICK: an effective priority has changed. -/
def execAgingTick (s : State) : Host.Outcome State Fault Refusal := .next (ageNow s)

/-- A prologue ends its node with status 3 or 7 (R419, R420). -/
def prologueOver (s : State) (p status : Nat) : State :=
  match s.ref.pros.find? fun e => e.1 = p with
  | none => s
  | some (_, g, i) => nodeDone s g i status none (getNode (getGraph s g) i).task

end Sys2Proof.Machine
end

