-- ==== Sys2Proof/Machine/Ops.lean ====
section
/-! DEFINITION. The named operations over a core: registers, taking a fault of either level and returning from one
(R46 to R53, R216 to R219), tags (R66, R67), race checks (R92 to R98), watchpoint matches (R500 to R505), stores. -/

namespace Sys2Proof.Machine

/-! ### The current core and strand -/

def cc (s : State) : Core := getCore s s.cur
def setCC (s : State) (k : Core) : State := setCore s s.cur k
def getStrand (k : Core) (n : Nat) : Strand := tget {} k.strands n
def setStrand (k : Core) (n : Nat) (t : Strand) : Core := { k with strands := tset k.strands n t }
/-- The current strand of the current core. -/
def cst (s : State) : Strand := getStrand (cc s) (cc s).cs
def setCst (s : State) (t : Strand) : State := setCC s (setStrand (cc s) (cc s).cs t)
def curTask (s : State) : Task := getTask s (cc s).task
def curCyc (s : State) : Nat := cycOf s s.cur

/-- The present wait of an agent is new, or has ended (R499). -/
def unopen (k : Core) (a : Nat) : Core := { k with opened := k.opened.filter (· ≠ a) }

def getEng (k : Core) (q : Nat) : Eng := tget {} k.eng q
def setEng (k : Core) (q : Nat) (e : Eng) : Core := { k with eng := tset k.eng q e }

/-! ### Registers of a strand (R162) -/

/-- `x0` reads zero. -/
def xget (t : Strand) (r : Nat) : W64 := if r = 0 then 0 else tget 0 t.x r
/-- A write to `x0` is discarded. -/
def xset (t : Strand) (r : Nat) (v : W64) : Strand := if r = 0 then t else { t with x := tput 0 t.x r v }
/-- `p0` is always true. -/
def pget (t : Strand) (p : Nat) : Bool := decide (p = 0) || t.p.getLsbD p
/-- Predicate register `p` of a file set to a Bool; `p0` keeps. -/
def pput (f : BitVec 8) (p : Nat) (b : Bool) : BitVec 8 :=
  if p = 0 then f else if b then f ||| (1#8 <<< p) else f &&& ~~~(1#8 <<< p)
def pset (t : Strand) (p : Nat) (b : Bool) : Strand := { t with p := pput t.p p b }
def wget (t : Strand) (n : Nat) : WComp := tget {} t.w n
def wset (t : Strand) (n : Nat) (v : WComp) : Strand := { t with w := tput {} t.w n v }

/-- The value of a source register of the current strand. -/
def rx (s : State) (r : Reg) : W64 := xget (cst s) r.toNat
/-- Write a destination register of the current strand. -/
def wx (s : State) (r : Reg) (v : W64) : State := setCst s (xset (cst s) r.toNat v)

/-- Rotation of x24 to x31 (R189, R191). -/
def rotate (t : Strand) : Strand :=
  let v (i : Nat) : W64 := xget t i
  xset (xset (xset (xset (xset (xset (xset (xset t 24 (v 31)) 25 (v 24)) 26 (v 25)) 27 (v 26)) 28 (v 27)) 29 (v 28)) 30 (v 29)) 31 (v 30)

/-! ### Live strands (R208, R211, R212) -/

/-- The strand reserved for faults (R22). -/
def hasFaultStrand (s : State) (k : Core) : Bool := (getTask s k.task).kernel.onfault.isSome

def isFaultStrand (s : State) (k : Core) (n : Nat) : Bool := decide (n = 3) && hasFaultStrand s k

/-- Started and not exited, and not the fault strand. -/
def liveStrand (s : State) (k : Core) (n : Nat) : Bool :=
  (getStrand k n).run != .idle && !isFaultStrand s k n

def liveStrands (s : State) (k : Core) : List Nat := (List.range 4).filter (liveStrand s k)

/-- The fault strand is running (R212, R227). -/
def faultRunning (k : Core) : Bool := k.handling.isSome || !k.pendRecs.isEmpty

/-! ### Words issued and not completed -/

/-- Every word an engine has issued and not completed. -/
def flying (k : Core) (q : Nat) : List Issued :=
  match q with
  | 0 => k.vec.fly.map (·.i)
  | 1 => k.mat.fly.map (·.i)
  | 2 => k.gen.fly.map (·.i)
  | _ => k.cpy.run.toList

/-- Words that have issued and can still complete: a word stopped by its own fault cannot. -/
def flyingBusy (k : Core) (q : Nat) : List Issued := (flying k q).filter fun i => !i.faulted

def wordsOf : List QEntry → List QWord
  | [] => []
  | .word w :: t => w :: wordsOf t
  | .marker _ _ :: t => wordsOf t

def queued (k : Core) (q : Nat) : List QWord := wordsOf (getEng k q).q

/-- Words of a queue not yet complete, queued or issued. -/
def incomplete (k : Core) (q : Nat) : List QWord := (flying k q).map (·.w) ++ queued k q

/-- Every queue is empty and every word has completed (R44, R227). -/
def drained (k : Core) : Bool := (List.range 4).all fun q => (flying k q).isEmpty && (getEng k q).q.isEmpty

/-- No queue holds a word of a strand and every such word has completed (R212). -/
def drainedOf (k : Core) (n : Nat) : Bool :=
  (List.range 4).all fun q => (incomplete k q).all fun w => decide (w.strand ≠ n)

/-! ### Markers (R40) -/

/-- Take out of a queue every marker whose earlier words have all completed. -/
def dropMarkers (fly : List QWord) : List QEntry → List QEntry
  | [] => []
  | .marker n sq :: t =>
    if fly.all fun w => decide (sq < w.seq) then dropMarkers fly t else .marker n sq :: dropMarkers fly t
  | .word w :: t => .word w :: dropMarkers (w :: fly) t

def settleMarkers (k : Core) (q : Nat) : Core :=
  let e := getEng k q
  setEng k q { e with q := dropMarkers ((flying k q).map (·.w)) e.q }

/-- Whether a queue holds a marker of a strand. -/
def hasMarker (k : Core) (q n : Nat) : Bool :=
  (getEng k q).q.any fun
    | .marker m _ => decide (m = n)
    | .word _ => false

/-! ### Queue entries (R27, R199) -/

def depth (q : Nat) : Nat := match q with | 0 => 64 | 1 => 32 | 2 => 32 | _ => 64

/-- Entries of a queue in use: a word that has issued before has left its entry. -/
def usedEntries (k : Core) (q : Nat) : Nat :=
  ((getEng k q).q.filter fun
    | .word w => !w.held
    | .marker _ _ => true).length

def freeEntries (k : Core) (q : Nat) : Nat := depth q - usedEntries k q

/-- Free entries held for strands that wait (R199), other than strand `n`. -/
def heldFor (k : Core) (q : Nat) : Nat := Nat.min (freeEntries k q) (getEng k q).waiters.length

/-- The position of a strand among the waiters of a queue. -/
def waiterPos (l : List Nat) (n : Nat) : Nat → Option Nat
  | i => match l with
    | [] => none
    | m :: t => if m = n then some i else waiterPos t n (i + 1)

/-- Strand `n` may take an entry: as many entries are free as waiters stand before it, and one more. -/
def mayTake (k : Core) (q n : Nat) : Bool :=
  let e := getEng k q
  match waiterPos e.waiters n 0 with
  | some i => decide (i < freeEntries k q)
  | none => decide (e.waiters.length < freeEntries k q)

def addWaiter (k : Core) (q n : Nat) : Core :=
  let e := getEng k q
  if e.waiters.contains n then k else setEng k q { e with waiters := e.waiters ++ [n] }

def dropWaiter (k : Core) (q n : Nat) : Core :=
  let e := getEng k q
  setEng k q { e with waiters := e.waiters.filter (· ≠ n) }

/-! ### Token links (R35, R38) -/

def linkEE (src dst : Nat) : Nat := 5 * src + dst
def linkCE (q : Nat) : Nat := 20 + q
def linkEC (q : Nat) : Nat := 25 + q
/-- The link a word of engine `q` pops from, and the one it pushes to, for a partner code (R36). -/
def popLink (q p : Nat) : Nat := if p = q then linkCE q else linkEE p q
def pushLink (q p : Nat) : Nat := if p = q then linkEC q else linkEE q p

def tokens (k : Core) (l : Nat) : List Tok := tget [] k.links l
def linkFree (k : Core) (l : Nat) : Nat := 16 - (tokens k l).length - tget 0 k.resv l
def pushTok (k : Core) (l : Nat) (t : Tok) : Core := { k with links := tput [] k.links l (tokens k l ++ [t]) }
def popTok (k : Core) (l : Nat) : Core := { k with links := tput [] k.links l (tokens k l).tail }
def reserve (k : Core) (l : Nat) : Core := { k with resv := tput 0 k.resv l (tget 0 k.resv l + 1) }
def unreserve (k : Core) (l : Nat) : Core := { k with resv := tput 0 k.resv l (tget 0 k.resv l - 1) }

/-! ### Taking a fault (R46 to R53) -/

/-- The place of a fault among those of one cycle (R50): engines V, M, G and X, then strands 0 to 3. -/
def recRank (t : Trap) : Nat := if t.level = 2 then t.engine.toNat else 4 + t.strand.toNat

/-- The records of the cycle that a record of rank `r` goes before; its sequence number, `next` where there are none. -/
def laterRecs (r : Nat) (l : List Trap) : List Trap := l.filter fun u => decide (r < recRank u)
def recNumber (r : Nat) (next : W32) (l : List Trap) : W32 := ((laterRecs r l).head?.map (·.seq)).getD next

/-- A record one place later, where it is among those that move. -/
def bumpRec (later : List Trap) (t : Trap) : Trap := if later.contains t then { t with seq := t.seq + 1 } else t
def bumpPending (later : List Trap) (p : Pending) : Pending := { p with trap := bumpRec later p.trap }

/-- The record as R50 numbers it among those of its cycle. -/
def numbered (k : Core) (t : Trap) : Trap := { t with seq := recNumber (recRank t) k.recSeq k.newRecs }

/-- A record takes its place among those of its cycle, and what comes after it moves on (R50, R53). -/
def addRecord (k : Core) (t : Trap) : Core :=
  let later := laterRecs (recRank t) k.newRecs
  { k with
    recSeq := k.recSeq + 1
    newRecs := k.newRecs.filter (fun u => !later.contains u) ++ numbered k t :: later.map (bumpRec later)
    pendRecs := k.pendRecs.map (bumpPending later), handling := k.handling.map (bumpPending later)
    verdicts := k.verdicts.map fun v => { v with p := bumpPending later v.p } }

/-- Record a fault: sequence number, task count, the records of the cycle. A prologue's record goes to the hub at once
where its buffer has room, and waits for room otherwise (R478). -/
def putRecord (s : State) (c : Nat) (t : Trap) : State :=
  let k := getCore s c
  let s := setTask s k.task { getTask s k.task with traps := (getTask s k.task).traps + 1 }
  if !isPrologue c then setCore s c (addRecord k t)
  else
    let s := setCore s c { k with recSeq := k.recSeq + 1 }
    if trapRoom s then trapAdd s t else setCore s c { getCore s c with outRecs := [t] }

/-- End a task with a status, unless it is already ending. -/
def endTask (s : State) (task status : Nat) (detail : Option W64) : State :=
  let t := getTask s task
  match t.ending with
  | some _ => s
  | none => setTask s task { t with ending := some (status, detail) }

/-- A core stops issuing because its node ends; a frozen core stays frozen. `now` is the cycle of the fault. -/
def endRun (k : Core) (now : Nat) : Core :=
  if k.run == .frozen then { k with was := .ending } else { k with run := .ending, endAt := now }

/-- The core issues in this cycle: it runs, or the fault that ends its issuing is of this cycle. -/
def issuing (k : Core) (now : Nat) : Bool := k.run == .on || (k.run == .ending && decide (k.endAt = now))

/-- The core is in word-fault hold, from the cycle after the fault (R48). -/
def inHold (k : Core) (now : Nat) : Bool := k.hold && decide (k.holdAt < now)

/-- What follows a record: the fault strand will handle it, or the node ends (R47 to R49, R420). -/
def afterRecord (s : State) (c : Nat) (p : Pending) (byFaultStrand : Bool) : State :=
  if isPrologue c then if (getCore s c).outRecs.isEmpty then prologueOver s (c - 3072) 7 else s
  else
    let k := getCore s c
    if byFaultStrand then
      endTask (setCore s c { endRun k (cycOf s c) with handling := none, pendRecs := [] }) k.task 2 none
    else if hasFaultStrand s k then setCore s c { k with pendRecs := k.pendRecs ++ [p] }
    else endTask (setCore s c (endRun k (cycOf s c))) k.task 2 none

/-- The trap record of a level 1 fault (R52). -/
def trap1 (s : State) (c n : Nat) (f : Flt) : Trap :=
  let k := getCore s c
  let pc := (getStrand k n).pc
  { gtc := BitVec.ofNat 64 s.gtc, task := BitVec.ofNat 32 k.task, seq := k.recSeq
    lid := if isPrologue c then 0xFFFF else BitVec.ofNat 16 k.lid
    strand := if isPrologue c then BitVec.ofNat 8 (c - 3072) else BitVec.ofNat 8 n
    level := 1, code := f.code, engine := 0xFF, pc := pc, position := pc, eseq := 0, tmpl := 0xFFFF
    addr := f.addr, detail := f.detail }

/-- The strand waits for no queue entry any more (R199). -/
def dropWaits (k : Core) (n : Nat) : Core := [0, 1, 2, 3].foldl (fun k q => dropWaiter k q n) k

/-- Take a level 1 fault on strand `n` of core `c`: the strand stops at its instruction, a record is written, and the
fault strand or the end of the node follows (R46, R47, R49). `word` is the C-word. -/
def raise1 (s : State) (c n : Nat) (f : Flt) (word : W32) : State :=
  let k := getCore s c
  let t := numbered k (trap1 s c n f)
  let fs := isFaultStrand s k n
  let s := setCore s c (dropWaits (setStrand k n { getStrand k n with run := .faulted, flight := none, fetched := none }) n)
  let s := putRecord s c t
  afterRecord s c { trap := t, word := word.setWidth 64, prog := 0, issued := false } fs

/-- The trap record of a level 2 fault (R48, R52). -/
def trap2 (s : State) (c q : Nat) (w : QWord) (f : Flt) : Trap :=
  let k := getCore s c
  { gtc := BitVec.ofNat 64 s.gtc, task := BitVec.ofNat 32 k.task, seq := k.recSeq, lid := BitVec.ofNat 16 k.lid
    strand := BitVec.ofNat 8 w.strand, level := 2, code := f.code, engine := BitVec.ofNat 8 q, pc := w.pc
    position := (getStrand k w.strand).pc, eseq := w.eseq, tmpl := w.tmpl, addr := f.addr, detail := f.detail }

/-- Mark an issued word as faulted, where it is the word of a place in emission order. -/
def markIf (seq : Nat) (i : Issued) : Issued := if i.w.seq = seq then { i with faulted := true } else i

/-- The word of a place in emission order has faulted after its issue (R39). -/
def markFaulted (k : Core) (q seq : Nat) : Core :=
  match q with
  | 0 => { k with vec := { k.vec with fly := k.vec.fly.map fun v => { v with i := markIf seq v.i } } }
  | 1 => { k with mat := { k.mat with fly := k.mat.fly.map fun v => { v with i := markIf seq v.i } } }
  | 2 => { k with gen := { k.gen with fly := k.gen.fly.map fun v => { v with i := markIf seq v.i } } }
  | _ => { k with cpy := { k.cpy with run := k.cpy.run.map (markIf seq) } }

/-- Take a level 2 fault: the engine stops, the core enters word-fault hold, a record is written (R48). A word of the
fault strand does not exist, so a fault while it runs waits its turn; `issued` says the word had issued (R39). -/
def raise2 (s : State) (c q : Nat) (w : QWord) (f : Flt) (issued : Bool) (prog : W64) : State :=
  let k := getCore s c
  let t := numbered k (trap2 s c q w f)
  let k' := if issued then markFaulted k q w.seq else k
  let s := setCore s c { setEng k' q { getEng k q with stop := true } with hold := true, holdAt := if k.hold then k.holdAt else cycOf s c }
  let s := putRecord s c t
  let p : Pending := { trap := t, word := w.bits, prog := prog, issued := issued }
  let k := getCore s c
  if hasFaultStrand s k then setCore s c { k with pendRecs := k.pendRecs ++ [p] }
  else endTask (setCore s c (endRun k (cycOf s c))) k.task 2 none

/-! ### The end of a hold, for what was waiting (R219, R499) -/

/-- The queues' next intervals count from the end of the hold in a timed section (R219). -/
def rebaseQueues (k : Core) (now : Nat) : Core :=
  if k.timed then
    { k with eng := [0, 1, 2, 3].foldl (fun t q => tset t q { tget {} k.eng q with base := some (now : Int) }) k.eng }
  else k

/-- The cycles that a wait begun at `c0` has lasted: those of a hold do not count (R499). -/
def waitCycles (k : Core) (now c0 : Nat) : Nat := (if k.hold then Nat.min now k.holdAt else now) - c0

/-- A hold ends at `now`: waits go on as if it had taken no time, and the queues count from its end (R219, R499). -/
def leaveHold (k : Core) (now : Nat) : Core :=
  let shift (c0 : Nat) : Nat := c0 + (now - Nat.max c0 k.holdAt)
  rebaseQueues { k with
    hold := false
    eng := k.eng.map fun (q, e) => (q, { e with wait := e.wait.map fun (a, b, c0) => (a, b, shift c0) })
    cpy := { k.cpy with since := k.cpy.since.map shift }
    strands := k.strands.map fun (n, t) => (n, { t with flag := t.flag.map fun (w, c0) => (w, shift c0) }) } now

/-! ### Handing records over (R48, R478) -/

/-- A level 2 record with the conductor position as the cycle leaves it (R48). -/
def placeRec (k : Core) (t : Trap) : Trap :=
  if t.level = 2 then { t with position := (getStrand k t.strand.toNat).pc } else t

/-- At the end of a cycle: positions are settled, and the records of the cycle join those for the hub. -/
def settleRecs (k : Core) : Core :=
  if k.newRecs.isEmpty then k
  else
    let fix (p : Pending) : Pending := if k.newRecs.contains p.trap then { p with trap := placeRec k p.trap } else p
    { k with
      newRecs := [], outRecs := k.outRecs ++ k.newRecs.map (placeRec k), pendRecs := k.pendRecs.map fix
      handling := k.handling.map fix, verdicts := k.verdicts.map fun v => { v with p := fix v.p } }

/-- A level 2 fault keeps the core in hold (R48). -/
def wordHold (k : Core) : Bool :=
  k.eng.any (fun (_, e) => e.stop) || k.handling.isSome || !k.pendRecs.isEmpty || !k.verdicts.isEmpty

/-- A core hands its oldest record to the hub buffer, where there is room; a core in hold for want of room goes on once
none is left. A prologue then ends (R420). -/
def drainCore (s : State) (c : Nat) : State :=
  match (getCore s c).outRecs with
  | [] => s
  | t :: rest =>
    if trapRoom s then
      let k := getCore s c
      let k := { k with outRecs := rest }
      let s := trapAdd (setCore s c (if k.hold && rest.isEmpty && !wordHold k then leaveHold k (cycOf s c) else k)) t
      if isPrologue c && rest.isEmpty then prologueOver s (c - 3072) 7 else s
    else s

/-- A full hub buffer keeps the core in hold (R478). -/
def holdForRoom (s : State) (c : Nat) : State :=
  let k := getCore s c
  if k.outRecs.isEmpty || k.hold then s else setCore s c { k with hold := true, holdAt := cycOf s c }

/-- The end of a cycle of a core, for its records. -/
def deliverRecs (s : State) (c : Nat) : State :=
  let s := setCore s c (settleRecs (getCore s c))
  holdForRoom ((getCore s c).outRecs.foldl (fun s _ => drainCore s c) s) c

def drainOut (s : State) : State :=
  ((s.cores.filter fun (_, k) => !k.outRecs.isEmpty).flatMap fun (c, k) => k.outRecs.map fun _ => c).foldl drainCore s

/-! ### The fault strand and the return from a fault (R216 to R219) -/

/-- Every issued word has completed (R48). -/
def holdQuiet (k : Core) : Bool := (List.range 4).all fun q => (flyingBusy k q).isEmpty

/-- The pending record of least sequence number first (R216). -/
def nextRecord : List Pending → Option (Pending × List Pending)
  | [] => none
  | p :: t =>
    match nextRecord t with
    | some (q, r) => if p.trap.seq.toNat ≤ q.trap.seq.toNat then some (p, t) else some (q, p :: r)
    | none => some (p, t)

/-- Start the fault strand on a record (R216). -/
def startHandling (s : State) (c : Nat) (p : Pending) (rest : List Pending) : State :=
  let k := getCore s c
  let t := getTask s k.task
  let entry := t.codeVa + BitVec.ofNat 64 (t.kernel.onfault.getD 0)
  let old := getStrand k 3
  let st : Strand := { run := .ready, pc := entry, eseq := old.eseq, w := old.w }
  setCore s c { setStrand k 3 st with handling := some p, pendRecs := rest, fltWord := p.word, fltPc := p.trap.pc }

/-- A null word with the token byte and IDLE of another word (R141, R218). -/
def nullBits (w : W64) : W64 := (0x01#8 ++ w.extractLsb' 50 6 ++ 0#40 ++ w.extractLsb' 0 10)

/-- A token byte that R37 accepts. -/
def tokenOk (w : W64) : Bool := (w.getLsbD 55 || w.extractLsb' 53 2 == 0) && (w.getLsbD 52 || w.extractLsb' 50 2 == 0)

/-- The push link of a word of engine `q`, where it has one. -/
def wordPush (q : Nat) (w : W64) : Option Nat := if w.getLsbD 52 then some (pushLink q (w.extractLsb' 50 2).toNat) else none
def wordPop (q : Nat) (w : W64) : Option Nat := if w.getLsbD 55 then some (popLink q (w.extractLsb' 53 2).toNat) else none

/-- Replace the first word of a queue. -/
def headWord (f : QWord → Option QWord) : List QEntry → List QEntry
  | [] => []
  | .word w :: t => match f w with
    | some w' => .word w' :: t
    | none => t
  | .marker n sq :: t => .marker n sq :: headWord f t

/-- Write a reserved push token, as a word leaves (R38, R39). -/
def retirePush (k : Core) (i : Issued) : Core :=
  match i.push with
  | some l => pushTok (unreserve k l) l { strand := i.w.strand, eseq := i.w.eseq }
  | none => k

/-- Take the faulted word out of a list of issued words. -/
def dropFaulted {α : Type} (f : α → Issued) (l : List α) : List α := l.filter fun a => !(f a).faulted

/-- Take the word that faulted after its issue out of its engine. -/
def dropFlying (k : Core) (q : Nat) : Core :=
  match q with
  | 0 => { k with vec := { k.vec with fly := dropFaulted (·.i) k.vec.fly } }
  | 1 => { k with mat := { k.mat with fly := dropFaulted (·.i) k.mat.fly } }
  | 2 => { k with gen := { k.gen with fly := dropFaulted (·.i) k.gen.fly } }
  | _ => { k with cpy := { tab := k.cpy.tab } }

/-- The word of an engine that faulted after its issue. -/
def faultFlying (k : Core) (q : Nat) : Option Issued := (flying k q).find? fun i => i.faulted

/-- What one verdict does to a word that faulted (R39, R218). A word that had issued issues again from the head of its
queue with its token actions taken (R343); a copy word resumes at its piece (R376). -/
def verdict2 (k : Core) (v : Verdict) : Core :=
  let q := v.p.trap.engine.toNat
  let watch := decide (v.p.trap.code = 0x0060)
  let e := getEng k q
  if v.p.issued then
    match faultFlying k q with
    | none => k
    | some i =>
      if v.code = 1 then settleMarkers (dropFlying (retirePush k i) q) q
      else if v.code = 0 ∧ q = 3 then { k with cpy := { k.cpy with run := some { i with faulted := false } } }
      else
        let w := { i.w with bits := if v.code = 2 then v.word else i.w.bits, noWatch := watch, held := true, resv := i.push }
        setEng (dropFlying k q) q { e with q := .word w :: e.q }
  else if v.code = 1 then
    let f (w : QWord) : Option QWord :=
      if w.held then some { w with bits := nullBits (w.bits &&& 0xFF03FFFFFFFFFFFF), skipped := true, snaps := [] }
      else if tokenOk w.bits then some { w with bits := nullBits w.bits, skipped := true, snaps := [] } else none
    settleMarkers (setEng k q { e with q := headWord f e.q }) q
  else
    setEng k q { e with q := headWord (fun w =>
      some { w with bits := if v.code = 2 then v.word else w.bits, noWatch := watch }) e.q }

/-- What one verdict does to a strand that faulted (R218). -/
def verdict1 (k : Core) (v : Verdict) : Core :=
  let n := v.p.trap.strand.toNat
  let t := getStrand k n
  let pc := if v.code = 1 then v.p.trap.pc + 4 else v.pc
  setStrand k n { t with run := .ready, pc := pc, noWatch := decide (v.p.trap.code = 0x0060) && decide (v.code ≠ 1) }

/-- The end of a hold: every verdict takes effect, the engines resume, each stopped strand continues (R219). A record for which
the hub has no room keeps the hold (R478). -/
def endHold (s : State) (c : Nat) : State :=
  let k := getCore s c
  let k := k.verdicts.foldl (fun k v => if v.p.trap.level = 2 then verdict2 k v else verdict1 k v) k
  let k := { k with
    verdicts := [], eng := k.eng.map fun (q, e) => (q, { e with stop := false, claim := none })
    strands := k.strands.map fun (n, t) => (n, if n = 3 then { t with run := .idle } else t) }
  setCore s c (if k.hold && k.outRecs.isEmpty then leaveHold k (cycOf s c) else k)

end Sys2Proof.Machine
end

