-- ==== Sys2Proof/Machine/Access.lean ====
section
/-! DEFINITION. What happens at a port: race checks of scratchpad lines (R92 to R94), race samples of named memory (R96
to R98), watchpoint matches (R502 to R505), tags and pending lists (R66, R67), atomics (R69 to R74). -/

namespace Sys2Proof.Machine

/-- Who performs an access: agent code (R497), physical core, PC, emit sequence, template, the address used. -/
structure Who where
  agent : Nat
  core : Nat
  pc : W64 := 0
  eseq : W32 := 0
  tmpl : W16 := 0xFFFF
  va : W64 := 0
  dev : Nat := 0
  deriving DecidableEq, Repr

/-- Strand or engine of a core. -/
def Who.isCore (w : Who) : Bool := decide (w.agent < 8)

/-- A strand of the current core at its instruction. -/
def whoStrand (s : State) (va : W64) : Who := { agent := (cc s).cs, core := s.cur, pc := (cst s).pc, va := va }
/-- An engine's word. -/
def whoWord (c q : Nat) (w : QWord) (va : W64) : Who :=
  { agent := 4 + q, core := c, pc := w.pc, eseq := w.eseq, tmpl := w.tmpl, va := va }

/-! ### Race detection in scratchpads (R92 to R94) -/

def getRace (k : Core) (line : Nat) : RaceRec := tget {} k.race line

/-- The race check of R93 for core `lid` on one record: the lid to report, or the record after the access. Where `rm`
alone fires, the device's choice `n` picks one of the other readers (R94). -/
def raceLine (r : RaceRec) (lid : Nat) (write : Bool) (n : Nat) : Except Nat RaceRec :=
  if r.wv && decide (r.wlid ≠ lid) then .error r.wlid
  else if write then
    if r.rv && (decide (r.rlid ≠ lid) || r.rm) then
      if r.rlid ≠ lid then .error r.rlid
      else
        let o := r.others.filter (· ≠ lid)
        .error (o.getD (Config.freeReader n % o.length) r.rlid)
    else .ok { r with wv := true, wlid := lid }
  else if !r.rv then .ok { r with rv := true, rlid := lid }
  else if r.rlid ≠ lid then .ok { r with rm := true, others := if r.others.contains lid then r.others else lid :: r.others }
  else .ok r

/-- The check of every line first: the first lid to report. -/
def raceFirst (k : Core) (lid : Nat) (write : Bool) (n : Nat) : List Nat → Option Nat
  | [] => none
  | l :: ls =>
    match raceLine (getRace k l) lid write n with
    | .error d => some d
    | .ok _ => raceFirst k lid write n ls

/-- Record an access that has passed its check on every line. -/
def raceMark (k : Core) (lid : Nat) (write : Bool) : List Nat → Core
  | [] => k
  | l :: ls =>
    match raceLine (getRace k l) lid write 0 with
    | .ok r => raceMark { k with race := tput {} k.race l r } lid write ls
    | .error _ => raceMark k lid write ls

/-- Clear a line's record (a tagged operation, R92). -/
def raceClear (k : Core) (line : Nat) : Core := { k with race := tdel k.race line }

/-- The lid to report for an access of core `c`, if it races in a scratchpad. -/
def raceCheck (s : State) (c : Nat) (l : Loc) (n : Nat) (write : Bool) : Option Nat :=
  match l with
  | .scr k o => raceFirst (getCore s k) (getCore s c).lid write s.fresh (linesOf o n)
  | .named _ => none

/-! ### Race samples of named memory (R96 to R98) -/

/-- The bytes of a line that an access touches, as a mask. -/
def byteMask (off n : Nat) : W64 := BitVec.ofNat 64 ((2 ^ n - 1) * 2 ^ off)

/-- A confirmed conflict (R98). -/
def raceConfirm (s : State) (task : Nat) (line : Nat) (r : SampRec) (lid : Nat) (write : Bool) : State :=
  let t := getTask s task
  let hit := t.raceStat.getLsbD 0
  let cnt := (t.raceStat.extractLsb' 32 16).toNat
  let st : W64 := BitVec.ofNat 64 (
    1 + (if hit then 2 else 0)
    + (if hit then (t.raceStat.extractLsb' 2 5).toNat else line * 64 / 2 ^ 47 % 32) * 4
    + Nat.min (cnt + 1) 65535 * 2 ^ 32)
  let t := { t with raceStat := st }
  let t :=
    if hit then t
    else { t with
      raceAddr := BitVec.ofNat 64 (line * 64)
      raceLids := BitVec.ofNat 64 (r.lid % 65536 + lid % 65536 * 65536 + (if r.wrote then 2 ^ 32 else 0) + (if write then 2 ^ 33 else 0)) }
  setTask s task t

/-- A plain access of a core meets a sampled line (R97). Only accesses of one task conflict here: a report names one task
(R98), and a record of another task is replaced (DESIGN CHOICE, log entry 109). -/
def sampleLine (s : State) (c line : Nat) (mask : W64) (write : Bool) : State :=
  match s.samp.find? fun e => e.1 = line with
  | none => s
  | some (_, old) =>
    let k := getCore s c
    let new : SampRec := { task := k.task, lid := k.lid, wrote := write, bytes := mask, rel := k.relCount }
    let put (s : State) : State := { s with samp := tset s.samp line (some new) }
    match old with
    | none => put s
    | some r =>
      let other := match coreOfLid (getTask s r.task) r.lid with
        | some o => decide ((getCore s o).relCount = r.rel) && decide ((getCore s o).task = r.task)
        | none => false
      if decide (r.task = k.task) && decide (r.lid ≠ k.lid) && (r.wrote || write) && (r.bytes &&& mask != 0) && other then
        raceConfirm s k.task line r k.lid write
      else put s

/-- The lines that `n` bytes from `pa` touch, each with the bytes touched. -/
def lineParts (pa n : Nat) : List (Nat × W64) :=
  (linesOf pa n).map fun k =>
    let lo := Nat.max pa (k * 64)
    let hi := Nat.min (pa + n) (k * 64 + 64)
    (k, byteMask (lo - k * 64) (hi - lo))

/-- Sample every line of a plain access to named memory by core `c`. The conductors of prologues are not cores (R96). -/
def sampleAccess (s : State) (c : Nat) (l : Loc) (n : Nat) (write : Bool) : State :=
  match l with
  | .scr _ _ => s
  | .named pa => if isPrologue c then s else (lineParts pa n).foldl (fun s e => sampleLine s c e.1 e.2 write) s

/-- A release of a core (R96). -/
def bumpRelease (s : State) (c : Nat) : State :=
  let k := getCore s c
  setCore s c { k with relCount := k.relCount + 1 }

/-! ### Watchpoints (R500 to R505) -/

def wpEn (k : Core) (n : Nat) : Bool := (tget 0 k.wpCtl n).getLsbD 16
def wpMask (k : Core) (n : Nat) : W16 := (tget 0 k.wpCtl n).extractLsb' 0 16
def wpSt (k : Core) (n : Nat) : Nat := ((tget 0 k.wpCtl n).extractLsb' 18 2).toNat

/-- The bits of a 16-byte range from `base` that a write of `n` bytes at `o` touches, where `base` is its range. -/
def hitBits (base o n : Nat) (mask : W16) : W16 :=
  BitVec.ofNat 16 ((List.range 16).foldl (fun a i =>
    if decide (o ≤ base + i) && decide (base + i < o + n) && mask.getLsbD i then a + 2 ^ i else a) 0)

/-- Offset of a location in its space, and whether two locations lie in one space. -/
def locOff : Loc → Nat
  | .scr _ o => o
  | .named pa => pa
def sameSpace : Loc → Loc → Bool
  | .scr a _, .scr b _ => decide (a = b)
  | .named _, .named _ => true
  | _, _ => false

/-- The watched bytes of a location that a write touches (R502). -/
def watchHits (w l : Loc) (n : Nat) (mask : W16) : W16 :=
  if sameSpace w l then hitBits (locOff w) (locOff l) n mask else 0

/-- The lowest watchpoint of a core that a write of its own matches precisely (R502, R503). -/
def preciseHit (s : State) (c : Nat) (l : Loc) (n : Nat) : Option Nat :=
  let k := getCore s c
  (List.range 8).find? fun i =>
    wpEn k i && decide (wpSt k i ≠ 1) &&
    match k.wpLoc.find? fun e => e.1 = i with
    | some (_, w) => watchHits w l n (wpMask k i) != 0
    | none => false

/-- An access of a write: where, how many bytes, the address that its writer used. -/
abbrev Wrote := Loc × Nat × W64

/-- The watched bytes of a location that the accesses of one write touch (R502). -/
def wroteHits (w : Watch) (l : List Wrote) : W16 := l.foldl (fun m a => m ||| watchHits w.loc a.1 a.2.1 w.mask) 0

/-- The lowest watchpoint of each owner that a write matches at its port. -/
def portHits (s : State) (l : List Wrote) (skip : Option Nat) : List Watch :=
  let m := s.pro.watches.filter fun w => decide (some w.core ≠ skip) && (wroteHits w l != 0)
  m.filter fun w => m.all fun v => decide (v.core ≠ w.core ∨ w.n ≤ v.n)

/-- The lowest bit set. -/
def lowBit (m : W16) : Nat := ((List.range 16).find? fun i => m.getLsbD i).getD 0

/-- The address that a writer used for a byte of a watched range. -/
def wroteVa (w : Watch) (l : List Wrote) (first : Nat) : W64 :=
  ((l.find? fun a => sameSpace w.loc a.1 && decide (locOff a.1 ≤ first) && decide (first < locOff a.1 + a.2.1)).map fun a =>
    a.2.2 + BitVec.ofNat 64 (first - locOff a.1)).getD 0

/-- What a port match does (R504, R505): `wp.stat`, a trace record, a stop. -/
def portMatch (s : State) (who : Who) (l : List Wrote) (w : Watch) : State :=
  let k := getCore s w.core
  let s := setCore s w.core { k with wpStat := k.wpStat ||| BitVec.ofNat 64 (2 ^ w.n) }
  let m := wroteHits w l
  let first := locOff w.loc + lowBit m
  let word : Loc := match w.loc with
    | .scr c _ => .scr c (first / 8 * 8)
    | .named _ => .named (first / 8 * 8)
  let s := traceAdd s {
    task := k.task, lid := k.lid, kind := 3
    object := if who.isCore then wroteVa w l first else (tget 0 k.wpAdr w.n) + BitVec.ofNat 64 (lowBit m)
    sub := w.n, akind := who.agent, alid := if who.isCore then (getCore s who.core).lid else 0
    pc := who.pc, eseq := who.eseq, tmpl := who.tmpl, hit := m
    value := BitVec.ofNat 64 (readNat s word 8), dev := who.dev }
  if w.stop && who.isCore && decide ((getCore s who.core).task = k.task) then
    { s with pro := { s.pro with freeze := some (k.task, (getCore s who.core).lid) } }
  else s

/-- Every watchpoint that a write matches at its port. `precise` writes are not matched again against the writer's own. -/
def portMatches (s : State) (who : Who) (l : List Wrote) (precise : Bool) : State :=
  (portHits s l (if precise then some who.core else none)).foldl (fun s w => portMatch s who l w) s

/-- One write of several accesses, performed at its ports: every byte, then its matches (R502). -/
def storeMany (s : State) (who : Who) (l : List (Loc × W64 × List Byte)) (precise : Bool) : State :=
  portMatches (l.foldl (fun s a => writeLoc s a.1 a.2.2) s) who (l.map fun a => (a.1, a.2.2.length, a.2.1)) precise

/-- A write performed at its port. -/
def storeAt (s : State) (who : Who) (l : Loc) (bs : List Byte) (precise : Bool) : State :=
  portMatches (writeLoc s l bs) who [(l, bs.length, who.va)] precise

/-! ### Lines that a write of several accesses covers (R12) -/

/-- A line, counted from offset 0 of the space a location lies in, holds an uncorrectable error; drop the error. -/
def lineBad (s : State) (l : Loc) (line : Nat) : Bool :=
  match l with
  | .scr c _ => member (getCore s c).bad line
  | .named _ => member s.bad line

def lineCure (s : State) (l : Loc) (line : Nat) : State :=
  match l with
  | .scr c _ => setCore s c { getCore s c with bad := tdel (getCore s c).bad line }
  | .named _ => { s with bad := tdel s.bad line }

/-- The accesses cover every byte of a line of the space of `l`. -/
def coversLine (acc : List (Loc × Nat)) (l : Loc) (line : Nat) : Bool :=
  (List.range 64).all fun i => acc.any fun (a, n) =>
    sameSpace a l && decide (locOff a ≤ line * 64 + i) && decide (line * 64 + i < locOff a + n)

/-- Some line holds an uncorrectable error. -/
def anyBad (s : State) : Bool := !s.bad.isEmpty || s.cores.any fun e => !e.2.bad.isEmpty

/-- One word, or one piece of a copy word, is one write: the lines it covers are whole again (R12). -/
def healOver (acc : State → List (Loc × Nat)) (s : State) : State :=
  if !anyBad s then s
  else (acc s).foldl (fun s (l, n) => (linesOf (locOff l) n).foldl (fun s k =>
    if lineBad s l k && coversLine (acc s) l k then lineCure s l k else s) s) s

/-! ### Tags and tagged operations (R65 to R68, R92) -/

def tagFull (s : State) (c word : Nat) : Bool := member (getCore s c).full word

/-- The condition of a tagged operation (R66). -/
def tagCond (k : TagKind) (full : Bool) : Bool :=
  match k with
  | .readFull | .take => full
  | .put => !full
  | .setFull | .clear => true

/-- A wait is one on the tag of a word. -/
def Wait.onTag (c word : Nat) : Wait → Bool
  | .tag d w _ _ => decide (d = c ∧ w = word)
  | _ => false

/-- A strand waiting on a tag becomes ready when the tag changes (R179), and notes who changed it (R498); `me` are the
strand's own agent code and lid. -/
def wakeStrand (c word : Nat) (by_ me : Nat × Nat) (t : Strand) : Strand :=
  let t := if (t.flag.any fun e => e.1.onTag c word) && by_ != me then { t with by_ := by_ } else t
  if t.run == .waiting && t.flight.isNone && t.wait.any (Wait.onTag c word) then { t with run := .ready } else t

def wakeTag (s : State) (c word : Nat) (by_ : Nat × Nat) : State :=
  { s with cores := s.cores.map fun (n, k) =>
      (n, { k with strands := k.strands.map fun (i, t) => (i, wakeStrand c word by_ (i, k.lid) t) }) }

/-- The agent code and lid of an agent (R497). -/
def whoBy (s : State) (w : Who) : Nat × Nat := (w.agent, if w.isCore then (getCore s w.core).lid else 0)

/-- Set a tag; where it changes, waiting strands become ready. -/
def putTag (s : State) (c word : Nat) (full : Bool) (by_ : Nat × Nat) : State :=
  if tagFull s c word = full then s
  else
    let k := getCore s c
    wakeTag (setCore s c { k with full := if full then tset k.full word () else tdel k.full word, tagBy := tset k.tagBy word by_ }) c word by_

/-- The tag after an operation (R66). -/
def tagAfter : TagKind → Bool → Bool
  | .readFull, f => f
  | .take, _ => false
  | .put, _ => true
  | .setFull, _ => true
  | .clear, _ => false

def tagReads : TagKind → Bool
  | .readFull | .take => true
  | _ => false
def tagWrites : TagKind → Bool
  | .put | .setFull => true
  | _ => false

/-- One tagged operation on an 8-byte word whose condition holds, but for its watchpoint matches: data, tag, race record (R66,
R92). -/
def tagQuiet (s : State) (who : Who) (c word : Nat) (k : TagKind) (v : W64) : State × W64 :=
  let l : Loc := .scr c (8 * word)
  let old : W64 := BitVec.ofNat 64 (readNat s l 8)
  let s := if tagWrites k then writeLoc s l (leBytes 8 v.toNat) else s
  let s := putTag s c word (tagAfter k (tagFull s c word)) (whoBy s who)
  let s := setCore s c (raceClear (getCore s c) (word / 8))
  let s := if tagWrites k && who.isCore then bumpRelease s who.core else s
  (s, old)

/-- Perform one tagged operation whose condition holds. -/
def tagDo (s : State) (who : Who) (c word : Nat) (k : TagKind) (v : W64) (precise : Bool) : State × W64 :=
  let (s, old) := tagQuiet s who c word k v
  (if tagWrites k then portMatches s who [(.scr c (8 * word), 8, who.va)] precise else s, old)

/-- Who last changed the tag of a word. -/
def tagSetter (s : State) (c word : Nat) : Nat × Nat := tget (0xFF, 0) (getCore s c).tagBy word

/-- Write the record of the wait of a copy word's held operation, which ends now; `by_` made its condition hold (R498). -/
def closeHeld (s : State) (c : Nat) (va : W64) (by_ : Nat × Nat) : State :=
  let k := getCore s c
  match k.cpy.since, k.cpy.run with
  | some c0, some i =>
    let n := waitCycles k (cycOf s c) c0
    if !k.timed && decide (s.pro.thr.toNat ≤ n) then
      traceAdd s {
        task := k.task, lid := k.lid, kind := 1, who := 7, object := va, cycles := n, sub := 8
        akind := by_.1, alid := by_.2, pc := i.w.pc, eseq := i.w.eseq, tmpl := i.w.tmpl }
    else s
  | _, _ => s

/-- Tell a sender that its held operation has been performed (R366, R485). -/
def heldDone (s : State) (h : Held) (v : W64) (by_ : Nat × Nat) : State :=
  match h.sender with
  | .copy c va =>
    let s := closeHeld s c va by_
    let k := getCore s c
    setCore s c { k with cpy := { k.cpy with sent := none, since := none, got := some v } }
  | .volley src seq =>
    answerReq s src seq (.ack src seq 0 v 0)

/-- A held operation whose word cannot be read (R12): the copy word makes its checks again, the device gets an error. -/
def heldBad (s : State) (h : Held) : State :=
  match h.sender with
  | .copy c _ =>
    let k := getCore s c
    setCore s c { k with cpy := { k.cpy with sent := none, since := none, begun := false } }
  | .volley src seq =>
    answerReq s src seq (.ack src seq 3 0 0)

/-- The agent of a held operation. -/
def heldWho (s : State) (h : Held) : Who :=
  match h.sender with
  | .copy c va =>
    match (getCore s c).cpy.run with
    | some i => whoWord c 3 i.w va
    | none => { agent := 7, core := c, va := va }
  | .volley src _ => { agent := 0xFE, core := 0, dev := src }

/-- After a tag changed: perform the earliest held operation on the word whose condition holds, and repeat (R67). -/
def heldRun (c word : Nat) : Nat → State → State
  | 0, s => s
  | n + 1, s =>
    let k := getCore s c
    match k.held.find? fun h => decide (h.word = word) && tagCond h.kind (tagFull s c word) with
    | none => s
    | some h =>
      let s := setCore s c { k with held := k.held.erase h }
      if tagReads h.kind && (uncorrectable s (.scr c (8 * word)) 8).isSome then heldRun c word n (heldBad s h)
      else
        let by_ := tagSetter s c word
        let (s, v) := tagDo s (heldWho s h) c word h.kind h.val false
        heldRun c word n (heldDone s h v by_)

/-- Perform a tagged operation, then the held operations that it lets through. -/
def tagPerform (s : State) (who : Who) (c word : Nat) (k : TagKind) (v : W64) (precise : Bool) : State × W64 :=
  let (s, old) := tagDo s who c word k v precise
  (heldRun c word (getCore s c).held.length s, old)

/-! ### Atomics at the port (R69 to R74) -/

def asizeBytes : ASize → Nat
  | .w => 4
  | .d => 8
def asizeBits (z : ASize) : Nat := 8 * asizeBytes z

/-- A number of `w` bits read as signed. -/
def sInt (w n : Nat) : Int := if n % 2 ^ w < 2 ^ (w - 1) then (n % 2 ^ w : Nat) else (n % 2 ^ w : Nat) - (2 ^ w : Nat)

/-- The new value at the port (R69); fadd follows R71. -/
def amoNew (op : AmoOp) (z : ASize) (old v : Nat) : Nat :=
  let w := asizeBits z
  match op with
  | .add | .qadd => (old + v) % 2 ^ w
  | .smin => if sInt w v < sInt w old then v % 2 ^ w else old
  | .smax => if sInt w old < sInt w v then v % 2 ^ w else old
  | .umin => Nat.min old (v % 2 ^ w)
  | .umax => Nat.max old (v % 2 ^ w)
  | .and => old &&& v % 2 ^ w
  | .or => old ||| v % 2 ^ w
  | .xor => old ^^^ v % 2 ^ w
  | .swap => v % 2 ^ w
  | .fadd => (fAdd fmtFP32 .rne (fmtFP32.decode old) (fmtFP32.decode v)).1

/-- Which operations the host port performs (R74). -/
def hostAmo : AmoOp → Bool
  | .add | .swap => true
  | _ => false

/-- Perform an atomic at a local port: the state, and the old value. -/
def amoAt (s : State) (who : Who) (l : Loc) (op : AmoOp) (z : ASize) (v : Nat) (precise : Bool) : State × Nat :=
  let old := readNat s l (asizeBytes z)
  (storeAt s who l (leBytes (asizeBytes z) (amoNew op z old v)) precise, old)

/-- Perform a compare-and-swap at a local port. A failed comparison rewrites the old value (R69). -/
def casAt (s : State) (who : Who) (l : Loc) (z : ASize) (cmp new : Nat) (precise : Bool) : State × Nat :=
  let old := readNat s l (asizeBytes z)
  (storeAt s who l (leBytes (asizeBytes z) (if old = cmp % 2 ^ asizeBits z then new % 2 ^ asizeBits z else old)) precise, old)

end Sys2Proof.Machine
end

