-- ==== Sys2Proof/Machine/Foot.lean ====
section
/-! DEFINITION. What a queued word names and touches: its stream snapshots (R28, R201) and its footprint for the range
checker (R32 to R34). R32 lets the device use any superset of the exact footprint: here every stream counts with the
range from its lowest to its highest element, and a table with the whole span of dimension 0 (R358). -/

namespace Sys2Proof.Machine

/-! ### Stream registers that a word names (R28, R201): decoded from the opcode and the operand bits alone -/

def eField (w : W64) (lo : Nat) : Nat := (w.extractLsb' lo 4).toNat

def snapRegs (q : Nat) (w : W64) : List Nat :=
  let op := eOpcode w
  match q with
  | 0 => if 0x80 ≤ op ∧ op ≤ 0x89 then [eField w 40] else []
  | 1 =>
    if (0x10 ≤ op ∧ op ≤ 0x12) ∨ (0x20 ≤ op ∧ op ≤ 0x25) ∨ op = 0x34 ∨ op = 0x40 ∨ op = 0x41 ∨ op = 0x43 ∨ op = 0x44
    then [eField w 43] else []
  | 2 => if op = 0x14 ∨ op = 0x16 ∨ op = 0x17 ∨ op = 0x20 ∨ op = 0x21 then [eField w 40] else []
  | _ =>
    let sd := eField w 46; let ss := eField w 42; let si := eField w 31; let sr := eField w 20
    match op with
    | 0x10 | 0x11 | 0x12 | 0x21 | 0x32 | 0x33 | 0x34 | 0x40 | 0x41 => [sd, ss]
    | 0x13 | 0x14 | 0x42 | 0x43 => [sd, ss, si]
    | 0x20 | 0x50 => [ss]
    | 0x30 => if w.getLsbD 24 then [sd, ss, sr] else [sd, ss]
    | 0x31 => [sd, ss, si, sr]
    | 0x35 | 0x51 => [sd]
    | _ => []

/-- The snapshots of a word at emission. -/
def snapshot (k : Core) (q : Nat) (w : W64) : Tbl Strm := (snapRegs q w).foldl (fun t r => tset t r (tget {} k.sreg r)) []

/-- The snapshot of a stream register that a word names. -/
def snapOf (w : QWord) (r : SReg) : Strm := tget {} w.snaps r.toNat

/-! ### Ranges -/

/-- A range of a footprint: `none` stands for any line, else a space (0 named memory by virtual address, l + 1 the
scratchpad of lid l) with first and last byte. -/
abbrev Span := Option (Nat × Nat × Nat)

/-- The space and offset of an address, without filling a TLB (R32). -/
def spaceOf (s : State) (c : Nat) (va : Nat) : Nat × Nat :=
  let a : W64 := BitVec.ofNat 64 va
  if inLocal a then ((getCore s c).lid + 1, va % 2 ^ 21)
  else
    let k := getCore s c
    let t := getTask s k.task
    let leaf := match tlbFind k.utlb t.asn a with
      | some e => some e.leaf
      | none => match walk s t.root a with
        | .ok (l, _) => some l
        | .error _ => none
    match leaf with
    | some l => if leafScr l then ((getCore s (scrCore c (leafIndex l))).lid + 1, va % 2 ^ 21) else (0, va)
    | none => (0, va)

/-- The spans of the addresses `lo` to `hi`, cut at 2 MiB pages; a range of more than `n` pages counts as any line. -/
def spansFrom (s : State) (c : Nat) : Nat → Nat → Nat → List Span
  | 0, _, _ => [none]
  | n + 1, lo, hi =>
    let last := Nat.min hi ((lo / 2 ^ 21 + 1) * 2 ^ 21 - 1)
    let (sp, o) := spaceOf s c lo
    let here : Span := some (sp, o, o + (last - lo))
    if last = hi then [here] else here :: spansFrom s c n (last + 1) hi

def spans (s : State) (c : Nat) (lo hi : Int) : List Span :=
  if hi < lo then []
  else if lo < 0 ∨ hi ≥ (2 ^ 64 : Nat) then [none]
  else spansFrom s c 512 lo.toNat hi.toNat

/-- Spans meet where a line of 64 bytes is common. -/
def spanMeets : Span → Span → Bool
  | some (a, l1, h1), some (b, l2, h2) => decide (a = b) && decide (l1 / 64 ≤ h2 / 64) && decide (l2 / 64 ≤ h1 / 64)
  | _, _ => true

def anyMeets (a b : List Span) : Bool := a.any fun x => b.any fun y => spanMeets x y

/-! ### Streams (R201, R202) -/

def sInt32 (v : W32) : Int := v.toInt
def strmElems (m : Strm) : Nat := m.ext0.toNat * m.ext1.toNat * m.ext2.toNat
/-- Bits of an element (8 for a reserved code, which the head check refuses). -/
def strmWidth (m : Strm) : Nat := ((fmtOf m.fmt.toNat).map Fmt.width).getD 8
def strmBytes (m : Strm) : Nat := strmWidth m / 8

/-- Lowest and highest contribution of a dimension of extent `e` and byte step `d`. -/
def dimLo (e : Nat) (d : Int) : Int := if d < 0 then ((e : Int) - 1) * d else 0
def dimHi (e : Nat) (d : Int) : Int := if d < 0 then 0 else ((e : Int) - 1) * d

/-- The bytes of one element, or of the packed row. -/
def rowBytes (m : Strm) : Nat :=
  if strmWidth m % 8 = 0 then strmBytes m else (m.ext0.toNat * strmWidth m + 7) / 8
def step0 (m : Strm) : Int := if strmWidth m % 8 = 0 then sInt32 m.str0 * strmBytes m else 0

/-- Address of element (k0, k1, k2) (R202); for a packed format of its row's first byte. -/
def strmAddr (m : Strm) (k0 k1 k2 : Nat) : W64 :=
  m.base + BitVec.ofInt 64 (step0 m * k0) + m.str1 * BitVec.ofNat 64 k1 + m.str2 * BitVec.ofNat 64 k2

def strmLo (m : Strm) : Int :=
  m.base.toNat + dimLo m.ext0.toNat (step0 m) + dimLo m.ext1.toNat m.str1.toInt + dimLo m.ext2.toNat m.str2.toInt
def strmHi (m : Strm) : Int :=
  m.base.toNat + dimHi m.ext0.toNat (step0 m) + dimHi m.ext1.toNat m.str1.toInt + dimHi m.ext2.toNat m.str2.toInt
  + rowBytes m - 1

/-- The spans of a stream's elements. -/
def strmSpans (s : State) (c : Nat) (m : Strm) : List Span :=
  if strmElems m = 0 then [] else spans s c (strmLo m) (strmHi m)

/-- The spans of `rows` rows of scales from row `n` on, `len` bytes each (R325). -/
def scaleSpans (s : State) (c : Nat) (m : Strm) (n rows len : Nat) : List Span :=
  if strmElems m = 0 ∨ rows = 0 ∨ len = 0 then []
  else
    let d := m.sstr.toInt
    let o : Int := m.sbase.toNat + n * d
    spans s c (o + dimLo rows d) (o + dimHi rows d + len - 1)

/-- The scale bytes of one strip of A with `K` positions, by sgeo (R325). -/
def stripLen (m : Strm) (K : Nat) : Nat := if m.sgeo = 1 then 1 else if m.sgeo = 3 then (K + 31) / 32 else 0

/-- The scales of the strips of a multiply word; those that a load of `macros` macros reads; those of a drain's rows. -/
def mulScales (s : State) (c : Nat) (w : MS) (tr : Bool) (m : Strm) : List Span :=
  let rows := (if tr then m.ext0 else m.ext1).toNat
  scaleSpans s c m (w.k2.toNat * rows) rows (stripLen m (if tr then m.ext1 else m.ext0).toNat)
def loadScaleSpans (s : State) (c : Nat) (w : MS) (macros : Nat) (m : Strm) : List Span :=
  scaleSpans s c m w.k2.toNat 1
    (if m.sgeo = 2 then macros else if m.sgeo = 3 then 4 * (m.ext0.toNat - 1) + (m.ext1.toNat + 31) / 32 else 0)
def drainScales (s : State) (c : Nat) (w : MS) (m : Strm) : List Span :=
  scaleSpans s c m (w.k2.toNat * m.ext1.toNat) m.ext1.toNat (m.ext0.toNat / 32)

/-- The spans of `n` bytes from a stream's base. -/
def baseSpans (s : State) (c : Nat) (m : Strm) (n : Nat) : List Span := spans s c m.base.toNat (m.base.toNat + n - 1)

/-! ### Footprints -/

/-- A footprint: lines read and written, and objects read and written: a bit for each generator, tile and macro. -/
structure Foot where
  rd : List Span := []
  wr : List Span := []
  ord : BitVec 12 := 0
  owr : BitVec 12 := 0
  deriving DecidableEq, Repr

/-- The bits of generator `g`, tile `t` and macro `b`. -/
def gbit (g : BitVec 3) : BitVec 12 := 1#12 <<< g.toNat
def tbit (t : Bool) : BitVec 12 := if t then 0x200 else 0x100
def mbit (b : Bool) : BitVec 12 := if b then 0x800 else 0x400

/-- The objects of a multiply word of one tile and one macro; of both. -/
def oneMul (w : MS) : Foot := { ord := tbit w.t ||| mbit w.b, owr := tbit w.t }
def bothMul : Foot := { ord := 0xF00, owr := 0x300 }

/-- The footprint of a word, from its bits and its snapshots. -/
def footOf (s : State) (c q : Nat) (w : QWord) : Foot :=
  let st (r : SReg) : List Span := strmSpans s c (snapOf w r)
  let mulRd (m : MS) (tr : Bool) (o : Foot) : Foot := { o with rd := st m.ss ++ mulScales s c m tr (snapOf w m.ss) }
  let ldRd (m : MS) (n : Nat) : List Span := st m.ss ++ loadScaleSpans s c m n (snapOf w m.ss)
  let gRd (m : MS) (o : Foot) : Foot := { o with ord := o.ord ||| gbit m.g }
  let vs (v : VWord) : List Span := st (v.va.extractLsb' 0 4)
  let tab (r : SReg) : List Span := strmSpans s c { snapOf w r with ext1 := 1, ext2 := 1 }
  let sig (r : SReg) : List Span := baseSpans s c (snapOf w r) 8
  let idx (x : XC) : SReg := x.ext.extractLsb' 21 4
  let sr (x : XC) : SReg := x.ext.extractLsb' 10 4
  match decodeE (queueOf (BitVec.ofNat 2 q)) w.bits with
  | .vld v => { rd := vs v } | .vldm v => { rd := vs v } | .vgath v => { rd := vs v }
  | .vldf v => { rd := vs v } | .vldt v => { rd := vs v, wr := vs v }
  | .vst v => { wr := vs v } | .vstm v => { wr := vs v } | .vscat v => { wr := vs v }
  | .vste v => { wr := vs v } | .vstf v => { wr := vs v }
  | .mldb m => { rd := ldRd m 1, owr := mbit m.b } | .mldbp m => { rd := ldRd m 2, owr := 0xC00 }
  | .mma m => mulRd m false (oneMul m) | .mmap m => mulRd m false bothMul | .mmat m => mulRd m true (oneMul m)
  | .mldbG m => gRd m { owr := mbit m.b }
  | .mmaG m => gRd m (oneMul m) | .mmapG m => gRd m bothMul | .mmatG m => gRd m (oneMul m)
  | .mzero m => { owr := tbit m.td } | .manch m => { owr := tbit m.td } | .movclr m => { owr := tbit m.td }
  | .mtrap m => { owr := tbit m.td } | .mshift m => { ord := tbit m.td, owr := tbit m.td }
  | .madd m => { ord := tbit m.td ||| tbit m.ts, owr := tbit m.td } | .mmov m => { ord := tbit m.ts, owr := tbit m.td }
  | .mrest m => { rd := st m.ss, ord := if m.z then tbit m.t else 0, owr := tbit m.t }
  | .mstat m => { wr := baseSpans s c (snapOf w m.ss) 64, ord := tbit m.t ||| 0xC00 }
  | .mdrn m => { wr := st m.ss, ord := tbit m.t, owr := if m.z then tbit m.t else 0 }
  | .mdrnMx m => { wr := st m.ss ++ drainScales s c m (snapOf w m.ss), ord := tbit m.t, owr := if m.z then tbit m.t else 0 }
  | .msave m => { wr := st m.ss, ord := tbit m.t }
  | .gseed g => { owr := gbit g.gd } | .gscope g => { owr := gbit g.gd } | .gkind g => { owr := gbit g.gd }
  | .gorig g => { owr := gbit g.gd } | .gparm g => { owr := gbit g.gd } | .gdraw g => { owr := gbit g.gd }
  | .gskip g => { ord := gbit g.gd, owr := gbit g.gd } | .gclr g => { owr := gbit g.gd }
  | .gfreq g => { rd := st g.ss, owr := gbit g.gd } | .gload g => { rd := baseSpans s c (snapOf w g.ss) 320, owr := gbit g.gd }
  | .gsave g => { wr := baseSpans s c (snapOf w g.ss) 320, ord := gbit g.gd }
  | .gfill g => { wr := st g.ss, ord := gbit g.gd } | .gvec g => { wr := st g.ss, ord := gbit g.gd }
  | .xcpy x => { rd := st x.ss, wr := st x.sd } | .xcpyc x => { rd := st x.ss, wr := st x.sd }
  | .xfill x => { wr := st x.sd }
  | .xgath x => { rd := tab x.ss ++ st (idx x), wr := st x.sd } | .xscat x => { rd := st x.ss ++ st (idx x), wr := tab x.sd }
  | .xtab x => { rd := baseSpans s c (snapOf w x.ss) 512 }
  | .xdec x => { rd := baseSpans s c (snapOf w x.ss) (2 ^ 26), wr := st x.sd }
  | .xamo x => { rd := st x.ss ++ st x.sd, wr := st x.sd ++ (if xRet x then st (sr x) else []) }
  | .xcas x => { rd := st x.ss ++ st (idx x) ++ st x.sd, wr := st x.sd ++ st (sr x) }
  | .xste x => { rd := st x.ss, wr := st x.sd } | .xstf x => { rd := st x.ss, wr := st x.sd }
  | .xldf x => { rd := st x.ss, wr := st x.sd ++ st x.ss } | .xtclr x => { wr := st x.sd }
  | .xget x => { rd := st x.ss, wr := st x.sd } | .xput x => { rd := st x.ss, wr := st x.sd }
  | .xgetc x => { rd := st x.ss, wr := st x.sd ++ sig (idx x) } | .xputc x => { rd := st x.ss, wr := st x.sd ++ sig (idx x) }
  | .xseq x => { wr := baseSpans s c (snapOf w x.sd) 8 }
  | _ => {}

/-- Two footprints overlap: the write set of one meets the read or write set of the other (R33). -/
def footMeets (a b : Foot) : Bool :=
  anyMeets a.wr (b.rd ++ b.wr) || anyMeets b.wr a.rd
  || ((a.owr &&& (b.ord ||| b.owr)) ||| (b.owr &&& a.ord)) != 0

/-- Every incomplete word emitted before `seq` in queues other than `skip` (4 names no queue). -/
def earlierWords (k : Core) (seq skip : Nat) : List (Nat × QWord) :=
  (List.range 4).flatMap fun q =>
    if q = skip then [] else ((incomplete k q).filter fun w => decide (w.seq < seq)).map fun w => (q, w)

/-- The range checker holds a conductor access of a byte range back (R33). -/
def rangeHolds (s : State) (c seq : Nat) (va : W64) (len : Nat) (write : Bool) : Bool :=
  let l := earlierWords (getCore s c) seq 4
  if l.isEmpty then false
  else
    let (sp, o) := spaceOf s c va.toNat
    let me : Foot := if write then { wr := [some (sp, o, o + len - 1)] } else { rd := [some (sp, o, o + len - 1)] }
    l.any fun (q, w) => footMeets me (footOf s c q w)

/-- The range checker holds an engine word of queue `q` back (R33): an overlapping incomplete word of another engine. -/
def rangeHoldsWord (s : State) (c q : Nat) (w : QWord) : Bool :=
  let l := earlierWords (getCore s c) w.seq q
  if l.isEmpty then false
  else
    let me := footOf s c q w
    l.any fun (r, v) => footMeets me (footOf s c r v)

/-- The same, for an overlapping access of the conductor still in flight that issued before the word was emitted. -/
def rangeHoldsFlight (s : State) (c q : Nat) (w : QWord) : Bool :=
  let fl := ((getCore s c).strands.filterMap fun (_, t) => t.flight).filter fun f => decide (f.ord < w.seq)
  if fl.isEmpty then false
  else
    let me := footOf s c q w
    fl.any fun f =>
      let (sp, o) := spaceOf s c f.va.toNat
      let sp' : List Span := [some (sp, o, o + f.len - 1)]
      footMeets me (if f.write then { wr := sp' } else { rd := sp' })

end Sys2Proof.Machine
end

