-- ==== Sys2Proof/Machine/Conduct.lean ====
section
/-! DEFINITION. How a C-word issues: what every one checks (R19, R165, R217, R418), how it completes, waits, jumps or
faults (R20, R46, R189, R190), and how its memory access is sent and performed (R165, R172 to R179, R183). -/

namespace Sys2Proof.Machine

/-- A strand of the current core, and writing it back. -/
def sn (s : State) (n : Nat) : Strand := getStrand (cc s) n
def setSn (s : State) (n : Nat) (t : Strand) : State := setCC s (setStrand (cc s) n t)

/-! ### The end of a wait (R498, R499) -/

/-- The trace fields of a flag wait: its sub kind and object; none for a wait that is no flag wait. -/
def waitTrace (w : Wait) : Option (Nat × W64) :=
  match w with
  | .tag _ _ _ va => some (1, va)
  | .token q => some (2, BitVec.ofNat 64 (q + 4 * 8))
  | .room q => some (2, BitVec.ofNat 64 (4 + q * 8))
  | .bar lvl slot _ => some (3, BitVec.ofNat 64 (lvl + slot * 8))
  | .join qs => some (4, qs.setWidth 64)
  | .drainOwn => some (4, 15)
  | .entry qs => some (5, BitVec.ofNat 64 (((List.range 4).find? fun q => qs.getLsbD q).getD 0))
  | .cyc t | .gtc t => some (6, t)
  | .sect | .drain => some (7, 0)
  | .result _ | .drainYield | .order | .walk | .fetch => none

/-- The agent that ended a wait (R498): the strand's own note of who made its condition hold, or the engine at the other end of
its link or queue. -/
def waitSetter (s : State) (t : Strand) (w : Wait) : Nat × Nat :=
  let k := cc s
  match w with
  | .tag _ _ _ _ | .bar _ _ _ | .join _ | .drainOwn | .sect => t.by_
  | .token q | .room q => (4 + q, k.lid)
  | .entry qs => (4 + ((List.range 4).find? fun q => qs.getLsbD q).getD 0, k.lid)
  | .drain => (4 + k.lastDone, k.lid)
  | _ => (0xFF, 0)

/-- Write the record of a flag wait of strand `n` that ends now, where it lasted long enough. -/
def closeWait (s : State) (n : Nat) : State :=
  let t := sn s n
  match t.flag with
  | none => s
  | some (w, c0) =>
    let c := waitCycles (cc s) (curCyc s) c0
    match waitTrace w with
    | none => s
    | some (sub, obj) =>
      if s.pro.thr.toNat ≤ c then
        let b := waitSetter s t w
        traceAdd s {
          task := (cc s).task, lid := (cc s).lid, kind := 1, who := n, object := obj, cycles := c, sub := sub
          akind := b.1, alid := b.2, pc := t.pc }
      else s

/-! ### Loops (R189) -/

/-- A register's number after one rotation. -/
def rotReg (r : Nat) : Nat := if r < 24 then r else if r = 31 then 24 else r + 1

/-- Rotation with the results that have not landed yet: they move with their registers. -/
def rotateAll (t : Strand) : Strand :=
  let u := rotate t
  { u with pend := u.pend.map fun (r, v, c) => (rotReg r, v, c) }

/-- Stage predicates p[1] to p[S − 1] take the value of their predecessor, p[1] takes q. -/
def shiftStages (p : BitVec 8) (q : Bool) : Nat → BitVec 8
  | 0 => p
  | 1 => pput p 1 q
  | j + 2 => shiftStages (pput p (j + 2) (p.getLsbD (j + 1))) q (j + 1)

/-- Clear p[1] to p[n]. -/
def clearStages (p : BitVec 8) : Nat → BitVec 8
  | 0 => p
  | n + 1 => clearStages (pput p (n + 1) false) n

/-- The effect of a pass end; `pc` of the result is where the strand goes on. -/
def passEnd (t : Strand) : Strand :=
  let u := rotateAll t
  let l := u.loop
  let u := { u with p := shiftStages u.p l.q l.stm.toNat }
  if u.lc ≠ 0 then { u with lc := u.lc - 1, loop := { l with q := true }, pc := l.beg }
  else if l.ec ≠ 0 then { u with loop := { l with ec := l.ec - 1, q := false }, pc := l.beg }
  else { u with loop := { l with act := false }, p := clearStages u.p l.stm.toNat, pc := l.fin }

/-- The address lies in the loop body. -/
def inBody (l : LoopSt) (pc : W64) : Bool := decide (l.beg.toNat ≤ pc.toNat) && decide (pc.toNat < l.fin.toNat)

/-! ### Completing, waiting and faulting -/

/-- Strand `n` completes an instruction and goes on at `next`; `slot` says that it took the issue slot now. -/
def finishIssue (s : State) (n : Nat) (next : W64) (slot : Bool) : State :=
  let s := closeWait s n
  let t := sn s n
  let u : Strand := { t with
    run := .ready, wait := none, flag := none, noWatch := false, flight := none, fetched := none,
    block := if slot then t.block + 1 else t.block, pc := next }
  let u := if u.loop.act && inBody u.loop t.pc && next == u.loop.fin then passEnd u else u
  let k := unopen (setStrand (cc s) n u) n
  setCC s (if slot then { k with slotAt := curCyc s + 1 } else k)

/-- Two waits are one wait that goes on. -/
def sameWait : Wait → Wait → Bool
  | .result _, .result _ => true
  | .tag c w _ _, .tag c' w' _ _ => decide (c = c' ∧ w = w')
  | a, b => decide (a = b)

/-- The strand's flag wait goes on where it now waits for `w`: the same one, or a wait that is no flag wait (R499). -/
def keepsFlag (t : Strand) (w : Wait) : Bool :=
  (waitTrace w).isNone || match t.flag with
    | some (o, _) => sameWait o w
    | none => false

/-- A wait ends the block of the current strand (R20). -/
def endBlock (k : Core) (n : Nat) : Core := if n = k.cs then { k with ended := true } else k

/-- The strand as it waits for `w` from cycle `now`. -/
def waitingStrand (t : Strand) (w : Wait) (now : Nat) : Strand :=
  let keep := keepsFlag t w
  { t with
    run := .waiting, wait := some w, by_ := if keep then t.by_ else (0xFF, 0)
    flag := if (waitTrace w).isNone then t.flag else some (w, if keep then (t.flag.map (·.2)).getD now else now) }

/-- Strand `n` waits and its block ends. A flag wait that gives way to another one ends here (R499; DEDUCED, log entry 125). -/
def beginWait (s : State) (n : Nat) (w : Wait) : State :=
  let keep := keepsFlag (sn s n) w
  let s := if keep then s else closeWait s n
  let u := waitingStrand (sn s n) w (curCyc s)
  let k := endBlock (setStrand (cc s) n { u with block := if isPrologue s.cur then u.block else 0 }) n
  setCC s (if keep then k else unopen k n)

/-- Strand `n` waits (R19): the slot is taken, its block ends, nothing else changes. -/
def waitFor (s : State) (n : Nat) (w : Wait) : State :=
  let s := beginWait s n w
  setCC s { cc s with slotAt := curCyc s + 1 }

/-- Strand `n` takes a level 1 fault at its instruction. -/
def faultIssue (s : State) (n : Nat) (f : Flt) (word : W32) : State :=
  raise1 (setCC s { cc s with slotAt := curCyc s + 1 }) s.cur n f word

/-- What an instruction does once the checks that every instruction makes have passed. -/
inductive Eff where
  /-- Completes and goes on at an address. -/
  | goto (s : State) (next : W64)
  /-- Transfers control; a loop holds the target (R190). -/
  | jump (s : State) (target : W64)
  /-- The state after the instruction, whole. -/
  | set (s : State)
  | wait (s : State) (w : Wait)
  | flt (s : State) (f : Flt)

/-- The address after the current instruction. -/
def nextPc (s : State) : W64 := (cst s).pc + 4
/-- Completes with a state and goes on at the next word. -/
def adv (s0 s : State) : Eff := .goto s (nextPc s0)

/-- A transfer by an instruction of the body that leaves the body of an active loop (R190). -/
def leavesLoop (t : Strand) (target : W64) : Bool :=
  t.loop.act && inBody t.loop t.pc && !(inBody t.loop target || target == t.loop.fin)

/-- A register among `uses` still awaits its result, or the strand's access is in flight (R164, R165). -/
def mustWait (t : Strand) (uses : List Nat) : Bool :=
  t.flight.isSome || t.pend.any fun e => uses.contains e.1

/-- Issue a C-word `w`: `proOk` says a prologue may execute it (R418), `fsBan` that the fault strand may not (R217),
`uses` are the registers it reads or writes (R164). -/
def conductState (proOk fsBan : Bool) (w : W32) (uses : List Nat) (f : State → Eff) (s : State) : State :=
  let n := (cc s).cs
  if isPrologue s.cur && !proOk then faultIssue s n { code := 0x0107, detail := w.setWidth 64 } w
  else if fsBan && isFaultStrand s (cc s) n then
    faultIssue s n { code := 0x0105, detail := w.setWidth 64 } w
  else if mustWait (cst s) uses then waitFor s n (.result uses)
  else
    match f s with
    | .goto s' t => finishIssue s' n t true
    | .jump s' t =>
      if leavesLoop (cst s) t then
        faultIssue s n { code := 0x0102, addr := t, detail := w.setWidth 64 } w
      else finishIssue s' n t true
    | .set s' => s'
    | .wait s' v => waitFor s' n v
    | .flt s' g => faultIssue s' n g w

def conduct (proOk fsBan : Bool) (w : W32) (uses : List Nat) (f : State → Eff) (s : State) :
    Host.Outcome State Fault Refusal :=
  .next (conductState proOk fsBan w uses f s)

/-! ### Memory instructions: order before performing (R33, R175, R176, R180) -/

/-- Accesses of a core in flight that issued before order number `ord`. -/
def flightsBefore (k : Core) (ord : Nat) : List Flight :=
  (k.strands.filterMap fun (_, t) => t.flight).filter fun f => decide (f.ord < ord)

def locMeets (a : Loc) (n : Nat) (b : Loc) (m : Nat) : Bool :=
  sameSpace a b && decide (locOff a < locOff b + m) && decide (locOff b < locOff a + n)

/-- A memory operation reads memory. -/
def MemOp.reads : MemOp → Bool
  | .store _ _ | .fence | .watch _ _ => false
  | .tag k _ _ => tagReads k
  | _ => true

/-- A memory operation accesses bytes: a fence and the taking of a watch do not. -/
def MemOp.touches : MemOp → Bool
  | .fence | .watch _ _ => false
  | _ => true

/-- A strong access of R88: an acquire, a release, an atomic or a scoped access; tagrd is a plain read (R177). -/
def Flight.strong (g : Flight) : Bool :=
  !g.plain && match g.op with
    | .fence | .watch _ _ | .tagrd _ => false
    | _ => true

/-- An earlier access `g` in flight holds a later one back: an acquire or a full fence everything (R85, R176), a release
fence a store (R85), bytes in common (R83, R175), and a strong access a strong one (R88). -/
def Flight.holdsBack (g fl : Flight) : Bool :=
  g.acq || (g.op == .fence && g.rel && fl.write)
  || (g.op.touches && fl.op.touches && locMeets g.loc g.len fl.loc fl.len)
  || (g.strong && fl.strong)

/-- Nothing issued earlier on the core holds the access back: a release or a full fence waits for every access before it
(R176), an acquire fence for every load (R180). -/
def mayPerform (s : State) (fl : Flight) : Bool :=
  let l := flightsBefore (cc s) fl.ord
  (!fl.rel || l.isEmpty) && !(l.any fun g => g.holdsBack fl)
  && match fl.op with
    | .fence => !(l.any fun g => g.op.reads)
    | .watch _ _ => true
    | _ => !rangeHolds s s.cur fl.ord fl.va fl.len fl.write

/-! ### Performing an access -/

/-- What became of an access at its port. -/
inductive Done where
  /-- Performed; the strand goes on at an address. -/
  | ok (s : State) (next : W64)
  | flt (s : State) (f : Flt)
  | tagWait (s : State) (w : Wait)
  /-- A request left for another device; the access stays in flight. -/
  | sent (s : State) (req : Nat)

/-- The value a load of a width delivers (R170). -/
def loadValue (wd : LWidth) (v : Nat) : W64 :=
  match wd with
  | .b => (BitVec.ofNat 8 v).signExtend 64
  | .h => (BitVec.ofNat 16 v).signExtend 64
  | .w => (BitVec.ofNat 32 v).signExtend 64
  | .d => BitVec.ofNat 64 v
  | .bu => BitVec.ofNat 64 (v % 2 ^ 8)
  | .hu => BitVec.ofNat 64 (v % 2 ^ 16)
  | .wu => BitVec.ofNat 64 (v % 2 ^ 32)

def lwidthBytes : LWidth → Nat
  | .b | .bu => 1
  | .h | .hu => 2
  | .w | .wu => 4
  | .d => 8
def swidthBytes : SWidth → Nat
  | .b => 1
  | .h => 2
  | .w => 4
  | .d => 8

/-- The old value an atomic returns: sign-extended for 32 bits (R181). -/
def amoValue (z : ASize) (v : Nat) : W64 :=
  match z with
  | .w => (BitVec.ofNat 32 v).signExtend 64
  | .d => BitVec.ofNat 64 v

/-- Write a result register of strand `n`. -/
def setReg (s : State) (n r : Nat) (v : W64) : State := setSn s n (xset (sn s n) r v)

/-- A load from the pool section, which no race check covers (R197). -/
def MemOp.ofPool : MemOp → Bool
  | .wtmpl _ _ | .emitt _ _ => true
  | _ => false

/-- Count the line and sample a plain access (R391, R96). -/
def noteAccess (s : State) (fl : Flight) (rd wr : Bool) : State :=
  let s := countLine s s.cur fl.ent fl.va fl.loc rd wr
  if fl.plain && !fl.op.ofPool then sampleAccess s s.cur fl.loc fl.len fl.write else s

/-- The race check and record of a checked access (R93). -/
def raceStep (s : State) (fl : Flight) : Except (State × Flt) State :=
  match fl.loc with
  | .named _ => .ok s
  | .scr c o =>
    match raceCheck s s.cur fl.loc fl.len fl.write with
    | some d => .error ({ s with fresh := s.fresh + 1 }, { code := 0x0030, addr := fl.va, detail := BitVec.ofNat 64 d })
    | none => .ok (setCore s c (raceMark (getCore s c) (cc s).lid fl.write (linesOf o fl.len)))

/-- The writer of a conductor access. -/
def whoAt (s : State) (n : Nat) (va : W64) : Who := { agent := n, core := s.cur, pc := (sn s n).pc, va := va }

/-- The operation of a request for another device. -/
def remoteOp (op : MemOp) : Option RemoteOp :=
  match op with
  | .load z _ => some (.load (lwidthBytes z))
  | .jtab => some (.load 4)
  | .wtmpl _ _ | .emitt _ _ => some (.load 8)
  | .store n v => some (.store (leBytes n v.toNat))
  | .amo op z _ v => some (.amo op z v)
  | .cas z _ c v => some (.cas z c v)
  | .tag _ _ _ | .tagrd _ | .fence | .watch _ _ => none

/-! ### Emission (R28, R198 to R201) -/

/-- IDLE of a word. -/
def wordIdle (w : W64) : Nat := (w.extractLsb' 0 10).toNat

/-- Append a word to queue `q` of the current core from strand `n`. -/
def appendWord (s : State) (n q : Nat) (bits : W64) (tix : W16) : State :=
  let k := cc s
  let t := sn s n
  let eseq := t.eseq + 1
  let w : QWord := {
    bits := bits, strand := n, pc := t.pc, eseq := eseq, tmpl := tix, seq := k.ord, at_ := curCyc s,
    snaps := snapshot k q bits }
  let k := dropWaiter k q n
  let e := getEng k q
  let k := setEng { k with ord := k.ord + 1 } q { e with q := e.q ++ [.word w] }
  setCC s (setStrand k n { t with eseq := eseq })

/-- Deliver the value that an access read, and where the strand goes on. For jtab the entry gives the target (R186). -/
def deliver (s : State) (n : Nat) (fl : Flight) (v : Nat) : Done :=
  let pc := (sn s n).pc
  match fl.op with
  | .load z rd => .ok (setReg s n rd (loadValue z v)) (pc + 4)
  | .amo _ z rd _ | .cas z rd _ _ => .ok (setReg s n rd (amoValue z v)) (pc + 4)
  | .jtab =>
    let t := pc + (BitVec.ofNat 32 v).signExtend 64 * 4
    if leavesLoop (sn s n) t then .flt s { code := 0x0102, addr := t, detail := fl.word.setWidth 64 } else .ok s t
  | .wtmpl wd idx => .ok (setSn s n (wset (sn s n) wd { val := BitVec.ofNat 64 v, origin := BitVec.ofNat 16 idx })) (pc + 4)
  | .emitt q idx => .ok (appendWord s n q (BitVec.ofNat 64 v) (BitVec.ofNat 16 idx)) (pc + 4)
  | _ => .ok s (pc + 4)

/-- The translation that a request of an engine's word or of a fetch has used. -/
def originEnt (s : State) (o : Origin) : Option TlbE :=
  match o with
  | .strand _ _ | .host _ => none
  | .engine c _ va => entOf s c (BitVec.ofNat 64 va)
  | .fetch c n => entOf s c (getStrand (getCore s c) n).pc

/-- Send a request of a class to another device (R484, R485). -/
def sendReq (s : State) (o : Origin) (pa : Nat) (op : RemoteOp) (cls : Nat) : State × Nat :=
  let id := s.vol.nextId
  let off := paOff pa
  ({ s with vol := { s.vol with
      nextId := id + 1
      fly := s.vol.fly ++ [{ id := id, dev := off / 2 ^ 33, off := off % 2 ^ 33, op := op, origin := o, cls := cls
                             gen := s.mm.gen, ent := originEnt s o }]
      out := s.vol.out ++ [.req id (off / 2 ^ 33) (off % 2 ^ 33) op cls] } }, id)

/-- The class of a request (R484); `bulk` marks the data of xget, xput, xgetc and xputc, `strong` an access that is not plain. -/
def remoteClass (op : RemoteOp) (bulk strong : Bool) : Nat :=
  match op with
  | .load _ | .store _ | .piece _ | .probe _ => if bulk then 3 else if strong then 0 else 1
  | .amo _ _ _ | .cas _ _ _ => 2
  | .tag _ _ | .seqw _ | .withdraw _ => 0

/-- A strand's request. -/
def sendRemote (s : State) (n : Nat) (pa : Nat) (op : RemoteOp) (strong : Bool) : State × Nat :=
  sendReq s (.strand s.cur n) pa op (remoteClass op false strong)

/-- The fault that an error response makes (R487): 1 no such offset, 2 refused by the entry, whose permission bits the
response carries, 3 an uncorrectable error at the target, `line` lines into the access (R54). -/
def ackFault (err : BitVec 2) (va v line : W64) : Flt :=
  match err.toNat with
  | 2 => { code := 0x0011, addr := va, detail := v }
  | 3 => { code := 0x0020, addr := va, detail := line }
  | _ => { code := 0x0012, addr := va, detail := 14 }

def badRead (s : State) (fl : Flight) : Option Flt :=
  if fl.op.reads then
    (uncorrectable s fl.loc fl.len).map fun d => { code := 0x0020, addr := fl.va, detail := BitVec.ofNat 64 d }
  else none

def locTarget : Loc → Nat
  | .scr _ _ => 32
  | .named pa => paTarget pa

/-- Take or refuse a watch at the port of a location (R501). -/
def takeWatch (s : State) (c n : Nat) (l : Loc) (mask : W16) (stop : Bool) : State × Bool :=
  let cap := match l with | .scr _ _ => 16 | .named _ => 256
  let same (w : Watch) : Bool := match l, w.loc with
    | .scr a _, .scr b _ => decide (a = b)
    | .named a, .named b => decide (paTarget a = paTarget b)
    | _, _ => false
  if (s.pro.watches.filter same).length < cap then
    ({ s with pro := { s.pro with watches := s.pro.watches ++ [{ core := c, n := n, loc := l, mask := mask, stop := stop }] } }, true)
  else (s, false)

/-- Set field st of `wp.ctln`. -/
def setWpSt (s : State) (c n st : Nat) : State :=
  let k := getCore s c
  let v := tget 0 k.wpCtl n
  setCore s c { k with wpCtl := tput 0 k.wpCtl n ((v &&& ~~~(0xC0000 : W64)) ||| BitVec.ofNat 64 (st * 2 ^ 18)) }

/-- The port has answered: the watch is armed everywhere, or for precise matching only. -/
def performWatch (s : State) (n : Nat) (v : W64) (loc : Loc) : State :=
  let s := { s with pro := { s.pro with watches := s.pro.watches.filter fun w => decide (w.core ≠ s.cur ∨ w.n ≠ n) } }
  let k := cc s
  let s := setCC s { k with wpCtl := tput 0 k.wpCtl n (v &&& 0x3FFFF), wpLoc := tset k.wpLoc n loc }
  let (s, ok) := takeWatch s s.cur n loc (v.extractLsb' 0 16) (v.getLsbD 17)
  setWpSt s s.cur n (if ok then 0 else 2)

/-- Perform the access of strand `n` of the current core at its port. An uncorrectable error in the line of a tagrd's word faults
as it does where bytes are read, though tagrd returns only the tag (R178; DESIGN CHOICE, log entry 129). -/
def performAt (s : State) (n : Nat) (fl : Flight) : Done :=
  let pc := (sn s n).pc
  match locTarget fl.loc, fl.loc, remoteOp fl.op with
  | 14, .named pa, some op =>
    let s := noteAccess s fl fl.op.reads fl.write
    let (s, id) := sendRemote s n pa op (!fl.plain)
    .sent s id
  | _, _, _ =>
    match fl.op with
    | .fence => .ok (if fl.rel then bumpRelease s s.cur else s) (pc + 4)
    | .watch w v => .ok (performWatch s w v fl.loc) (pc + 4)
    | .load _ _ | .jtab =>
      match raceStep s fl with
      | .error (s, f) => .flt s f
      | .ok s' =>
        match badRead s fl with
        | some f => .flt s f
        | none => deliver (noteAccess s' fl true false) n fl (readNat s fl.loc fl.len)
    | .wtmpl _ _ | .emitt _ _ =>
      match badRead s fl with
      | some f => .flt s f
      | none => deliver (noteAccess s fl true false) n fl (readNat s fl.loc fl.len)
    | .store m v =>
      match raceStep s fl with
      | .error (s, f) => .flt s f
      | .ok s =>
        let s := noteAccess s fl false true
        let s := storeAt s (whoAt s n fl.va) fl.loc (leBytes m v.toNat) true
        .ok (if fl.rel then bumpRelease s s.cur else s) (pc + 4)
    | .amo op z _ v =>
      match badRead s fl with
      | some f => .flt s f
      | none =>
        let s := noteAccess s fl true true
        let (s, old) := amoAt s (whoAt s n fl.va) fl.loc op z v.toNat true
        deliver (bumpRelease s s.cur) n fl old
    | .cas z _ c v =>
      match badRead s fl with
      | some f => .flt s f
      | none =>
        let s := noteAccess s fl true true
        let (s, old) := casAt s (whoAt s n fl.va) fl.loc z c.toNat v.toNat true
        deliver (bumpRelease s s.cur) n fl old
    | .tag k rd v =>
      match fl.loc with
      | .named _ => .ok s (pc + 4)
      | .scr c o =>
        if tagCond k (tagFull s c (o / 8)) then
          match badRead s fl with
          | some f => .flt s f
          | none =>
            let s := noteAccess s fl (tagReads k) (tagWrites k)
            let (s, old) := tagPerform s (whoAt s n fl.va) c (o / 8) k v false
            .ok (if tagReads k then setReg s n rd old else s) (pc + 4)
        else .tagWait s (.tag c (o / 8) (curCyc s + 1024) fl.va)
    | .tagrd rd =>
      match fl.loc with
      | .named _ => .ok s (pc + 4)
      | .scr c o =>
        match badRead s fl with
        | some f => .flt s f
        | none => .ok (setReg (noteAccess s fl true false) n rd (if tagFull s c (o / 8) then 1 else 0)) (pc + 4)

/-! ### Sending an access (R165, R173, R178, R183) -/

/-- The access as it leaves the strand. -/
def Req.flight (r : Req) (s : State) (word : W32) (loc : Loc) : Flight :=
  { op := r.op, word := word, ord := (cc s).ord, loc := loc, va := r.va, len := r.len, write := r.write
    rel := r.rel, acq := r.acq, plain := r.plain, gen := s.mm.gen, ent := entOf s s.cur r.va }

/-- Keep an access in flight: its instruction has issued, and the strand's next one waits when its turn comes (R165). An
emitt that took an entry keeps it (R199). -/
def holdFlight (s : State) (n : Nat) (fl : Flight) : State :=
  let t := sn s n
  let k := setStrand (cc s) n { t with run := .ready, flight := some fl, block := t.block + 1 }
  let k := match fl.op with
    | .emitt q _ => addWaiter k q n
    | _ => k
  setCC s { k with slotAt := curCyc s + 1 }

/-- Whether an access must be performed at its issue: only an access outside the own scratchpad may be left open
(R529), and an emitt appends its word in one step. -/
def atIssue (s : State) (fl : Flight) : Bool :=
  match fl.loc, fl.op with
  | _, .emitt _ _ => true
  | _, .watch _ _ => !s.defer
  | .scr c _, _ => decide (c = s.cur) || !s.defer
  | .named _, _ => !s.defer

/-- Take the next order number of the core (R81). -/
def takeOrd (s : State) : State := setCC s { cc s with ord := (cc s).ord + 1 }

/-- Send an access whose location is known. -/
def sendAt (s : State) (fl : Flight) : Eff :=
  let n := (cc s).cs
  if !(mayPerform s fl && atIssue s fl) then
    match fl.op with
    | .emitt _ _ => .wait s .order
    | _ => .set (holdFlight (takeOrd s) n fl)
  else
    match performAt (takeOrd s) n fl with
    | .ok s t => .goto s t
    | .flt s f => .flt s f
    | .tagWait _ w => .wait s w
    | .sent s id => .set (holdFlight s n { fl with req := some id })

/-- The C-word at `pc` of strand `n` lies in the Volley window: its fetch is a request to the other device (R187). -/
def sendFetch (s : State) (n : Nat) (pa : Nat) : State :=
  waitFor (sendReq s (.fetch s.cur n) pa (.load 4) 1).1 n .fetch

/-! ### Walk requests and walkers (R386) -/

/-- A request is for the page of an address in an address space. -/
def WalkReq.serves (w : WalkReq) (asn : Nat) (va : W64) : Bool :=
  decide (w.asn = asn) && w.va.toNat / 65536 == va.toNat / 65536

/-- Misses of a cluster wait for the request. -/
def WalkReq.ofCluster (w : WalkReq) (cl : Nat) : Bool := w.waiters.any fun e => decide (clusterOf e.1 = cl)

def WalkReq.join (w : WalkReq) (l : List (Nat × Nat)) : WalkReq :=
  { w with waiters := w.waiters ++ l.filter fun e => !w.waiters.contains e }

/-- The pool that serves a cluster: that of its partition (R397). -/
def poolOf (s : State) (cl : Nat) : Nat := cl / 2 * s.mm.mode / 16
/-- Walkers in a pool (R397). -/
def poolSize (s : State) : Nat := 128 / s.mm.mode

/-- The request that a pool takes next: round-robin over its clusters from the one after that served last, and of a cluster
the oldest. -/
def poolNext (s : State) (p : Nat) : Option WalkReq :=
  let last := tget 31 s.mm.served p
  let l := (s.mm.walks.zipIdx.filter fun (w, _) => decide (poolOf s w.cluster = p)).map fun (w, i) =>
    ([(w.cluster + 31 - last) % 32, i], w)
  ((sortKey l).head?).map (·.2)

/-- A pool takes its next request, where it has a walker free or a walk in progress is for the same page, which the request
then joins. -/
def startWalk (s : State) (p : Nat) : State :=
  match poolNext s p with
  | none => s
  | some w =>
    let m := { s.mm with walks := s.mm.walks.erase w, served := tset s.mm.served p w.cluster }
    if s.mm.walking.any fun v => v.serves w.asn w.va then
      { s with mm := { m with walking := s.mm.walking.map fun v => if v.serves w.asn w.va then v.join w.waiters else v } }
    else if (s.mm.walking.filter fun v => poolOf s v.cluster = p).length < poolSize s then
      { s with mm := { m with walking := s.mm.walking ++ [w] } }
    else s

/-- Every pool takes what it can. -/
def startWalks (s : State) : State :=
  (List.range s.mm.walks.length).foldl (fun s _ => (List.range s.mm.mode).foldl startWalk s) s

/-- The requests of a cluster that are outstanding. -/
def outstanding (s : State) (cl : Nat) : Nat := ((s.mm.walks ++ s.mm.walking).filter fun w => w.ofCluster cl).length

/-- A miss of strand `n` of the current core, or of queue `n` − 4, waits for a walk: for an outstanding request of its
cluster for the page, for one of its own, or, where the cluster has 64, for room (R386). -/
def requestWalk (s : State) (n : Nat) (va : W64) : State :=
  let t := getTask s (cc s).task
  let cl := clusterOf s.cur
  let me := (s.cur, n)
  let mine (w : WalkReq) : Bool := w.ofCluster cl && w.serves t.asn va
  if (s.mm.walks ++ s.mm.walking).any mine then
    let f := fun l : List WalkReq => l.map fun w => if mine w then w.join [me] else w
    { s with mm := { s.mm with walks := f s.mm.walks, walking := f s.mm.walking } }
  else if 64 ≤ outstanding s cl then
    { s with mm := { s.mm with late := if s.mm.late.contains me then s.mm.late else s.mm.late ++ [me] } }
  else
    startWalks { s with mm := { s.mm with
      walks := s.mm.walks ++ [{ cluster := cl, asn := t.asn, root := t.root, va := va, waiters := [me] }] } }

/-- A request for the page of an address, sent now, would be served at once: no request of the cluster asks for it, the
cluster has room for one, and a walker of its pool is free with no request before it. -/
def walkFree (s : State) (c : Nat) (va : W64) : Bool :=
  let cl := clusterOf c
  let asn := (getTask s (getCore s c).task).asn
  !((s.mm.walks ++ s.mm.walking).any fun w => w.ofCluster cl && w.serves asn va)
  && decide (outstanding s cl < 64)
  && !(s.mm.walks.any fun w => decide (poolOf s w.cluster = poolOf s cl))
  && decide ((s.mm.walking.filter fun w => poolOf s w.cluster = poolOf s cl).length < poolSize s)

/-- An access misses both TLBs and waits for a walk: where the turn leaves walks open, or none is to be had at once. A walk
that would fault does so now (log entry 44). -/
def asksWalk (s : State) (c : Nat) (va : W64) : Bool :=
  !isPrologue c && canonical va && !inLocal va && tlbMiss s c va && (s.defer || !walkFree s c va) && walkOk s c va

/-- Where the tables now put an access: none of the spaces, where they put it nowhere. -/
def walkLoc (s : State) (r : Req) : Loc :=
  match (reach s s.cur r.va r.len 0 false false).2 with
  | .ok loc _ => loc
  | .flt _ => .named (16 * 2 ^ 47)

/-- The access has been sent, and its translation waits for a walk: it is in flight (R165, R386). -/
def sendWalk (word : W32) (r : Req) (s : State) : State :=
  let n := (cc s).cs
  holdFlight (takeOrd (requestWalk s n r.va)) n { r.flight s word (walkLoc s r) with walk := some r }

/-- The walk of an access in flight is over: its translation and the checks that follow it (R173). -/
def walkedFlight (s : State) (n : Nat) (fl : Flight) (r : Req) : State :=
  match reach s s.cur r.va r.len r.need false r.hostNo with
  | (s, .flt f) => raise1 s s.cur n f fl.word
  | (s, .ok loc _) =>
    match (if r.watched && !(sn s n).noWatch then preciseHit s s.cur loc r.len else none) with
    | some w => raise1 s s.cur n { code := 0x0060, addr := r.va, detail := BitVec.ofNat 64 w } fl.word
    | none =>
      setSn s n { sn s n with flight := some { fl with loc := loc, gen := s.mm.gen, ent := entOf s s.cur r.va, walk := none } }

/-- The checks of R173 in their order, then the access. -/
def sendMem (word : W32) (r : Req) (s : State) : Eff :=
  if r.align && decide (r.va.toNat % r.len ≠ 0) then
    .flt s { code := 0x0101, addr := r.va, detail := BitVec.ofNat 64 r.len }
  else if asksWalk s s.cur r.va then .set (sendWalk word r s)
  else
    match reach s s.cur r.va r.len r.need false r.hostNo with
    | (s, .flt f) => .flt s f
    | (s, .ok loc _) =>
      match (if r.watched && !(cst s).noWatch then preciseHit s s.cur loc r.len else none) with
      | some w => .flt s { code := 0x0060, addr := r.va, detail := BitVec.ofNat 64 w }
      | none => sendAt s (r.flight s word loc)

/-- A memory instruction. -/
def memInstr (proOk : Bool) (w : W32) (uses : List Nat) (r : State → Req) (s : State) :
    Host.Outcome State Fault Refusal :=
  conduct proOk false w uses (fun s => sendMem w (r s) s) s

end Sys2Proof.Machine
end

