-- ==== Sys2Proof/Machine/Operands.lean ====
section
/-! DEFINITION. The operand forms of conductor instructions: immediates (R169), addresses (R170), branch and jump
targets (R184, R185), and the shapes of register instructions with their latencies (R164). -/

namespace Sys2Proof.Machine

/-- An immediate, sign-extended, and zero-extended (R169). -/
def sx {n : Nat} (i : BitVec n) : W64 := i.signExtend 64
def zx {n : Nat} (i : BitVec n) : W64 := i.setWidth 64

/-- A Bool as a register value. -/
def ofBool (b : Bool) : W64 := if b then 1 else 0

/-- The address of a plain load or store (R170). -/
def memAddr (s : State) (rs1 : Reg) (off : BitVec 13) : W64 := rx s rs1 + sx off

/-- The target of a word offset from the current instruction (R184, R185, R186). -/
def target {n : Nat} (s : State) (off : BitVec n) : W64 := (cst s).pc + sx off * 4

/-- Write a register of the current strand after a latency of `lat` cycles (R164); `x0` discards. -/
def wxLate (s : State) (rd : Reg) (v : W64) (lat : Nat) : State :=
  if rd = 0 then s
  else setCst s { cst s with pend := (cst s).pend ++ [(rd.toNat, v, curCyc s + lat)] }

/-- rd := f(x[rs1], x[rs2]). -/
def op2 (w : W32) (rd rs1 rs2 : Reg) (f : W64 → W64 → W64) (s : State) : Host.Outcome State Fault Refusal :=
  conduct true false w [rd.toNat, rs1.toNat, rs2.toNat] (fun s => adv s (wx s rd (f (rx s rs1) (rx s rs2)))) s

/-- rd := f(x[rs1], x[rs2]), available after `lat` cycles. -/
def op2Late (w : W32) (rd rs1 rs2 : Reg) (lat : Nat) (f : W64 → W64 → W64) (s : State) :
    Host.Outcome State Fault Refusal :=
  conduct true false w [rd.toNat, rs1.toNat, rs2.toNat] (fun s => adv s (wxLate s rd (f (rx s rs1) (rx s rs2)) lat)) s

/-- rd := f(x[rs1]). -/
def op1 (w : W32) (rd rs1 : Reg) (f : W64 → W64) (s : State) : Host.Outcome State Fault Refusal :=
  conduct true false w [rd.toNat, rs1.toNat] (fun s => adv s (wx s rd (f (rx s rs1)))) s

/-- A branch taken where the condition holds (R184). -/
def branch (w : W32) (rt rs1 : Reg) (off : W16) (c : W64 → W64 → Bool) (s : State) :
    Host.Outcome State Fault Refusal :=
  conduct true false w [rt.toNat, rs1.toNat]
    (fun s => if c (rx s rt) (rx s rs1) then .jump s (target s off) else adv s s) s

/-- pd := whether the condition holds (R192). -/
def setPred (w : W32) (pd : PReg) (rs1 rs2 : Reg) (c : W64 → W64 → Bool) (s : State) :
    Host.Outcome State Fault Refusal :=
  conduct true false w [rs1.toNat, rs2.toNat]
    (fun s => adv s (setCst s (pset (cst s) pd.toNat (c (rx s rs1) (rx s rs2))))) s

/-- pd := f(pa, pb) (R192). -/
def predOp (w : W32) (pd pa pb : PReg) (f : Bool → Bool → Bool) (s : State) : Host.Outcome State Fault Refusal :=
  conduct true false w []
    (fun s => adv s (setCst s (pset (cst s) pd.toNat (f (pget (cst s) pa.toNat) (pget (cst s) pb.toNat))))) s

/-! ### Memory forms -/

/-- A load of R170 or R171. -/
def loadForm (w : W32) (rd rs1 : Reg) (z : LWidth) (acq plain : Bool) (addr : State → W64) (s : State) :
    Host.Outcome State Fault Refusal :=
  memInstr true w [rd.toNat, rs1.toNat] (fun s =>
    { op := .load z rd.toNat, va := addr s, len := lwidthBytes z, need := pR, acq := acq, plain := plain }) s

/-- A store of R170 or R171. -/
def storeForm (w : W32) (rt rs1 : Reg) (z : SWidth) (rel plain : Bool) (addr : State → W64) (s : State) :
    Host.Outcome State Fault Refusal :=
  memInstr false w [rt.toNat, rs1.toNat] (fun s =>
    { op := .store (swidthBytes z) (rx s rt), va := addr s, len := swidthBytes z, need := pW, write := true, rel := rel,
      plain := plain, watched := true }) s

/-- The permission bits of a tagged operation (R62, R178). -/
def tagNeed (k : TagKind) : Perm :=
  pT ||| (if tagReads k then pR else 0) ||| (if tagWrites k then pW else 0)

/-- A tagged instruction of R177 with kind `k`, destination `rd` and data register `rs2`. -/
def tagForm (w : W32) (k : TagKind) (rd rs1 rs2 : Reg) (s : State) : Host.Outcome State Fault Refusal :=
  memInstr false w [rd.toNat, rs1.toNat, rs2.toNat] (fun s =>
    { op := .tag k rd.toNat (rx s rs2), va := rx s rs1, len := 8, need := tagNeed k, write := k != .readFull,
      rel := tagWrites k, acq := tagReads k, plain := false }) s

def ordAcq : AOrder → Bool
  | .acq | .ar => true
  | _ => false
def ordRel : AOrder → Bool
  | .rel | .ar => true
  | _ => false

/-- An atomic of R181. -/
def amoForm (w : W32) (op : AmoOp) (rd rs1 rs2 : Reg) (z : ASize) (o : AOrder) (s : State) :
    Host.Outcome State Fault Refusal :=
  memInstr false w [rd.toNat, rs1.toNat, rs2.toNat] (fun s =>
    { op := .amo op z rd.toNat (rx s rs2), va := rx s rs1, len := asizeBytes z, need := pR ||| pW ||| pA, write := true,
      rel := ordRel o, acq := ordAcq o, plain := false, watched := true, hostNo := !hostAmo op }) s

/-- A fence of R180: it accesses no byte. -/
def fenceForm (w : W32) (acq rel : Bool) (s : State) : Host.Outcome State Fault Refusal :=
  conduct false false w [] (fun s =>
    sendAt s { op := .fence, word := w, ord := (cc s).ord, loc := .scr s.cur 0, va := localBase, len := 0,
               write := false, rel := rel, acq := acq, plain := false, gen := s.mm.gen }) s

end Sys2Proof.Machine
end

