-- ==== Sys2Proof/Machine/Issue.lean ====
section
/-! DEFINITION. How a queued word issues: the checks at the head of its queue (R29, R146, R262), its cycle (R42, R43), its
tokens (R38, R39), what holds it (R33, R528), and how it completes (R38, R40, R215). -/

namespace Sys2Proof.Machine

/-- A condition that holds a word at its cycle (R528): it ends at a fixed cycle, or it is open; an open one may be a flag
wait, with the sub kind and object of R498. -/
inductive Hold where
  | timed (t : Nat)
  | open_
  | flag (sub : Nat) (obj : W64)
  deriving DecidableEq, Repr

/-- The object of a token wait (R498). -/
def linkObj (src dst : Nat) : W64 := BitVec.ofNat 64 (src + 8 * dst)

/-- The partner's code in a token wait: 4 for the conductor. -/
def partner (q p : Nat) : Nat := if p = q then 4 else p

/-- The link conditions of R38; a word whose token actions are taken has none (R39). -/
def tokenHolds (k : Core) (q : Nat) (h : EHead) (w : QWord) : List Hold :=
  if w.held then []
  else
    (match h.pop with
      | some p => if (tokens k (popLink q p.code.toNat)).isEmpty then [Hold.flag 2 (linkObj (partner q p.code.toNat) q)] else []
      | none => [])
    ++ (match h.push with
      | some p => if linkFree k (pushLink q p.code.toNat) = 0 then [Hold.flag 2 (linkObj q (partner q p.code.toNat))] else []
      | none => [])

/-- The range checker's condition (R33): against other engines' words in an interlocked section only, against accesses of
the conductor in both kinds (R42; DEDUCED, log entry 104). -/
def rangeHold (s : State) (q : Nat) (w : QWord) : List Hold :=
  if (!(cc s).timed && rangeHoldsWord s s.cur q w) || rangeHoldsFlight s s.cur q w then [Hold.open_] else []

/-- The word writes memory. -/
def mStores : MKind → Bool
  | .stat _ | .drain _ _ _ _ | .save _ => true
  | _ => false

/-- A word outside the own scratchpad holds its queue to its completion (R284, R310). -/
def remoteHolds (now : Nat) (remote : Bool) (due : Option Nat) : List Hold :=
  match due with
  | none => [.open_]
  | some d => if remote && decide (now < d) then [.timed d] else []

/-- What the words in flight of a queue do to every later word of it, null and illegal words included (R30): an access
outside the own scratchpad, the check points of the previous matrix word (R335), a copy word in progress (R354). -/
def queueHolds (k : Core) (q now : Nat) : List Hold :=
  match q with
  | 0 => k.vec.fly.flatMap fun x => remoteHolds now x.acc.isSome x.i.due
  | 1 =>
    (if now < k.mat.free then [Hold.timed k.mat.free] else [])
    ++ k.mat.fly.flatMap fun y => if y.locs.isSome && decide (y.next < y.cps) && !mStores y.p.kind then [Hold.open_] else []
  | 2 => k.gen.fly.flatMap fun x => remoteHolds now x.acc.isSome x.i.due
  | _ => if k.cpy.run.isSome then [Hold.open_] else []

/-- The detail of a schedule miss at cycle `now` (R528). -/
def missDetail (now : Nat) (hs : List Hold) : W64 :=
  if hs.all (fun | .timed _ => true | _ => false) then
    BitVec.ofNat 64 (hs.foldl (fun a h => match h with | .timed t => Nat.max a (t - now) | _ => a) 0)
  else 0

/-- The agent that ended a word's flag wait (R498); tagged words lie in the own scratchpad. -/
def engSetter (k : Core) (q sub : Nat) (obj : W64) : Nat × Nat :=
  let src := (obj.extractLsb' 0 3).toNat
  let dst := (obj.extractLsb' 3 3).toNat
  if sub = 1 then tget (0xFF, 0) k.tagBy ((obj.extractLsb' 0 21).toNat / 8)
  else if dst = q then
    if src = 4 then (((tokens k (linkCE q)).head?.map (·.strand)).getD 0xFF, k.lid) else (4 + src, k.lid)
  else if dst = 4 then (k.popBy, k.lid) else (4 + dst, k.lid)

/-- Write the record of a word's flag wait that ends now (R499). -/
def closeEngWait (s : State) (q : Nat) (w : QWord) : State :=
  let k := cc s
  match (getEng k q).wait with
  | none => s
  | some (sub, obj, c0) =>
    let c := waitCycles k (curCyc s) c0
    if s.pro.thr.toNat ≤ c then
      let b := engSetter k q sub obj
      traceAdd s {
        task := k.task, lid := k.lid, kind := 1, who := 4 + q, object := obj, cycles := c, sub := sub
        akind := b.1, alid := b.2, pc := w.pc, eseq := w.eseq, tmpl := w.tmpl }
    else s

/-- Note the flag wait of a word at its head: the one that it has where that goes on, else a new one, which ends the old
(R498, R499; DEDUCED, log entry 125). -/
def noteWait (s : State) (q : Nat) (w : QWord) (hs : List Hold) : State :=
  match hs.filterMap fun | .flag a b => some (a, b) | _ => none with
  | [] => s
  | (a, b) :: l =>
    if (getEng (cc s) q).wait.any fun e => ((a, b) :: l).contains (e.1, e.2.1) then s
    else
      let s := closeEngWait s q w
      setCC s (unopen (setEng (cc s) q { getEng (cc s) q with wait := some (a, b, curCyc s) }) (4 + q))

def clearAcks (s : State) (q : Nat) : State := setCC s { cc s with acks := (cc s).acks.filter fun e => e.1 ≠ q }

/-- What an engine's own checks make of a word whose cycle has come and that nothing holds. -/
inductive Act where
  /-- It issues, from a state in which the checks have filled TLBs. -/
  | go (s : State) (f : State → Issued → State)
  | wait (hs : List Hold)
  /-- A check needs what another device has been asked for, or is now: the word stays at the head. -/
  | ask (s : State)
  /-- It claims the value pipeline and does not get it (R312). -/
  | starve (hs : List Hold)
  | flt (f : Flt)

/-- What the later checks add to the conditions that hold a word (R528). -/
def actHolds : Act → List Hold
  | .wait hs | .starve hs => hs
  | .go _ _ | .ask _ | .flt _ => []

/-- The word leaves its queue: its token actions, its cycle of issue (R38, R42). -/
def takeWord (s : State) (q : Nat) (h : EHead) (w : QWord) : State × Issued :=
  let s := closeEngWait s q w
  let k := cc s
  let push := if w.held then w.resv else h.push.map fun p => pushLink q p.code.toNat
  let k := if w.held then k else
    match h.pop with
    | some p => popTok k (popLink q p.code.toNat)
    | none => k
  let k := if w.held then k else
    match push with
    | some l => reserve k l
    | none => k
  let e := getEng k q
  (setCC s (unopen (setEng k q { e with q := headWord (fun _ => none) e.q, prev := some (curCyc s), base := none, wait := none, claim := none }) (4 + q)),
   { w := w, t := curCyc s, due := none, push := push, gen := s.mm.gen })

/-- The cycle of the word at the head of a queue: exact in a timed section, the earliest in an interlocked one. -/
def wordDue (k : Core) (e : Eng) (idle : Nat) : Int :=
  if k.timed then ((e.base.orElse fun _ => e.prev).getD 0) + idle
  else match e.prev with
    | some p => p + Nat.max 1 idle
    | none => 0

/-- How many cycles after its cycle a word is (R200). -/
def lateness (now : Nat) (due : Int) : W64 := BitVec.ofInt 64 (now - due)

/-- A word that cannot go on: it waits, or in a timed section misses its cycle (R42, R43). -/
def holdWord (s : State) (q : Nat) (w : QWord) (hs : List Hold) : State :=
  if (cc s).timed then raise2 s s.cur q w { code := 0x0040, detail := missDetail (curCyc s) hs } false 0
  else noteWait s q w hs

/-- Note the cycle of a word's first claim of the value pipeline (R312). -/
def noteClaim (s : State) (q : Nat) : State :=
  let k := cc s
  let e := getEng k q
  setCC s (setEng k q { e with claim := some (e.claim.getD (curCyc s)) })

/-- The checks at the head of queue `q`, in the order of R262; `bad` is the illegal-word check of what the word's fields
and snapshots carry, `holds` the engine's blocking rules, `act` the checks that follow and the effect. In an interlocked
section no check is made of a word while the queue is held. -/
def issueState (q : Nat) (h : EHead) (bad : QWord → Bool) (holds : State → QWord → List Hold) (act : State → QWord → Act)
    (s : State) : State :=
  let k := cc s
  let e := getEng k q
  let now := curCyc s
  match (wordsOf e.q).head? with
  | none => s
  | some w =>
    let due := wordDue k e h.idle.toNat
    let qh := queueHolds k q now
    if e.stop || inHold k now || decide ((now : Int) < due) then s
    else if !k.timed && !qh.isEmpty then holdWord s q w (tokenHolds k q h w ++ qh)
    else if bad w || (k.timed && h.idle == 0) then raise2 s s.cur q w { code := 0x0002, detail := w.bits } false 0
    else if k.timed && decide (due < now) then
      raise2 s s.cur q w { code := 0x0040, detail := lateness now due } false 0
    else
      match tokenHolds k q h w ++ rangeHold s q w ++ qh ++ holds s w with
      | a :: hs => holdWord s q w (a :: hs ++ (if k.timed then actHolds (act s w) else []))
      | [] =>
        match act s w with
        | .wait hs => holdWord s q w hs
        | .starve hs => holdWord (noteClaim s q) q w hs
        | .ask s' => s'
        | .flt f => raise2 { clearAcks s q with fresh := s.fresh + 1 } s.cur q w f false 0
        | .go s' f => let (s'', i) := takeWord s' q h w; f s'' i

/-- The words of a JOIN, or of an exit's drain, have completed. -/
def drainMet (k : Core) (n : Nat) : Wait → Bool
  | .join qs => (List.range 4).all fun q => !qs.getLsbD q || !hasMarker k q n
  | .drainOwn => drainedOf k n
  | _ => false

/-- A strand notes the engine whose completion satisfied its wait (R498): `k` before it, `k'` after it. -/
def drainSetter (k k' : Core) (q n : Nat) (t : Strand) : Strand :=
  match t.flag with
  | some (w, _) => if drainMet k' n w && !drainMet k n w then { t with by_ := (4 + q, k.lid) } else t
  | none => t

/-- A word that has done everything: its push, its count, the markers behind it (R38, R40, R215). The word is no longer
among those issued. -/
def completeWord (s : State) (q : Nat) (i : Issued) : State :=
  let k := retirePush (cc s) i
  let e := getEng k q
  let k := setEng k q { e with cseq := if i.w.skipped then e.cseq else e.cseq + 1 }
  let k := settleMarkers { k with lastDone := q } q
  setCC s { k with strands := k.strands.map fun (n, t) => (n, drainSetter (cc s) k q n t) }

/-- A null word completes in its issue cycle (R141), vnop too, although R236 lists it in a class of latency 2 (DEDUCED, log entry
131). -/
def nullWord (q : Nat) (h : EHead) (s : State) : Host.Outcome State Fault Refusal :=
  .next (issueState q h (fun _ => false) (fun _ _ => []) (fun s _ => .go s fun s i => completeWord s q i) s)

def execVnop (h : EHead) (s : State) : Host.Outcome State Fault Refusal := nullWord 0 h s
def execMnop (h : EHead) (s : State) : Host.Outcome State Fault Refusal := nullWord 1 h s
def execGnop (h : EHead) (s : State) : Host.Outcome State Fault Refusal := nullWord 2 h s
def execXnop (h : EHead) (s : State) : Host.Outcome State Fault Refusal := nullWord 3 h s

/-- ILLEGAL_E_WORD: an opcode, token byte, reserved bit or operand out of range (R37, R146). -/
def execIllegalEWord (q : Queue) (w : W64) (s : State) : Host.Outcome State Fault Refusal :=
  .next (issueState q.code.toNat { pop := none, push := none, idle := w.extractLsb' 0 10 } (fun _ => true)
    (fun _ _ => []) (fun _ _ => .wait []) s)

end Sys2Proof.Machine
end

