-- ==== Sys2Proof/Machine/EngMem.lean ====
section
/-! DEFINITION. The accesses of an engine's word: where they lie (R58 to R64), the checks made over all of them before any
is performed (R281, R309, R341), and performing them (R82, R92, R96, R391). -/

namespace Sys2Proof.Machine

/-- An access of `len` bytes at `va`, of element `el`, whose bytes stand from bit `pos` of the register. -/
def mkAcc (el : Nat) (va : W64) (len pos : Nat) (data : List Byte) : VAcc :=
  { el := el, va := va, len := len, loc := .named 0, pos := pos, data := data }

/-- Where an address lies, permissions aside. -/
def locVa (s : State) (va : W64) (n : Nat) : Option Loc :=
  match (reach s s.cur va n 0 true false).2 with
  | .ok l _ => some l
  | .flt _ => none

/-- Translate every access: what each reaches. -/
def reachAll (c : Nat) (need : Perm) : List VAcc → State → State × List (VAcc × Reach)
  | [], s => (s, [])
  | a :: l, s =>
    let (s, r) := reach s c a.va a.len need true false
    let a := { a with ent := entOf s c a.va }
    let (s, t) := reachAll c need l s
    (s, (a, r) :: t)

/-- The walk requests of a word of queue `q`, where some of its accesses wait for walks (R386). -/
def walksAsked (s : State) (q : Nat) (l : List VAcc) : Option State :=
  match l.filter fun a => asksWalk s s.cur a.va with
  | [] => none
  | m => some (m.foldl (fun s a => requestWalk s (4 + q) a.va) s)

/-- A word's later checks, once its walks are over. In a timed section a walk to wait for is an open condition (R528; DEDUCED,
log entry 44). -/
def orAsk (s : State) (q : Nat) (l : List VAcc) (a : Act) : Act :=
  match walksAsked s q l with
  | some s' => if (cc s).timed then .wait [.open_] else .ask s'
  | none => a

/-- The first access that fails with a code. -/
def firstCode (code : W16) : List (VAcc × Reach) → Option Flt
  | [] => none
  | (_, .flt f) :: t => if f.code = code then some f else firstCode code t
  | _ :: t => firstCode code t

/-- Translation, then permission, then physical target, each over every access. -/
def stageFlt (l : List (VAcc × Reach)) : Option Flt :=
  ((firstCode 0x0010 l).orElse fun _ => firstCode 0x0011 l).orElse fun _ => firstCode 0x0012 l

/-- The accesses with their locations. -/
def located (l : List (VAcc × Reach)) : List VAcc :=
  l.map fun
    | (a, .ok loc _) => { a with loc := loc }
    | (a, .flt _) => a

/-- Every access lies in the core's own scratchpad. -/
def ownAcc (c : Nat) (l : List VAcc) : Bool := l.all fun a => match a.loc with | .scr k _ => decide (k = c) | .named _ => false

def inScr (a : VAcc) : Bool := match a.loc with | .scr _ _ => true | .named _ => false

/-- A fault at the first access that satisfies a test. -/
def fltAt (code : W16) (l : List VAcc) (bad : VAcc → Option W64) : Option Flt :=
  l.findSome? fun a => (bad a).map fun d => { code := code, addr := a.va, detail := d }

/-- The core's own watchpoints, precisely (R502). -/
def watchFlt (s : State) (c : Nat) (l : List VAcc) : Option Flt :=
  fltAt 0x0060 l fun a => (preciseHit s c a.loc a.len).map fun n => BitVec.ofNat 64 n

/-- The race check of every scratchpad line (R93). -/
def raceFlt (s : State) (c : Nat) (write : Bool) (l : List VAcc) : Option Flt :=
  fltAt 0x0030 l fun a => (raceCheck s c a.loc a.len write).map fun n => BitVec.ofNat 64 n

/-- A request that has been sent and finds, at its port, that the offset is no longer backed (R400). -/
def retiredFlt (s : State) (l : List VAcc) : Option Flt :=
  fltAt 0x0012 l fun a => match a.loc with
    | .named pa => if backed s pa then none else some (BitVec.ofNat 64 (paTarget pa))
    | .scr _ _ => none

/-- The lowest address. -/
def lowVa (l : List VAcc) : Nat := l.foldl (fun m a => Nat.min m a.va.toNat) (2 ^ 64)

/-- Record the accesses in the race records (R93). -/
def raceNote (c : Nat) (write : Bool) (l : List VAcc) (s : State) : State :=
  l.foldl (fun s a => match a.loc with
    | .scr k o => setCore s k (raceMark (getCore s k) (getCore s c).lid write (linesOf o a.len))
    | .named _ => s) s

/-- The lines of all accesses, each once: its number, and an access in it. -/
def lineSet (l : List VAcc) : List (Nat × VAcc) :=
  l.foldl (fun t a => (linesOf a.va.toNat a.len).foldl (fun t n => if t.any fun e => e.1 = n then t else t ++ [(n, a)]) t) []

/-- The lines of named memory that the accesses touch, each once, with the bytes touched: a vector word, a matrix strip
or a copy line is one access (R80, R97). -/
def sampLines (l : List VAcc) : Tbl W64 :=
  l.foldl (fun t a => match a.loc with
    | .scr _ _ => t
    | .named pa => (lineParts pa a.len).foldl (fun t e => tset t e.1 (tget 0 t e.1 ||| e.2)) t) []

/-- Sample plain accesses (R96). -/
def sampleAll (c : Nat) (wr : Bool) (l : List VAcc) (s : State) : State :=
  (sampLines l).foldl (fun s e => sampleLine s c e.1 e.2 wr) s

/-- Count every line once (R391), and sample plain accesses (R96). -/
def noteAll (c : Nat) (rd wr plain : Bool) (l : List VAcc) (s : State) : State :=
  let s := (lineSet l).foldl (fun s (n, a) => countLine s c a.ent (BitVec.ofNat 64 (n * 64)) a.loc rd wr) s
  if plain then sampleAll c wr l s else s

/-! ### The Volley window (R484, R485) -/

/-- A location on another device. -/
def isVol (l : Loc) : Bool := match l with | .named pa => decide (paTarget pa = 14) | .scr _ _ => false

/-- The key of a request of an engine's word: its address, and its length; the length of a probe stands 65,536 higher. -/
def reqKey (va : W64) (n : Nat) : Nat := va.toNat + 2 ^ 64 * n
def keyVa (k : Nat) : Nat := k % 2 ^ 64
def keyLen (k : Nat) : Nat := k / 2 ^ 64 % 65536
def keyProbe (k : Nat) : Bool := decide (65536 ≤ k / 2 ^ 64)

/-- Send a request for a word of queue `q`, `n` bytes at `va`. -/
def sendEng (s : State) (q : Nat) (va : W64) (n : Nat) (l : Loc) (op : RemoteOp) (cls : Nat) : State :=
  match l with
  | .named pa => (sendReq s (.engine s.cur q (reqKey va n)) pa op cls).1
  | .scr _ _ => s

def locShift (l : Loc) (o : Nat) : Loc :=
  match l with
  | .scr c b => .scr c (b + o)
  | .named pa => .named (pa + o)

/-- The parts of an access in the 64-byte lines that it touches. -/
def lineSpans (a : VAcc) : List VAcc :=
  let o := a.va.toNat
  (linesOf o a.len).map fun n =>
    let lo := Nat.max o (64 * n) - o
    let len := Nat.min (64 * n + 64 - o) a.len - lo
    { a with va := a.va + BitVec.ofNat 64 lo, len := len, loc := locShift a.loc lo, data := (a.data.drop lo).take len }

/-- The parts of an access in aligned 8-byte words. -/
def wordParts (a : VAcc) : List VAcc :=
  let o := a.va.toNat % 8
  (List.range ((o + a.len + 7) / 8)).map fun i =>
    let lo := Nat.max o (8 * i) - o
    { a with va := a.va + BitVec.ofNat 64 lo, len := Nat.min (8 * i + 8 - o) a.len - lo, loc := locShift a.loc lo }

/-- One request for two parts of one aligned word. -/
def joinPart (a b : VAcc) : VAcc :=
  let (x, y) := if a.va.toNat ≤ b.va.toNat then (a, b) else (b, a)
  { x with len := Nat.max x.len (y.va.toNat + y.len - x.va.toNat) }

/-- Add a part to those of other words. -/
def addPart (t : List VAcc) (b : VAcc) : List VAcc :=
  if t.any fun a => a.va.toNat / 8 == b.va.toNat / 8 then
    t.map fun a => if a.va.toNat / 8 == b.va.toNat / 8 then joinPart a b else a
  else t ++ [b]

/-- What accesses read on other devices: of every aligned 8-byte word one part, which is read at once (R82). -/
def farWords (l : List VAcc) : List VAcc := ((l.filter fun a => isVol a.loc).flatMap wordParts).foldl addPart []

/-- Requests of a queue's word that are not acknowledged. -/
def volPending (s : State) (q : Nat) : Bool :=
  s.vol.fly.any fun r => match r.origin with
    | .engine c p _ => decide (c = s.cur ∧ p = q)
    | .strand _ _ | .fetch _ _ | .host _ => false

def acksOf (k : Core) (q : Nat) : List (Nat × BitVec 2 × W64) :=
  k.acks.filterMap fun (p, va, e, v) => if p = q then some (va, e, v) else none

/-- The answer to a request that covers the byte at an address. -/
def ackAt (k : Core) (q : Nat) (va : Nat) : Option (Nat × BitVec 2 × W64) :=
  (acksOf k q).find? fun e => !keyProbe e.1 && decide (keyVa e.1 ≤ va) && decide (va < keyVa e.1 + keyLen e.1)

/-- The byte that another device returned for an address. -/
def ackByte (k : Core) (q : Nat) (va : Nat) : Byte :=
  ((ackAt k q va).map fun e => (BitVec.ofNat 8 (e.2.2.toNat / 256 ^ (va - keyVa e.1)))).getD 0

/-- An answer is to a request that touches an access. -/
def ackTouches (a : VAcc) (e : Nat × BitVec 2 × W64) : Bool :=
  decide (keyVa e.1 < a.va.toNat + a.len) && decide (a.va.toNat < keyVa e.1 + Nat.max 1 (keyLen e.1))

/-- The fault of an access to which another device answered with an error. `low` is the lowest address of the word, from which
the lines of an unreadable one are counted (R281 check 10). -/
def accErr (k : Core) (q : Nat) (low : Nat) (err : BitVec 2) (a : VAcc) : Option Flt :=
  if !isVol a.loc then none
  else ((acksOf k q).find? fun e => e.2.1 == err && ackTouches a e).map fun e =>
    ackFault err a.va e.2.2 (BitVec.ofNat 64 (Nat.max (keyVa e.1) a.va.toNat / 64 - low / 64))

/-- The first access of a list to which another device answered with an error. -/
def ackErr (k : Core) (q : Nat) (low : Nat) (err : BitVec 2) (l : List VAcc) : Option Flt := l.findSome? (accErr k q low err)

/-- The checks of permission and target over the accesses of a word (R281 checks 4 and 5): a refusal of another device, then
the first access with no such offset there, or whose offset here is no longer backed (R400). -/
def portFlt (s : State) (q : Nat) (low : Nat) (l : List VAcc) : Option Flt :=
  (ackErr (cc s) q low 2 l).orElse fun _ => l.findSome? fun a => (accErr (cc s) q low 1 a).orElse fun _ => retiredFlt s [a]

/-- Uncorrectable errors in what is read, here or on other devices: the first access decides. The detail counts 64-byte lines
from the lowest address of the word (R12, R281 check 10; DESIGN CHOICE where R54, R315 and R341 name no unit or base, log entry
127). -/
def readFlt (s : State) (q : Nat) (low : Nat) (l : List VAcc) : Option Flt :=
  l.findSome? fun a => if isVol a.loc then accErr (cc s) q low 3 a else
    (uncorrectable s a.loc a.len).map fun d =>
      { code := 0x0020, addr := a.va, detail := BitVec.ofNat 64 (a.va.toNat / 64 + d - low / 64) }

/-- Where a word stands with its accesses to other devices: what it needs has just been sent, is awaited, or has failed; it may
make its last checks and be performed; what it has stored there is acknowledged. -/
inductive VolStep where
  | sent (s : State)
  | wait
  | flt (f : Flt)
  | ready
  | done

/-- Ask for the checks of a store. -/
def sendProbe (q : Nat) (s : State) (a : VAcc) : State :=
  if isVol a.loc then sendEng s q a.va (65536 + a.len) a.loc (.probe a.len) 1 else s

/-- Every answer of a queue's word is to a probe. -/
def probesOnly (k : Core) (q : Nat) : Bool := (acksOf k q).all fun e => keyProbe e.1

/-- One step toward the accesses `l` on other devices. Before stores the checks of every access of `chk` are made there, so
that a word that another device refuses has stored nothing (R281, R341). -/
def volStep (s : State) (q : Nat) (load : Bool) (low : Nat) (chk l : List VAcc) : VolStep :=
  let far (l : List VAcc) : Bool := l.any fun a => isVol a.loc
  if (far l || far chk) && volPending s q then .wait
  else if (acksOf (cc s) q).isEmpty && (if load then far l else far chk) then
    .sent (if load then (farWords l).foldl (fun s a => sendEng s q a.va a.len a.loc (.load a.len) 1) s else chk.foldl (sendProbe q) s)
  else
    match portFlt s q low (l ++ chk) with
    | some f => .flt f
    | none => if load || probesOnly (cc s) q then .ready else .done

/-! ### Reading and writing -/

/-- Accesses performed at this device, as places and lengths. -/
def hereLocs (l : List VAcc) : List (Loc × Nat) := l.filterMap fun a => if isVol a.loc then none else some (a.loc, a.len)

/-- Write every access's bytes at this device, in order, as one write. -/
def storeAll (c q : Nat) (w : QWord) (precise : Bool) (l : List VAcc) (s : State) : State :=
  healOver (fun _ => hereLocs l)
    (storeMany s (whoWord c q w 0) ((l.filter fun a => !isVol a.loc).map fun a => (a.loc, a.va, a.data)) precise)

/-- The bytes of writes: line, place in it, address, byte. -/
def lineBytes (l : List VAcc) : List (Nat × Nat × W64 × Byte) :=
  l.flatMap fun a => a.data.zipIdx.map fun (b, i) =>
    ((locOff a.loc + i) / 64, (locOff a.loc + i) % 64, a.va + BitVec.ofNat 64 i, b)

/-- Send writes to other devices, one request for each line, which is written whole or not at all there (R352, R466). -/
def sendPieces (q cls : Nat) (l : List VAcc) (s : State) : State :=
  let bs := lineBytes (l.filter fun a => isVol a.loc)
  ((bs.map (·.1)).eraseDups).foldl (fun s n =>
    let b := bs.filter fun e => e.1 = n
    sendEng s q ((b.head?.map (·.2.2.1)).getD 0) b.length (.named (64 * n)) (.piece (b.map fun e => (e.2.1, e.2.2.2))) cls) s

/-- Perform the stores of a word: here at once, elsewhere by requests. -/
def storeOut (q : Nat) (w : QWord) (l : List VAcc) (s : State) : State :=
  sendPieces q 1 l (clearAcks (storeAll s.cur q w true l s) q)

/-- The bytes of an access, read here or returned by another device. -/
def accBytes (s : State) (q : Nat) (a : VAcc) : List Byte :=
  if isVol a.loc then (List.range a.len).map fun i => ackByte (cc s) q (a.va.toNat + i) else readLoc s a.loc a.len

/-- The value of an access, read here or returned by another device. -/
def readAcc (s : State) (q : Nat) (a : VAcc) : Nat := if isVol a.loc then leNat (accBytes s q a) else readNat s a.loc a.len

/-- The value of each access. -/
def readAll (s : State) (q : Nat) (l : List VAcc) : List (VAcc × Nat) := l.map fun a => (a, readAcc s q a)

/-! ### Tagged words (R279) -/

def accWord (a : VAcc) : Nat := locOff a.loc / 8

/-- The first operation of a sequence that finds its condition failing at its turn. -/
def tagFail (k : TagKind) : Tbl Unit → List VAcc → Option VAcc
  | _, [] => none
  | full, a :: l =>
    let f := member full (accWord a)
    if tagCond k f then tagFail k (if tagAfter k f then tset full (accWord a) () else tdel full (accWord a)) l
    else some a

/-- Perform the sequence as one step, then the held operations it lets through (R67). -/
def tagAll (c q : Nat) (w : QWord) (k : TagKind) (l : List VAcc) (s : State) : State × List (VAcc × Nat) :=
  let (s, r) := l.foldl (fun (s, r) a =>
    let (s, v) := tagQuiet s (whoWord c q w a.va) c (accWord a) k (BitVec.ofNat 64 (leNat a.data))
    (s, r ++ [(a, v.toNat)])) (s, [])
  let s := if tagWrites k then
      healOver (fun _ => hereLocs l) (portMatches s (whoWord c q w 0) (l.map fun a => (a.loc, a.len, a.va)) true)
    else s
  (l.foldl (fun s a => heldRun c (accWord a) (getCore s c).held.length s) s, r)

end Sys2Proof.Machine
end

