-- ==== Sys2Proof/Machine/GenValue.lean ====
section
/-! DEFINITION. The value that a generator delivers at engine coordinates: R289 to R300. -/

namespace Sys2Proof.Machine

/-- A 32-bit number. -/
def n32 (n : Nat) : Nat := n % 2 ^ 32

/-- Rounds of Philox4x32 (R291): `k` rounds left, keys and counter. -/
def philoxRounds : Nat → Nat → Nat → Nat × Nat × Nat × Nat → Nat × Nat × Nat × Nat
  | 0, _, _, c => c
  | k + 1, k0, k1, (c0, c1, c2, c3) =>
    let p := 0xD2511F53 * c0
    let q := 0xCD9E8D57 * c2
    philoxRounds k (n32 (k0 + 0x9E3779B9)) (n32 (k1 + 0xBB67AE85))
      (q / 2 ^ 32 ^^^ c1 ^^^ k0, n32 q, p / 2 ^ 32 ^^^ c3 ^^^ k1, n32 p)

/-- y0 of R291 at logical (i, j). -/
def philox (g : Gen) (i j : Nat) : Nat :=
  (philoxRounds 10 (g.seed.extractLsb' 0 32).toNat ((g.seed.extractLsb' 32 32).toNat ^^^ g.scope.toNat)
    (i, j, g.draw.toNat, g.kind.toNat)).1

def parmLo (g : Gen) : Nat := (g.parm.extractLsb' 0 32).toNat
def parmHi (g : Gen) : Nat := (g.parm.extractLsb' 32 32).toNat

/-- `fma_ne` of R293 on FP32 codes. -/
def fmaNe (x y z : FVal) : Nat := (fMa fmtFP32 .rne x y z).1

/-- The kinds sign, unif, gauss, bern (R293, R295) at random bits `y`. -/
def signValue (g : Gen) (y : Nat) : Nat :=
  if (dec32 (parmLo g)).isNan then 0x7FC00000 else parmLo g ^^^ (y / 2 ^ 31 * 2 ^ 31)
def unifValue (g : Gen) (y : Nat) : Nat := fmaNe (dec32 (parmLo g)) (.fin false (y / 2 ^ 8) (-24)) (dec32 (parmHi g))
def gaussValue (g : Gen) (y : Nat) : Nat :=
  let n := y / 2 ^ 20
  let f := y / 2 ^ 8 % 4096
  let d := (fSub fmtFP32 .rne (dec32 (gaussTable (n + 1))) (dec32 (gaussTable n))).1
  let e := (fMul fmtFP32 .rne (dec32 d) (.fin false f (-12))).1
  let z := (fAdd fmtFP32 .rne (dec32 (gaussTable n)) (dec32 e)).1
  fmaNe (dec32 (parmLo g)) (dec32 z) (dec32 (parmHi g))
def bernValue (g : Gen) (y : Nat) : Nat :=
  if y < parmLo g then (if (dec32 (parmHi g)).isNan then 0x7FC00000 else parmHi g) else 0

/-- phase (R297). -/
def phaseValue (g : Gen) (i j : Nat) : Nat :=
  let phi := n32 (i * (tget 0 g.f (j / 2 % 64)).toNat)
  if j % 2 = 0 then posZero32 (cosp phi)
  else posZero32 (if g.parm.getLsbD 0 then negCode32 (sinp phi) else sinp phi)

/-- The predicate of an smask mode (R298). -/
def maskPred (mode w i j : Nat) : Bool :=
  match mode with
  | 0 => decide (j ≤ i)
  | 1 => decide (j < i)
  | 2 => decide (i - j ≤ w ∧ j - i ≤ w)
  | 3 => decide (i / 2 ^ w = j / 2 ^ w)
  | _ => decide (j ≤ i ∧ i - j ≤ w)

def smaskValue (g : Gen) (i j : Nat) : Nat :=
  let p := maskPred (parmLo g % 8) (parmLo g / 2 ^ 8 % 2 ^ 16) i j
  if p != g.parm.getLsbD 3 then parmHi g else 0

/-- Logical coordinates (R289). -/
def logical (g : Gen) (r c : Nat) : Nat × Nat :=
  if g.tr then (n32 (g.row0.toNat + c), n32 (g.col0.toNat + r)) else (n32 (g.row0.toNat + r), n32 (g.col0.toNat + c))

/-- The FP32 value at engine coordinates (R290). -/
def genValue (g : Gen) (r c : Nat) : Nat :=
  let (i, j) := logical g r c
  match g.kind.toNat with
  | 1 => signValue g (philox g i j)
  | 2 => unifValue g (philox g i j)
  | 3 => gaussValue g (philox g i j)
  | 4 => phaseValue g i j
  | 5 => bernValue g (philox g i j)
  | _ => smaskValue g i j

/-- The value in a format: as it is in FP32, else converted (R300). -/
def genConvert (f : Fmt) (g : Gen) (r c : Nat) : Nat :=
  if f = .fp32 then genValue g r c else (f.convert .rne (dec32 (genValue g r c))).1

/-- Usable (R299). -/
def genUsable (g : Gen) : Bool :=
  let lo := parmLo g
  match g.kind.toNat with
  | 1 => decide (parmHi g = 0)
  | 2 | 3 | 5 => true
  | 4 => decide (lo ≤ 1 ∧ parmHi g = 0)
  | 6 => decide (lo / 2 ^ 4 % 16 = 0 ∧ lo / 2 ^ 24 = 0 ∧ lo % 8 ≤ 4) && (decide (lo % 8 ≠ 3) || decide (lo / 2 ^ 8 % 2 ^ 16 ≤ 31))
  | _ => false

/-- The rate ρ (R292, R311). -/
def genRate (g : Gen) : Nat := match g.kind.toNat with | 1 | 5 | 6 => 128 | _ => 64

/-- Detail of 0x0401. -/
def unusableDetail (n : Nat) (g : Gen) : W64 := BitVec.ofNat 64 (n + g.kind.toNat * 16)

/-! ### Changes and images (R304 to R306) -/

def setLo (v : W64) (x : W32) : W64 := v.extractLsb' 32 32 ++ x
def setHi (v : W64) (x : W32) : W64 := x ++ v.extractLsb' 0 32

/-- A landing (R304, R305, R306). -/
def genApply (u : GUpd) (g : Gen) : Gen :=
  match u with
  | .seedLo v => { g with seed := setLo g.seed v }
  | .seedHi v => { g with seed := setHi g.seed v }
  | .scope v => { g with scope := v }
  | .kind k tr => { g with kind := k, tr := tr }
  | .row v => { g with row0 := v }
  | .col v => { g with col0 := v }
  | .parmLo v => { g with parm := setLo g.parm v }
  | .parmHi v => { g with parm := setHi g.parm v }
  | .draw v => { g with draw := v }
  | .skip v => { g with draw := g.draw + v }
  | .clr => {}
  | .freq f => { g with f := f }
  | .image h => h

/-- The 320-byte image (R306). -/
def genImage (g : Gen) : List Byte :=
  leBytes 8 g.seed.toNat ++ leBytes 4 g.scope.toNat ++ leBytes 4 (g.kind.toNat + (if g.tr then 8 else 0))
  ++ leBytes 4 g.row0.toNat ++ leBytes 4 g.col0.toNat ++ leBytes 4 g.draw.toNat ++ leBytes 4 0
  ++ leBytes 8 g.parm.toNat ++ leBytes 24 0 ++ (List.range 64).flatMap fun m => leBytes 4 (tget 0 g.f m).toNat

/-- A frequency table from its values. -/
def freqTable (l : List Nat) : Tbl W32 := tputs 0 [] 0 (l.map (BitVec.ofNat 32))

/-- Read an image: a generator, or the offset of the first bad field. -/
def genOfImage (b : List Byte) : Except Nat Gen :=
  let f (o n : Nat) : Nat := leNat ((b.drop o).take n)
  if f 0x0C 4 % 8 = 7 ∨ f 0x0C 4 / 16 ≠ 0 then .error 0x0C
  else if f 0x1C 4 ≠ 0 then .error 0x1C
  else if f 0x28 24 ≠ 0 then .error 0x28
  else .ok {
    seed := .ofNat _ (f 0 8), scope := .ofNat _ (f 8 4), kind := .ofNat _ (f 0x0C 4 % 8), tr := decide (f 0x0C 4 / 8 % 2 = 1),
    row0 := .ofNat _ (f 0x10 4), col0 := .ofNat _ (f 0x14 4), draw := .ofNat _ (f 0x18 4), parm := .ofNat _ (f 0x20 8),
    f := freqTable ((List.range 64).map fun m => f (0x40 + 4 * m) 4) }

end Sys2Proof.Machine
end

