-- ==== Sys2Proof/Machine/GenCore.lean ====
section
/-! DEFINITION. How a generator word lands and blocks (R310, R238, R239), what a fill word reaches and when it writes
(R307 to R310), and what holds the value pipeline on the side of queue G (R311). -/

namespace Sys2Proof.Machine

def getGen (k : Core) (g : Nat) : Gen := tget {} k.gen.g g

/-! ### Streams in stream order (R202, R307) -/

/-- The indices of the element at a position, k0 fastest. -/
def strmCoord (m : Strm) (e : Nat) : Nat × Nat × Nat :=
  (e % m.ext0.toNat, e / m.ext0.toNat % m.ext1.toNat, e / (m.ext0.toNat * m.ext1.toNat))

/-! ### Fill words -/

/-- The indices of the element at position `e` of a fill word. -/
def fillCoord (f : Fill) (e : Nat) : Nat × Nat × Nat :=
  match f.row with
  | none => strmCoord f.m e
  | some (k1, k2) => (e, k1, k2)

/-- The bytes that position `e` receives (R300, R307). -/
def fillData (f : Fill) (e : Nat) : List Byte :=
  let (k0, k1, k2) := fillCoord f e
  leBytes (strmBytes f.m)
    (match fmtOf f.m.fmt.toNat with
      | some t => genConvert t f.g (k1 + k2 * f.m.ext1.toNat) k0
      | none => 0)

def fillVa (f : Fill) (e : Nat) : W64 := let (k0, k1, k2) := fillCoord f e; strmAddr f.m k0 k1 k2

/-- The access of position `e`, its location not yet known. -/
def fillAcc (f : Fill) (e : Nat) : VAcc := mkAcc e (fillVa f e) (strmBytes f.m) 0 (fillData f e)

/-- The place of an own-scratchpad address: its offset in its 2 MiB page. -/
def ownLoc (c : Nat) (va : W64) : Loc := .scr c (va.toNat % 2 ^ 21)

/-- Cycle in which the last of `n` positions has been written, one later (R310). -/
def fillDue (t : Nat) (g : Gen) (n : Nat) : Nat := t + 5 + (n - 1) / genRate g

/-- The cycle in which position `e` is written (R310). -/
def fillCycle (t : Nat) (f : Fill) (e : Nat) : Nat := t + 4 + e / genRate f.g

/-- The positions of an own-scratchpad fill written by cycle `now`. -/
def fillReached (t now : Nat) (f : Fill) : Nat :=
  if now < t + 4 then 0 else Nat.min f.count ((now - t - 4 + 1) * genRate f.g)

/-! ### The value pipeline as queue G holds it (R311) -/

/-- The fill word that holds the pipeline at a cycle. -/
def fillHolder (k : Core) (now : Nat) : Option Hold :=
  k.gen.fly.findSome? fun x =>
    match x.fill, x.i.due with
    | some f, some d => if 0 < f.count && decide (now < d) then some (.timed d) else none
    | some f, none => if 0 < f.count then some .open_ else none
    | none, _ => none

/-! ### Blocking (R310) -/

/-- What one word in flight does to a word that reads or writes generator `g` at `now`. -/
def genFlyHolds (now g : Nat) (rd : Bool) (wr : Option Nat) (x : GIssued) : List Hold :=
  match x.i.due with
  | none => []
  | some d =>
    match x.upd with
    | some (h, _) =>
      if h ≠ g then []
      else
        (if rd && decide (now < d) then [.timed d] else [])
        ++ (match wr with
            | some lat => if now + lat ≤ d then [.timed (d - lat + 1)] else []
            | none => [])
    | none => []

def genHolds (s : State) (g : Nat) (rd : Bool) (wr : Option Nat) : List Hold :=
  (cc s).gen.fly.flatMap (genFlyHolds (curCyc s) g rd wr)

/-- A pending write to generator `g` that lands after `now` (R239): what a matrix word that draws waits for. -/
def genPending (s : State) (g : Nat) : List Hold :=
  (cc s).gen.fly.flatMap fun x =>
    match x.upd, x.i.due with
    | some (h, _), some d => if h = g ∧ curCyc s < d then [.timed d] else []
    | _, none => if (decodeE .g x.i.w.bits matches .gload _ | .gfreq _) then [.open_] else []
    | _, _ => []

/-! ### Landing (R310) -/

/-- Make a change of a generator; gclr and an image write it whole, which cures an error (R316). -/
def landGen (u : GenUnit) (g : Nat) (c : GUpd) : GenUnit :=
  { u with
    g := tput {} u.g g (genApply c (tget {} u.g g))
    bad := match c with
      | .clr | .image _ => u.bad.filter (· ≠ g)
      | _ => u.bad }

def setGenUnit (s : State) (u : GenUnit) : State := setCC s { cc s with gen := u }

/-- Land and complete a word that no longer stands in flight. -/
def genLand (s : State) (x : GIssued) : State :=
  let s := match x.upd with
    | some (g, c) => setGenUnit s (landGen (cc s).gen g c)
    | none => s
  completeWord s 2 x.i

/-- The first word that satisfies a test, and the others. -/
def takeFirst {α : Type} (p : α → Bool) : List α → Option (α × List α)
  | [] => none
  | x :: t => if p x then some (x, t) else (takeFirst p t).map fun (y, r) => (y, x :: r)

/-- A word of class W or M whose cycle has come. -/
def genDue (now : Nat) (x : GIssued) : Bool :=
  x.fill.isNone && !x.i.faulted && (match x.i.due with | some d => decide (d ≤ now) | none => false)

def genComplete : Nat → State → State
  | 0, s => s
  | n + 1, s =>
    match takeFirst (genDue (curCyc s)) (cc s).gen.fly with
    | none => s
    | some (x, r) => genComplete n (genLand (setGenUnit s { (cc s).gen with fly := r }) x)

/-- Write positions `lo` to `hi − 1` of an own-scratchpad fill. -/
def fillWrite (s : State) (w : QWord) (f : Fill) : Nat → Nat → State
  | _, 0 => s
  | e, n + 1 =>
    let a := fillAcc f e
    fillWrite (storeAt s (whoWord s.cur 2 w a.va) (ownLoc s.cur a.va) a.data true) w f (e + 1) n

/-- The progress of the fill word in flight. -/
def setFill (s : State) (n : Nat) : State :=
  setGenUnit s { (cc s).gen with fly := (cc s).gen.fly.map fun x =>
    match x.fill with
    | some f => { x with fill := some { f with next := Nat.max f.next n } }
    | none => x }

/-- The fill word in flight: its state, its word. -/
def theFill (k : Core) : Option (GIssued × Fill) := k.gen.fly.findSome? fun x => x.fill.map fun f => (x, f)

/-- Elements due by now are written (R310). -/
def fillStep (s : State) : State :=
  match theFill (cc s) with
  | some (x, f) =>
    match x.i.due with
    | some _ =>
      let n := fillReached x.i.t (curCyc s) f
      let s := fillWrite s x.i.w f f.next (n - f.next)
      setFill (healOver (fun s => (List.range n).map fun e => (ownLoc s.cur (fillVa f e), strmBytes f.m)) s) n
    | none => s
  | none => s

/-- A fill word all of whose elements are written, and whose cycle has come. -/
def fillOver (now : Nat) (x : GIssued) : Bool :=
  match x.fill with
  | some f => decide (f.count ≤ f.next) && (match x.i.due with | some d => decide (d ≤ now) | none => true)
  | none => false

def fillFinish (s : State) : State :=
  match takeFirst (fillOver (curCyc s)) (cc s).gen.fly with
  | some (x, r) => completeWord (setGenUnit s { (cc s).gen with fly := r }) 2 x.i
  | none => s

/-- Everything of queue G that is due at this cycle. -/
def genSettle (s : State) : State :=
  let s := genComplete (cc s).gen.fly.length s
  if (theFill (cc s)).isSome then fillFinish (fillStep s) else s

end Sys2Proof.Machine
end

