-- ==== Sys2Proof/Machine/MatCore.lean ====
section
/-! DEFINITION. The matrix engine's plans: what a word reads, writes and tests (R323 to R333, R341), its check points and
landing (R334 to R336), and the arithmetic of its landing (R124 to R129, R326, R330). -/

namespace Sys2Proof.Machine

/-! ### State -/

def getTile (k : Core) (t : Nat) : Tile := tget {} k.mat.a t
def getBank (k : Core) (m b : Nat) : Bank := tget {} k.mat.b (2 * m + b)
def setMat (s : State) (m : Mat) : State := setCC s { cc s with mat := m }
def tileEl (T : Tile) (i n : Nat) : Int := (tget 0 T.el (128 * i + n)).toInt
def putEl (T : Tile) (i n : Nat) (v : Int) : Tile := { T with el := tput 0 T.el (128 * i + n) (BitVec.ofInt 128 v) }

/-- The range of a W128 integer. -/
def accMin : Int := -((2 ^ 127 : Nat) : Int)
def accMax : Int := (2 ^ 127 : Nat) - 1

/-- Set the overflow bit of a row, and the tile's status bit (R127). -/
def markOvf (T : Tile) (i : Nat) : Tile := { T with ovf := T.ovf ||| (1#128 <<< i), st := true }

/-- An element that guard exhaustion holds (R127, R330). -/
def heldEl (T : Tile) (i : Nat) (x : Int) : Bool := T.ovf.getLsbD i && decide (x = accMin ∨ x = accMax)

/-- Store an unbounded integer, saturating as R127 does. -/
def putSat (T : Tile) (i n : Nat) (v : Int) : Tile :=
  let c := clampInt accMin accMax v
  if c = v then putEl T i n v else markOvf (putEl T i n c) i

/-- `T[i][n] := sat_add(T[i][n], q)` (R127). -/
def satAddEl (T : Tile) (i n : Nat) (q : Int) : Tile :=
  let x := tileEl T i n
  if heldEl T i x then T else putSat T i n (x + q)

/-- The effect of mzero (R330). -/
def zeroTile (T : Tile) : Tile := { T with el := [], ovf := 0, st := false, bad := 0 }

/-! ### Shapes (R323, R324, R332) -/

/-- The word moves nothing: a zero extent, or k2 at or past ext2. -/
def mEmpty (p : MPlan) : Bool := decide (strmElems p.m = 0) || decide (p.m.ext2.toNat ≤ p.k2)

/-- Rows of a multiply, a drain, a save or a restore. -/
def mRows (p : MPlan) : Nat :=
  match p.kind with
  | .mul _ _ true => p.m.ext0.toNat
  | _ => p.m.ext1.toNat

/-- K extent of a multiply or a load. -/
def mK (p : MPlan) : Nat :=
  match p.kind with
  | .mul _ _ true => p.m.ext1.toNat
  | .mul _ _ false => p.m.ext0.toNat
  | _ => p.m.ext1.toNat

/-- The formats that a drawn operand may have (R323). -/
def drawFmt (f : Fmt) : Bool :=
  match f with
  | .bf16 | .fp16 | .e4m3 | .e5m2 | .e2m3 | .e3m2 | .e2m1 | .zt8 | .zt6 => true
  | _ => false

/-- The snapshot checks of R203, every field used. -/
def snapOk (f : Fmt) (m : Strm) : Bool :=
  (if f.packed then m.str0 == 1 && decide (m.ext0.toNat % f.group = 0) else decide (m.base.toNat % (f.width / 8) = 0))
  && (!(m.sgeo == 1 || m.sgeo == 2) || decide (f.width ≤ 8)) && (m.sgeo != 3 || f.mxOk)

/-- Test 1 of R341: the word and its snapshot. -/
def mBad (p : MPlan) : Bool :=
  let e := mEmpty p
  match p.kind, fmtOf p.m.fmt.toNat with
  | .tile _ _ _ _, _ => false
  | _, none => true
  | .mul _ _ _, some f =>
    !((e || decide (mK p ≤ 128 ∧ mRows p + p.orow ≤ 128)) &&
      (if p.gn.isSome then drawFmt f && p.m.sgeo == 0 else f.matrixOk && p.m.sgeo != 2 && snapOk f p.m))
  | .load ms _ _, some f =>
    !((e || decide (p.m.ext0.toNat ≤ 128 * ms.length ∧ p.m.ext1.toNat ≤ 128)) &&
      (if p.gn.isSome then drawFmt f && p.m.sgeo == 0 else f.matrixOk && p.m.sgeo != 1 && snapOk f p.m))
  | .stat _, some f => f != .n64 || decide (p.m.base.toNat % 8 ≠ 0)
  | .drain mx _ _ _, some f =>
    !((e || decide (p.m.ext0.toNat ≤ 128 ∧ p.orow + p.m.ext1.toNat ≤ 128)) && snapOk f p.m &&
      (if mx then f.mxOk && p.m.sgeo == 3 && decide (p.m.ext0.toNat % 32 = 0)
       else (f == .fp32 || f == .bf16 || f == .fp16 || f == .zt8) && p.m.sgeo == 0))
  | .save _, some f | .rest _ _, some f =>
    !((e || decide (p.m.ext0.toNat ≤ 128 ∧ p.orow + p.m.ext1.toNat ≤ 128)) && f == .w128 && p.m.sgeo == 0 && snapOk f p.m)

/-! ### Accesses: each with the alignment asked of it (R341 test 8) -/

/-- The number of an element in stream order (R342). -/
def elemNo (m : Strm) (k0 k1 k2 : Nat) : Nat := k0 + m.ext0.toNat * (k1 + m.ext1.toNat * k2)

/-- The access of one element; `pos` is the bit of its first byte at which it begins. -/
def elemAcc (m : Strm) (k0 k1 k2 : Nat) : VAcc × Nat :=
  let w := strmWidth m
  if w % 8 = 0 then (mkAcc (elemNo m k0 k1 k2) (strmAddr m k0 k1 k2) (w / 8) 0 [], w / 8)
  else
    let b := k0 * w
    (mkAcc (elemNo m k0 k1 k2) (strmAddr m 0 k1 k2 + BitVec.ofNat 64 (b / 8)) ((b % 8 + w + 7) / 8) (b % 8) [],
     if k0 = 0 then 8 else 1)

/-- The access of a scale byte; its number has bit 63 set (R342). -/
def scaleAcc (m : Strm) (va : W64) (k0 k1 k2 : Nat) : VAcc × Nat :=
  (mkAcc (2 ^ 63 + elemNo m k0 k1 k2) va 1 0 [], 1)

/-- `sbase + n × sstr + b` (R325). -/
def scaleVa (m : Strm) (n b : Nat) : W64 := m.sbase + BitVec.ofNat 64 n * m.sstr + BitVec.ofNat 64 b

/-- Blocks of a K extent or of a row. -/
def blocks (n : Nat) : Nat := ceilDiv n 32

/-- The scales of strip q of A (R325). -/
def stripScales (p : MPlan) (q : Nat) (tr : Bool) : List (VAcc × Nat) :=
  let n := if p.m.sgeo = 1 then 1 else if p.m.sgeo = 3 then blocks (mK p) else 0
  (List.range n).map fun b =>
    if tr then scaleAcc p.m (scaleVa p.m (p.k2 * mRows p + q) b) q (32 * b) p.k2
    else scaleAcc p.m (scaleVa p.m (p.k2 * mRows p + q) b) (32 * b) q p.k2

/-- Where the scales of a load stand: macro index, block and column of each, and the access (R325). -/
def loadScales (p : MPlan) (macros : Nat) : List ((Nat × Nat × Nat) × (VAcc × Nat)) :=
  let at_ (o : Nat) : W64 := scaleVa p.m p.k2 o
  if p.m.sgeo = 2 then
    (List.range macros).map fun i => ((i, 0, 0), scaleAcc p.m (at_ i) (128 * i) 0 p.k2)
  else if p.m.sgeo = 3 then
    (List.range p.m.ext0.toNat).flatMap fun n => (List.range (blocks (mK p))).map fun b =>
      ((n / 128, b, n % 128), scaleAcc p.m (at_ (4 * n + b)) n (32 * b) p.k2)
  else []

/-- Row q of a load, restore, save or drain, element by element. -/
def rowAccs (p : MPlan) (q : Nat) : List (VAcc × Nat) := (List.range p.m.ext0.toNat).map fun n => elemAcc p.m n q p.k2

/-- A packed row in pieces of 8 bytes. -/
def packedRow (p : MPlan) (q : Nat) : List (VAcc × Nat) :=
  let w := strmWidth p.m
  (List.range (p.m.ext0.toNat * w / 64)).map fun i =>
    (mkAcc (elemNo p.m (64 * i / w) q p.k2) (strmAddr p.m 0 q p.k2 + BitVec.ofNat 64 (8 * i)) 8 0 [], if i = 0 then 8 else 1)

/-- What check point (or written row) q of a word accesses: elements, then scales. -/
def pointAccs (p : MPlan) (q : Nat) : List (VAcc × Nat) × List (VAcc × Nat) :=
  if p.gn.isSome then ([], [])
  else match p.kind with
  | .mul _ _ tr =>
    ((List.range (mK p)).map fun k => if tr then elemAcc p.m q k p.k2 else elemAcc p.m k q p.k2, stripScales p q tr)
  | .load ms _ g =>
    (((List.range g).filter fun i => decide (g * q + i < mK p)).flatMap fun i => rowAccs p (g * q + i),
     if q = 0 then (loadScales p ms.length).map (·.2) else [])
  | .drain true _ _ _ =>
    (if strmWidth p.m % 8 = 0 then rowAccs p q else packedRow p q,
     (List.range (p.m.ext0.toNat / 32)).map fun b =>
       scaleAcc p.m (scaleVa p.m (p.k2 * mRows p + q) b) (32 * b) q p.k2)
  | .drain false _ _ _ | .save _ | .rest _ _ => (rowAccs p q, [])
  | .tile _ _ _ _ | .stat _ => ([], [])

/-- Number of check points with data, or of rows written. -/
def mPoints (p : MPlan) : Nat :=
  if mEmpty p then 0
  else match p.kind with
  | .mul _ _ _ | .drain _ _ _ _ | .save _ | .rest _ _ => mRows p
  | .load _ _ g => if p.gn.isSome then mK p else ceilDiv (mK p) g
  | .tile _ _ _ _ | .stat _ => 0

/-- Every access of a word, in order: of a load all elements before the scales. -/
def allAccs (p : MPlan) : List (VAcc × Nat) :=
  match p.kind with
  | .stat _ => [(mkAcc 0 p.m.base 64 0 [], 64)]
  | .load _ _ _ =>
    let l := (List.range (mPoints p)).map fun q => pointAccs p q
    (l.flatMap (·.1)) ++ (l.flatMap (·.2))
  | _ => (List.range (mPoints p)).flatMap fun q => (pointAccs p q).1 ++ (pointAccs p q).2

/-! ### Objects: tile t is t, bank b of macro m is 2 + 2m + b -/

def bankObj (m b : Nat) : Nat := 2 + 2 * m + b

/-- What a word writes at its landing. -/
def mWrites (p : MPlan) : List Nat :=
  match p.kind with
  | .mul ps _ _ => if mEmpty p then [] else ps.map (·.2)
  | .load ms b _ => ms.map fun m => bankObj m b
  | .tile _ td _ _ => [td]
  | .drain _ t _ z => if z then [t] else []
  | .rest t _ => if mEmpty p then [] else [t]
  | .stat _ | .save _ => []

/-- What a word reads, its tiles at their landing included (R336). -/
def mReads (p : MPlan) : List Nat :=
  match p.kind with
  | .mul ps b _ => if mEmpty p then [] else ps.map (fun (m, _) => bankObj m b) ++ ps.map (·.2)
  | .tile .shift td _ _ => [td]
  | .tile .add td ts _ => [td, ts]
  | .tile .mov _ ts _ => [ts]
  | .tile _ _ _ _ | .load _ _ _ => []
  | .stat t => [t, 2, 3, 4, 5]
  | .drain _ t _ _ | .save t => if mEmpty p then [] else [t]
  | .rest t acc => if acc && !mEmpty p then [t] else []

/-- What a word reads before its own landing (R335). -/
def mEarly (p : MPlan) : List Nat :=
  match p.kind with
  | .mul ps b _ => if mEmpty p then [] else ps.map fun (m, _) => bankObj m b
  | _ => mReads p

def meets (a b : List Nat) : Bool := a.any fun x => b.contains x

/-! ### Periods (R328, R334) -/

/-- Cycles per strip by format class. -/
def fmtCycles (f : Fmt) : Nat :=
  match f with
  | .e2m1 => 1
  | .e2m3 | .e3m2 | .e4m3 | .e5m2 | .zt6 => 2
  | .zt8 => 3
  | .fp16 => 6
  | _ => 4

def codeCycles (c : Nat) : Nat := ((fmtOf c).map fmtCycles).getD 1

/-- `c` of R328: the larger of the operands' values. -/
def mulCycles (k : Core) (p : MPlan) : Nat :=
  match p.kind with
  | .mul ps b _ => ps.foldl (fun a (m, _) => Nat.max a (codeCycles (getBank k m b).fmt.toNat)) (codeCycles p.m.fmt.toNat)
  | _ => 1

/-- The period between check points, for a word drawing from a generator of rate `rho` where it draws. -/
def mPeriod (k : Core) (p : MPlan) (g : Option Gen) : Nat :=
  match p.kind, g with
  | .mul _ _ _, none => mulCycles k p
  | .mul _ _ _, some g => if k.timed then mulCycles k p else Nat.max (mulCycles k p) (ceilDiv (mK p) (genRate g))
  | .load _ _ _, some g => ceilDiv p.m.ext0.toNat (genRate g)
  | _, _ => 1

/-- Cycles from the last check point to the landing or completion (R334). -/
def mTail (p : MPlan) (per : Nat) : Nat :=
  if mEmpty p && (match p.kind with | .tile _ _ _ _ | .stat _ => false | _ => true) then 0
  else match p.kind with
  | .mul _ _ _ => per + 6
  | .load _ _ _ => per + 4
  | .tile op _ _ _ => match op with | .shift | .add | .mov => 4 | _ => 1
  | .stat _ => 1
  | .drain _ _ _ _ | .save _ => 3
  | .rest _ _ => 5

/-- The nominal cycle of landing or completion of a word with own-scratchpad operands, issued at `t`. -/
def mNominal (p : MPlan) (per t : Nat) : Nat := t + (mPoints p - 1) * per + mTail p per

/-! ### Values -/

def fmtD (c : BitVec 5) : Fmt := (fmtOf c.toNat).getD .n8

/-- A code of a format is finite and not NaV (R327). -/
def finiteCode (f : Fmt) (c : Nat) : Bool := (f.decode c).isFin

/-- The exact value of a code. -/
def realCode (f : Fmt) (c : Nat) : Dy := (f.decode c).dy

/-- The codes a word draws at check point q (R323, R324): converted under R300. -/
def drawCodes (p : MPlan) (g : Gen) (q : Nat) : List Nat :=
  let f := fmtD p.m.fmt
  let r0 := p.k2 * p.m.ext1.toNat
  match p.kind with
  | .mul _ _ tr =>
    (List.range (mK p)).map fun k => if tr then genConvert f g (k + r0) q else genConvert f g (q + r0) k
  | _ => (List.range p.m.ext0.toNat).map fun n => genConvert f g (q + r0) n

/-- The scale exponents of a strip by K position, 0 where none is declared. -/
def scaleAt (sgeo : BitVec 2) (sc : List Nat) (k : Nat) : Int :=
  if sgeo = 1 then ((sc.getD 0 127 : Nat) : Int) - 127
  else if sgeo = 3 then ((sc.getD (k / 32) 127 : Nat) : Int) - 127
  else 0

/-- The scale exponent of bank position (k, n) (R318). -/
def bankScale (B : Bank) (k n : Nat) : Int :=
  let c (i : Nat) : Int := ((tget 0x7F B.sc i).toNat : Int) - 127
  if B.sgeo = 2 then c 0 else if B.sgeo = 3 then c (128 * (k / 32) + n) else 0

def bankCode (B : Bank) (k n : Nat) : Nat := (tget 0 B.el (128 * k + n)).toNat

/-- The product rule holds for a format (R126). -/
def prodFmt (f : Fmt) : Bool := f == .bf16 || f == .fp16

/-- The exact sum of products over K positions `k` to `k + n − 1`. -/
def dotSum (a b : Nat → Dy) : Nat → Nat → Dy
  | _, 0 => Dy.zero
  | k, n + 1 => ((a k).mul (b k)).add (dotSum a b (k + 1) n)

/-- The contributions to one element, in order (R125, R126): exact values before `to_anchor`. -/
def contribs (K cs : Nat) (prod : Bool) (a b : Nat → Dy) (sa sb : Nat → Int) : List Dy :=
  if prod then (List.range K).map fun k => ((a k).mul (b k)).scale (sa k + sb k)
  else (List.range (ceilDiv K cs)).map fun c =>
    (dotSum a b (c * cs) (Nat.min cs (K - c * cs))).scale (sa (c * cs) + sb (c * cs))

/-- The landing of one strip into its row (R326). -/
def mulStrip (f : Fmt) (sgeo : BitVec 2) (K : Nat) (B : Bank) (i : Nat) (codes : List Nat) (T : Tile) : Tile :=
  let bf := fmtD B.fmt
  let cs := if sgeo = 3 ∨ B.sgeo = 3 then 32 else 128
  let a (k : Nat) : Dy := realCode f (codes.getD k 0)
  let sc := codes.drop K
  (List.range 128).foldl (fun T n =>
    (contribs K cs (prodFmt f || prodFmt bf) a (fun k => realCode bf (bankCode B k n)) (scaleAt sgeo sc)
      (fun k => bankScale B k n)).foldl (fun T v => satAddEl T i n (toAnchor v T.anch.toInt)) T) T

/-- Every strip of a word into one tile. -/
def mulTile (p : MPlan) (B : Bank) : List (List Nat) → Nat → Tile → Tile
  | [], _, T => T
  | c :: cs, q, T => mulTile p B cs (q + 1) (mulStrip (fmtD p.m.fmt) p.m.sgeo (mK p) B (p.orow + q) c T)

/-- The bank that a load leaves in its `i`th macro (R324, R325, R329). -/
def loadBank (p : MPlan) (grp i : Nat) (buf : List (List Nat)) : Bank :=
  let C := p.m.ext0.toNat
  if mEmpty p then { fmt := p.m.fmt }
  else
    let g := if p.gn.isSome then 1 else grp
    let el (t : Tbl W16) (q r n : Nat) : Tbl W16 :=
      let c := 128 * i + n
      if c < C ∧ g * q + r < mK p then tput 0 t (128 * (g * q + r) + n) (BitVec.ofNat 16 ((buf.getD q []).getD (C * r + c) 0)) else t
    let els := (List.range buf.length).foldl (fun t q => (List.range g).foldl (fun t r =>
      (List.range 128).foldl (fun t n => el t q r n) t) t) []
    let first := buf.getD 0 []
    let sc := (first.drop (C * Nat.min g (mK p))).zip ((loadScales p 2).map (·.1))
    { el := els, fmt := p.m.fmt, sgeo := p.m.sgeo
      sc := sc.foldl (fun t (v, (j, b, n)) => if j = i then tput 0x7F t (128 * b + n) (BitVec.ofNat 8 v) else t) [] }

/-- The places of the elements that a tile lists, row by row. -/
def tileKeys (T : Tile) : List Nat := (T.el.map (·.1)).eraseDups

/-- mshift (R330). -/
def shiftTile (T : Tile) (n : BitVec 10) : Tile :=
  let T' := (tileKeys T).foldl (fun U k =>
    let x := tileEl T (k / 128) (k % 128)
    if heldEl U (k / 128) x then U
    else putSat U (k / 128) (k % 128) (toAnchor ⟨x, T.anch.toInt⟩ n.toInt)) T
  { T' with anch := n }

/-- A row takes the overflow bit of the row that is added to it (R330). -/
def orOvf (T S : Tile) (i : Nat) : Tile := if S.ovf.getLsbD i then { T with ovf := T.ovf ||| (1#128 <<< i) } else T

/-- madd of one element (R330): the added value saturates first, and marks its row, then the sum. A row's overflow bit
takes the other tile's with its first element. -/
def addElem (D S U : Tile) (k : Nat) : Tile :=
  let i := k / 128
  let q := toAnchor ⟨tileEl S i (k % 128), S.anch.toInt⟩ D.anch.toInt
  let c := clampInt accMin accMax q
  let U := if k % 128 = 0 then U else orOvf U S i
  satAddEl (if c = q then U else markOvf U i) i (k % 128) c

/-- madd (R330). An element that the added tile does not list adds 0, which changes no element. -/
def addTile (D S : Tile) : Tile :=
  let T := (tileKeys S).foldl (addElem D S) D
  { T with ovf := T.ovf ||| S.ovf, st := T.st || S.st }

/-- A tile word's landing (R330). -/
def tileWord (op : MtOp) (D S : Tile) (imm : BitVec 10) : Tile :=
  match op with
  | .zero => zeroTile D
  | .anch => { D with anch := imm }
  | .ovclr => { D with ovf := 0, st := false }
  | .trap => { D with te := imm.getLsbD 0 }
  | .shift => shiftTile D imm
  | .add => addTile D S
  | .mov => { S with te := D.te }

/-- mrest's landing of one row (R332). -/
def restRow (p : MPlan) (acc : Bool) (i : Nat) (codes : List Nat) (T : Tile) : Tile :=
  let v (c : Nat) : Int := (BitVec.ofNat 128 c).toInt
  let T := (List.range codes.length).foldl (fun T n =>
    if acc then satAddEl T i n (v (codes.getD n 0)) else putEl T i n (v (codes.getD n 0))) T
  if !acc && p.m.ext0 == 128 then { T with bad := T.bad &&& ~~~(1#128 <<< i) } else T

/-! ### What a drain or a save writes (R128, R129, R331, R332) -/

/-- An element converted to the drain's format. -/
def drainCode (f : Fmt) (T : Tile) (rm : BitVec 3) (i n : Nat) : Nat :=
  let x := tileEl T i n
  (f.convert (rmD rm) (.fin (decide (x < 0)) x.natAbs T.anch.toInt)).1

/-- emax of an MX element format (R129). -/
def mxEmax (f : Fmt) : Int :=
  match f with
  | .e4m3 => 8 | .e5m2 => 15 | .e2m3 => 2 | .e3m2 => 4 | .e2m1 => 2 | _ => 0

/-- The scale exponent X of a block (R129). -/
def mxScale (f : Fmt) (T : Tile) (i b : Nat) : Int :=
  let m := (List.range 32).foldl (fun a j => Nat.max a (tileEl T i (32 * b + j)).natAbs) 0
  if m = 0 then -127 else clampInt (-127) 127 ((Nat.log2 m : Int) + T.anch.toInt - mxEmax f)

/-- An element of an MX block: rounded to nearest even, clamped to the largest finite magnitude. -/
def mxCode (f : Fmt) (T : Tile) (i n : Nat) : Nat :=
  let x := tileEl T i n
  let v : FVal := .fin (decide (x < 0)) x.natAbs (T.anch.toInt - mxScale f T i (n / 32))
  let c := (f.convert .rne v).1
  match f.ff with
  | some g => if x ≠ 0 ∧ g.maxCode < c % g.signBit then g.withSign (decide (x < 0)) g.maxCode else c
  | none => c

/-- Row q of a drain or save: the bytes of each of its accesses, elements then scales. -/
def rowData (p : MPlan) (T : Tile) (q : Nat) : List (List Byte) :=
  let f := fmtD p.m.fmt
  let C := p.m.ext0.toNat
  let i := p.orow + q
  match p.kind with
  | .drain true _ _ _ =>
    let codes := (List.range C).map fun n => mxCode f T i n
    let scales := (List.range (C / 32)).map fun b => leBytes 1 (mxScale f T i b + 127).toNat
    (if f.width % 8 = 0 then codes.map (leBytes 1)
     else
      let row := codes.foldr (fun c a => c % 2 ^ f.width + 2 ^ f.width * a) 0
      (List.range (C * f.width / 64)).map fun j => leBytes 8 (row / 2 ^ (64 * j))) ++ scales
  | .drain false _ rm _ => (List.range C).map fun n => leBytes (f.width / 8) (drainCode f T rm i n)
  | _ => (List.range C).map fun n => leBytes 16 (tget 0 T.el (128 * i + n)).toNat

/-- The status record of a tile (R331). -/
def statBytes (k : Core) (t : Nat) : List Byte :=
  let T := getTile k t
  leBytes 2 (T.anch.signExtend 16).toNat
  ++ leBytes 2 ((if T.st then 1 else 0) + (if T.te then 2 else 0) + (if T.bad = 0 then 0 else 4))
  ++ leBytes 1 (getBank k 0 0).fmt.toNat ++ leBytes 1 (getBank k 0 1).fmt.toNat
  ++ leBytes 1 (getBank k 1 0).fmt.toNat ++ leBytes 1 (getBank k 1 1).fmt.toNat
  ++ leBytes 8 0 ++ leBytes 16 T.ovf.toNat ++ leBytes 16 T.bad.toNat ++ leBytes 16 0

/-! ### Landing -/

def putTile (s : State) (t : Nat) (T : Tile) : State := let k := cc s; setMat s { k.mat with a := tput {} k.mat.a t T }
def putBank (s : State) (m b : Nat) (B : Bank) : State := let k := cc s; setMat s { k.mat with b := tput {} k.mat.b (2 * m + b) B }

/-- The effect of a word's landing, all together (R334). -/
def mLand (x : MIssued) (s : State) : State :=
  match x.p.kind with
  | .mul ps b _ => ps.foldl (fun s (m, t) => putTile s t (mulTile x.p (getBank (cc s) m b) x.buf 0 (getTile (cc s) t))) s
  | .load ms b g => (ms.zip [0, 1]).foldl (fun s (m, i) => putBank s m b (loadBank x.p g i x.buf)) s
  | .tile op td ts imm =>
    if op = .mov ∧ td = ts then s else putTile s td (tileWord op (getTile (cc s) td) (getTile (cc s) ts) imm)
  | .drain _ t _ z => if z then putTile s t (zeroTile (getTile (cc s) t)) else s
  | .rest t acc =>
    putTile s t ((List.range x.buf.length).foldl (fun T q => restRow x.p acc (x.p.orow + q) (x.buf.getD q []) T) (getTile (cc s) t))
  | .stat _ | .save _ => s

end Sys2Proof.Machine
end

