-- ==== Sys2Proof/Machine/Pipe.lean ====
section
/-! DEFINITION. Who holds and who claims the value pipeline of the generator unit (R311, R312, R337): the plans and the
blocking rules of fill words and of matrix words, which both queues ask for. -/

namespace Sys2Proof.Machine

/-- The word at the head of queue `q` would issue now but for the pipeline. -/
def headReady (s : State) (q : Nat) (h : EHead) (w : QWord) (bad : Bool) (holds : List Hold) : Bool :=
  let k := cc s
  let e := getEng k q
  let due := wordDue k e h.idle.toNat
  !e.stop && !inHold k (curCyc s) && decide (due ≤ curCyc s) && (!k.timed || (decide (due = curCyc s) && h.idle != 0)) && !bad
  && (tokenHolds k q h w).isEmpty && (rangeHold s q w).isEmpty && (queueHolds k q (curCyc s)).isEmpty && holds.isEmpty

/-- A claim: its first cycle, and the place of the word in emission order. -/
abbrev Claim := Nat × Nat

/-- The claim of a word at the head of `q`. -/
def claimOf (s : State) (q : Nat) (w : QWord) : Claim := ((getEng (cc s) q).claim.getD (curCyc s), w.seq)

/-- What another word's claim does to a claim: that word takes the pipeline where it claimed first, or in one cycle was
emitted first (R312), and holds it until a cycle (in a timed section its own scratchpad's cycles, R528). -/
def losesTo (me : Claim) : Option (Claim × Nat) → List Hold
  | some ((c, n), til) => if c < me.1 ∨ (c = me.1 ∧ n < me.2) then [.timed til] else []
  | none => []

/-! ### Fill words -/

/-- The progress record of gfill, or of gvec (R307, R308). -/
def fillOf (k : Core) (row : Bool) (w : GS) (qw : QWord) : Fill :=
  let m := snapOf qw w.ss
  let k1 := w.k1.toNat
  let k2 := w.k2.toNat
  let inRow := decide (strmElems m ≠ 0 ∧ k1 < m.ext1.toNat ∧ k2 < m.ext2.toNat)
  { g := getGen k w.gd.toNat, m := m, row := if row then some (k1, k2) else none, next := 0
    count := if row then (if inRow then Nat.min m.ext0.toNat (2048 / strmWidth m) else 0) else strmElems m }

/-- The formats of R307, and the base of R203. -/
def fillBad (w : GS) (qw : QWord) : Bool :=
  let m := snapOf qw w.ss
  match fmtOf m.fmt.toNat with
  | some .fp32 | some .fp16 | some .bf16 | some .e4m3 | some .e5m2 | some .zt8 => decide (m.base.toNat % strmBytes m ≠ 0)
  | _ => true

/-- The claim of a fill word at the head of queue G, and the cycle in which it would complete. -/
def fillClaim (s : State) : Option (Claim × Nat) :=
  match (wordsOf (getEng (cc s) 2).q).head? with
  | none => none
  | some qw =>
    let c (row : Bool) (w : GS) : Option (Claim × Nat) :=
      let f := fillOf (cc s) row w qw
      if decide (0 < f.count) && headReady s 2 w.h qw (fillBad w qw) (genHolds s w.gd.toNat true none) then
        some (claimOf s 2 qw, fillDue (curCyc s) f.g f.count)
      else none
    match decodeE .g qw.bits with
    | .gfill w => c false w
    | .gvec w => c true w
    | _ => none

/-! ### Matrix words -/

def mulPlan (w : MS) (pairs : List (Nat × Nat)) (tr draw : Bool) (qw : QWord) : MPlan :=
  { kind := .mul pairs w.bank.toNat tr, m := snapOf qw w.ss, k2 := w.k2.toNat, orow := w.orow.toNat
    gn := if draw then some w.g.toNat else none }

def loadPlan (w : MS) (macros : List Nat) (grp : Nat) (draw : Bool) (qw : QWord) : MPlan :=
  { kind := .load macros w.bank.toNat grp, m := snapOf qw w.ss, k2 := w.k2.toNat
    gn := if draw then some w.g.toNat else none }

/-- The pair that a word naming one macro and one tile uses, and those of mmap (R326). -/
def onePair (w : MS) : List (Nat × Nat) := [(w.b.toNat, w.t.toNat)]
def bothPairs : List (Nat × Nat) := [(0, 0), (1, 1)]

/-- The plan of a word that draws. -/
def drawPlan (qw : QWord) : Option (EHead × MPlan) :=
  match decodeE .m qw.bits with
  | .mldbG w => some (w.h, loadPlan w [w.b.toNat] 1 true qw)
  | .mmaG w => some (w.h, mulPlan w (onePair w) false true qw)
  | .mmapG w => some (w.h, mulPlan w bothPairs false true qw)
  | .mmatG w => some (w.h, mulPlan w (onePair w) true true qw)
  | _ => none

/-! ### The memory order of queue M (R30, R81, R83) -/

/-- The location of an address of a word in flight. -/
def mLoc (c : Nat) (x : MIssued) (a : VAcc) : VAcc :=
  { a with
    loc := match x.locs with
      | none => ownLoc c a.va
      | some l => ((l.find? fun e => e.1 == a.va).map (·.2)).getD (ownLoc c a.va)
    ent := x.ents.find? fun e => !inLocal a.va && tlbHit e.asn a.va e }

/-- The cycle of a row's write: of mstat the issue cycle, else t + 2 + q (R334). -/
def rowCycle (x : MIssued) : Nat := match x.p.kind with | .stat _ => x.i.t | _ => x.i.t + 2 + x.next

/-- The rows that an earlier word has still to write: what they cover, and the cycle, where it is fixed. -/
def rowsOwed (c : Nat) (x : MIssued) : List (Option Nat × List (Loc × Nat)) :=
  if !mStores x.p.kind || x.i.faulted then []
  else (List.range (x.cps - x.next)).map fun i =>
    let q := x.next + i
    let l : List VAcc := match x.p.kind with
      | .stat _ => [mkAcc 0 x.p.m.base 64 0 []]
      | _ => ((pointAccs x.p q).1 ++ (pointAccs x.p q).2).map (·.1)
    (if x.locs.isSome then none else some (rowCycle { x with next := q }), l.map fun a => ((mLoc c x a).loc, a.len))

/-- What a word that issues at `t` accesses, by its cycles: of one with an address elsewhere all from `t` on. -/
def wordRows (s : State) (p : MPlan) (per t : Nat) : List (Nat × List (Loc × Nat)) :=
  let at_ (a : VAcc) : Option (Loc × Nat) := (locVa s a.va a.len).map fun l => (l, a.len)
  let all := (allAccs p).filterMap fun a => at_ a.1
  let own := all.all fun a => match a.1 with | .scr k _ => decide (k = s.cur) | .named _ => false
  match p.kind with
  | .stat _ => [(t, all)]
  | _ =>
    if !own then [(t, all)]
    else (List.range (mPoints p)).map fun q =>
      (if mStores p.kind then t + 2 + q else t + q * per, ((pointAccs p q).1 ++ (pointAccs p q).2).filterMap fun a => at_ a.1)

/-- A word waits as long as one of its accesses would come before a row that an earlier word of the queue writes to the same
bytes (R30, R81, R83; DEDUCED, log entry 134). -/
def rowOrder (s : State) (p : MPlan) : List Hold :=
  let k := cc s
  let now := curCyc s
  let owed := k.mat.fly.flatMap (rowsOwed s.cur)
  if owed.isEmpty || mEmpty p && !(p.kind matches .stat _) then []
  else
    (wordRows s p (mPeriod k p (p.gn.map (getGen k))) now).flatMap fun (d, l) => owed.filterMap fun (c, r) =>
      if l.any fun (o, n) => r.any fun (b, m) => locMeets o n b m then
        match c with
        | none => some Hold.open_
        | some c => if d < c then some (.timed (now + (c - d))) else none
      else none

/-- What the words in flight do to a word that would issue (R335), beside what they do to every word: landings into what
it reads early, a pending write of its generator, rows still to be written where it accesses memory. -/
def mHolds (s : State) (p : MPlan) : List Hold :=
  let k := cc s
  let now := curCyc s
  (k.mat.fly.flatMap fun y =>
    if meets (mWrites y.p) (mEarly p) then
      (match y.i.due with
        | some d => if now < d then [Hold.timed d] else [.open_]
        | none => [.open_])
    else [])
  ++ (match p.gn with
      | some g => genPending s g
      | none => [])
  ++ rowOrder s p

/-- In a timed section a drawing multiply whose demand exceeds the rate is starved at its first strip (R328). -/
def mShort (k : Core) (p : MPlan) : Bool :=
  match p.kind, p.gn with
  | .mul _ _ _, some g =>
    !mEmpty p && k.timed && decide (1 ≤ (getGen k g).kind.toNat ∧ (getGen k g).kind.toNat ≤ 6)
    && decide (mulCycles k p < ceilDiv (mK p) (genRate (getGen k g)))
  | _, _ => false

/-- A word that draws, which holds the value pipeline from its issue to its last check point, be it empty (R337). -/
def draws (p : MPlan) : Bool := p.gn.isSome

/-- The claim of a drawing word at the head of queue M, and the cycle after its last check point (R337). -/
def drawClaim (s : State) : Option (Claim × Nat) :=
  match (wordsOf (getEng (cc s) 1).q).head? with
  | none => none
  | some qw =>
    match drawPlan qw with
    | none => none
    | some (h, p) =>
      if draws p && headReady s 1 h qw (mBad p) (mHolds s p) && !mShort (cc s) p then
        some (claimOf s 1 qw, curCyc s + (mPoints p - 1) * mPeriod (cc s) p (p.gn.map (getGen (cc s))) + 1)
      else none

/-- The matrix word that holds the pipeline: to its last check point (R337). -/
def drawHolder (k : Core) (now : Nat) : Option Hold :=
  k.mat.fly.findSome? fun y =>
    let last := y.i.t + (y.cps - 1) * y.per
    if draws y.p && !y.i.faulted && decide (now ≤ last) then some (.timed (last + 1)) else none

/-- What keeps the pipeline from a word that claims it. -/
def pipeHolds (s : State) (me : Claim) (other : Option (Claim × Nat)) : List Hold :=
  let k := cc s
  (fillHolder k (curCyc s)).toList ++ (drawHolder k (curCyc s)).toList ++ losesTo me other

end Sys2Proof.Machine
end

