-- ==== Sys2Proof/Machine/Generator.lean ====
section
/-! DEFINITION. The words of queue G and their events: the generator unit (R287 to R317). -/

namespace Sys2Proof.Machine

/-- Put an issued word in flight. -/
def genStart (s : State) (x : GIssued) : State := setGenUnit s { (cc s).gen with fly := (cc s).gen.fly ++ [x] }

/-- Fault 0x0405: an error in a generator that the word reads. -/
def genErr (k : Core) (g : Nat) : Option Flt :=
  if k.gen.bad.contains g then some { code := 0x0405, detail := BitVec.ofNat 64 g } else none

/-! ### Class W (R304) -/

def genWord (h : EHead) (g : BitVec 3) (rd : Bool) (u : GUpd) (s : State) : Host.Outcome State Fault Refusal :=
  .next (issueState 2 h (fun _ => false) (fun s _ => genHolds s g.toNat rd (some 1))
    (fun s _ =>
      match (if rd then genErr (cc s) g.toNat else none) with
      | some f => .flt f
      | none => .go s fun s i => genStart s { i := { i with due := some (i.t + 1) }, upd := some (g.toNat, u) })
    (genSettle s))

def execGseed (w : GI) (s : State) : Host.Outcome State Fault Refusal :=
  genWord w.h w.gd false (if w.sel then .seedHi w.imm else .seedLo w.imm) s
def execGscope (w : GI) (s : State) : Host.Outcome State Fault Refusal := genWord w.h w.gd false (.scope w.imm) s
def execGkind (w : GK) (s : State) : Host.Outcome State Fault Refusal := genWord w.h w.gd false (.kind w.kind w.tr) s
def execGorig (w : GI) (s : State) : Host.Outcome State Fault Refusal :=
  genWord w.h w.gd false (if w.sel then .col w.imm else .row w.imm) s
def execGparm (w : GI) (s : State) : Host.Outcome State Fault Refusal :=
  genWord w.h w.gd false (if w.sel then .parmHi w.imm else .parmLo w.imm) s
def execGdraw (w : GI) (s : State) : Host.Outcome State Fault Refusal := genWord w.h w.gd false (.draw w.imm) s
def execGskip (w : GI) (s : State) : Host.Outcome State Fault Refusal := genWord w.h w.gd true (.skip w.imm) s
def execGclr (w : GI) (s : State) : Host.Outcome State Fault Refusal := genWord w.h w.gd false .clr s

/-! ### Class M (R305, R306) -/

/-- The memory words of queue G. -/
inductive GMem where
  | freq | load | save
  deriving DecidableEq, Repr

/-- The elements of gfreq's table. -/
def freqCount (m : Strm) : Nat := if strmElems m = 0 then 0 else Nat.min m.ext0.toNat 64

/-- The 8-byte pieces of an image from its base; `b` its bytes where they are written. -/
def imageAccs (m : Strm) (b : List Byte) : List VAcc :=
  (List.range 40).map fun i => mkAcc i (m.base + BitVec.ofNat 64 (8 * i)) 8 0 ((b.drop (8 * i)).take 8)

def gmemAccs (g : GMem) (m : Strm) (gen : Gen) : List VAcc :=
  match g with
  | .freq => (List.range (freqCount m)).map fun i => mkAcc i (strmAddr m i 0 0) 4 0 []
  | .load => imageAccs m []
  | .save => imageAccs m (genImage gen)

/-- The snapshot checks of R203, R305 and R306. -/
def gmemBad (g : GMem) (m : Strm) : Bool :=
  match g, fmtOf m.fmt.toNat with
  | .freq, some .n32 => decide (m.base.toNat % 4 ≠ 0)
  | .load, some .n64 | .save, some .n64 => decide (m.base.toNat % 8 ≠ 0)
  | _, _ => true

def gmemStores : GMem → Bool
  | .save => true
  | _ => false

/-- Check 6: the base of an image. -/
def imageAlign (g : GMem) (m : Strm) : Option Flt :=
  if g ≠ .freq ∧ m.base.toNat % 64 ≠ 0 then some { code := 0x0404, addr := m.base, detail := 64 } else none

/-- Checks 7 to 12 over a list of accesses of alignment `al`. -/
def genChecks (write : Bool) (al : Nat) (qw : QWord) (l : List VAcc) (s : State) : Except Flt (State × List VAcc) :=
  let (s', r) := reachAll s.cur (if write then pW else pR) l s
  let t := located r
  let flt :=
    (fltAt 0x0404 l fun a => if a.va.toNat % al = 0 then none else some (BitVec.ofNat 64 al)).orElse fun _ =>
    (if (cc s).timed then fltAt 0x0403 l fun a => if inLocal a.va then none else some (BitVec.ofNat 64 a.el)
     else none).orElse fun _ =>
    (stageFlt r).orElse fun _ => if !write || qw.noWatch then none else watchFlt s s.cur t
  match flt with
  | some f => .error f
  | none => .ok (s', t)

/-- Checks 13 and 14. -/
def genPortChecks (write : Bool) (l : List VAcc) (s : State) : Option Flt :=
  (raceFlt s s.cur write l).orElse fun _ => if write then none else readFlt s 2 (lowVa l) l

/-- What a read leaves its generator: gfreq's table, or gload's image, checked (check 15). -/
def gmemRead (g : GMem) (m : Strm) (l : List VAcc) (s : State) : Except Flt GUpd :=
  let v := (readAll s 2 l).map (·.2)
  match g with
  | .load =>
    match genOfImage (v.flatMap (leBytes 8)) with
    | .ok h => .ok (.image h)
    | .error o => .error { code := 0x0402, addr := m.base, detail := BitVec.ofNat 64 o }
  | _ => .ok (.freq (freqTable v))

/-- Record and count the accesses of a word of queue G, and sample those performed now (R96). -/
def genNote (write : Bool) (l : List VAcc) (s : State) : State :=
  noteAll s.cur (!write) write true l (raceNote s.cur write l s)
def genIssueNote (l : List VAcc) (s : State) : State := noteAll s.cur false true false l (raceNote s.cur true l s)

/-- A memory word of queue G is performed behind the writes of an earlier fill word of the own scratchpad that it meets (R30,
R83; DEDUCED, log entry 134). -/
def fillOrder (s : State) (l : List VAcc) : List Hold :=
  match theFill (cc s) with
  | some (x, f) =>
    if x.acc.isSome || x.i.faulted then []
    else
      let mine := l.filterMap fun a => (locVa s a.va a.len).map fun o => (o, a.len)
      ((List.range f.count).filter fun e =>
        decide (f.next ≤ e) && decide (curCyc s < fillCycle x.i.t f e)
        && mine.any fun (o, n) => locMeets o n (ownLoc s.cur (fillVa f e)) (strmBytes f.m)).map fun e => .timed (fillCycle x.i.t f e)
  | none => []

def genMem (g : GMem) (w : GS) (s : State) : Host.Outcome State Fault Refusal :=
  let n := w.gd.toNat
  let wr := gmemStores g
  .next (issueState 2 w.h (fun qw => gmemBad g (snapOf qw w.ss))
    (fun s qw => genHolds s n wr (if wr then none else some 6) ++ fillOrder s (gmemAccs g (snapOf qw w.ss) {}))
    (fun s qw =>
      let m := snapOf qw w.ss
      match ((if wr then genErr (cc s) n else none).orElse fun _ => imageAlign g m) with
      | some f => .flt f
      | none =>
        orAsk s 2 (gmemAccs g m (getGen (cc s) n)) <|
        match genChecks wr (if g = .freq then 4 else 8) qw (gmemAccs g m (getGen (cc s) n)) s with
        | .error f => .flt f
        | .ok (s, l) =>
          if ownAcc s.cur l then
            match genPortChecks wr l s with
            | some f => .flt f
            | none =>
              if wr then .go s fun s i => genStart (storeAll s.cur 2 qw true l (genNote wr l s)) { i := { i with due := some (i.t + 1) } }
              else
                match gmemRead g m l s with
                | .error f => .flt f
                | .ok u => .go s fun s i => genStart (genNote wr l s) { i := { i with due := some (i.t + 6) }, upd := some (n, u) }
          else .go s fun s i => genStart s { i := i, acc := some l })
    (genSettle s))

def execGfreq (w : GS) (s : State) : Host.Outcome State Fault Refusal := genMem .freq w s
def execGload (w : GS) (s : State) : Host.Outcome State Fault Refusal := genMem .load w s
def execGsave (w : GS) (s : State) : Host.Outcome State Fault Refusal := genMem .save w s

/-- A memory word outside the own scratchpad whose accesses are still to be performed. -/
def genHolding (x : GIssued) : Bool := x.acc.isSome && x.fill.isNone && !x.i.faulted && x.i.due.isNone

/-- The first cycle in which an image or table that has come may land: behind every earlier write of the generator. -/
def genLandsAfter (now g : Nat) (fly : List GIssued) : Nat :=
  fly.foldl (fun n x => match x.upd, x.i.due with
    | some (h, _), some e => if h = g then Nat.max n (e + 1) else n
    | _, _ => n) now

/-- Perform such a word: its checks and its accesses. It completes when what it read lands (R286, R310). -/
def genRemote (g : GMem) (w : GS) (x : GIssued) (rest : List GIssued) (s : State) : State :=
  let l := x.acc.getD []
  let wr := gmemStores g
  let done (y : GIssued) (due : Nat) (s : State) : State :=
    setGenUnit s { (cc s).gen with fly := rest ++ [{ y with i := { y.i with due := some due } }] }
  let fault (f : Flt) : State := raise2 { clearAcks s 2 with fresh := s.fresh + 1 } s.cur 2 x.i.w f true 0
  match volStep s 2 (!wr) (lowVa l) (if wr then l else []) l with
  | .wait => s
  | .sent s => s
  | .flt f => fault f
  | .done => done x (curCyc s) (clearAcks s 2)
  | .ready =>
    match genPortChecks wr l s with
    | some f => fault f
    | none =>
      if wr then
        let s := storeOut 2 x.i.w l (genNote wr l s)
        if l.any fun a => isVol a.loc then s else done x (curCyc s) s
      else
        match gmemRead g (snapOf x.i.w w.ss) l s with
        | .error f => fault f
        | .ok u =>
          done { x with upd := some (w.gd.toNat, u) } (genLandsAfter (curCyc s) w.gd.toNat rest) (genNote wr l (clearAcks s 2))

/-- GENERATOR_WRITE_LANDING: every word whose cycle has come writes its generator and completes; a memory word that
holds its queue is performed. -/
def execGeneratorWriteLanding (s : State) : Host.Outcome State Fault Refusal :=
  let s := genComplete (cc s).gen.fly.length s
  match takeFirst genHolding (cc s).gen.fly with
  | none => .next s
  | some (x, rest) =>
    match decodeE .g x.i.w.bits with
    | .gfreq w => .next (genRemote .freq w x rest s)
    | .gload w => .next (genRemote .load w x rest s)
    | .gsave w => .next (genRemote .save w x rest s)
    | _ => .next s

/-! ### Class F (R307 to R309) -/

/-- The accesses of a fill word without their bytes, for its checks. -/
def fillSpots (f : Fill) : List VAcc :=
  (List.range f.count).map fun e =>
    let (k0, k1, k2) := fillCoord f e
    mkAcc e (strmAddr f.m k0 k1 k2) (strmBytes f.m) 0 []

def fillWord (row : Bool) (w : GS) (s : State) : Host.Outcome State Fault Refusal :=
  let n := w.gd.toNat
  .next (issueState 2 w.h (fillBad w) (fun s _ => genHolds s n true none)
    (fun s qw =>
      let f := fillOf (cc s) row w qw
      let p := if f.count = 0 then [] else pipeHolds s (claimOf s 2 qw) (drawClaim s)
      if !p.isEmpty then .starve p
      else
        match ((genErr (cc s) n).orElse fun _ =>
          if genUsable f.g then none else some { code := 0x0401, detail := unusableDetail n f.g }) with
        | some e => .flt e
        | none =>
          orAsk s 2 (fillSpots f) <|
          match genChecks true (strmBytes f.m) qw (fillSpots f) s with
          | .error e => .flt e
          | .ok (s, l) =>
            match raceFlt s s.cur true l with
            | some e => .flt e
            | none => .go s fun s i =>
              if f.count = 0 then completeWord s 2 i
              else if ownAcc s.cur l then
                genStart (genIssueNote l s) { i := { i with due := some (fillDue i.t f.g f.count) }, fill := some f }
              else genStart (genIssueNote l s) { i := i, acc := some l, fill := some f })
    (genSettle s))

def execGfill (w : GS) (s : State) : Host.Outcome State Fault Refusal := fillWord false w s
def execGvec (w : GS) (s : State) : Host.Outcome State Fault Refusal := fillWord true w s

/-- Write every element of a fill word outside the own scratchpad: in one step, in stream order, of the orders that R310 allows
(DESIGN CHOICE, log entry 126). -/
def fillRemote (s : State) (w : QWord) (f : Fill) (l : List VAcc) : State :=
  let l := l.map fun a => { a with data := fillData f a.el }
  match volStep s 2 false (lowVa l) l l with
  | .wait => s
  | .sent s => s
  | .flt e => raise2 (clearAcks s 2) s.cur 2 w e true 0
  | .done => setFill (clearAcks s 2) f.count
  | .ready =>
    let s := storeOut 2 w l (sampleAll s.cur true l s)
    if l.any fun a => isVol a.loc then s else setFill s f.count

/-- FILL_ELEMENT_WRITE: the elements due are written; of a fill outside the own scratchpad, all of them. -/
def execFillElementWrite (s : State) : Host.Outcome State Fault Refusal :=
  match theFill (cc s) with
  | some (x, f) =>
    match x.acc with
    | some l => if f.next < f.count ∧ !x.i.faulted then .next (fillRemote s x.i.w f l) else .next s
    | none => .next (fillStep s)
  | none => .next s

/-- FILL_COMPLETE: a fill word all of whose elements are written completes at its cycle. -/
def execFillComplete (s : State) : Host.Outcome State Fault Refusal := .next (fillFinish s)

end Sys2Proof.Machine
end

