-- ==== Sys2Proof/Machine/Loads.lean ====
section
/-! DEFINITION. Loads, stores, tagged operations, fences and atomics of the conductor (R170 to R183). -/

namespace Sys2Proof.Machine

/-! ### Plain loads and stores (R170) -/

def execLdB (rd rs1 : Reg) (off : BitVec 13) (s : State) : Host.Outcome State Fault Refusal :=
  loadForm (packI 0x10 rd rs1 (0#3 ++ off)) rd rs1 .b false true (memAddr · rs1 off) s
def execLdH (rd rs1 : Reg) (off : BitVec 13) (s : State) : Host.Outcome State Fault Refusal :=
  loadForm (packI 0x10 rd rs1 (1#3 ++ off)) rd rs1 .h false true (memAddr · rs1 off) s
def execLdW (rd rs1 : Reg) (off : BitVec 13) (s : State) : Host.Outcome State Fault Refusal :=
  loadForm (packI 0x10 rd rs1 (2#3 ++ off)) rd rs1 .w false true (memAddr · rs1 off) s
def execLdD (rd rs1 : Reg) (off : BitVec 13) (s : State) : Host.Outcome State Fault Refusal :=
  loadForm (packI 0x10 rd rs1 (3#3 ++ off)) rd rs1 .d false true (memAddr · rs1 off) s
def execLdBu (rd rs1 : Reg) (off : BitVec 13) (s : State) : Host.Outcome State Fault Refusal :=
  loadForm (packI 0x10 rd rs1 (4#3 ++ off)) rd rs1 .bu false true (memAddr · rs1 off) s
def execLdHu (rd rs1 : Reg) (off : BitVec 13) (s : State) : Host.Outcome State Fault Refusal :=
  loadForm (packI 0x10 rd rs1 (5#3 ++ off)) rd rs1 .hu false true (memAddr · rs1 off) s
def execLdWu (rd rs1 : Reg) (off : BitVec 13) (s : State) : Host.Outcome State Fault Refusal :=
  loadForm (packI 0x10 rd rs1 (6#3 ++ off)) rd rs1 .wu false true (memAddr · rs1 off) s
def execStB (rt rs1 : Reg) (off : BitVec 13) (s : State) : Host.Outcome State Fault Refusal :=
  storeForm (packI 0x11 rt rs1 (0#3 ++ off)) rt rs1 .b false true (memAddr · rs1 off) s
def execStH (rt rs1 : Reg) (off : BitVec 13) (s : State) : Host.Outcome State Fault Refusal :=
  storeForm (packI 0x11 rt rs1 (1#3 ++ off)) rt rs1 .h false true (memAddr · rs1 off) s
def execStW (rt rs1 : Reg) (off : BitVec 13) (s : State) : Host.Outcome State Fault Refusal :=
  storeForm (packI 0x11 rt rs1 (2#3 ++ off)) rt rs1 .w false true (memAddr · rs1 off) s
def execStD (rt rs1 : Reg) (off : BitVec 13) (s : State) : Host.Outcome State Fault Refusal :=
  storeForm (packI 0x11 rt rs1 (3#3 ++ off)) rt rs1 .d false true (memAddr · rs1 off) s

/-! ### Scoped, acquire and release forms (R171). One order of performing serves every scope. -/

def execLdS (rd rs1 : Reg) (width : LWidth) (sc : Scope) (s : State) : Host.Outcome State Fault Refusal :=
  loadForm (packI 0x12 rd rs1 (width.code ++ sc.bits ++ 0x000#10)) rd rs1 width false false (rx · rs1) s
def execLdAcq (rd rs1 : Reg) (width : LWidth) (sc : Scope) (s : State) : Host.Outcome State Fault Refusal :=
  loadForm (packI 0x12 rd rs1 (width.code ++ sc.bits ++ 0x100#10)) rd rs1 width true false (rx · rs1) s
def execStS (rt rs1 : Reg) (width : SWidth) (sc : Scope) (s : State) : Host.Outcome State Fault Refusal :=
  storeForm (packI 0x13 rt rs1 (width.code ++ sc.bits ++ 0x000#10)) rt rs1 width false false (rx · rs1) s
def execStRel (rt rs1 : Reg) (width : SWidth) (sc : Scope) (s : State) : Host.Outcome State Fault Refusal :=
  storeForm (packI 0x13 rt rs1 (width.code ++ sc.bits ++ 0x100#10)) rt rs1 width true false (rx · rs1) s

/-! ### Tagged operations (R177 to R179) -/

def execLdf (rd rs1 : Reg) (s : State) : Host.Outcome State Fault Refusal := tagForm (packR 0x14 rd rs1 0 0) .readFull rd rs1 0 s
def execLdt (rd rs1 : Reg) (s : State) : Host.Outcome State Fault Refusal := tagForm (packR 0x14 rd rs1 0 1) .take rd rs1 0 s
def execSte (rs1 rs2 : Reg) (s : State) : Host.Outcome State Fault Refusal := tagForm (packR 0x14 0 rs1 rs2 2) .put 0 rs1 rs2 s
def execStf (rs1 rs2 : Reg) (s : State) : Host.Outcome State Fault Refusal := tagForm (packR 0x14 0 rs1 rs2 3) .setFull 0 rs1 rs2 s
def execTclr (rs1 : Reg) (s : State) : Host.Outcome State Fault Refusal := tagForm (packR 0x14 0 rs1 0 4) .clear 0 rs1 0 s
/-- tagrd never waits and leaves the race record as it is (R178). -/
def execTagrd (rd rs1 : Reg) (s : State) : Host.Outcome State Fault Refusal :=
  memInstr false (packR 0x14 rd rs1 0 5) [rd.toNat, rs1.toNat] (fun s =>
    { op := .tagrd rd.toNat, va := rx s rs1, len := 8, need := pT ||| pR, plain := false }) s

/-! ### Fences (R180) -/

def execFenceAcq (sc : Scope) (s : State) : Host.Outcome State Fault Refusal := fenceForm (packJ 0x15 (0#13 ++ sc.bits ++ 0x100#10)) true false s
def execFenceRel (sc : Scope) (s : State) : Host.Outcome State Fault Refusal := fenceForm (packJ 0x15 (0#13 ++ sc.bits ++ 0x200#10)) false true s
def execFenceFull (sc : Scope) (s : State) : Host.Outcome State Fault Refusal := fenceForm (packJ 0x15 (0#13 ++ sc.bits ++ 0x300#10)) true true s

/-! ### Atomics (R181 to R183) -/

def execAmoAdd (rd rs1 rs2 : Reg) (z : ASize) (o : AOrder) (sc : Scope) (s : State) : Host.Outcome State Fault Refusal :=
  amoForm (packR 0x18 rd rs1 rs2 (amoFn 0 z o sc)) .add rd rs1 rs2 z o s
def execAmoSmin (rd rs1 rs2 : Reg) (z : ASize) (o : AOrder) (sc : Scope) (s : State) : Host.Outcome State Fault Refusal :=
  amoForm (packR 0x18 rd rs1 rs2 (amoFn 2 z o sc)) .smin rd rs1 rs2 z o s
def execAmoSmax (rd rs1 rs2 : Reg) (z : ASize) (o : AOrder) (sc : Scope) (s : State) : Host.Outcome State Fault Refusal :=
  amoForm (packR 0x18 rd rs1 rs2 (amoFn 3 z o sc)) .smax rd rs1 rs2 z o s
def execAmoUmin (rd rs1 rs2 : Reg) (z : ASize) (o : AOrder) (sc : Scope) (s : State) : Host.Outcome State Fault Refusal :=
  amoForm (packR 0x18 rd rs1 rs2 (amoFn 4 z o sc)) .umin rd rs1 rs2 z o s
def execAmoUmax (rd rs1 rs2 : Reg) (z : ASize) (o : AOrder) (sc : Scope) (s : State) : Host.Outcome State Fault Refusal :=
  amoForm (packR 0x18 rd rs1 rs2 (amoFn 5 z o sc)) .umax rd rs1 rs2 z o s
def execAmoAnd (rd rs1 rs2 : Reg) (z : ASize) (o : AOrder) (sc : Scope) (s : State) : Host.Outcome State Fault Refusal :=
  amoForm (packR 0x18 rd rs1 rs2 (amoFn 6 z o sc)) .and rd rs1 rs2 z o s
def execAmoOr (rd rs1 rs2 : Reg) (z : ASize) (o : AOrder) (sc : Scope) (s : State) : Host.Outcome State Fault Refusal :=
  amoForm (packR 0x18 rd rs1 rs2 (amoFn 7 z o sc)) .or rd rs1 rs2 z o s
def execAmoXor (rd rs1 rs2 : Reg) (z : ASize) (o : AOrder) (sc : Scope) (s : State) : Host.Outcome State Fault Refusal :=
  amoForm (packR 0x18 rd rs1 rs2 (amoFn 8 z o sc)) .xor rd rs1 rs2 z o s
def execAmoSwap (rd rs1 rs2 : Reg) (z : ASize) (o : AOrder) (sc : Scope) (s : State) : Host.Outcome State Fault Refusal :=
  amoForm (packR 0x18 rd rs1 rs2 (amoFn 9 z o sc)) .swap rd rs1 rs2 z o s
def execAmoQadd (rd rs1 rs2 : Reg) (o : AOrder) (sc : Scope) (s : State) : Host.Outcome State Fault Refusal :=
  amoForm (packR 0x18 rd rs1 rs2 (amoFn 1 .d o sc)) .qadd rd rs1 rs2 .d o s
/-- cas compares with x[rd] and writes x[rs2] (R182). -/
def execCas (rd rs1 rs2 : Reg) (z : ASize) (o : AOrder) (sc : Scope) (s : State) : Host.Outcome State Fault Refusal :=
  memInstr false (packR 0x19 rd rs1 rs2 (amoFn 0 z o sc)) [rd.toNat, rs1.toNat, rs2.toNat] (fun s =>
    { op := .cas z rd.toNat (rx s rd) (rx s rs2), va := rx s rs1, len := asizeBytes z, need := pR ||| pW ||| pA,
      write := true, rel := ordRel o, acq := ordAcq o, plain := false, watched := true }) s

/-! ### The performing of an access left in flight (R165, R529) -/

/-- An offset that was backed when its request left is so no longer (R400). -/
def retiredLoc (s : State) : Loc → Bool
  | .named pa => !backed s pa
  | .scr _ _ => false

/-- MEMORY_ACCESS_PERFORMED: the access of a strand of the current core is performed, if nothing holds it back. -/
def execMemoryAccessPerformed (strand : BitVec 2) (s : State) : Host.Outcome State Fault Refusal :=
  let n := strand.toNat
  let t := sn s n
  match t.flight with
  | none => .next s
  | some fl =>
    if fl.req.isSome || fl.walk.isSome || !mayPerform s fl then .next s
    else
      match (if retiredLoc s fl.loc then .flt s { code := 0x0012, addr := fl.va, detail := BitVec.ofNat 64 (locTarget fl.loc) }
             else performAt s n fl : Done) with
      | .ok s pc => .next (finishIssue s n pc false)
      | .flt s f => .next (raise1 s s.cur n f fl.word)
      | .tagWait s w =>
        .next (beginWait (setSn s n { sn s n with flight := none }) n w)
      | .sent s id => .next (setSn s n { sn s n with flight := some { fl with req := some id } })

/-- TAGGED_WAIT_TIMEOUT: 1,024 cycles after the wait began the strand becomes ready again (R179). -/
def execTaggedWaitTimeout (strand : BitVec 2) (s : State) : Host.Outcome State Fault Refusal :=
  let n := strand.toNat
  let t := sn s n
  match t.run, t.flight, t.wait with
  | .waiting, none, some (.tag _ _ limit _) =>
    if limit ≤ curCyc s then .next (setSn s n { t with run := .ready }) else .next s
  | _, _, _ => .next s

/-- LONG_LATENCY_RESULT: the results of a strand whose cycle has come land (R164). -/
def landDue (t : Strand) (now : Nat) : Strand :=
  let due := t.pend.filter fun (_, _, c) => decide (c ≤ now)
  { due.foldl (fun t (r, v, _) => xset t r v) t with pend := t.pend.filter fun (_, _, c) => !decide (c ≤ now) }

def execLongLatencyResult (strand : BitVec 2) (s : State) : Host.Outcome State Fault Refusal :=
  .next (setSn s strand.toNat (landDue (sn s strand.toNat) (curCyc s)))

end Sys2Proof.Machine
end

