-- ==== Sys2Proof/Machine/Barrier.lean ====
section
/-! DEFINITION. Barrier slots: arrival, counted bytes and completion (R75 to R77, R208), and when a waiting strand is
ready again (R20). -/

namespace Sys2Proof.Machine

/-! ### Slots (R75) -/

/-- Position of a core's cluster among its task's clusters. -/
def clusterPos (t : Task) (c : Nat) : Nat := (t.clusters.findIdx? fun k => k = clusterOf c).getD 0

/-- The key of a task's slot that a core reaches at levels 1 to 4. -/
def slotKey (t : Task) (c lvl slot : Nat) : Nat := if lvl = 1 then 64 + 8 * clusterPos t c + slot else 8 * lvl + slot

def getSlot (s : State) (c lvl slot : Nat) : Slot :=
  let k := getCore s c
  if lvl = 0 then tget {} k.bars slot else tget {} (getTask s k.task).slots (slotKey (getTask s k.task) c lvl slot)

def setSlot (s : State) (c lvl slot : Nat) (v : Slot) : State :=
  let k := getCore s c
  if lvl = 0 then setCore s c { k with bars := tput {} k.bars slot v }
  else
    let t := getTask s k.task
    setTask s k.task { t with slots := tput {} t.slots (slotKey t c lvl slot) v }

/-- The count field of a level's membership register (R26). -/
def domCount (k : Core) (lvl : Nat) : Nat := ((tget 0 k.dom lvl).extractLsb' 48 16).toNat

/-- The phase field one further, modulo 4,096. -/
def domNext (d : W64) : W64 :=
  (d &&& ~~~(0xFFF0 : W64)) ||| BitVec.ofNat 64 (((d.extractLsb' 4 12).toNat + 1) % 4096 * 16)

/-- Whether core `m` shares the domain of core `c` at a level (R23). -/
def sameDomain (s : State) (c lvl m : Nat) : Bool :=
  if lvl = 0 then decide (m = c)
  else decide ((getCore s m).task = (getCore s c).task) && !isPrologue m && (decide (2 ≤ lvl) || decide (clusterOf m = clusterOf c))

/-- A strand that waits on the slot learns who completed it (R498). -/
def noteSetter (lvl slot : Nat) (by_ : Nat × Nat) (t : Strand) : Strand :=
  match t.barOn with
  | some (l, n, _) => if l = lvl ∧ n = slot then { t with by_ := by_ } else t
  | none => t

/-- Steps 3 and 4 of R76 for one member. -/
def memberPhase (lvl slot : Nat) (by_ : Nat × Nat) (k : Core) : Core :=
  { k with
    dom := tset k.dom lvl (domNext (tget 0 k.dom lvl))
    race := if 1 ≤ lvl then [] else k.race
    strands := k.strands.map fun (n, t) => (n, noteSetter lvl slot by_ t) }

/-- The completion of a slot (R76). -/
def slotComplete (s : State) (c lvl slot : Nat) : State :=
  let v := getSlot s c lvl slot
  let s := setSlot s c lvl slot { v with phase := v.phase + 1, arrived := 0 }
  { s with cores := s.cores.map fun (m, k) => if sameDomain s c lvl m then (m, memberPhase lvl slot v.last k) else (m, k) }

/-- The level at which local members of a fabric slot are counted: a slot of its own beside the fabric slot. -/
def localLvl : Nat := 5

/-- The arrival messages of a device at a fabric slot (R76). -/
def sendArrivals (s : State) (c slot : Nat) : State :=
  let t := getTask s (getCore s c).task
  let nd := getNode (getGraph s t.graph) t.node
  let msgs := (List.range nd.r.fmap.length).filterMap fun j =>
    if j = nd.r.fidx then none else some (VolMsg.arrive (nd.r.fmap.getD j 0) nd.r.fgroup slot)
  { s with vol := { s.vol with out := s.vol.out ++ (if t.fabric then msgs else []) } }

/-- The device's own arrival at a fabric slot, when every local member has arrived and pending is zero. -/
def deviceArrive (s : State) (c slot : Nat) : State :=
  let v := getSlot s c localLvl slot
  let f := getSlot s c 4 slot
  if v.arrived.toNat = domCount (getCore s c) 3 ∧ f.pending = 0 ∧ v.arrived ≠ 0 then
    let s := setSlot s c localLvl slot { v with arrived := 0 }
    let s := setSlot s c 4 slot { getSlot s c 4 slot with arrived := f.arrived + 1, last := v.last }
    sendArrivals s c slot
  else s

/-- Complete a slot where its conditions hold (R76). -/
def slotCheck (s : State) (c lvl slot : Nat) : State :=
  let s := if lvl = 4 then deviceArrive s c slot else s
  let v := getSlot s c lvl slot
  if v.arrived.toNat = domCount (getCore s c) lvl ∧ v.pending = 0 ∧ v.arrived ≠ 0 then slotComplete s c lvl slot else s

/-- Add a signed number of bytes to pending: refused where it would leave the 64-bit range (R77). -/
def slotAdd (s : State) (c lvl slot : Nat) (n : Int) : Except W64 State :=
  let v := getSlot s c lvl slot
  let p : Int := v.pending.toNat + n
  if p < 0 ∨ p ≥ (2 ^ 64 : Nat) then .error v.pending
  else .ok (slotCheck (setSlot s c lvl slot { v with pending := BitVec.ofInt 64 p }) c lvl slot)

/-! ### Arrival (R208) -/

/-- Every live strand of the current core has issued bar on the slot in its current phase. -/
def allAtBar (s : State) (lvl slot : Nat) : Bool :=
  let k := cc s
  let l := liveStrands s k
  !l.isEmpty && l.all fun n => decide ((getStrand k n).barOn = some (lvl, slot, (getSlot s s.cur lvl slot).phase.toNat))

/-- The core arrives at a slot, once per phase, when every live strand is there. `by_` is the strand of the last bar. -/
def tryArrive (s : State) (lvl slot n : Nat) : State :=
  let k := cc s
  let key := 8 * lvl + slot
  let ph := (getSlot s s.cur lvl slot).phase.toNat
  let came : Bool := match k.arrivals.find? fun e => e.1 = key with
    | some (_, p) => decide (p = ph)
    | none => false
  if allAtBar s lvl slot && !came then
    let s := setCC s { k with arrivals := tset k.arrivals key ph }
    let s := bumpRelease s s.cur
    let at_ := if lvl = 4 then localLvl else lvl
    let v := getSlot s s.cur at_ slot
    slotCheck (setSlot s s.cur at_ slot { v with arrived := v.arrived + 1, last := (n, k.lid) }) s.cur lvl slot
  else s

/-- After a strand left: the core may arrive where the remaining live strands wait. -/
def exitArrive (s : State) : State :=
  match liveStrands s (cc s) with
  | [] => s
  | n :: _ =>
    match (getStrand (cc s) n).barOn with
    | some (lvl, slot, _) => tryArrive s lvl slot n
    | none => s

/-! ### Ready strands (R20, R22, R48) -/

/-- Every queue is empty, every word has completed, and no strand has an emission in flight that issued before (R44). -/
def sectionDrained (k : Core) : Bool :=
  drained k && k.strands.all fun e => match e.2.flight.map fun f => f.op with
    | some (MemOp.emitt _ _) => false
    | _ => true

/-- The condition of a wait is met. Waits on a tag, a counter or a walk end by an event of their own. -/
def waitMet (s : State) (c n : Nat) (w : Wait) : Bool :=
  let k := getCore s c
  match w with
  | .result rs => !mustWait (getStrand k n) rs
  | .tag _ _ _ _ | .cyc _ | .gtc _ | .walk | .fetch => false
  | .token q => !(tokens k (linkEC q)).isEmpty
  | .room q => decide (linkFree k (linkCE q) ≠ 0)
  | .entry qs => (List.range 4).all fun q => !qs.getLsbD q || mayTake k q n
  | .sect => k.switching.isEmpty
  | .drain => decide (k.switching.head? = some n) && sectionDrained k
  | .drainYield => drained k
  | .drainOwn => drainedOf k n
  | .join qs => (List.range 4).all fun q => !qs.getLsbD q || !hasMarker k q n
  | .bar lvl slot ph => decide ((getSlot s c lvl slot).phase.toNat ≠ ph)
  | .order => (getStrand k n).flight.isNone && (flightsBefore k k.ord).isEmpty

/-- The strand could issue, were the slot its own. -/
def strandReady (s : State) (c n : Nat) : Bool :=
  let k := getCore s c
  let t := getStrand k n
  let fs := isFaultStrand s k n
  (if inHold k (cycOf s c) then fs && k.handling.isSome && holdQuiet k else !fs || k.handling.isSome)
  && match t.run, t.wait with
    | .ready, _ => true
    | .waiting, some w => t.flight.isNone && waitMet s c n w
    | _, _ => false

/-- The block of the current strand goes on: it does not wait, no wait has ended the block, and it has issued fewer
than 1,024 instructions in it (R20). -/
def blockLasts (k : Core) : Bool :=
  (getStrand k k.cs).run == .ready && !k.ended && decide ((getStrand k k.cs).block < 1024)

/-- The strand that issues next: the current one while its block lasts, else the next ready one in ascending order
after it, the current one last (R20). -/
def pickStrand (s : State) (c : Nat) : Option Nat :=
  let k := getCore s c
  if blockLasts k && strandReady s c k.cs then some k.cs
  else [1, 2, 3, 4].findSome? fun i => if strandReady s c ((k.cs + i) % 4) then some ((k.cs + i) % 4) else none

end Sys2Proof.Machine
end

