-- ==== Sys2Proof/Machine/CopyPlan.lean ====
section
/-! DEFINITION. The copy engine's plans: what each word reads and writes element by element (R351 to R372), its pieces
(R352), the checks of a piece (R375), and the code tables and compressed objects of xtab and xdec (R359 to R362). -/

namespace Sys2Proof.Machine

/-! ### Plans -/

/-- What a copy word does. -/
inductive XKind where
  | cpy
  | conv (rm : BitVec 3)
  | fill
  | gath
  | scat
  | tab (t : Nat)
  | dec (t c0 nc : Nat)
  | amo (op : AmoOp) (z : ASize) (anch : BitVec 10) (ret rel : Bool)
  | cas (z : ASize) (rel : Bool)
  | put (k : TagKind)
  | take (k : TagKind)
  | tclr
  | get (sig : Bool)
  | putv (sig : Bool)
  | bar
  | seq
  deriving DecidableEq, Repr

/-- A copy word with its snapshots: sd, ss, the word's third stream and its result stream. -/
structure XPlan where
  kind : XKind
  d : Strm := {}
  s : Strm := {}
  i : Strm := {}
  r : Strm := {}
  cnt : Option (Nat × Nat) := none
  deriving DecidableEq, Repr

def xPlan (k : XKind) (w : XC) (qw : QWord) : XPlan :=
  { kind := k, d := snapOf qw w.sd, s := snapOf qw w.ss, i := snapOf qw (BitVec.ofNat 4 (xSi w)), r := snapOf qw (BitVec.ofNat 4 (xSr w))
    cnt := if w.cnt then some (w.lvl.toNat, w.slot.toNat) else none }

def orderRel : AOrder → Bool
  | .rel | .ar => true
  | _ => false

/-- The kind of a copy word. -/
def xKindOf (i : Instr) : Option (XKind × XC) :=
  match i with
  | .xcpy w => some (.cpy, w)
  | .xcpyc w => some (.conv (xRm w), w)
  | .xfill w => some (.fill, w)
  | .xgath w => some (.gath, w)
  | .xscat w => some (.scat, w)
  | .xtab w => some (.tab (xTab w).toNat, w)
  | .xdec w => some (.dec (xTab w).toNat (xC0 w) (xNc w), w)
  | .xamo w => some (.amo ((xOp w).getD .add) (xSize w) (xAnchor w) (xRet w) (orderRel (xOrder w)), w)
  | .xcas w => some (.cas (xSize w) (orderRel (xOrder w)), w)
  | .xste w => some (.put .put, w)
  | .xstf w => some (.put .setFull, w)
  | .xldf w => some (.take (if xTk w then .take else .readFull), w)
  | .xtclr w => some (.tclr, w)
  | .xget w => some (.get false, w)
  | .xput w => some (.putv false, w)
  | .xgetc w => some (.get true, w)
  | .xputc w => some (.putv true, w)
  | .xbar w => some (.bar, w)
  | .xseq w => some (.seq, w)
  | _ => none

/-- The plan of a queued word. -/
def xPlanOf (qw : QWord) : Option XPlan := (xKindOf (decodeE .x qw.bits)).map fun (k, w) => xPlan k w qw

/-! ### Check 1 (R349 to R365) -/

/-- The formats of xcpyc (R356). -/
def convFmt (f : Fmt) : Bool :=
  match f with
  | .fp32 | .fp16 | .bf16 | .e4m3 | .e5m2 | .zt8 => true
  | _ => false

/-- The formats of a tagged side (R365). -/
def tagFmt (c : BitVec 5) : Bool := c == 3 || c == 7 || c == 0x0B

/-- A stream: a format, its base or packed shape (R203), fewer than 2^32 elements (R351). -/
def xOk (m : Strm) : Bool :=
  match fmtOf m.fmt.toNat with
  | none => false
  | some f =>
    decide (strmElems m < 2 ^ 32) &&
    (if f.packed then m.str0 == 1 && decide (m.ext0.toNat % f.group = 0) else decide (m.base.toNat % (f.width / 8) = 0))

def xWidth (m : Strm) : Nat := strmWidth m
def xPacked (m : Strm) : Bool := decide (strmWidth m % 8 ≠ 0)
/-- A whole-byte stream of a width. -/
def xWide (m : Strm) (w : Nat) : Bool := xOk m && decide (strmWidth m = w)
/-- Two streams with as many elements. -/
def xPair (a b : Strm) : Bool := xOk a && xOk b && decide (strmElems a = strmElems b)
/-- A copy between two streams (R355). -/
def xCopyOk (p : XPlan) : Bool :=
  xPair p.d p.s && decide (strmWidth p.d = strmWidth p.s) && (!xPacked p.d || p.d.fmt == p.s.fmt)

/-- The table of a gather or scatter: its base and width; only dimension 0 is used (R358). -/
def xTabOk (m : Strm) (w : Nat) : Bool :=
  !xPacked m && decide (strmElems m < 2 ^ 32) && decide (strmWidth m = w) && (fmtOf m.fmt.toNat).isSome && decide (m.base.toNat % strmBytes m = 0)

/-- An index stream paired with another (R358). -/
def xIdxOk (i o : Strm) : Bool := xPair i o && decide (i.fmt.toNat ≤ 3)

def xGood (p : XPlan) : Bool :=
  match p.kind with
  | .cpy => xCopyOk p
  | .conv _ =>
    xPair p.d p.s && ((fmtOf p.d.fmt.toNat).map convFmt).getD false && ((fmtOf p.s.fmt.toNat).map convFmt).getD false
    && p.d.sgeo == 0 && p.s.sgeo == 0
  | .fill => xOk p.d && !xPacked p.d && decide (strmWidth p.d ≤ 64)
  | .gath => xIdxOk p.i p.d && !xPacked p.d && xTabOk p.s (strmWidth p.d)
  | .scat => xIdxOk p.i p.s && !xPacked p.s && xTabOk p.d (strmWidth p.s)
  | .tab _ | .bar | .seq => true
  | .dec _ _ _ => xWide p.d 8
  | .amo op z anch ret _ =>
    let w := asizeBits z
    xPair p.d p.s && xWide p.d w && (!ret || (xWide p.r w && decide (strmElems p.r = strmElems p.d))) &&
    (match op with
      | .fadd => p.d.fmt == 0x0A && p.s.fmt == 0x0A
      | .qadd => p.s.fmt == 0x0A || ((p.s.fmt == 0x15 || p.s.fmt == 7) && anch == 0)
      | _ => decide (strmWidth p.s = w))
  | .cas z _ =>
    let w := asizeBits z
    xWide p.d w && xWide p.s w && xWide p.i w && xWide p.r w && decide (strmElems p.s = strmElems p.d)
    && decide (strmElems p.i = strmElems p.d) && decide (strmElems p.r = strmElems p.d)
  | .put _ => xPair p.d p.s && tagFmt p.d.fmt && decide (strmWidth p.s = 64)
  | .take _ => xPair p.d p.s && tagFmt p.s.fmt && decide (strmWidth p.d = 64)
  | .tclr => xOk p.d && tagFmt p.d.fmt
  | .get sig | .putv sig => xCopyOk p && !xPacked p.d && (!sig || decide (strmElems p.i = strmElems p.d))

/-! ### Elements -/

/-- The address of the element at a stream-order position. -/
def nthVa (m : Strm) (e : Nat) : W64 := let (k0, k1, k2) := strmCoord m e; strmAddr m k0 k1 k2

/-- The address of the byte at a position of the sequence that packed rows form (R351). -/
def packedVa (m : Strm) (j : Nat) : W64 :=
  let n := m.ext0.toNat * strmWidth m / 8
  let row := j / n
  strmAddr m 0 (row % m.ext1.toNat) (row / m.ext1.toNat) + BitVec.ofNat 64 (j % n)

/-- A stream of the word has no element: the word performs nothing (R351). -/
def xEmpty (p : XPlan) : Bool :=
  let z (m : Strm) : Bool := decide (strmElems m = 0)
  match p.kind with
  | .tab _ | .bar | .seq => false
  | .fill | .dec _ _ _ | .tclr => z p.d
  | _ => z p.d || z p.s

/-- The number of elements performed; of a packed copy its bytes; one for xseq, for xtab and for a signal. -/
def xCount (p : XPlan) : Nat :=
  if xEmpty p then 0
  else match p.kind with
  | .cpy => if xPacked p.d then strmElems p.d * strmWidth p.d / 8 else strmElems p.d
  | .scat => strmElems p.s
  | .tab _ | .seq => 1
  | .bar => 0
  | .get true | .putv true => strmElems p.d + 1
  | _ => strmElems p.d

/-- What an access of a piece is: a plain read or write, an atomic, a tagged operation, an unchecked read of xtab's image,
or an element of xtclr that is only checked for its alignment. -/
inductive XRole where
  | rd | wr
  | amo (hostNo : Bool)
  | tag (k : TagKind)
  | img
  | chk
  deriving DecidableEq, Repr

structure XAcc where
  a : VAcc
  al : Nat
  need : Perm
  role : XRole
  deriving DecidableEq, Repr

def xAcc (el : Nat) (va : W64) (n : Nat) (need : Perm) (role : XRole) : XAcc := { a := mkAcc el va n 0 [], al := n, need := need, role := role }
def xRd (el : Nat) (va : W64) (n : Nat) : XAcc := xAcc el va n pR .rd
def xWr (el : Nat) (va : W64) (n : Nat) : XAcc := xAcc el va n pW .wr
def xTag (el : Nat) (va : W64) (k : TagKind) : XAcc :=
  xAcc el va 8 (pT ||| (if tagReads k then pR else 0) ||| (if tagWrites k then pW else 0)) (.tag k)

/-- What an element does with its accesses, by their places in its list. -/
inductive XAct where
  /-- Nothing: an element that xscat skips, or whose index cannot be read. -/
  | skip
  /-- The element's place waits for its index, asked of another device. -/
  | ask
  | move (src dst : Nat)
  | conv (src dst : Nat) (f g : Fmt) (rm : BitVec 3)
  | const (dst : Nat) (b : List Byte)
  | amo (op : AmoOp) (z : ASize) (q : Option (BitVec 10)) (ret : Bool)
  | cas (z : ASize)
  | put | take | clear
  /-- Set-full of a value (R369, R372); a release store (R372). -/
  | sig (v : W64)
  | rel (v : W64)
  deriving DecidableEq, Repr

/-- An element: the line of its destination, where it has one, its accesses, its action, the bytes it writes. -/
structure XUnit where
  line : Option Nat
  accs : List XAcc
  act : XAct
  bytes : Nat
  deriving DecidableEq, Repr

def vaLine (v : W64) : Option Nat := some (v.toNat / 64)

/-- What is known of an index: its value, that another device has to give it, or that it cannot be read. -/
inductive Idx where
  | val (x : Nat)
  | ask
  | bad
  deriving DecidableEq, Repr

/-- Every byte of an access has been asked of another device and answered. -/
def ackCovers (k : Core) (q : Nat) (a : VAcc) : Bool := (List.range a.len).all fun i => (ackAt k q (a.va.toNat + i)).isSome

/-- The index at position `m`. -/
def idxVal (s : State) (p : XPlan) (m : Nat) : Idx :=
  let va := nthVa p.i m
  let n := strmBytes p.i
  match locVa s va n with
  | none => .bad
  | some l =>
    if isVol l then
      let a := { mkAcc m va n 0 [] with loc := l }
      if !ackCovers (cc s) 3 a then .ask
      else if (acksOf (cc s) 3).any fun e => !keyProbe e.1 && e.2.1 != 0 && ackTouches a e then .bad
      else .val (leNat (accBytes s 3 a))
    else .val (readNat s l n)

/-- Decoded byte `m` of xdec, where its chunk is the one decoded. -/
def decByte (k : Core) (m : Nat) : List Byte :=
  match k.cpy.chunk with
  | some (lo, b) => [b.getD (m - 4096 * lo) 0]
  | none => [0]

/-- The element at a position. -/
def xUnit (s : State) (p : XPlan) (m : Nat) : XUnit :=
  let d := nthVa p.d m
  let b := strmBytes p.d
  match p.kind with
  | .cpy =>
    if xPacked p.d then
      let d := packedVa p.d m
      { line := vaLine d, accs := [xRd m (packedVa p.s m) 1, xWr m d 1], act := .move 0 1, bytes := 1 }
    else { line := vaLine d, accs := [xRd m (nthVa p.s m) b, xWr m d b], act := .move 0 1, bytes := b }
  | .conv rm =>
    { line := vaLine d, accs := [xRd m (nthVa p.s m) (strmBytes p.s), xWr m d b]
      act := .conv 0 1 ((fmtOf p.s.fmt.toNat).getD .fp32) ((fmtOf p.d.fmt.toNat).getD .fp32) rm, bytes := b }
  | .fill => { line := vaLine d, accs := [xWr m d b], act := .const 0 (leBytes b p.s.base.toNat), bytes := b }
  | .gath =>
    let ix := xRd m (nthVa p.i m) (strmBytes p.i)
    match idxVal s p m with
    | .ask | .bad => { line := vaLine d, accs := [ix, xWr m d b], act := .skip, bytes := b }
    | .val x =>
      if x < p.s.ext0.toNat then { line := vaLine d, accs := [ix, xRd m (strmAddr p.s x 0 0) b, xWr m d b], act := .move 1 2, bytes := b }
      else { line := vaLine d, accs := [ix, xWr m d b], act := .const 1 (leBytes b 0), bytes := b }
  | .scat =>
    let ix := xRd m (nthVa p.i m) (strmBytes p.i)
    let n := strmBytes p.s
    match idxVal s p m with
    | .bad => { line := some (2 ^ 64 + m), accs := [ix], act := .skip, bytes := n }
    | .ask => { line := none, accs := [ix], act := .ask, bytes := n }
    | .val x =>
      if x < p.d.ext0.toNat then
        let t := strmAddr p.d x 0 0
        { line := vaLine t, accs := [ix, xRd m (nthVa p.s m) n, xWr m t n], act := .move 1 2, bytes := n }
      else { line := none, accs := [ix], act := .skip, bytes := n }
  | .dec _ _ _ => { line := vaLine d, accs := [xWr m d 1], act := .const 0 (decByte (cc s) m), bytes := 1 }
  | .amo op z anch ret _ =>
    let n := asizeBytes z
    let q := if op = .qadd ∧ p.s.fmt = 0x0A then some anch else none
    { line := vaLine d
      accs := [xAcc m d n (pR ||| pW ||| pA) (.amo (!hostAmo op)), xRd m (nthVa p.s m) (strmBytes p.s)]
        ++ (if ret then [xWr m (nthVa p.r m) n] else [])
      act := .amo op z q ret, bytes := if ret then 2 * n else n }
  | .cas z _ =>
    let n := asizeBytes z
    { line := vaLine d
      accs := [xAcc m d n (pR ||| pW ||| pA) (.amo false), xRd m (nthVa p.s m) n, xWr m (nthVa p.r m) n, xRd m (nthVa p.i m) n]
      act := .cas z, bytes := 2 * n }
  | .put k => { line := vaLine d, accs := [xTag m d k, xRd m (nthVa p.s m) 8], act := .put, bytes := 8 }
  | .take k => { line := vaLine d, accs := [xTag m (nthVa p.s m) k, xWr m d 8], act := .take, bytes := 8 }
  | .tclr =>
    let first := decide (m = 0) || decide (d.toNat / 64 ≠ (nthVa p.d (m - 1)).toNat / 64)
    { line := vaLine d
      accs := xAcc m d 8 0 .chk ::
        (if first then (List.range 8).map fun i => xTag m (BitVec.ofNat 64 (d.toNat / 64 * 64 + 8 * i)) .clear else [])
      act := .clear, bytes := 0 }
  | .get sig | .putv sig =>
    if sig && decide (m = strmElems p.d) then
      { line := vaLine p.i.base, accs := [xTag m p.i.base .setFull]
        act := .sig (BitVec.ofNat 64 (strmElems p.d * b)), bytes := 8 }
    else { line := vaLine d, accs := [xRd m (nthVa p.s m) b, xWr m d b], act := .move 0 1, bytes := b }
  | .seq =>
    let v := (cc s).cpy.seqAt
    match locVa s p.d.base 8 with
    | some (.scr _ _) => { line := none, accs := [xTag 0 p.d.base .setFull], act := .sig v, bytes := 8 }
    | _ => { line := none, accs := [xWr 0 p.d.base 8], act := .rel v, bytes := 8 }
  | .tab _ | .bar => { line := none, accs := [], act := .skip, bytes := 0 }

/-- The bytes of the counted add (R370). -/
def xTotal (p : XPlan) : Nat :=
  if xEmpty p then 0
  else match p.kind with
  | .cpy => if xPacked p.d then xCount p else xCount p * strmBytes p.d
  | .conv _ | .fill | .gath | .dec _ _ _ => xCount p * strmBytes p.d
  | .scat => xCount p * strmBytes p.s
  | .amo _ z _ ret _ => xCount p * asizeBytes z * (if ret then 2 else 1)
  | .cas z _ => xCount p * asizeBytes z * 2
  | .put _ | .take _ | .seq => xCount p * 8
  | .get sig | .putv sig => strmElems p.d * strmBytes p.d + (if sig then 8 else 0)
  | .tclr | .tab _ | .bar => 0

/-! ### Pieces (R352) -/

/-- A run goes on over elements of the same line and elements without one. -/
def sameRun (a b : Option Nat) : Bool :=
  match a, b with
  | some x, some y => decide (x = y)
  | _, _ => true

/-- The run that begins at position `m`, `n` elements being left; `l` the line so far. -/
def runFrom (f : Nat → XUnit) : Nat → Nat → Option Nat → List XUnit
  | 0, _, _ => []
  | n + 1, m, l =>
    let u := f m
    if sameRun l u.line then u :: runFrom f n (m + 1) (l.orElse fun _ => u.line) else []

/-- Elements of which a piece may consist: a signal is a piece of its own (R369), and a piece of xdec lies in one chunk, as
every chunk is written whole before the next one decodes (R362; DEDUCED, log entry 49). -/
def pieceLeft (p : XPlan) (e : Nat) : Nat :=
  match p.kind with
  | .dec _ _ _ => Nat.min (xCount p - e) (4096 - e % 4096)
  | .get true | .putv true => if e < strmElems p.d then strmElems p.d - e else xCount p - e
  | _ => xCount p - e

/-- The piece that begins at element `e`. -/
def pieceAt (s : State) (p : XPlan) (e : Nat) : List XUnit := runFrom (xUnit s p) (pieceLeft p e) e none

/-- The number of pieces from element `e` on. -/
def piecesFrom (s : State) (p : XPlan) : Nat → Nat → Nat
  | 0, _ => 0
  | n + 1, e =>
    if xCount p ≤ e then 0
    else match p.kind with
      | .tab _ => 0
      | _ => 1 + piecesFrom s p n (e + Nat.max 1 (pieceAt s p e).length)

/-- The pieces of a word that stands at piece `next`, element `elem`: those of an xscat are not known while another device has
not given an index, and that number is free. -/
def xPieces (s : State) (p : XPlan) (next elem : Nat) : Nat :=
  let ask : Bool := match p.kind with
    | .scat => (List.range (xCount p - elem)).any fun m => idxVal s p (elem + m) == .ask
    | _ => false
  if ask then Config.freeField s.fresh % 2 ^ 32 else Nat.min (next + piecesFrom s p (xCount p - elem) elem) (2 ^ 32 - 1)

/-- `xprog` of a word (R347). -/
def xProgAt (s : State) (p : XPlan) (next elem : Nat) : W64 := BitVec.ofNat 64 (next % 2 ^ 32 + xPieces s p next elem * 2 ^ 32)

/-- `xprog` of the word in progress. -/
def xProg (s : State) (p : XPlan) : W64 := xProgAt s p (cc s).cpy.next (cc s).cpy.elem

/-! ### Checks of a piece (R375, checks 7 to 13) -/

/-- Translate each access under its own permissions; an element that is only checked for alignment is not translated. -/
def xReach : List XAcc → State → State × List (XAcc × Reach)
  | [], s => (s, [])
  | x :: l, s =>
    match x.role with
    | .chk => xReach l s
    | role =>
      let no := match role with
        | .amo n => n
        | _ => false
      let (s, r) := reach s s.cur x.a.va x.a.len x.need true no
      let (s, t) := xReach l s
      (s, (x, r) :: t)

def xLocated (l : List (XAcc × Reach)) : List XAcc :=
  l.map fun
    | (x, .ok loc _) => { x with a := { x.a with loc := loc } }
    | (x, .flt _) => x

/-- Check 11: the remote side lies in the Volley window and the local side does not (R368, R369). -/
def xSide (p : XPlan) (x : XAcc) : Bool :=
  match p.kind, x.role with
  | .get _, .rd | .putv _, .wr | .putv _, .tag _ => isVol x.a.loc
  | .get _, .wr | .putv _, .rd => !isVol x.a.loc
  | .get _, .tag _ => inScr x.a
  | _, _ => true

def xPlain (x : XAcc) : Option Bool :=
  match x.role with
  | .rd => some false
  | .wr => some true
  | _ => none

/-- The access reads bytes at this device (check 13). -/
def xReads (x : XAcc) : Bool :=
  !isVol x.a.loc && (match x.role with
    | .rd | .img | .amo _ => true
    | .tag k => tagReads k
    | .wr | .chk => false)

/-- A fault at the first access that satisfies a test. -/
def xFlt (code : W16) (l : List XAcc) (f : XAcc → Option W64) : Option Flt :=
  l.findSome? fun x => (f x).map fun d => ({ code := code, addr := x.a.va, detail := d } : Flt)

/-- Checks 8 to 10. -/
def xStages (l : List (XAcc × Reach)) : Option Flt := stageFlt (l.map fun (x, r) => (x.a, r))

/-- Checks 7 to 11 of a piece: the state with TLBs filled. -/
def xChecks (p : XPlan) (l : List XAcc) (s : State) : Except Flt State :=
  let (s', r) := xReach l s
  let flt :=
    (xFlt 0x0501 l fun x => if x.a.va.toNat % x.al = 0 then none else some (BitVec.ofNat 64 x.al)).orElse fun _ =>
    (xStages r).orElse fun _ =>
    xFlt 0x0506 (xLocated r) fun x => if xSide p x then none else some (BitVec.ofNat 64 x.a.el)
  match flt with
  | some f => .error f
  | none => .ok s'

/-- The answer of another device to piece `k`: a refusal, then no such offset (checks 9 and 10). -/
def xFarFlt (s : State) (l : List VAcc) : Option Flt :=
  (ackErr (cc s) 3 0 2 l).orElse fun _ => ackErr (cc s) 3 0 1 l

/-- Checks 12 and 13 of piece `k` over located accesses, in which another device may have found an unreadable line (R376). -/
def xLastFlt (s : State) (k : Nat) (l : List XAcc) : Option Flt :=
  (xFlt 0x0030 l fun x => (xPlain x).bind fun wr =>
    (raceCheck s s.cur x.a.loc x.a.len wr).map fun n => BitVec.ofNat 64 n).orElse fun _ =>
  xFlt 0x0020 l fun x =>
    if (xReads x && (uncorrectable s x.a.loc x.a.len).isSome) || (accErr (cc s) 3 0 3 x.a).isSome then some (BitVec.ofNat 64 k) else none

/-- An element with its accesses located. -/
def locUnit (s : State) (u : XUnit) : XUnit :=
  { u with accs := u.accs.map fun x => { x with a := { x.a with loc := (locVa s x.a.va x.a.len).getD (.named 0), ent := entOf s s.cur x.a.va } } }

/-! ### Code tables (R359, R360) -/

/-- First code and first index of length `L` (R360). -/
def codeBase (cnt : Nat → Nat) : Nat → Nat × Nat
  | 0 => (0, 0)
  | 1 => (0, 0)
  | L + 2 =>
    let (b, i) := codeBase cnt (L + 1)
    ((b + cnt (L + 1)) * 2, i + cnt (L + 1))

/-- The running sum of counts first exceeds 256 at this length. -/
def sumOver (cnt : Nat → Nat) : Nat → Nat → Nat → Option Nat
  | 0, _, _ => none
  | n + 1, L, acc => if 256 < acc + cnt L then some L else sumOver cnt n (L + 1) (acc + cnt L)

/-- Check an image (R359): the table, or the offset of the first bad field. -/
def tabOfBytes (b : List Byte) : Except Nat CodeTab :=
  let cnt (L : Nat) : Nat := leNat ((b.drop (2 * L)).take 2)
  let sym (j : Nat) : Byte := b.getD (32 + j) 0
  let n := (lineRange 1 15).foldl (fun a L => a + cnt L) 0
  let kraft := (lineRange 1 15).foldl (fun a L => a + cnt L * 2 ^ (15 - L)) 0
  if cnt 0 ≠ 0 then .error 0
  else if n = 0 then .error 2
  else match sumOver cnt 15 1 0 with
  | some L => .error (2 * L)
  | none =>
    if 2 ^ 15 < kraft then .error 0x20
    else match (List.range n).find? fun j => (List.range j).any fun i => sym i == sym j with
    | some j => .error (0x20 + j)
    | none =>
      match ((List.range 256).drop n).find? fun j => sym j != 0 with
      | some j => .error (0x20 + j)
      | none => .ok {
          count := tputs 0 [] 1 ((lineRange 1 15).map fun L => BitVec.ofNat 16 (cnt L))
          sym := tputs 0 [] 0 ((List.range n).map sym), valid := true }

/-! ### Decoding (R362) -/

/-- Decode one symbol from bit `pos` of a payload of `n` bits: the symbol and the next bit, or the bit where it fails. -/
def decodeSym (t : CodeTab) (bits n : Nat) : Nat → Nat → Nat → Nat → Except Nat (Byte × Nat)
  | 0, _, _, pos => .error pos
  | f + 1, L, code, pos =>
    if n ≤ pos then .error pos
    else
      let code := 2 * code + bits / 2 ^ (n - 1 - pos) % 2
      let cnt (L : Nat) : Nat := (tget 0 t.count L).toNat
      let (first, start) := codeBase cnt L
      if first ≤ code ∧ code < first + cnt L then .ok (tget 0 t.sym (start + (code - first)), pos + 1)
      else decodeSym t bits n f (L + 1) code (pos + 1)

/-- `k` symbols. -/
def decodeSyms (t : CodeTab) (bits n : Nat) : Nat → Nat → Except Nat (List Byte × Nat)
  | 0, pos => .ok ([], pos)
  | k + 1, pos =>
    match decodeSym t bits n 15 1 0 pos with
    | .error e => .error e
    | .ok (b, pos) =>
      match decodeSyms t bits n k pos with
      | .error e => .error e
      | .ok (l, pos) => .ok (b :: l, pos)

/-- The bit string of a payload, as a number: the first byte's bit 7 highest (R361). -/
def beNat (b : List Byte) : Nat := b.foldl (fun a x => 256 * a + x.toNat) 0

/-- Decode a chunk of `k` bytes: its bytes, or the bit offset of its fault. -/
def decodeChunk (t : CodeTab) (payload : List Byte) (k : Nat) : Except Nat (List Byte) :=
  let n := 8 * payload.length
  let bits := beNat payload
  match decodeSyms t bits n k 0 with
  | .error e => .error e
  | .ok (l, pos) => if 8 ≤ n - pos ∨ bits % 2 ^ (n - pos) ≠ 0 then .error pos else .ok l

/-! ### Objects (R361, R362) -/

/-- Reads of `n` bytes from an address, within lines of 64 bytes; the alignment stands at the first. -/
def spanAccs (role : XRole) (al : Nat) (va : W64) (n : Nat) : Nat → Nat → List XAcc
  | 0, _ => []
  | f + 1, o =>
    if n ≤ o then []
    else
      let v := va + BitVec.ofNat 64 o
      let len := Nat.min (n - o) (64 - v.toNat % 64)
      { a := mkAcc o v len 0 [], al := if o = 0 then al else 1, need := pR, role := role } :: spanAccs role al va n f (o + len)

def spanOf (role : XRole) (al : Nat) (va : W64) (n : Nat) : List XAcc := spanAccs role al va n (n / 64 + 2) 0

/-- What header fields show (step 3): the offset of the first bad one. -/
def headBad (c0 nc n total : Nat) : Option Nat :=
  if n = 0 ∨ 2 ^ 20 < n then some 0
  else if total ≤ 4096 * (n - 1) ∨ 4096 * n < total then some 4
  else if n < c0 + nc then some 0
  else none

/-- The offsets' limits (R361), as far as entries c0 on can show: entry j is at least 12 + 4n + j and leaves room for the
n − j entries above it. -/
def offsBad (c0 n : Nat) (offs : List Nat) : Option Nat :=
  ((List.range offs.length).find? fun i =>
    let o := offs.getD i 0
    decide (o < 12 + 4 * n + (c0 + i)) || (decide (0 < i) && decide (o ≤ offs.getD (i - 1) 0))
    || decide (2 ^ 26 - (n - (c0 + i)) ≤ o)).map fun i => 8 + 4 * (c0 + i)

/-- Decoded bytes of chunk `j`, and of `nc` chunks from `c0` on. -/
def chunkLen (n total j : Nat) : Nat := if j + 1 < n then 4096 else total - 4096 * (n - 1)
def chunksLen (n total c0 nc : Nat) : Nat := (List.range nc).foldl (fun a i => a + chunkLen n total (c0 + i)) 0

end Sys2Proof.Machine
end

