-- ==== Sys2Proof/Machine/CopyStep.lean ====
section
/-! DEFINITION. The steps of a copy word in progress: reading (R375), performing pieces (R352 to R355), chunks and tables
(R359, R362), atomics one by one (R363, R364), tagged operations and signals one by one (R366, R369, R372), and the bytes
that leave its counted slot (R370). -/

namespace Sys2Proof.Machine

def xUpd (s : State) (f : Cpy → Cpy) : State := setCC s { cc s with cpy := f (cc s).cpy }

/-! ### Values from here and from other devices -/

/-- The word in progress moves data with the bulk class (R368). -/
def bulkRun (k : Core) : Bool :=
  match k.cpy.run.bind fun i => xPlanOf i.w with
  | some p => match p.kind with
    | .get _ | .putv _ => true
    | _ => false
  | none => false

/-- Send a request of the copy engine to another device. -/
def sendX (s : State) (a : VAcc) (op : RemoteOp) : State :=
  sendEng s 3 a.va a.len a.loc op (remoteClass op (bulkRun (cc s)) false)

/-- Where reading stands. -/
inductive XRead where
  /-- Every value is at hand: the state with TLBs filled. -/
  | done (s : State)
  /-- Requests or walks have just been asked for, or are awaited. -/
  | far (s : State)
  | flt (f : Flt)

/-- The reads, and the writes, on other devices among located accesses. -/
def farReads (l : List XAcc) : List VAcc := (l.filter fun x => (x.role == .rd || x.role == .img) && isVol x.a.loc).map (·.a)
def farWrites (l : List XAcc) : List VAcc := (l.filter fun x => x.role == .wr && isVol x.a.loc).map (·.a)

/-- The requests for accesses on other devices that have not been answered: an aligned 8-byte word each (R82). -/
def missing (k : Core) (l : List VAcc) : List VAcc := farWords (l.filter fun a => !ackCovers k 3 a)

/-- The checks of writes there that have not been asked for. -/
def unprobed (k : Core) (l : List VAcc) : List VAcc :=
  l.filter fun a => !((acksOf k 3).any fun e => keyProbe e.1 && ackTouches a e)

/-- Ask for what lies on other devices: reads, and the checks of writes. -/
def xFetch (rd wr : List VAcc) (s : State) : XRead :=
  if volPending s 3 then .far s
  else
    match missing (cc s) rd, unprobed (cc s) wr with
    | [], [] => .done s
    | m, u => .far (u.foldl (sendProbe 3) (m.foldl (fun s a => sendX s a (.load a.len)) s))

def xLocate (s : State) (l : List XAcc) : List XAcc := (locUnit s { line := none, accs := l, act := .skip, bytes := 0 }).accs

/-- The checks of piece `k` over accesses, with what lies on other devices: here checks 7 to 11, the answers there, then the
race check and what cannot be read (R375). -/
def xRead (p : XPlan) (k : Nat) (l : List XAcc) (s : State) : XRead :=
  match walksAsked s 3 (l.map (·.a)) with
  | some s => .far s
  | none =>
    match xChecks p l s with
    | .error f => .flt f
    | .ok s =>
      let t := xLocate s l
      match (if (farReads t).isEmpty then XRead.done s else xFetch (farReads t) [] s) with
      | .far s => .far s
      | .flt f => .flt f
      | .done s =>
        match (xFarFlt s (farReads t)).orElse fun _ => xLastFlt s k t with
        | some f => .flt f
        | none => .done s

/-- Record and count the accesses, and sample the plain reads, and the writes where `plain` says so (R93, R96, R391). -/
def xNote (plain : Bool) (l : List XAcc) (s : State) : State :=
  let pick (f : XRole → Bool) : List VAcc := (l.filter fun x => f x.role).map (·.a)
  let rd := pick (· == .rd)
  let wr := pick (· == .wr)
  let s := raceNote s.cur true wr (raceNote s.cur false rd s)
  let s := noteAll s.cur true false true (rd ++ pick (· == .img)) s
  let s := noteAll s.cur false true plain wr s
  let s := noteAll s.cur true true false (pick fun r => match r with | .amo _ => true | _ => false) s
  let s := noteAll s.cur true false false (pick fun r => match r with | .tag k => tagReads k | _ => false) s
  noteAll s.cur false true false (pick fun r => match r with | .tag k => tagWrites k | _ => false) s

/-! ### Faults, bytes and the end of a piece (R370, R376) -/

/-- The word in progress stops at its piece. What an atomic has returned is kept, so that it is not performed twice
(R364). -/
def xFault (s : State) (i : Issued) (p : XPlan) (f : Flt) : State :=
  let s := clearAcks (xUpd s fun c => { c with begun := false, vals := [], sent := none, since := none }) 3
  raise2 { s with fresh := s.fresh + 1 } s.cur 3 i.w f true (xProg s p)

/-- Bytes performed leave the counted slot. -/
def xSub (s : State) (i : Issued) (p : XPlan) (n : Nat) : State :=
  match (cc s).cpy.slot with
  | none => s
  | some (lvl, sl) =>
    let s := xUpd s fun c => { c with left := c.left - n }
    match slotAdd s s.cur lvl sl (-(n : Int)) with
    | .ok s => s
    | .error v => xFault s i p { code := 0x0051, detail := v }

/-- The piece in progress is performed: `n` elements, `b` bytes not yet subtracted. -/
def finishPiece (s : State) (i : Issued) (p : XPlan) (n b : Nat) : State :=
  let s := clearAcks (xUpd s fun c => { c with
    next := c.next + 1, elem := c.elem + n, part := 0, begun := false, vals := [], len := 0, bytes := 0
    got := none, sent := none }) 3
  xSub s i p b

/-! ### Plain pieces -/

/-- The values of an element's reads, at the places of its accesses. -/
def unitVals (s : State) (u : XUnit) : List Nat :=
  u.accs.map fun x => match x.role with
    | .rd => leNat (accBytes s 3 x.a)
    | _ => 0

def accAt (u : XUnit) (j : Nat) : VAcc := ((u.accs[j]?).map (·.a)).getD (mkAcc 0 0 0 0 [])

/-- The write that an element of plain accesses makes. -/
def unitWrite (u : XUnit) (v : List Nat) : Option VAcc :=
  let put (j : Nat) (b : List Byte) : Option VAcc := some { accAt u j with data := b }
  match u.act with
  | .move a d => put d (leBytes (accAt u d).len (v.getD a 0))
  | .conv a d f g rm => put d (leBytes (accAt u d).len (g.convert (rmD rm) (f.decode (v.getD a 0))).1)
  | .const d b => put d b
  | .rel x => put 0 (leBytes 8 x.toNat)
  | _ => none

/-- The agent of a copy word. -/
def whoCopy (s : State) (i : Issued) : Who := whoWord s.cur 3 i.w 0

/-- The writes of a piece: here as one write, elsewhere as one request, which is performed whole or not at all (R352, R502). -/
def xStore (i : Issued) (w : List VAcc) (s : State) : State :=
  let s := storeMany s (whoCopy s i) ((w.filter fun a => !isVol a.loc).map fun a => (a.loc, a.va, a.data)) false
  sendPieces 3 (remoteClass (.piece []) (bulkRun (cc s)) false) w (healOver (fun _ => hereLocs w) s)

/-- The write of xseq, on another device one of its own kind (R372). -/
def xSend (i : Issued) (act : XAct) (w : List VAcc) (s : State) : State :=
  match act, w with
  | .rel v, [a] => if isVol a.loc then sendX s a (.seqw v) else xStore i w s
  | _, _ => xStore i w s

/-- Perform a piece of plain accesses: every read, then every write. Writes on another device are awaited. -/
def plainTurn (s : State) (i : Issued) (p : XPlan) (us : List XUnit) : State :=
  let c := (cc s).cpy
  if c.begun then
    if volPending s 3 then s
    else
      match xFarFlt s (farWrites (us.flatMap fun u => (locUnit s u).accs)) with
      | some f => xFault s i p f
      | none => finishPiece (if p.kind == .seq then bumpRelease s s.cur else s) i p c.len c.bytes
  else
    match xRead p c.next (us.flatMap (·.accs)) s with
    | .flt f => xFault s i p f
    | .far s => s
    | .done s =>
      let us := us.map (locUnit s)
      let w := us.filterMap fun u => unitWrite u (unitVals s u)
      let b := us.foldl (fun n u => n + u.bytes) 0
      let s := clearAcks (xNote (p.kind != .seq) (us.flatMap (·.accs)) s) 3
      let s := xSend i ((us.head?.map (·.act)).getD .skip) w s
      if w.any fun a => isVol a.loc then xUpd s fun c => { c with begun := true, len := us.length, bytes := b }
      else finishPiece (if p.kind == .seq then bumpRelease s s.cur else s) i p us.length b

/-! ### Code tables and chunks -/

/-- Read accesses and go on with their bytes. -/
def spanThen (s : State) (i : Issued) (p : XPlan) (l : List XAcc) (f : State → List Byte → State) : State :=
  match xRead p (cc s).cpy.next l s with
  | .flt e => xFault s i p e
  | .far s => s
  | .done s =>
    let l := xLocate s l
    let b := l.flatMap fun x => accBytes s 3 x.a
    f (clearAcks (xNote true l s) 3) b

/-- xtab's one read and its check (R359). -/
def tabTurn (s : State) (i : Issued) (p : XPlan) (t : Nat) : State :=
  spanThen s i p (spanOf .img 8 p.s.base 288) fun s b =>
    match tabOfBytes b with
    | .error o => xFault s i p { code := 0x0502, addr := p.s.base, detail := BitVec.ofNat 64 o }
    | .ok x => xUpd s fun c => { c with tab := tset c.tab t x, elem := 1 }

/-- The header of an object: its two parts (R362 steps 3 and 4). -/
def headSpan (p : XPlan) : List XAcc := spanOf .rd 4 p.s.base 8
def offsSpan (p : XPlan) (c0 nc : Nat) : List XAcc := spanOf .rd 4 (p.s.base + BitVec.ofNat 64 (8 + 4 * c0)) (4 * (nc + 1))

/-- The `j`-th 32-bit number of a list of bytes. -/
def word32 (b : List Byte) (j : Nat) : Nat := leNat ((b.drop (4 * j)).take 4)

/-- Where reading the header stands. -/
inductive HeadStep where
  | done (s : State) (head : List Nat)
  | far (s : State)
  | flt (f : Flt)

/-- Read the header and check it. -/
def readHead (s : State) (p : XPlan) (c0 nc : Nat) : HeadStep :=
  let bad (o : Nat) : HeadStep := .flt { code := 0x0505, addr := p.s.base, detail := BitVec.ofNat 64 o }
  match xRead p 0 (headSpan p) s with
  | .flt f => .flt f
  | .far s => .far s
  | .done s =>
    let l := xLocate s (headSpan p)
    let b := l.flatMap fun x => accBytes s 3 x.a
    let n := word32 b 0
    let total := word32 b 1
    match headBad c0 nc n total with
    | some o => bad o
    | none =>
      match xRead p 0 (offsSpan p c0 nc) s with
      | .flt f => .flt f
      | .far s => .far s
      | .done s =>
        let m := xLocate s (offsSpan p c0 nc)
        let d := m.flatMap fun x => accBytes s 3 x.a
        let offs := (List.range (nc + 1)).map (word32 d)
        match offsBad c0 n offs with
        | some o => bad o
        | none =>
          if strmElems p.d ≠ chunksLen n total c0 nc then bad 0xFFFFFFFF
          else .done (xNote true (l ++ m) s) (n :: total :: offs)

/-- The counted add of a word (R77, R370). -/
def xAdd (s : State) (p : XPlan) (n : Int) : Except W64 State :=
  match p.cnt with
  | none => .ok s
  | some (lvl, sl) => slotAdd s s.cur lvl sl n

/-- Decode chunk `j` of the word. -/
def chunkTurn (s : State) (i : Issued) (p : XPlan) (t c0 j : Nat) : State :=
  let c := (cc s).cpy
  let n := c.head.getD 0 0
  let total := c.head.getD 1 0
  let lo := c.head.getD (2 + j) 0
  let hi := c.head.getD (3 + j) 0
  let va := p.s.base + BitVec.ofNat 64 lo
  spanThen s i p (spanOf .rd 1 va (hi - lo)) fun s b =>
    match decodeChunk (tget {} (cc s).cpy.tab t) b (chunkLen n total (c0 + j)) with
    | .error pos => xFault s i p { code := 0x0504, addr := va, detail := BitVec.ofNat 64 ((c0 + j) % 2 ^ 20 + pos * 2 ^ 32) }
    | .ok l => xUpd s fun c => { c with chunk := some (j, l) }

/-- The chunk of element `e`, where it still has to be decoded. -/
def wantChunk (c : Cpy) (e : Nat) : Option Nat :=
  match c.chunk with
  | none => some (e / 4096)
  | some (j, _) => if j = e / 4096 then none else some (e / 4096)

/-! ### Atomics (R363, R364) -/

/-- to_anchor with the clamp of R115. -/
def anchored (v : FVal) (a : Int) : W64 :=
  if v.isNan then 0
  else if v.isInf then if v.neg then BitVec.ofInt 64 (-(2 ^ 63)) else BitVec.ofInt 64 (2 ^ 63 - 1)
  else BitVec.ofInt 64 (clampInt (-(2 ^ 63)) (2 ^ 63 - 1) (toAnchor v.dy a))

/-- Read the operands of a piece whose operations are performed one by one. Its results are written, and sampled, later. -/
def beginTurn (s : State) (i : Issued) (p : XPlan) (us : List XUnit) : State :=
  match xRead p (cc s).cpy.next (us.flatMap (·.accs)) s with
  | .flt f => xFault s i p f
  | .far s => s
  | .done s =>
    let us := us.map (locUnit s)
    let v := us.map (unitVals s)
    let s := clearAcks (if (cc s).cpy.part = 0 then xNote false (us.flatMap (·.accs)) s else s) 3
    xUpd s fun c => { c with begun := true, vals := v, len := us.length }

/-- An element whose operation is about to be sent, located now: its mapping may have gone since its piece began (R400). -/
def reUnit (s : State) (u : XUnit) : Except Flt XUnit :=
  match xStages (xReach u.accs s).2 with
  | some f => .error f
  | none => .ok (locUnit s u)

/-- The operation that an element's atomic sends to a port. -/
def unitAmo (u : XUnit) (v : List Nat) : Option RemoteOp :=
  match u.act with
  | .amo op z q _ =>
    let x : W64 := match q with
      | some a => anchored (dec32 (v.getD 1 0)) a.toInt
      | none => BitVec.ofNat 64 (v.getD 1 0)
    some (.amo op z x)
  | .cas z => some (.cas z (BitVec.ofNat 64 (v.getD 3 0)) (BitVec.ofNat 64 (v.getD 1 0)))
  | _ => none

/-- Perform an atomic at a port of this device. -/
def atomicHere (s : State) (w : Who) (l : Loc) (op : RemoteOp) : State × Nat :=
  match op with
  | .amo op z v => amoAt s w l op z v.toNat false
  | .cas z c n => casAt s w l z c.toNat n.toNat false
  | _ => (s, 0)

/-- Where an element's result goes, and its width. -/
def resultAcc (u : XUnit) : Option VAcc :=
  match u.act with
  | .amo _ _ _ true | .cas _ => some (accAt u 2)
  | .take => some (accAt u 1)
  | _ => none

/-- The answer of another device to an access that is awaited: not there, an error, or the value. -/
def awaited (s : State) (a : VAcc) : Option (Except Flt W64) :=
  match acksOf (cc s) 3 with
  | [] => none
  | e :: _ =>
    if volPending s 3 then none
    else
      match (xFarFlt s [a]).orElse fun _ => accErr (cc s) 3 0 3 a with
      | some f => some (.error (if f.code = 0x0020 then { f with detail := BitVec.ofNat 64 (cc s).cpy.next } else f))
      | none => some (.ok e.2.2)

/-- One operation of the piece is over: `b` bytes leave the slot; the last of `n` operations ends the piece, of `m`
elements. -/
def opDone (s : State) (i : Issued) (p : XPlan) (b n m : Nat) : State :=
  let s := clearAcks (xUpd s fun c => { c with part := c.part + 1, got := none, sent := none }) 3
  if n ≤ (cc s).cpy.part then finishPiece s i p m b else xSub s i p b

/-- The result of an operation is written, a plain write sampled as it is (R96): at once here, by a request and its answer
elsewhere. -/
def resultTurn (s : State) (i : Issued) (p : XPlan) (u : XUnit) (old : W64) (b n m : Nat) : State :=
  match resultAcc u with
  | none => opDone s i p b n m
  | some a =>
    let a := { a with data := leBytes a.len old.toNat }
    if !isVol a.loc then opDone (xStore i [a] (sampleAll s.cur true [a] s)) i p b n m
    else
      match (cc s).cpy.sent with
      | none => xUpd (xStore i [a] (clearAcks s 3)) fun c => { c with sent := some .way }
      | some _ =>
        match awaited s a with
        | none => s
        | some (.error f) => xFault s i p f
        | some (.ok _) => opDone s i p b n m

/-- An atomic has been performed at its port: its target's bytes leave the slot (R370), then its result is written. -/
def atomicDone (s : State) (i : Issued) (p : XPlan) (u : XUnit) (old : W64) (m : Nat) : State :=
  let s := xSub (xUpd (bumpRelease s s.cur) fun c => { c with got := some old, sent := none }) i p (accAt u 0).len
  if (cc s).cpy.run.all (·.faulted) then s else resultTurn s i p u old ((u.bytes) - (accAt u 0).len) m m

/-- The next atomic of the piece in progress. -/
def atomicTurn (s : State) (i : Issued) (p : XPlan) (us : List XUnit) : State :=
  let c := (cc s).cpy
  match us[c.part]? with
  | none => finishPiece s i p us.length 0
  | some u =>
    match (if c.sent.isSome then .ok (locUnit s u) else reUnit s u : Except Flt XUnit) with
    | .error f => xFault s i p f
    | .ok u =>
      match c.got, unitAmo u (c.vals.getD c.part []) with
      | some old, _ => resultTurn s i p u old (u.bytes - (accAt u 0).len) us.length us.length
      | none, none => s
      | none, some op =>
        let a := accAt u 0
        if isVol a.loc then
          match c.sent with
          | none => xUpd (sendX (clearAcks s 3) a op) fun c => { c with sent := some .way }
          | some _ =>
            match awaited s a with
            | none => s
            | some (.error f) => xFault s i p f
            | some (.ok v) => atomicDone (clearAcks s 3) i p u v us.length
        else
          let (s, old) := atomicHere s (whoWord s.cur 3 i.w a.va) a.loc op
          atomicDone s i p u (BitVec.ofNat 64 old) us.length

/-! ### Tagged operations one by one (R366, R369, R372) -/

def xTagOf (x : XAcc) : Option TagKind := match x.role with | .tag k => some k | _ => none

/-- The tagged operations of a piece, in order: the element's place, its access, the kind. -/
def tagOps (us : List XUnit) : List (Nat × XUnit × XAcc × TagKind) :=
  us.zipIdx.flatMap fun (u, j) => u.accs.filterMap fun x => (xTagOf x).map fun k => (j, u, x, k)

/-- The value that an element's tagged operation writes. -/
def tagValue (u : XUnit) (v : List Nat) : W64 :=
  match u.act with
  | .sig x => x
  | _ => BitVec.ofNat 64 (v.getD 1 0)

/-- Bytes that leave the slot with one tagged operation. -/
def tagBytes (u : XUnit) : Nat := match u.act with | .clear => 0 | _ => 8

/-- Send a tagged operation to another core of this device, or to another device (R366). -/
def sendTag (s : State) (a : VAcc) (k : TagKind) (v : W64) : State :=
  let s := if isVol a.loc then sendX (clearAcks s 3) a (.tag k v) else s
  xUpd s fun c => { c with sent := some .way, to_ := some a.loc, ent := entOf s s.cur a.va }

/-- The next tagged operation of the piece in progress is sent; an answer ends it. -/
def tagTurn (s : State) (i : Issued) (p : XPlan) (us : List XUnit) : State :=
  let c := (cc s).cpy
  let ops := tagOps us
  match ops[c.part]? with
  | none => finishPiece s i p us.length 0
  | some (j, u, x, k) =>
    match (if c.sent.isSome then .ok (locUnit s u) else reUnit s u : Except Flt XUnit) with
    | .error f => xFault s i p f
    | .ok u =>
      let a := ((xLocate s [x]).map (·.a)).headD x.a
      let v := tagValue u (c.vals.getD j [])
      match c.got, c.sent with
      | some old, _ => resultTurn s i p u old (tagBytes u) ops.length us.length
      | none, some (.refused _) => s
      | none, some _ =>
        if isVol a.loc then
          match awaited s a with
          | none => s
          | some (.error f) => xFault s i p f
          | some (.ok v) =>
            xUpd (if tagWrites k then bumpRelease (clearAcks s 3) s.cur else clearAcks s 3) fun c => { c with got := some v, sent := none }
        else s
      | none, none =>
        match a.loc with
        | .scr d o =>
          if d ≠ s.cur then sendTag s a k v
          else if tagCond k (tagFull s d (o / 8)) then
            let (s, old) := tagPerform s (whoWord s.cur 3 i.w a.va) d (o / 8) k v false
            xUpd s fun c => { c with got := some old }
          else s
        | .named _ => if isVol a.loc then sendTag s a k v else s

/-! ### Tagged words of the own scratchpad, in one step (R366) -/

/-- The elements of a word from element `e` on. -/
def unitsFrom (s : State) (p : XPlan) (e : Nat) : List XUnit := (List.range (xCount p - e)).map fun i => xUnit s p (e + i)

/-- The kind of a tagged word. -/
def xTagKind (p : XPlan) : Option TagKind :=
  match p.kind with
  | .put k | .take k => some k
  | .tclr => some .clear
  | _ => none

def tagAccs (us : List XUnit) : List XAcc := us.flatMap fun u => u.accs.filter fun x => (xTagOf x).isSome

/-- The conditions of every tagged element hold at their turns. -/
def ownReady (s : State) (p : XPlan) (us : List XUnit) : Option VAcc :=
  match xTagKind p with
  | some k => tagFail k (cc s).full ((xLocate s (tagAccs us)).map (·.a))
  | none => none

/-- One element: its tagged operations, what they wrote, and what it stores. -/
def ownUnit (i : Issued) (k : TagKind) (s : State) (u : XUnit) (v : List Nat) : State × List Wrote × List VAcc :=
  let (s, old, l) := u.accs.foldl (fun (s, old, l) x =>
    match xTagOf x, x.a.loc with
    | some _, .scr d o =>
      let (s, old) := tagQuiet s (whoWord s.cur 3 i.w x.a.va) d (o / 8) k (tagValue u v)
      (s, old, if tagWrites k then l ++ [(x.a.loc, 8, x.a.va)] else l)
    | _, _ => (s, old, l)) (s, (0 : W64), ([] : List Wrote))
  (s, l, (resultAcc u).toList.map fun a => { a with data := leBytes a.len old.toNat })

/-- One piece: its elements in order, as one write (R502); what it stores elsewhere goes as one request (R352). -/
def ownPiece (i : Issued) (k : TagKind) (us : List XUnit) (s : State) : State :=
  let v := us.map (unitVals s)
  let s := xNote false (us.flatMap (·.accs)) s
  let (s, l, w) := (us.zip v).foldl (fun (s, l, w) (u, v) =>
    let (s, l', w') := ownUnit i k s u v
    (s, l ++ l', w ++ w')) (s, ([] : List Wrote), ([] : List VAcc))
  let s := healOver (fun _ => l.map fun a => (a.1, a.2.1)) (portMatches s (whoCopy s i) l false)
  xStore i w (sampleAll s.cur true w s)

/-- The pieces of a word, one after another, up to one that fails. Bytes stored elsewhere leave the slot when they are
acknowledged (R370). -/
def ownPieces (i : Issued) (p : XPlan) (k : TagKind) : Nat → State → State × Option Flt
  | 0, s => (s, none)
  | n + 1, s =>
    let c := (cc s).cpy
    if xCount p ≤ c.elem ∨ (c.run.map (·.faulted)).getD true then (s, none)
    else
      let us := pieceAt s p c.elem
      match xChecks p (us.flatMap (·.accs)) s with
      | .error f => (s, some f)
      | .ok s =>
        let us := us.map (locUnit s)
        let l := us.flatMap (·.accs)
        match (xFarFlt s (l.map (·.a))).orElse fun _ => xLastFlt s c.next l with
        | some f => (s, some f)
        | none =>
          let s := ownPiece i k us s
          let b := us.foldl (fun n u => n + u.bytes) 0
          let s := xUpd s fun c => { c with next := c.next + 1, elem := c.elem + us.length }
          ownPieces i p k n (if (farWrites l).isEmpty then xSub s i p b else s)

/-- The acknowledgements that the word's stores have had: their bytes leave the slot (R370). -/
def ownAcks (s : State) (i : Issued) (p : XPlan) : State :=
  let l := acksOf (cc s) 3
  let s := if volPending s 3 then s else xUpd s fun c => { c with begun := false }
  match l.find? fun e => e.2.1 != 0 with
  | some e => xFault s i p (ackFault e.2.1 (BitVec.ofNat 64 (keyVa e.1)) e.2.2 (BitVec.ofNat 64 (cc s).cpy.next))
  | none => xSub (clearAcks s 3) i p (l.foldl (fun n e => n + keyLen e.1) 0)

/-- Perform a tagged word of the own scratchpad as one step, then the held operations it lets through. What its pieces need of
other devices is asked for first; a piece that fails is reported once the stores before it are acknowledged. -/
def ownTurn (s : State) (i : Issued) (p : XPlan) : State :=
  match xTagKind p with
  | none => s
  | some k =>
    let us := unitsFrom s p (cc s).cpy.elem
    if (ownReady s p us).isSome then s
    else
      let l := xLocate s (us.flatMap (·.accs))
      match (match walksAsked s 3 (l.map (·.a)) with | some s => .far s | none => xFetch (farReads l) (farWrites l) s : XRead) with
      | .flt f => xFault s i p f
      | .far s => s
      | .done s =>
        let words := (xLocate s (tagAccs us)).map fun x => accWord x.a
        let (s', f) := ownPieces i p k us.length s
        let s' := words.foldl (fun s w => heldRun s.cur w (cc s).held.length s) s'
        if volPending s' 3 then xUpd (clearAcks s' 3) fun c => { c with begun := true }
        else match f with
        | some f => xFault s' i p f
        | none => clearAcks s' 3

end Sys2Proof.Machine
end

