-- ==== Sys2Proof/Machine/Copy.lean ====
section
/-! DEFINITION. The words of queue X and their events: the copy engine (R344 to R378). -/

namespace Sys2Proof.Machine

/-! ### Issue (R375, checks 1 to 6) -/

/-- Check 4: fadd in a deterministic node. -/
def xDet (s : State) (p : XPlan) : Option Flt :=
  match p.kind with
  | .amo .fadd _ _ _ _ => if (curTask s).det then some { code := 0x0070 } else none
  | _ => none

/-- The access lies in the own scratchpad. -/
def isOwn (s : State) (a : VAcc) : Bool := match a.loc with | .scr c _ => decide (c = s.cur) | .named _ => false

/-- Check 5 of a tagged word: the state with TLBs filled, and whether its elements lie in the own scratchpad. -/
def tagPlace (s : State) (p : XPlan) : Except Flt (State × Bool) :=
  let (s', r) := xReach (tagAccs (unitsFrom s p 0)) s
  match xStages r with
  | some f => .error f
  | none =>
    let l := (xLocated r).map (·.a)
    match l.find? (fun a => !isOwn s a), l.any (isOwn s) with
    | some a, true => .error { code := 0x0507, addr := a.va, detail := BitVec.ofNat 64 a.el }
    | o, _ => .ok (s', o.isNone)

/-- The word takes its place as the one in progress; one that lies in the own scratchpad is performed. -/
def startRun (own : Bool) (head : List Nat) (p : XPlan) (s : State) (i : Issued) : State :=
  let s := xUpd (clearAcks s 3) fun c => {
    tab := c.tab, run := some i, own := own, seqAt := (getEng (cc s) 3).cseq, slot := p.cnt, left := xTotal p, head := head }
  if own then ownTurn s i p else s

/-- Check 6, then the issue. -/
def addThen (s : State) (p : XPlan) (n : Int) (f : State → Issued → State) : Act :=
  match xAdd s p n with
  | .error v => .flt { code := 0x0051, detail := v }
  | .ok s => .go s f

/-- The checks of a copy word after check 3, and its issue. -/
def copyAct (p : XPlan) (s : State) : Act :=
  match xDet s p with
  | some f => .flt f
  | none =>
    if xEmpty p then addThen s p 0 fun s i => completeWord s 3 i
    else match p.kind with
    | .bar => addThen s p p.s.base.toInt fun s i => completeWord s 3 i
    | .dec t c0 nc =>
      if p.s.base.toNat % 4 ≠ 0 then .flt { code := 0x0501, addr := p.s.base, detail := 4 }
      else if !(tget {} (cc s).cpy.tab t).valid then .flt { code := 0x0503, detail := BitVec.ofNat 64 t }
      else match readHead s p c0 nc with
      | .flt f => .flt f
      | .far s' => if (cc s).timed then .wait [.open_] else .ask s'
      | .done s h => addThen s p (xTotal p) (startRun false h p)
    | .put _ | .take _ | .tclr =>
      orAsk s 3 ((tagAccs (unitsFrom s p 0)).map (·.a)) <|
      match tagPlace s p with
      | .error f => .flt f
      | .ok (s', own) =>
        match (if own then ownReady s' p (unitsFrom s' p 0) else none) with
        | some a => .wait [.flag 1 a.va]
        | none => addThen s' p (xTotal p) (startRun own [] p)
    | _ => addThen s p (xTotal p) (startRun false [] p)

/-- The record of a copy word that faulted at its issue, with the number of its pieces (R347). -/
def issueProg (s : State) : State :=
  let k := cc s
  setCC s { k with pendRecs := k.pendRecs.map fun r =>
    if r.trap.engine = 3 ∧ r.trap.level = 2 ∧ !r.issued ∧ r.prog = 0 then
      match (wordsOf (getEng k 3).q).head?.bind xPlanOf with
      | some p => { r with prog := if xGood p then xProgAt s p 0 0 else 0 }
      | none => r
    else r }

/-- In a timed section the header of an object on another device, which xdec reads at issue (R362), is asked for while the word
stands at the head of its queue before its cycle; at its cycle a header that has not come is an open condition (R528; DEDUCED,
log entry 49). -/
def headAhead (k : XKind) (w : XC) (s : State) : State :=
  let e := getEng (cc s) 3
  match k, (wordsOf e.q).head? with
  | .dec t c0 nc, some qw =>
    let p := xPlan k w qw
    if (cc s).timed && (cc s).cpy.run.isNone && !e.stop && !inHold (cc s) (curCyc s) && xGood p && !xEmpty p
        && decide ((curCyc s : Int) < wordDue (cc s) e w.h.idle.toNat) && decide (p.s.base.toNat % 4 = 0)
        && (tget {} (cc s).cpy.tab t).valid then
      match readHead s p c0 nc with
      | .far s => s
      | .done _ _ | .flt _ => s
    else s
  | _, _ => s

/-- A copy word. -/
def copyWord (k : XKind) (w : XC) (s : State) : Host.Outcome State Fault Refusal :=
  let s := issueState 3 w.h (fun qw => !xGood (xPlan k w qw)) (fun _ _ => []) (fun s qw => copyAct (xPlan k w qw) s) (headAhead k w s)
  .next (if (getEng (cc s) 3).stop then issueProg (if (cc s).cpy.run.isNone then clearAcks s 3 else s) else s)

def execXcpy (w : XC) (s : State) : Host.Outcome State Fault Refusal := copyWord .cpy w s
def execXcpyc (w : XC) (s : State) : Host.Outcome State Fault Refusal := copyWord (.conv (xRm w)) w s
def execXfill (w : XC) (s : State) : Host.Outcome State Fault Refusal := copyWord .fill w s
def execXgath (w : XC) (s : State) : Host.Outcome State Fault Refusal := copyWord .gath w s
def execXscat (w : XC) (s : State) : Host.Outcome State Fault Refusal := copyWord .scat w s
def execXtab (w : XC) (s : State) : Host.Outcome State Fault Refusal := copyWord (.tab (xTab w).toNat) w s
def execXdec (w : XC) (s : State) : Host.Outcome State Fault Refusal := copyWord (.dec (xTab w).toNat (xC0 w) (xNc w)) w s
def execXamo (w : XC) (s : State) : Host.Outcome State Fault Refusal :=
  copyWord (.amo ((xOp w).getD .add) (xSize w) (xAnchor w) (xRet w) (orderRel (xOrder w))) w s
def execXcas (w : XC) (s : State) : Host.Outcome State Fault Refusal := copyWord (.cas (xSize w) (orderRel (xOrder w))) w s
def execXste (w : XC) (s : State) : Host.Outcome State Fault Refusal := copyWord (.put .put) w s
def execXstf (w : XC) (s : State) : Host.Outcome State Fault Refusal := copyWord (.put .setFull) w s
def execXldf (w : XC) (s : State) : Host.Outcome State Fault Refusal := copyWord (.take (if xTk w then .take else .readFull)) w s
def execXtclr (w : XC) (s : State) : Host.Outcome State Fault Refusal := copyWord .tclr w s
def execXget (w : XC) (s : State) : Host.Outcome State Fault Refusal := copyWord (.get false) w s
def execXput (w : XC) (s : State) : Host.Outcome State Fault Refusal := copyWord (.putv false) w s
def execXgetc (w : XC) (s : State) : Host.Outcome State Fault Refusal := copyWord (.get true) w s
def execXputc (w : XC) (s : State) : Host.Outcome State Fault Refusal := copyWord (.putv true) w s
def execXbar (w : XC) (s : State) : Host.Outcome State Fault Refusal := copyWord .bar w s
def execXseq (w : XC) (s : State) : Host.Outcome State Fault Refusal := copyWord .seq w s

/-! ### Events -/

/-- The word in progress, where it has not stopped on a fault, and its plan. -/
def copyRun (k : Core) : Option (Issued × XPlan) :=
  match k.cpy.run with
  | some i => if i.faulted then none else (xPlanOf i.w).map fun p => (i, p)
  | none => none

/-- How the elements of a piece are performed. -/
inductive XMode where
  | plain | atomic | tagged
  deriving DecidableEq, Repr

def xMode (us : List XUnit) : XMode :=
  match us.head? with
  | none => .plain
  | some u =>
    match u.act with
    | .amo _ _ _ _ | .cas _ => .atomic
    | .put | .take | .clear | .sig _ => .tagged
    | _ => .plain

/-- The chunk still to be decoded for a piece. -/
def needChunk (c : Cpy) (p : XPlan) : Option (Nat × Nat × Nat) :=
  match p.kind with
  | .dec t c0 _ => (wantChunk c c.elem).map fun j => (t, c0, j)
  | _ => none

/-- A plain piece with an index still to be asked of another device: the elements before it, where the index fails its
checks, else the index alone. -/
def askTurn (s : State) (i : Issued) (p : XPlan) (us : List XUnit) (j : Nat) : State :=
  match xRead p (cc s).cpy.next ((us[j]?.map (·.accs)).getD []) s with
  | .flt f => if j = 0 then xFault s i p f else plainTurn s i p (us.take j)
  | .far s | .done s => s

/-- The piece at which the word stands: it is performed, or its operations begin, or what it needs is fetched. -/
def pieceTurn (s : State) (i : Issued) (p : XPlan) : State :=
  let c := (cc s).cpy
  if c.own && c.begun then ownAcks s i p
  else if xCount p ≤ c.elem then s
  else match p.kind with
  | .tab t => tabTurn s i p t
  | _ =>
    if c.own then ownTurn s i p
    else
      let us := pieceAt s p c.elem
      match needChunk c p with
      | some (t, c0, j) => chunkTurn s i p t c0 j
      | none =>
        match xMode us with
        | .plain =>
          match us.findIdx? fun u => u.act == .ask with
          | some j => askTurn s i p us j
          | none => plainTurn s i p us
        | .atomic => if c.begun then s else beginTurn s i p us
        | .tagged => if c.begun then tagTurn s i p us else beginTurn s i p us

/-- COPY_PIECE_PERFORMED: the next piece of the copy word in progress. -/
def execCopyPiecePerformed (s : State) : Host.Outcome State Fault Refusal :=
  match copyRun (cc s) with
  | some (i, p) => .next (pieceTurn s i p)
  | none => .next s

/-- ATOMIC_AT_PORT: the next atomic of the copy word's piece reaches its port, in the order of its elements (R72). -/
def execAtomicAtPort (s : State) : Host.Outcome State Fault Refusal :=
  match copyRun (cc s) with
  | some (i, p) =>
    let c := (cc s).cpy
    let us := pieceAt s p c.elem
    if c.begun && xMode us == .atomic && decide (c.elem < xCount p) then .next (atomicTurn s i p us) else .next s
  | none => .next s

/-- The tagged operation that the word in progress has sent, and that has returned nothing yet: its access, located, its kind,
its value. -/
def sentOp (s : State) (p : XPlan) : Option (VAcc × TagKind × W64) :=
  let c := (cc s).cpy
  let us := pieceAt s p c.elem
  if xCount p ≤ c.elem || !c.begun || c.got.isSome then none
  else ((tagOps us)[c.part]?).map fun (j, u, x, k) =>
    let a := ((xLocate s [x]).map (·.a)).headD x.a
    ({ a with loc := c.to_.getD a.loc }, k, tagValue (locUnit s u) (c.vals.getD j []))

/-- The operation of this core has arrived: none waits for it any longer (R346). -/
def noneBehind (s : State) : State :=
  let me := cc s
  { s with
    cores := s.cores.map fun (c, k) =>
      (c, if k.task = me.task ∧ k.cpy.behind.contains me.lid then { k with cpy := { k.cpy with behind := k.cpy.behind.filter (· ≠ me.lid) } } else k)
    vol := { s.vol with parkedReqs := s.vol.parkedReqs.map fun (t, l, r, b) => (t, l, r, if t = me.task then b.filter (· ≠ me.lid) else b) } }

/-- The mark of a request of another device among those that wait before an operation; lids are below 65,536. -/
def farMark (src seq : Nat) : Nat := 65536 + src + 16384 * seq

/-- An operation that a freezing port refused keeps its place on its way again: of the senders that `before` marks, a core still
has its own of that word to send, or the hub still holds that of another device (R346). -/
def stillBehind (s : State) (task : Nat) (before : List Nat) : Bool :=
  before.any fun l =>
    if 65536 ≤ l then s.vol.parkedReqs.any fun e => farMark e.2.2.1.src e.2.2.1.seq == l
    else match coreOfLid (getTask s task) l with
    | some c => match (getCore s c).cpy.sent with
      | some .way | some (.refused _) => true
      | some .held | none => false
    | none => false

/-- The operation reaches the bank port of core `d`: performed, held, or refused (R67, R366). -/
def tagArrive (s : State) (i : Issued) (p : XPlan) (a : VAcc) (d : Nat) (k : TagKind) (v : W64) : State :=
  let word := locOff a.loc / 8
  let h : Held := { sender := .copy s.cur a.va, word := word, kind := k, val := v }
  if tagCond k (tagFull s d word) then
    if tagReads k && (uncorrectable s a.loc 8).isSome then
      noneBehind (xFault s i p { code := 0x0020, addr := a.va, detail := BitVec.ofNat 64 (cc s).cpy.next })
    else
      let by_ := tagSetter s d word
      let (s, old) := tagPerform s (heldWho s h) d word k v false
      noneBehind (heldDone s h old by_)
  else
    let t := getCore s d
    if t.held.length < 32 then
      let s := if (cc s).cpy.since.isSome then s else setCC s (unopen (cc s) 8)
      let s := setCore s d { getCore s d with held := t.held ++ [h] }
      noneBehind (xUpd s fun c => { c with sent := some .held, since := some (c.since.getD (curCyc s)) })
    else xUpd s fun c => { c with sent := some (.refused (curCyc s + 64)) }

/-- TAGGED_OP_ARRIVAL: the operation in progress reaches another core's bank port. Operations held for one word before a park
arrive in their old order (R346). -/
def execTaggedOpArrival (s : State) : Host.Outcome State Fault Refusal :=
  match (if stillBehind s (cc s).task (cc s).cpy.behind then none else copyRun (cc s)) with
  | none => .next s
  | some (i, p) =>
    match (cc s).cpy.sent, sentOp s p with
    | some .way, some (a, k, v) =>
      match a.loc with
      | .named _ => .next s
      | .scr d _ => .next (tagArrive s i p a d k v)
    | _, _ => .next s

/-- The operation in progress is sent again: to another device as a new request. -/
def sendAgain (s : State) : State :=
  match (copyRun (cc s)).bind fun (_, p) => sentOp s p with
  | some (a, k, v) => sendTag s a k v
  | none => xUpd s fun c => { c with sent := none }

/-- TAGGED_RESEND: 64 cycles after a refusal the operation leaves again. -/
def execTaggedResend (s : State) : Host.Outcome State Fault Refusal :=
  match (cc s).cpy.sent with
  | some (.refused t) => if t ≤ curCyc s then .next (sendAgain s) else .next s
  | _ => .next s

/-- COPY_WORD_COMPLETE: every piece is performed and every request answered; the word leaves (R354). -/
def execCopyWordComplete (s : State) : Host.Outcome State Fault Refusal :=
  match copyRun (cc s) with
  | none => .next s
  | some (i, p) =>
    let c := (cc s).cpy
    if c.elem < xCount p || (c.own && c.begun) || volPending s 3 then .next s
    else
      let s := xSub s i p c.left
      if (copyRun (cc s)).isNone then .next s
      else .next (completeWord (xUpd (clearAcks s 3) fun c => { tab := c.tab }) 3 i)

end Sys2Proof.Machine
end

