-- ==== Sys2Proof/Machine/MemMan.lean ====
section
/-! DEFINITION. The memory manager's events: walks (R383, R386), folds (R392), the region table and partitions (R393 to
R398), shootdown (R388, R389), pseudo-channels and self-refresh (R400, R401). -/

namespace Sys2Proof.Machine

def setMm (s : State) (m : Mm) : State := { s with mm := m }

/-! ### Walks (R383, R386) -/

/-- Act in the context of a core. -/
def atCore (s : State) (c : Nat) (f : State → State) : State := { f { s with cur := c } with cur := s.cur }

/-- The walk that a strand waits for is over: its access in flight goes on from the translation, a fetch tries again. A word at
the head of its queue tries at each of its turns. -/
def wakeWalk (s : State) (e : Nat × Nat) : State :=
  let t := getStrand (getCore s e.1) e.2
  match t.flight, t.run, t.wait with
  | some fl, _, _ =>
    match fl.walk with
    | some r => atCore s e.1 fun s => walkedFlight s e.2 fl r
    | none => s
  | none, .waiting, some .walk => setCore s e.1 (setStrand (getCore s e.1) e.2 { t with run := .ready })
  | _, _, _ => s

/-- A miss that found no room among its cluster's requests asks again (R386). -/
def askAgain (s : State) (e : Nat × Nat) : State :=
  match (getStrand (getCore s e.1) e.2).flight.bind fun fl => fl.walk with
  | some r => atCore s e.1 fun s => requestWalk s e.2 r.va
  | none => wakeWalk s e

/-- The clusters of waiters, each once. -/
def walkClusters (l : List (Nat × Nat)) : List Nat := (l.map fun e => clusterOf e.1).eraseDups

/-- The leaf that a walk finds fills the cluster TLBs of those that wait for it; a fault fills none (R384). -/
def fillWalk (s : State) (w : WalkReq) : State :=
  match hubWalk s w.asn w.root w.va with
  | (s, .ok (leaf, lvl)) => (walkClusters w.waiters).foldl (fun s c => ctlbFill s c (mkTlbE w.asn w.va leaf lvl)) s
  | (s, .error _) => s

/-- A walk ends: each access that needed it goes on, or faults on its own (R384). Its clusters then have room for a request. -/
def walkOver (s : State) (w : WalkReq) : State :=
  let cl := walkClusters w.waiters
  let (late, rest) := s.mm.late.partition fun e => cl.contains (clusterOf e.1)
  let s := setMm s { s.mm with walking := s.mm.walking.erase w, late := rest }
  late.foldl askAgain (w.waiters.foldl wakeWalk (fillWalk s w))

/-- Of the walks in progress of a pool, the one that returns next: its walkers end in no stated order (R386; log entry 44). -/
def poolOver (s : State) (p : Nat) : State :=
  let l := s.mm.walking.filter fun w => decide (poolOf s w.cluster = p)
  let (n, s) := takeFresh s
  match l[Config.freeWalk n % l.length]? with
  | some w => walkOver s w
  | none => s

/-- WALK_COMPLETE: in each pool a walk returns, and its walkers take what waits (R386, R397). -/
def execWalkComplete (s : State) : Host.Outcome State Fault Refusal :=
  if s.mm.walking.isEmpty then .next s else .next (startWalks ((List.range s.mm.mode).foldl poolOver s))

/-! ### Folds that waited (R392) -/

/-- The first core with a saturated entry, and the entry. -/
def saturated (s : State) : Option (Nat × TlbE) :=
  s.cores.findSome? fun (c, k) => (k.utlb.find? fun e => e.lost && decide (e.rd = 65535 ∨ e.wr = 65535 ∨ e.rem = 65535)).map fun e => (c, e)

/-- Send the fold of a saturated entry, now that the hub accepts it. -/
def sendSaturated (s : State) : State :=
  match saturated s with
  | some (c, e) =>
    if foldRoom s then
      let k := getCore s c
      foldSend (setCore s c { k with utlb := k.utlb.map fun x => if x = e then { e with rd := 0, wr := 0, rem := 0, lost := false } else x }) (tlbFold e)
    else s
  | none => s

/-- FOLD_DELIVERED: a fold held at the hub enters the table, and a saturated entry sends its own. -/
def execFoldDelivered (s : State) : Host.Outcome State Fault Refusal :=
  match s.pro.folds with
  | f :: r => if s.pro.stbusy then .next (sendSaturated s) else .next (sendSaturated (foldApply { s with pro := { s.pro with folds := r } } f))
  | [] => .next (sendSaturated s)

/-! ### The region table (R393 to R398) -/

/-- A refusal: rej, or inval, with its reason and entry. -/
def rtRefuse (s : State) (inval : Bool) (why : BitVec 4) (idx : Nat) : State :=
  setMm s { s.mm with rej := s.mm.rej || !inval, inval := s.mm.inval || inval, why := why, idx := BitVec.ofNat 6 idx }

/-- The field limits of an enabled entry (R393). -/
def rtOk (e : BitVec 256) : Bool :=
  let g := rtGran e
  let n := rtN e
  decide (rtField e 1 4 ≤ 9)
  && ((List.range 8).all fun k => if k < n then decide (rtTarget e k ≤ 12) else decide (rtTarget e k = 0))
  && decide (rtField e 48 16 = 0)
  && decide (rtBase e % 2 ^ 21 = 0) && decide (rtBase e < 2 ^ 52)
  && decide (rtSize e ≠ 0) && decide (rtSize e % 2 ^ 21 = 0) && decide (rtSize e % (g * n) = 0)
  && decide (rtBase e + rtSize e ≤ 2 ^ 52)
  && decide (rtToff e % g = 0) && decide (rtToff e < 2 ^ 47)
  && (decide (15 * 2 ^ 47 ≤ rtBase e) || decide (rtBase e + rtSize e ≤ 13 * 2 ^ 47))

def rtMeet (a b : BitVec 256) : Bool :=
  decide (rtBase a < rtBase b + rtSize b) && decide (rtBase b < rtBase a + rtSize a)

/-- The first shadow entry that breaks a rule: its index, and the code of R396. -/
def rtFault (t : Tbl (BitVec 256)) : Option (Nat × BitVec 4) :=
  let e (i : Nat) : BitVec 256 := tget 0 t i
  (List.range 64).findSome? fun i =>
    if !rtEn (e i) then none
    else if !rtOk (e i) then some (i, 4)
    else if (List.range i).any fun j => rtEn (e j) && rtMeet (e j) (e i) then some (i, 5)
    else none

/-- A launch or a prologue run is running or parked (R396); one that is Yielded is neither (R415). -/
def anyTask (s : State) : Bool := s.ref.tasks.any fun (_, t) => t.st != .ended && t.st != .yielded

/-- RT_SWITCH: `rt.ctl.sw`. -/
def execRtSwitch (s : State) : Host.Outcome State Fault Refusal :=
  let m := s.mm
  if m.busy then .next (rtRefuse s false 2 0)
  else
    match rtFault m.shd with
    | some (i, w) => .next (rtRefuse s true w i)
    | none =>
      if m.next ≠ m.mode ∧ anyTask s then .next (rtRefuse s false 6 0)
      else .next (setMm s { m with act := m.shd, gen := !m.gen, mode := m.next, busy := true, copying := false })

/-- RT_COPY: `rt.ctl.cp`. -/
def execRtCopy (s : State) : Host.Outcome State Fault Refusal :=
  if s.mm.busy then .next (rtRefuse s false 2 0)
  else .next (setMm s { s.mm with shd := s.mm.act, busy := true, copying := true })

/-- Words whose requests, mapped at their issue, are still to be performed. -/
def mappedWords (k : Core) : List Issued :=
  (k.vec.fly.filter fun x => x.acc.isSome).map (·.i) ++ (k.gen.fly.filter fun x => x.acc.isSome).map (·.i)
  ++ (k.mat.fly.filter fun x => x.locs.isSome).map (·.i)

/-- A request stamped with the old generation is in flight (R395): of a strand, of a word, or to another device. -/
def oldGen (s : State) : Bool :=
  (s.vol.fly.any fun r => r.gen != s.mm.gen) || s.cores.any fun (_, k) =>
    (k.strands.any fun (_, t) => match t.flight with | some f => f.walk.isNone && f.gen != s.mm.gen | none => false)
    || (mappedWords k).any fun i => !i.faulted && i.gen != s.mm.gen

/-- RT_SWITCH_DRAINED: no old request remains; busy clears and the shadow equals the active copy. -/
def execRtSwitchDrained (s : State) : Host.Outcome State Fault Refusal :=
  if s.mm.busy && (s.mm.copying || !oldGen s) then .next (setMm s { s.mm with busy := false, copying := false, shd := s.mm.act }) else .next s

/-- RT_ACTIVE_WRITE: always refused. -/
def execRtActiveWrite (entry _dw : Nat) (_v : W64) (s : State) : Host.Outcome State Fault Refusal := .next (rtRefuse s false 1 entry)

/-- The named bits of the four parts of a region-table entry (R393): the rest are reserved, and a write to them is ignored
(R7, R398). Bits that R393 asks to be zero within a named part are kept, and fail the check of SWITCH. -/
def rtMask (dw : Nat) : W64 := if dw = 0 then 0xFFFFFFFFFFFF else if dw = 2 then 0x1FFFFFFFFFFFFF else 0xFFFFFFFFFFFFFFFF

/-- Replace 64-bit part `dw` of an entry. -/
def putDw (e : BitVec 256) (dw : Nat) (v : W64) : BitVec 256 :=
  BitVec.ofNat 256 ((List.range 4).foldl (fun a i => a + (if i = dw then v.toNat else rtField e (64 * i) 64) * 2 ^ (64 * i)) 0)

/-- RT_SHADOW_WRITE: refused while busy. -/
def execRtShadowWrite (entry dw : Nat) (v : W64) (s : State) : Host.Outcome State Fault Refusal :=
  if 64 ≤ entry ∨ 4 ≤ dw then .next s
  else if s.mm.busy then .next (rtRefuse s false 2 entry)
  else .next (setMm s { s.mm with shd := tput 0 s.mm.shd entry (putDw (tget 0 s.mm.shd entry) dw (v &&& rtMask dw)) })

/-- PART_NEXT_WRITE: 1, 2, 4 or 8. -/
def execPartNextWrite (v : W64) (s : State) : Host.Outcome State Fault Refusal :=
  let p := (v.extractLsb' 0 4).toNat
  if [1, 2, 4, 8].contains p then .next (setMm s { s.mm with next := p }) else .next (rtRefuse s false 4 0)

/-! ### Shootdown (R388, R389) -/

/-- An entry lies under a shootdown: of every asn, of one, or of a range of 64 KiB units from a page of it. -/
def invHits (asn : Option Nat) (range : Option (Nat × Nat)) (e : TlbE) : Bool :=
  (match asn with | some a => decide (e.asn = a) | none => true)
  && (match range with
    | some (va, n) =>
      let lo := e.vpn * 2 ^ pageShift e.lvl
      decide (va < lo + 2 ^ pageShift e.lvl) && decide (lo < va + n * 65536)
    | none => true)

/-- The range of `mm.inva` and `mm.invn`. -/
def invRange (s : State) : Nat × Nat := (s.mm.inva.toNat % 2 ^ 57 / 65536 * 65536, s.mm.invn.toNat % 2 ^ 32)

/-- The entries that a shootdown of a kind removes. -/
def invKind (kind asn : Nat) (range : Nat × Nat) : TlbE → Bool :=
  invHits (if kind = 0 then none else some asn) (if kind = 2 then some range else none)

/-- A write to `mm.inv`. -/
def shootdown (s : State) (kind asn : Nat) : State :=
  let r := invRange s
  if s.mm.invBusy || decide (2 < kind) || (decide (kind = 2) && decide (r.2 = 0)) then setMm s { s.mm with invErr := true }
  else
    let s := dropTlbs s (invKind kind asn r)
    setMm s { s.mm with invBusy := true, inv := BitVec.ofNat 64 (kind + asn % 4096 * 65536), invAt := r }

def execShootdownAll (s : State) : Host.Outcome State Fault Refusal := .next (shootdown s 0 0)
def execShootdownAsn (asn : Nat) (s : State) : Host.Outcome State Fault Refusal := .next (shootdown s 1 asn)
def execShootdownRange (asn : Nat) (s : State) : Host.Outcome State Fault Refusal := .next (shootdown s 2 asn)

/-- The translations of a core's accesses that are sent and not yet performed: of its strands, its engines' words, and the
operation that its copy engine has sent. -/
def flyingEnts (k : Core) : List TlbE :=
  (k.strands.filterMap fun (_, t) => t.flight.bind (·.ent))
  ++ ((k.vec.fly.filter fun x => !x.i.faulted).flatMap fun x => (x.acc.getD []).filterMap (·.ent))
  ++ ((k.gen.fly.filter fun x => !x.i.faulted).flatMap fun x => (x.acc.getD []).filterMap (·.ent))
  ++ ((k.mat.fly.filter fun x => !x.i.faulted && x.locs.isSome).flatMap (·.ents))
  ++ (if k.cpy.sent.isSome then k.cpy.ent.toList else [])

/-- An access whose translation the shootdown in progress has removed is not yet performed (R389). -/
def invWaits (s : State) : Bool :=
  let hit := invKind (s.mm.inv.extractLsb' 0 2).toNat (s.mm.inv.extractLsb' 16 12).toNat s.mm.invAt
  (s.vol.fly.any fun r => r.ent.any hit) || s.cores.any fun (_, k) => (flyingEnts k).any hit

/-- SHOOTDOWN_COMPLETE: every access under a removed translation is performed or refused; busy clears. -/
def execShootdownComplete (s : State) : Host.Outcome State Fault Refusal :=
  if s.mm.invBusy && !invWaits s then .next (setMm s { s.mm with invBusy := false }) else .next s

/-! ### HBM (R400, R401) -/

def retireChannel (s : State) (stack channel : Nat) : State :=
  setMm s { s.mm with ret := tset s.mm.ret (512 * (stack % 8) + channel % 512) () }

/-- HBM_RETIRE: a write to `hbm.retire`. -/
def execHbmRetire (stack channel : Nat) (s : State) : Host.Outcome State Fault Refusal := .next (retireChannel s stack channel)

/-- PSEUDO_CHANNEL_FAILURE: mc2 retires the channel that mc3 reports failed. -/
def execPseudoChannelFailure (stack channel : Nat) (s : State) : Host.Outcome State Fault Refusal := .next (retireChannel s stack channel)

/-- Every compute die is gated (a failed one has no supply either). -/
def allGated (s : State) : Bool :=
  (List.range 16).all fun d => match dieState s d with
    | .gated _ | .failed => true
    | _ => false

def execSelfRefreshEnter (stack : Nat) (s : State) : Host.Outcome State Fault Refusal :=
  if allGated s ∧ stack < 8 then .next (setMm s { s.mm with sr := s.mm.sr ||| (1#8 <<< stack) }) else .next s

def execSelfRefreshExit (stack : Nat) (s : State) : Host.Outcome State Fault Refusal :=
  if stack < 8 then .next (setMm s { s.mm with sr := s.mm.sr &&& ~~~(1#8 <<< stack) }) else .next s

/-- RACE_SAMPLE_REPLACE: a sampled line leaves the sample of its target, another of the same target enters (R97). The
sample holds up to 1,024 lines; line numbers are physical. The host and the Volley window keep no sample (R96). -/
def execRaceSampleReplace (target oldLine newLine : Nat) (s : State) : Host.Outcome State Fault Refusal :=
  let own (l : Nat) : Bool := decide (paTarget (l * 64) = target) && decide (target ≤ 12)
  let t := if own oldLine then tdel s.samp oldLine else s.samp
  let n := (t.filter fun e => own e.1).length
  .next { s with samp := if own newLine && decide (n < 1024) && !t.any (fun e => e.1 = newLine) then tset t newLine none else t }

/-- VSTEP_TRANSITION_COMPLETE: the cluster's clock runs again, at its new vstep (R45). -/
def execVstepTransitionComplete (cluster : Nat) (s : State) : Host.Outcome State Fault Refusal :=
  let c := getCluster s cluster
  match c.moving with
  | some v => .next (setCluster s cluster { c with vstep := v, moving := none })
  | none => .next s

end Sys2Proof.Machine
end

