-- ==== Sys2Proof/Machine/Loader.lean ====
section
/-! DEFINITION. Generator images and the loader (R157 to R161, R407), packet records (R406, R439). -/

namespace Sys2Proof.Machine

/-! ### Packet records (R406) -/

/-- The record of a packet. -/
def packetRecord (s : State) (q : Nat) (tag : W64) (status : Nat) (detail : Option Nat) : State :=
  writeRecord s { tag := tag, kind := 3, status := status, finish := s.gtc, queue := q, detail := detail.map (BitVec.ofNat 64) }

/-! ### Reading bytes at a system physical address -/

/-- `n` bytes from a system physical address are backed, in memory of the device or the host, and readable (R12). -/
def spaReadable (s : State) (a n : Nat) : Bool :=
  (List.range ((a + n - 1) / 4096 - a / 4096 + 1)).all fun i =>
    let lo := Nat.max a ((a / 4096 + i) * 4096)
    let hi := Nat.min (a + n) ((a / 4096 + i + 1) * 4096)
    let pa := regionMap s lo
    decide (lo < 2 ^ 52) && decide (paTarget pa ≤ 13) && backed s pa && (uncorrectable s (.named pa) (hi - lo)).isNone

/-- The same bytes, granule by granule of the region table. -/
def spaBytes (s : State) : Nat → Nat → Nat → List Byte
  | 0, _, _ => []
  | fuel + 1, a, n =>
    let m := Nat.min n (4096 - a % 4096)
    if n = 0 then [] else readSpa s a m ++ spaBytes s fuel (a + m) (n - m)

def readSpaLong (s : State) (a n : Nat) : List Byte := spaBytes s (n / 4096 + 2) a n

/-! ### Fields of an image -/

def getN (b : List Byte) (off n : Nat) : Nat := leNat ((b.drop off).take n)
def zeroAt (b : List Byte) (off n : Nat) : Bool := getN b off n = 0

/-- The descriptor of kernel `i` of an image, and its tables. -/
def descOf (b : List Byte) (i : Nat) : List Byte := (b.drop (getN b 0x28 4 + 64 * i)).take 64

def rows (b : List Byte) (off size n : Nat) : List (List Byte) := (List.range n).map fun i => (b.drop (off + size * i)).take size

def opRows (b d : List Byte) : List (List Byte) := rows b (getN d 0x20 4) 16 (getN d 0x1C 1)
def discRows (b d : List Byte) : List (List Byte) := rows b (getN d 0x24 4) 8 (getN d 0x1D 1)
def footRows (b d : List Byte) : List (List Byte) := rows b (getN d 0x28 4) 16 (getN d 0x1E 1)

def opOf (r : List Byte) : OpEntry :=
  { vstep := getN r 0 1, fmt := getN r 1 1, clusters := getN r 2 1, watts := getN r 4 4, micros := getN r 8 4 }
def discOf (r : List Byte) : Nat × Nat := (getN r 0 4, getN r 4 4)
def footRowOf (r : List Byte) : FootEntry :=
  { kind := getN r 0 1, slot := getN r 1 1, size := getN r 4 4, off := (BitVec.ofNat 64 (getN r 8 8)).toInt }

def kernelOfDesc (b d : List Byte) : Kernel :=
  { entry := getN d 4 4, poolBase := getN d 8 2, poolCount := getN d 10 2
    queues := (List.range 4).map fun q => getN d (12 + q) 1
    feature := BitVec.ofNat 32 (getN d 0x10 4)
    onfault := if (getN d 0x14 4) % 2 = 1 then some (getN d 0x18 4) else none
    ops := (opRows b d).map opOf, discs := (discRows b d).map discOf, foots := (footRows b d).map footRowOf }

/-! ### The checks of R161 -/

/-- (offset, length, alignment) of every section and table. -/
def imageSpans (b : List Byte) : List (Nat × Nat × Nat) :=
  let n := getN b 6 2
  [(0, 64, 1), (getN b 0x10 4, getN b 0x14 4, 65536), (getN b 0x18 4, 8 * getN b 0x1C 4, 65536),
   (getN b 0x20 4, getN b 0x24 4, 65536), (getN b 0x28 4, 64 * n, 64), (getN b 0x2C 4, getN b 0x30 4, 1)]
  ++ (List.range n).flatMap fun i =>
    let d := descOf b i
    [(getN d 0x20 4, 16 * getN d 0x1C 1, 1), (getN d 0x24 4, 8 * getN d 0x1D 1, 1), (getN d 0x28 4, 16 * getN d 0x1E 1, 1)]

def spanMeet (x y : Nat × Nat × Nat) : Bool := decide (x.1 < y.1 + y.2.1) && decide (y.1 < x.1 + x.2.1)

/-- No two non-empty imageSpans share a byte. -/
def spansApart : List (Nat × Nat × Nat) → Bool
  | [] => true
  | x :: l => l.all (fun y => x.2.1 = 0 || y.2.1 = 0 || !spanMeet x y) && spansApart l

/-- Check 3: places, alignments and overlaps; the image itself stands at a multiple of 65,536. -/
def check3 (b : List Byte) (addr size : Nat) : Bool :=
  let n := getN b 6 2
  let l := imageSpans b
  decide (1 ≤ n ∧ n ≤ 256) && decide (addr % 65536 = 0) && decide (getN b 0x14 4 % 4 = 0)
  && l.all (fun (o, len, al) => decide (o + len ≤ size) && decide (o % al = 0)) && spansApart l

/-- Format codes of `.ops`: those of R103 but E8M0, Q64 and W128. -/
def opFmtOk (c : Nat) : Bool :=
  match fmtOf c with
  | none | some .e8m0 | some .q64 | some .w128 => false
  | some _ => true

def opEntryOk (e : OpEntry) : Bool := decide (e.vstep ≤ 11) && opFmtOk e.fmt && decide (1 ≤ e.clusters ∧ e.clusters ≤ 32)

def discOk (d : Nat × Nat) : Bool :=
  decide (d.1 % 64 = 0) && decide (d.2 % 64 = 0) && decide (64 ≤ d.2) && decide (d.1 + d.2 ≤ scrSize)

def footOk (f : FootEntry) : Bool := decide (1 ≤ f.kind ∧ f.kind ≤ 3) && decide (f.slot ≤ 63) && decide (1 ≤ f.size)

/-- The status of the first check of R161 that fails, or 0. A non-zero onfault with flags[0] clear and an entry that is no
multiple of 4 fail the check of entries, status 5; a foot_n above 16 that of footprints, status 0x0A (DEDUCED, log entry 61). -/
def loaderStatus (b : List Byte) (addr size : Nat) : Nat :=
  let ds := (List.range (getN b 6 2)).map (descOf b)
  let ks := ds.map (kernelOfDesc b)
  let code := getN b 0x14 4
  if getN b 0 4 ≠ 0x0149475A ∨ getN b 4 2 ≠ 1 then 1
  else if getN b 0x0C 4 ≠ size ∨ b.length ≠ size ∨ (crc32c (b.drop 12)).toNat ≠ getN b 8 4 then 2
  else if !check3 b addr size then 3
  else if !(zeroAt b 0x34 12 && ds.all fun d => decide (getN d 0x14 4 < 2) && zeroAt d 0x1F 1 && zeroAt d 0x2C 20) then 4
  else if !(ds.all fun d =>
      decide (getN d 4 4 < code) && decide (getN d 4 4 % 4 = 0)
      && (if getN d 0x14 4 = 1 then decide (getN d 0x18 4 < code) else zeroAt d 0x18 4)) then 5
  else if !(ks.all fun k => decide (k.poolBase + k.poolCount ≤ getN b 0x1C 4) && decide (k.poolCount ≤ 4096)) then 6
  else if !(ks.all fun k => (List.range 4).all fun q => decide (k.queues.getD q 0 ≤ depth q)) then 7
  else if !(ks.all fun k => decide (1 ≤ k.ops.length ∧ k.ops.length ≤ 8) && k.ops.all opEntryOk) then 8
  else if !(ks.all fun k => decide (k.discs.length ≤ 16) && k.discs.all discOk
      && spansApart (k.discs.map fun d => (d.1, d.2, 1))) then 9
  else if !(ks.all fun k => decide (k.foots.length ≤ 16) && k.foots.all footOk) then 10
  else 0

def imageOfBytes (b : List Byte) (addr size : Nat) (vbase : W64) : Image :=
  { addr := addr, size := size, vbase := vbase, codeOff := getN b 0x10 4, codeSize := getN b 0x14 4
    poolOff := getN b 0x18 4, poolN := getN b 0x1C 4, dataOff := getN b 0x20 4, dataSize := getN b 0x24 4
    kernels := (List.range (getN b 6 2)).map fun i => kernelOfDesc b (descOf b i) }

/-- A graph in flight names the image (R407). -/
def imageUsed (s : State) (id : Nat) : Bool := s.ref.graphs.any fun (_, g) => !g.closed && decide (g.image = id)

/-- LOAD_IMAGE: hand an image to the loader; its record carries the loader's status (R407). -/
def loadImagePkt (s : State) (q id addr size : Nat) (vbase : W64) : State :=
  if vbase.toNat % 65536 ≠ 0 then packetRecord s q 0 11 none
  else if imageUsed s id then packetRecord s q 0 13 (some 0x0B)
  else
    let s := awakenSpan s addr size
    let b := if decide (0 < size) && spaReadable s addr size then readSpaLong s addr size else []
    let st := loaderStatus b addr size
    let s := if st = 0 then { s with ref := { s.ref with images := tset s.ref.images id (imageOfBytes b addr size vbase) } } else s
    packetRecord s q 0 13 (some st)

def execLoadImage (q image addr size : Nat) (vbase : W64) (s : State) : Host.Outcome State Fault Refusal :=
  .next (loadImagePkt s q (image % 256) addr (size % 2 ^ 32) vbase)

end Sys2Proof.Machine
end

