-- ==== Sys2Proof/Machine/Submit.lean ====
section
/-! DEFINITION. Submitting a graph: reading its tables (R411), the checks and their order (R408 to R411, R433), the edges
(R413), the mapping of the image (R407), acceptance (R412). -/

namespace Sys2Proof.Machine

/-! ### Reading through a graph's context -/

/-- The bytes of one piece that lies within one page of 64 KiB: named memory of this device or the host, with R. -/
def ctxPiece (s : State) (root va : W64) (n : Nat) : Option (List Byte) :=
  if !canonical va || inLocal va then none
  else
    match walk s root va with
    | .error _ => none
    | .ok (leaf, lvl) =>
      if leafScr leaf then none
      else
        let pa := regionMap s (leafPage leaf + va.toNat % 2 ^ pageShift lvl)
        if leafPerm leaf &&& pR ≠ 0 ∧ backed s pa ∧ paTarget pa ≤ 13 ∧ (uncorrectable s (.named pa) n).isNone then
          some (readLoc s (.named pa) n)
        else none

/-- `n` bytes at a virtual address, in pieces that no page or granule of the region table cuts. -/
def ctxBytes (s : State) (root : W64) : Nat → W64 → Nat → Option (List Byte)
  | 0, _, _ => some []
  | fuel + 1, va, n =>
    if n = 0 then some []
    else
      let m := Nat.min n (4096 - va.toNat % 4096)
      match ctxPiece s root va m, ctxBytes s root fuel (va + BitVec.ofNat 64 m) (n - m) with
      | some a, some b => some (a ++ b)
      | _, _ => none

def ctxRead (s : State) (root va : W64) (n : Nat) : Option (List Byte) := ctxBytes s root (n / 4096 + 2) va n

/-! ### Node records (R409, R410, R433) -/

def nodeRecOf (b : List Byte) : NodeRec :=
  let w (o : Nat) : W64 := BitVec.ofNat 64 (getN b o 8)
  { kernel := getN b 0 2, prio := getN b 2 1, eclass := getN b 3 1, nflags := BitVec.ofNat 16 (getN b 4 2)
    opmask := BitVec.ofNat 8 (getN b 6 1), pred := w 8, args := w 0x10, deadline := w 0x18, pro := w 0x20
    ext0 := w 0x28, ext1 := w 0x30, ext2 := w 0x38, gran := w 0x40
    fgroup := getN b 0x48 4, fdev := getN b 0x4C 2, fidx := getN b 0x4E 2, lbase := getN b 0x50 4, ntot := getN b 0x54 4 }

/-- The virtual address of the device table. -/
def fmapVa (b : List Byte) : W64 := BitVec.ofNat 64 (getN b 0x58 8)

def recFabric (r : NodeRec) : Bool := r.nflags.getLsbD 5

/-- A fabric node in flight of this device has the group id. -/
def groupInFlight (s : State) (fgroup : Nat) : Bool :=
  s.ref.graphs.any fun (_, g) => g.nodes.any fun nd => recFabric nd.r && decide (nd.r.fgroup = fgroup) && nd.st != .done

/-- The limits of R433 on a fabric node's own fields; `groups` are those of the graph's earlier nodes. -/
def fabricOk (s : State) (r : NodeRec) (groups : List Nat) : Bool :=
  decide (r.fgroup ≠ 0) && !groupInFlight s r.fgroup && !groups.contains r.fgroup
  && decide (2 ≤ r.fdev ∧ r.fdev ≤ 16384) && decide (r.fidx < r.fdev)
  && decide (r.lbase % 96 = 0) && decide (r.ntot % 96 = 0) && decide (192 ≤ r.ntot ∧ r.ntot ≤ 65536)

/-- The limits of a node record's fields (R409, R410, R433): reason 4. -/
def nodeFieldsOk (s : State) (b : List Byte) (r : NodeRec) (k : Kernel) (groups : List Nat) : Bool :=
  decide (r.prio ≤ 7) && decide (r.eclass ≤ 3) && decide (r.nflags.toNat < 64)
  && decide (r.opmask.toNat ≠ 0) && decide (r.opmask.toNat < 2 ^ k.ops.length) && zeroAt b 7 1
  && decide (r.pro.toNat % 4 = 0) && decide (r.gran.toNat ≠ 0) && zeroAt b 0x60 32
  && (if recFabric r then fabricOk s r groups else zeroAt b 0x48 24)

/-! ### Footprints (R160, R413) -/

/-- A range of 64-bit addresses, cut where it wraps. -/
def rangeOf (a n : Nat) : List (Nat × Nat) :=
  if a + n ≤ 2 ^ 64 then [(a, a + n - 1)] else [(a, 2 ^ 64 - 1), (0, a + n - 1 - 2 ^ 64)]

/-- The word of an argument block that a footprint entry names. -/
def argWord (s : State) (root args : W64) (slot : Nat) : Option W64 :=
  (ctxRead s root (args + BitVec.ofNat 64 (8 * slot)) 8).map fun b => BitVec.ofNat 64 (leNat b)

/-- The ranges of the entries whose kind has bit `bit`: 0 read, 1 write. None where a word cannot be read. -/
def footRanges (s : State) (root args : W64) (bit : Nat) : List FootEntry → Option (List (Nat × Nat))
  | [] => some []
  | f :: fs =>
    match argWord s root args f.slot, footRanges s root args bit fs with
    | some a, some l =>
      some (if f.kind.testBit bit then rangeOf ((a + BitVec.ofInt 64 f.off).toNat) f.size ++ l else l)
    | _, _ => none

def rangesMeet (a b : List (Nat × Nat)) : Bool := a.any fun x => b.any fun y => decide (x.1 ≤ y.2) && decide (y.1 ≤ x.2)

/-- Node `j` precedes node `i` by their footprints (R413). -/
def derivedEdge (j i : Node) : Bool :=
  !nodePersist j && !nodePersist i && (rangesMeet j.writes (i.reads ++ i.writes) || rangesMeet j.reads i.writes)

/-- The predecessors of a node, given the earlier nodes of its graph. -/
def predsOf (r : NodeRec) (nd : Node) (prev : List Node) : W64 :=
  BitVec.ofNat 64 ((List.range prev.length).foldl (fun a j =>
    if r.pred.getLsbD j || derivedEdge (prev.getD j {}) nd then a + 2 ^ j else a) 0)

/-! ### The tests of one node (R411) -/

/-- The device ids of a fabric node's table. -/
def readFmap (s : State) (root va : W64) (n : Nat) : Option (List Nat) :=
  (ctxRead s root va (2 * n)).map fun b => (pieces 2 n b).map leNat

/-- The tests of node `i`: a reason, or the node. -/
def nodeTests (s : State) (p : SubmitPkt) (im : Image) (root : W64) (prev : List Node) (i : Nat) : Except Nat Node :=
  match ctxRead s root (p.ntab + BitVec.ofNat 64 (128 * i)) 128 with
  | none => .error 9
  | some b =>
    let r := nodeRecOf b
    match im.kernels[r.kernel]? with
    | none => .error 3
    | some k =>
      if !nodeFieldsOk s b r k (prev.map (·.r.fgroup)) then .error 4
      else if decide (2 ^ i ≤ r.pred.toNat) || (List.range i).any fun j => r.pred.getLsbD j && nodePersist (prev.getD j {}) then .error 5
      else
        match footRanges s root r.args 0 k.foots, footRanges s root r.args 1 k.foots,
              (if recFabric r then readFmap s root (fmapVa b) r.fdev else some []) with
        | some rd, some wr, some fm =>
          let r := { r with fmap := fm }
          let nd : Node := { r := r, reads := rd, writes := wr }
          if recFabric r && decide (fm.getD r.fidx 0 ≠ s.vol.id.toNat) then .error 4
          else if !r.nflags.getLsbD 2 && rangesMeet wr rd then .error 6
          else if (List.range k.ops.length).any fun e =>
              r.opmask.getLsbD e && decide (32 / s.mm.mode < (k.ops.getD e ⟨0, 0, 0, 0, 0⟩).clusters) then .error 7
          else if k.feature &&& ~~~Config.features ≠ 0 then .error 8
          else .ok { nd with preds := predsOf r nd prev }
        | _, _, _ => .error 9

/-- The tests of every node in turn: the reason and the index, or the nodes. -/
def allTests (s : State) (p : SubmitPkt) (im : Image) (root : W64) : Nat → Nat → List Node → Except (Nat × Nat) (List Node)
  | 0, _, prev => .ok prev
  | n + 1, i, prev =>
    match nodeTests s p im root prev i with
    | .error e => .error (e, i)
    | .ok nd => allTests s p im root n (i + 1) (prev ++ [nd])

/-- A valid leaf lies in the range where the image is to be mapped: reason 10. -/
def leafInRange (s : State) (root : W64) (im : Image) : Bool :=
  (List.range ((im.size + 65535) / 65536)).any fun i =>
    match walk s root (im.vbase + BitVec.ofNat 64 (65536 * i)) with
    | .ok _ => true
    | .error _ => false

/-- Every test of R411 in its order. -/
def submitTests (s : State) (p : SubmitPkt) : Except (Nat × Nat) (List Node) :=
  let root : W64 := BitVec.ofNat 64 p.root
  if p.nodes < 1 ∨ 64 < p.nodes ∨ s.mm.mode ≤ p.part then .error (1, 0xFFFF)
  else if p.root % 4096 ≠ 0 ∨ p.ntab.toNat % 128 ≠ 0 then .error (4, 0xFFFF)
  else
    match s.ref.images.find? fun e => e.1 = p.image with
    | none => .error (2, 0xFFFF)
    | some (_, im) =>
      match allTests s p im root p.nodes 0 [] with
      | .error e => .error e
      | .ok ns => if leafInRange s root im then .error (10, 0xFFFF) else .ok ns

/-! ### Mapping the image (R155, R407) -/

/-- Address `i` of the reserved range: tables of 4,096 bytes in hub SRAM. -/
def tableAddr (i : Nat) : Nat := 12 * 2 ^ 47 + (Config.tableBase + i) * 4096 % 2 ^ 29

/-- The first reserved table that no graph holds. -/
def freeTable (s : State) (mine : List Nat) : Nat :=
  let used := mine ++ s.ref.graphs.flatMap fun (_, g) => g.tables
  ((List.range (used.length + 1)).find? fun i => !used.contains (tableAddr i)).elim (tableAddr 0) tableAddr

/-- What a mapping has written: entries, newest first, and tables taken. -/
structure MapLog where
  mapped : List Nat := []
  tables : List Nat := []
  deriving DecidableEq, Repr

/-- Write the leaf of one page from a table of a level down; a valid entry is never replaced. -/
def mapPage (va leaf : W64) : Nat → Nat → Nat → State × MapLog → State × MapLog
  | 0, _, _, x => x
  | n + 1, tab, lvl, (s, l) =>
    let a := tab + 8 * walkIndex va lvl
    let e : W64 := BitVec.ofNat 64 (leNat (readSpa s a 8))
    match pteOf lvl e with
    | .leaf => (s, l)
    | .table next => mapPage va leaf n next (lvl + 1) (s, l)
    | .bad =>
      if lvl = 5 then (writeSpa s a (leBytes 8 leaf.toNat), { l with mapped := a :: l.mapped })
      else
        let t := freeTable s l.tables
        let s := writeSpa (writeSpa s t (List.replicate 4096 0)) a (leBytes 8 (t + 4))
        mapPage va leaf n t (lvl + 1) (s, { mapped := a :: l.mapped, tables := t :: l.tables })

/-- Map the pages of one section: `off` its offset in the image, `len` its bytes. -/
def mapSection (root : W64) (im : Image) (off len : Nat) (perm : Perm) (x : State × MapLog) : State × MapLog :=
  (List.range ((len + 65535) / 65536)).foldl (fun x i =>
    let o := off + 65536 * i
    mapPage (im.vbase + BitVec.ofNat 64 o) (BitVec.ofNat 64 (1 + perm.toNat * 8 + (im.addr + o))) 5 root.toNat 1 x) x

def mapImage (s : State) (root : W64) (im : Image) : State × MapLog :=
  mapSection root im im.dataOff im.dataSize pR
    (mapSection root im im.poolOff (8 * im.poolN) (pR ||| pX) (mapSection root im im.codeOff im.codeSize (pR ||| pX) (s, {})))

/-! ### Acceptance (R412) -/

def nodesHeld (s : State) : Nat := (graphsInFlight s).foldl (fun a (_, g) => a + g.nodes.length) 0

/-- The Referee's tables are full (R412). -/
def tablesFull (s : State) : Bool := decide (1024 ≤ (graphsInFlight s).length) || decide (16384 ≤ nodesHeld s)

/-- Accept a graph whose tests have passed. -/
def acceptGraph (s : State) (q : Nat) (p : SubmitPkt) (ns : List Node) : State :=
  let root : W64 := BitVec.ofNat 64 p.root
  let im : Image := tget {} s.ref.images p.image
  let (asn, s) := pickAsn s
  let (s, l) := mapImage s root im
  let g := s.ref.nextGraph
  let ord := tget 0 s.ref.orders q
  let gr : Graph := {
    queue := q, order := ord, tag := p.tag, part := p.part, gflags := BitVec.ofNat 16 p.gflags, image := p.image
    root := root, asn := asn, nodes := ns, mapped := l.mapped, tables := l.tables }
  let s := { s with ref := { s.ref with
    nextGraph := g + 1, orders := tset s.ref.orders q (ord + 1), graphs := tset s.ref.graphs g gr } }
  wakeNodes (endGraph s g)

/-- SUBMIT_GRAPH: a graph is accepted whole or refused whole with one record (R411). -/
def submitPkt (s : State) (q : Nat) (p : SubmitPkt) : State :=
  match submitTests s p with
  | .error (r, i) =>
    writeRecord s { tag := p.tag, kind := 2, status := 12, finish := s.gtc, queue := q, detail := some (BitVec.ofNat 64 (r + i * 65536)) }
  | .ok ns => acceptGraph s q p ns

/-- A packet whose reserved bits are not zero is a bad packet (R406). -/
def execSubmitGraph (q : Nat) (p : SubmitPkt) (s : State) : Host.Outcome State Fault Refusal :=
  if 8 ≤ p.gflags then .next (packetRecord s q p.tag 11 none)
  else if tablesFull s ∨ 16384 < nodesHeld s + p.nodes then .next s
  else .next (submitPkt s q p)

end Sys2Proof.Machine
end

