-- ==== Sys2Proof/Machine/Launch.lean ====
section
/-! DEFINITION. How a launch begins, leaves and ends, and prologues: launch registers (R18, R25, R26, R430, R431), the
state a yield keeps (R222, R434), the end of a launch (R41, R99, R432), prologue start and verdict (R417 to R420). -/

namespace Sys2Proof.Machine

/-! ### Launch values (R18, R25, R26, R162, R430) -/

/-- A membership register: count, index, first, phase 0, level. -/
def domReg (count index first lvl : Nat) : W64 :=
  BitVec.ofNat 64 (count % 65536 * 2 ^ 48 + index % 65536 * 2 ^ 32 + first % 65536 * 2 ^ 16 + lvl)

/-- The membership registers of a lid. -/
def launchDoms (t : Task) (nd : Node) (lid : Nat) : Tbl W64 :=
  let rel := lid - t.lbase
  let all := 96 * t.nclus
  [(0, domReg 1 0 lid 0), (1, domReg 96 (rel % 96) (lid - rel % 96) 1), (2, domReg all rel t.lbase 2),
   (3, domReg all rel t.lbase 3),
   (4, if t.fabric then domReg nd.r.fdev nd.r.fidx t.lbase 4 else domReg 1 0 t.lbase 4)]

/-- Slice bound x3 at `lid`; x4 is the bound at `lid + 1`. -/
def sliceAt (e0 g0 n lid : Nat) : Nat := Nat.min e0 (lid * ceilDiv e0 g0 / n * g0)

/-- Write a list of registers from `x1` up. -/
def putRegs (t : Strand) : Nat → List W64 → Strand
  | _, [] => t
  | r, v :: vs => putRegs (xset t r v) (r + 1) vs

/-- Strand 0 at launch. -/
def launchStrand (t : Task) (nd : Node) (lid : Nat) : Strand :=
  let b (l : Nat) : W64 := BitVec.ofNat 64 (sliceAt nd.e0.toNat nd.g0.toNat t.n l)
  putRegs { run := .ready, pc := t.codeVa + BitVec.ofNat 64 t.kernel.entry } 1
    [BitVec.ofNat 64 lid, BitVec.ofNat 64 t.n, b lid, b (lid + 1), 0, nd.e1, 0, nd.e2, BitVec.ofNat 64 t.entry, nd.args]

/-- The scratchpad that a wake packet has written since the dispatch (R407). -/
def woken (t : Task) (lid : Nat) (k : Core) : Core :=
  let w : Core := tget {} t.saved lid
  { k with scr := w.scr, full := w.full }

/-- A core at launch (R65, R92, R162, R201, R228, R287, R318, R344). -/
def launchCore (id : Nat) (t : Task) (nd : Node) (lid : Nat) : Core :=
  { run := .on, task := id, lid := lid, ncores := t.n, opIndex := t.entry, dom := launchDoms t nd lid
    strands := [(0, launchStrand t nd lid)] }

/-- Put a core in place for each of `n` lids from `lid` up. -/
def placeCores (t : Task) (f : Nat → Core) : Nat → Nat → State → State
  | _, 0, s => s
  | lid, n + 1, s =>
    match coreOfLid t lid with
    | some c => placeCores t f (lid + 1) n (setCore s c { f lid with utlb := (getCore s c).utlb })
    | none => placeCores t f (lid + 1) n s

/-- Apply the fabric arrivals held for a part (R433). -/
def applyArrivals (s : State) (c fgroup : Nat) : List (Nat × Nat) → State
  | [] => s
  | (g, slot) :: l =>
    if g = fgroup then
      let v := getSlot s c 4 slot
      applyArrivals (slotCheck (setSlot s c 4 slot { v with arrived := v.arrived + 1 }) c 4 slot) c fgroup l
    else applyArrivals s c fgroup l

/-- Whether a cluster of a list is in a vstep transition. -/
def anyMoving (s : State) (l : List Nat) : Bool := l.any fun k => (getCluster s k).moving.isSome

/-- LAUNCH_START: strand 0 starts on every core of a dispatched task whose clusters stand at its vstep (R429, R431). -/
def execLaunchStart (task : Nat) (s : State) : Host.Outcome State Fault Refusal :=
  let t := getTask s task
  if t.st == .dispatched && !t.clusters.isEmpty && !anyMoving s t.clusters then
    let nd := getNode (getGraph s t.graph) t.node
    let s := setTask s task { t with st := .running, saved := [] }
    let s := placeCores t (fun lid => woken t lid (launchCore task t nd lid)) t.lbase (96 * t.clusters.length) s
    match t.fabric, coreOfLid t t.lbase with
    | true, some c =>
      let held := s.vol.held
      let s := applyArrivals s c nd.r.fgroup held
      .next { s with vol := { s.vol with held := held.filter fun e => e.1 ≠ nd.r.fgroup } }
    | _, _ => .next s
  else .next s

/-! ### Finished cores and the end of a launch (R41, R99, R212, R432) -/

/-- No strand is live, the fault strand is not running, and every word has completed (R212, R41). -/
def coreDone (s : State) (c : Nat) : Bool :=
  let k := getCore s c
  (liveStrands s k).isEmpty && !faultRunning k && k.verdicts.isEmpty && drained k

/-- A core that has nothing left is finished. -/
def finishCheck (s : State) (c : Nat) : State :=
  let k := getCore s c
  if k.run == .on && coreDone s c then setCore s c { k with run := .finished } else s

/-- The cores of a task: physical numbers. -/
def coresOf (s : State) (task : Nat) : List Nat :=
  (s.cores.filter fun (c, k) => decide (k.task = task) && !isPrologue c && (k.run != .off)).map (·.1)

/-- Freeze a core on a clock edge, and let it go on (R221, R507, R508). -/
def freezeCore (k : Core) : Core := if k.run == .frozen then k else { k with was := k.run, run := .frozen }
def thawCore (k : Core) : Core := if k.run == .frozen then { k with run := k.was, was := .off } else k

/-- Freeze every core of a task; the records of its last cycle go to the hub. -/
def freezeAll (s : State) (task : Nat) : State :=
  let l := coresOf s task
  let s := l.foldl deliverRecs s
  { s with cores := s.cores.map fun (c, k) => (c, if l.contains c then freezeCore k else k) }

/-- Every core of a task goes on. -/
def thawAll (s : State) (task : Nat) : State :=
  let l := coresOf s task
  { s with cores := s.cores.map fun (c, k) => (c, if l.contains c then thawCore k else k) }

/-- A task halts: nothing of it issues any more, and it will end with a status (R461, R465). -/
def haltTask (s : State) (task status : Nat) (detail : Option W64) : State :=
  let s := endTask s task status detail
  freezeAll (setTask s task { getTask s task with st := .halting }) task

/-- The race count of a task. -/
def raceCount (t : Task) : Nat := (t.raceStat.extractLsb' 32 16).toNat

/-- The status with which a completed launch ends (R99, R440). -/
def endStatus (t : Task) : Nat :=
  if t.det && decide (raceCount t ≠ 0) then (if t.detfault then 9 else 1) else 0

/-- The core has handed every record to the hub (R478). -/
def recordsOut (k : Core) : Bool := k.newRecs.isEmpty && k.outRecs.isEmpty

/-! ### Yields (R222, R227, R434) -/

/-- What a yield keeps of a strand. -/
def yieldStrand (n : Nat) (t : Strand) : Strand :=
  if n = 0 then { run := .ready, pc := t.pc, x := t.x, eseq := t.eseq } else { eseq := t.eseq }

/-- What a yield keeps of a core; a finished core stays finished. -/
def yieldCore (k : Core) : Core :=
  { run := if k.run == .finished then .finished else .on
    task := k.task, lid := k.lid, ncores := k.ncores, opIndex := k.opIndex, dom := k.dom, recSeq := k.recSeq
    strands := if k.run == .finished then k.strands.map fun (n, t) => (n, { ({} : Strand) with eseq := t.eseq })
               else k.strands.map fun (n, t) => (n, yieldStrand n t)
    eng := k.eng.map fun (q, e) => (q, { ({} : Eng) with cseq := e.cseq }) }

/-- The task leaves the device once every core has yielded or finished, and at least one has yielded (R434). The
table of R222 does not name barrier slots: the task keeps them (DESIGN CHOICE, log entry 130). -/
def taskLeaves (s : State) (task : Nat) : State :=
  let t := getTask s task
  let l := coresOf s task
  let kept := l.map fun c => getCore s c
  if t.st == .running && t.ending.isNone && (kept.all fun k => (k.run == .yielded || k.run == .finished) && recordsOut k)
      && kept.any fun k => k.run == .yielded then
    let saved := kept.foldl (fun m k => tset m k.lid (yieldCore k)) ([] : Tbl Core)
    let s := setTask s task { t with st := .yielded, ylds := saved, clusters := [], wasYielded := true, yldReq := false }
    let s := setNode s t.graph t.node { getNode (getGraph s t.graph) t.node with st := .yielded }
    evalSoon (coresOff (freeClusters s false t.clusters) t.clusters)
  else s

/-- LAUNCH_END: every core is finished, or a fault ends the node and the words issued on its core have completed
(R47, R48, R432); where the last core has finished after others stopped at a yield, the task leaves the device (R434). -/
def execLaunchEnd (task : Nat) (s : State) : Host.Outcome State Fault Refusal :=
  let t := getTask s task
  let l := coresOf s task
  if t.st == .running && !t.stopped then
    match t.ending with
    | some (st, d) => if l.all fun c => ((getCore s c).run != .ending || holdQuiet (getCore s c)) && recordsOut (getCore s c) then .next (launchOver s task st d false) else .next s
    | none =>
      if !l.isEmpty && l.all fun c => (getCore s c).run == .finished && recordsOut (getCore s c) then .next (launchOver s task (endStatus t) none false)
      else .next (taskLeaves s task)
  else .next s

/-! ### Prologues (R417 to R420) -/

/-- The lowest-numbered free prologue conductor. -/
def freePro (s : State) : Option Nat := (List.range 4).find? fun p => !s.ref.pros.any fun e => e.1 = p

/-- The strand of a prologue at its start (R418). -/
def prologueStrand (nd : Node) : Strand :=
  putRegs { run := .ready, pc := nd.r.pro } 10 [nd.r.args, nd.r.ext0, nd.r.ext1, nd.r.ext2, nd.r.gran, nd.r.deadline]

/-- PROLOGUE_START: the first node in state Prologue that has a task id, in the order of R423, takes the lowest free
conductor. -/
def execPrologueStart (s : State) : Host.Outcome State Fault Refusal :=
  match freePro s, ranked s fun nd => nd.st == .prologue && nd.pro.isNone && decide (nd.task ≠ 0) with
  | some p, (g, i) :: _ =>
    let gr := getGraph s g
    let nd := getNode gr i
    let im := imageOf s gr
    let id := nd.task
    let (asn, s) := runAsn s gr
    let t : Task := {
      st := .running, graph := g, node := i, asn := asn, root := gr.root, image := gr.image, kernel := kernelOf s gr nd
      codeVa := im.vbase + BitVec.ofNat 64 im.codeOff, deadline := nd.r.deadline, start := s.gtc }
    let s := { s with ref := { s.ref with pros := tset s.ref.pros p (g, i) } }
    let s := setTask s id { t with kernel := { t.kernel with onfault := none } }
    let s := setNode s g i { nd with pro := some p }
    .next (setCore s (3072 + p) { run := .on, task := id, strands := [(0, prologueStrand nd)] })
  | _, _ => .next s

/-- The registers that an exit of a prologue reads: x20, and what its verdict needs of the rest (R419). -/
def verdictUses (t : Strand) : List Nat :=
  if t.pend.any fun e => decide (e.1 = 20) then [20]
  else if xget t 20 = 0 then [20, 10, 11, 12, 13, 14]
  else if xget t 20 = 2 then [20, 21, 10, 11, 12, 13, 14]
  else [20]

/-- The prologue of the current conductor has exited; the next hub cycle takes its verdict (R416). -/
def sayVerdict (s : State) : State :=
  let s := setCC s (setStrand (cc s) 0 { cst s with run := .idle })
  { s with ref := { s.ref with said := s.ref.said ++ [s.cur - 3072] } }

/-- The verdict of prologue conductor `p` (R419): a fault, a skip, or the launch values. -/
def prologueVerdict (s : State) (p : Nat) : State :=
  let c := 3072 + p
  let t := getStrand (getCore s c) 0
  let v := xget t 20
  let bad := decide (2 < v.toNat) || (decide (v = 2) && decide (255 < (xget t 21).toNat)) || (decide (v ≠ 1) && decide (xget t 14 = 0))
  if bad then raise1 s c 0 { code := 0x0109, detail := v } (packJ 0x39 1)
  else
    match s.ref.pros.find? fun e => e.1 = p with
    | none => s
    | some (_, g, i) =>
      let nd := getNode (getGraph s g) i
      if v = 1 then nodeDone s g i 3 none nd.task
      else
        evalSoon (setNode (dropPrologue s nd) g i { nd with
          st := .ready, pro := none, args := xget t 10, e0 := xget t 11, e1 := xget t 12, e2 := xget t 13, g0 := xget t 14
          repIndex := 0, repCount := if v = 2 then (xget t 21).toNat + 1 else 1 })

/-- The verdicts that prologues have given since the last hub cycle, in their order (R416). -/
def takeVerdicts (s : State) : State :=
  s.ref.said.foldl (fun s p => if s.ref.said.contains p then prologueVerdict { s with ref := { s.ref with said := s.ref.said.filter (· ≠ p) } } p else s) s

/-- PROLOGUE_LIMIT: a prologue that has executed 4,096 instructions is about to execute another (R418). -/
def execPrologueLimit (conductor : BitVec 2) (s : State) : Host.Outcome State Fault Refusal :=
  let c := 3072 + conductor.toNat
  let t := getStrand (getCore s c) 0
  if (getCore s c).run == .on && t.run == .ready && decide (4096 ≤ t.block) then
    .next (raise1 s c 0 { code := 0x0108, detail := 4096 } 0)
  else .next s

end Sys2Proof.Machine
end

