-- ==== Sys2Proof/Machine/System.lean ====
section
/-! DEFINITION. Barriers, timed waits, strand control, sections, control registers and the fault strand of the
conductor (R208 to R219), watchpoints (R500, R501), and the events of a conductor that no instruction issues. -/

namespace Sys2Proof.Machine

/-! ### Barriers and waits (R208, R209) -/

def setBarOn (s : State) (n : Nat) (b : Option (Nat × Nat × Nat)) : State := setSn s n { sn s n with barOn := b }

def execBar (lvl : Scope) (slot : BitVec 3) (s : State) : Host.Outcome State Fault Refusal :=
  conduct false true (packJ 0x36 (0#10 ++ lvl.bits ++ slot ++ 0#10)) [] (fun s =>
    let n := (cc s).cs
    let l := Sys2Proof.Machine.Scope.code lvl
    let now (s : State) : Nat := (getSlot s s.cur l slot.toNat).phase.toNat
    let start : State × Nat := match (cst s).barOn with
      | some (l', sl, ph) => if l' = l ∧ sl = slot.toNat then (s, ph) else (setBarOn s n (some (l, slot.toNat, now s)), now s)
      | none => (setBarOn s n (some (l, slot.toNat, now s)), now s)
    let s' := tryArrive start.1 l slot.toNat n
    if now s' ≠ start.2 then adv s (setBarOn s' n none) else .wait s' (.bar l slot.toNat start.2)) s

def execWaitCyc (rs1 : Reg) (s : State) : Host.Outcome State Fault Refusal :=
  conduct false true (packI 0x37 0 rs1 0) [rs1.toNat] (fun s =>
    if (rx s rs1).toNat ≤ schedCyc s s.cur then adv s s else .wait s (.cyc (rx s rs1))) s

def execWaitGtc (rs1 : Reg) (s : State) : Host.Outcome State Fault Refusal :=
  conduct false true (packI 0x37 0 rs1 1) [rs1.toNat] (fun s =>
    if (rx s rs1).toNat ≤ s.gtc then adv s s else .wait s (.gtc (rx s rs1))) s

/-- WAIT_TARGET_REACHED: the counter has reached the target of a waiting strand (R209). -/
def execWaitTargetReached (strand : BitVec 2) (s : State) : Host.Outcome State Fault Refusal :=
  let n := strand.toNat
  let t := sn s n
  match t.run, t.wait with
  | .waiting, some (.cyc v) => .next (if v.toNat ≤ schedCyc s s.cur then setSn s n { t with run := .ready } else s)
  | .waiting, some (.gtc v) => .next (if v.toNat ≤ s.gtc then setSn s n { t with run := .ready } else s)
  | _, _ => .next s

/-! ### Strand control (R210 to R212, R227) -/

/-- The state of a spawned strand (R211). -/
def spawned (old by_ : Strand) (pc : W64) : Strand :=
  putRegs { run := .ready, pc := pc, eseq := old.eseq } 1 ((List.range 10).map fun i => xget by_ (i + 1))

def execSpawn (strand : BitVec 2) (rs1 : Reg) (s : State) : Host.Outcome State Fault Refusal :=
  conduct false true (packJ 0x39 (0#3 ++ strand ++ rs1 ++ 0#16)) (rs1.toNat :: (List.range 10).map (· + 1)) (fun s =>
    let w : W32 := (packJ 0x39 (0#3 ++ strand ++ rs1 ++ 0#16))
    let k := cc s
    let n := strand.toNat
    let pc := rx s rs1
    if liveStrand s k n || isFaultStrand s k n then .flt s { code := 0x0104, detail := w.setWidth 64 }
    else if pc.toNat % 4 ≠ 0 then .flt s { code := 0x0101, addr := pc, detail := 4 }
    else adv s (setSn s n (spawned (sn s n) (cst s) pc))) s

/-- The strand stops and is no longer live. -/
def stopStrand (s : State) (n : Nat) : State :=
  let s := closeWait s n
  let t := sn s n
  setCC s { unopen (setStrand (cc s) n { t with run := .idle, wait := none, flag := none, barOn := none, block := 0 }) n with slotAt := curCyc s + 1 }

def execExit (s : State) : Host.Outcome State Fault Refusal :=
  conduct true true (packJ 0x39 1) (if isPrologue s.cur then verdictUses (cst s) else []) (fun s =>
    let n := (cc s).cs
    if isPrologue s.cur then .set (sayVerdict s)
    else if drainedOf (cc s) n then .set (finishCheck (exitArrive (stopStrand s n)) s.cur)
    else .wait s .drainOwn) s

/-- A token stands in some link. -/
def anyToken (k : Core) : Bool := k.links.any fun e => !e.2.isEmpty

/-- The core stops at its yield: strand 0 will continue at the next word (R227). -/
def yieldStop (s : State) : State :=
  let s := finishIssue s (cc s).cs (nextPc s) true
  setCC s { cc s with run := .yielded }

def execYield (s : State) : Host.Outcome State Fault Refusal :=
  conduct false true (packJ 0x39 2) [] (fun s =>
    let k := cc s
    if k.cs ≠ 0 ∨ liveStrands s k ≠ [0] ∨ faultRunning k then .flt s { code := 0x0106, detail := 1 }
    else if (cst s).loop.act then .flt s { code := 0x0106, detail := 2 }
    else if !drained k then .wait s .drainYield
    else if anyToken k then .flt s { code := 0x0106, detail := 3 }
    else if (curTask s).yldReq then .set (taskLeaves (yieldStop s) k.task)
    else adv s s) s

def execNop (s : State) : Host.Outcome State Fault Refusal := conduct true false (packJ 0x39 3) [] (fun s => adv s s) s

/-! ### Sections (R44, R213) -/

/-- A strand that waited for a switch to complete: the engine that completed last let it (R498). -/
def sectSetter (k : Core) (t : Strand) : Strand :=
  match t.flag with
  | some (.sect, _) => { t with by_ := (4 + k.lastDone, k.lid) }
  | _ => t

/-- The switch itself: the kind of section, and for a timed one the stamp from which the queues count (R43). -/
def switchSection (k : Core) (stamp : Option Int) : Core :=
  { k with
    timed := stamp.isSome, switching := k.switching.tail
    strands := k.strands.map fun (n, t) => (n, sectSetter k t)
    eng := [0, 1, 2, 3].foldl (fun t q => tset t q { getEng k q with base := stamp }) k.eng }

/-- A switch instruction: it drains first, and switches are served in issue order. -/
def switchForm (w : W32) (uses : List Nat) (stamp : State → Option Int) (s : State) : Host.Outcome State Fault Refusal :=
  conduct false true w uses (fun s =>
    let k := cc s
    let k := if k.switching.contains k.cs then k else { k with switching := k.switching ++ [k.cs] }
    if k.switching.head? = some k.cs ∧ sectionDrained k then adv s (setCC s (switchSection k (stamp s)))
    else .wait (setCC s k) .drain) s

def execStart (rs1 : Reg) (s : State) : Host.Outcome State Fault Refusal :=
  switchForm (packI 0x3A 0 rs1 0) [rs1.toNat] (fun s => some ((rx s rs1).toNat + (cc s).off)) s

def execIlock (s : State) : Host.Outcome State Fault Refusal := switchForm (packI 0x3A 0 0 1) [] (fun _ => none) s

/-! ### Control registers (R25, R98, R163, R214, R347, R421, R500) -/

/-- `loop.st` (R163). -/
def loopStOf (l : LoopSt) : W64 :=
  BitVec.ofNat 64 ((if l.act then 1 else 0) + l.stm.toNat * 2 + l.ec.toNat * 16 + (if l.q then 128 else 0))

/-- `xprog` of the record that the fault strand handles (R347). -/
def xprogOf (k : Core) : W64 := (k.handling.map (·.prog)).getD 0

/-- The value that strand `n` of core `c` reads from a control register; none where the device defines none. -/
def readCreg (s : State) (c n num : Nat) : Option W64 :=
  let k := getCore s c
  let t := getStrand k n
  let task := getTask s k.task
  let fs := isFaultStrand s k n
  let nat (v : Nat) : Option W64 := some (BitVec.ofNat 64 v)
  if 0x040 ≤ num ∧ num ≤ 0x044 then some (tget 0 k.dom (num - 0x040))
  else if 0x060 ≤ num ∧ num ≤ 0x067 then
    some (if fs then (k.handling.map fun p => trapWord p.trap (num - 0x060)).getD 0 else 0)
  else if 0x080 ≤ num ∧ num ≤ 0x08F then
    some (if num % 2 = 0 then tget 0 k.wpAdr ((num - 0x080) / 2) else tget 0 k.wpCtl ((num - 0x080) / 2))
  else
    match num with
    | 0x000 => nat s.gtc
    | 0x001 => nat (schedCyc s c)
    | 0x002 => nat k.lid
    | 0x003 => nat k.ncores
    | 0x004 => nat k.opIndex
    | 0x005 => nat n
    | 0x006 => nat k.task
    | 0x007 => some (t.eseq.setWidth 64)
    | 0x008 => some (ofBool k.timed)
    | 0x009 => some (ofBool task.yldReq)
    | 0x00A => nat task.repIndex
    | 0x00B => nat task.repCount
    | 0x00C => some task.deadline
    | 0x010 | 0x011 | 0x012 | 0x013 => some (getEng k (num - 0x010)).cseq
    | 0x048 => some task.raceStat
    | 0x049 => some task.raceAddr
    | 0x04A => some task.raceLids
    | 0x050 => some (loopStOf t.loop)
    | 0x051 => some t.loop.beg
    | 0x052 => some t.loop.fin
    | 0x068 => some (if fs then k.fltWord else 0)
    | 0x069 => some (if fs then k.fltPc else 0)
    | 0x070 => some (if fs then xprogOf k else 0)
    | 0x090 => some k.wpStat
    | _ => none

/-- The registers a crw may name: RW and W1C. -/
def writableCreg (num : Nat) : Bool := num = 0x048 || num = 0x068 || num = 0x069 || (decide (0x080 ≤ num) && decide (num ≤ 0x090))

/-- What a prologue may read (R418). -/
def prologueCreg (num : Nat) : Bool := num = 0x000 || num = 0x006 || num = 0x00C

def execCrr (rd : Reg) (num : BitVec 12) (s : State) : Host.Outcome State Fault Refusal :=
  conduct true false (packI 0x38 rd 0 (0#4 ++ num)) [rd.toNat] (fun s =>
    let w : W32 := (packI 0x38 rd 0 (0#4 ++ num))
    match readCreg s s.cur (cc s).cs num.toNat with
    | none => .flt s { code := 0x0001, detail := w.setWidth 64 }
    | some v =>
      if isPrologue s.cur && !prologueCreg num.toNat then .flt s { code := 0x0107, detail := w.setWidth 64 }
      else adv s (wx s rd v)) s

/-- Writing 1 to hit clears hit and more (R98); writing 1 to more clears it, as the register's access is W1C (R7). -/
def clearRace (s : State) (v : W64) : State :=
  let t := curTask s
  let m : W64 := if v.getLsbD 0 then 3 else v &&& 2
  setTask s (cc s).task { t with raceStat := t.raceStat &&& ~~~m }

/-! ### Watchpoints (R500, R501) -/

/-- Take a watch of core `c` out of the ports. -/
def dropWatch (s : State) (c n : Nat) : State :=
  let k := getCore s c
  let s := setCore s c { k with wpLoc := tdel k.wpLoc n }
  { s with pro := { s.pro with watches := s.pro.watches.filter fun w => decide (w.core ≠ c ∨ w.n ≠ n) } }

/-- The fields of `wp.ctln` that a write sets: mask, en, stop. -/
def wpWritten (v : W64) : W64 := v &&& 0x3FFFF

/-- Disarm watchpoint `n`. -/
def disarmWatch (s : State) (n : Nat) (v : W64) : State :=
  let s := dropWatch s s.cur n
  setCC s { cc s with wpCtl := tput 0 (cc s).wpCtl n (wpWritten v) }

/-- Arm watchpoint `n`: steps 2, 3 and 5 of R173, then the owning port takes or refuses the watch. -/
def armWatch (s : State) (n : Nat) (v : W64) (w : W32) : Eff :=
  let va := tget 0 (cc s).wpAdr n
  match reach s s.cur va 16 0 false false with
  | (s, .flt _) =>
    let s' := disarmWatch s n v
    adv s (setWpSt s' s'.cur n 1)
  | (s, .ok loc _) =>
    sendAt s { op := .watch n v, word := w, ord := (cc s).ord, loc := loc, va := va, len := 16, write := false
               rel := false, acq := false, plain := false, gen := s.mm.gen }

/-- A write to `wp.ctln`. -/
def writeWpCtl (s : State) (n : Nat) (v : W64) (w : W32) : Eff :=
  if v.getLsbD 16 then armWatch s n v w else adv s (disarmWatch s n v)

/-- crw. A write to a read-only register raises 0x0001 by any strand (R138), to 0x060 to 0x067 by another strand than the
fault strand as well (R138; DEDUCED, log entry 114). -/
def execCrw (num : BitVec 12) (rs1 : Reg) (s : State) : Host.Outcome State Fault Refusal :=
  conduct true false (packI 0x38 0 rs1 (1#1 ++ 0#3 ++ num)) [rs1.toNat] (fun s =>
    let w : W32 := (packI 0x38 0 rs1 (1#1 ++ 0#3 ++ num))
    let v := rx s rs1
    let k := cc s
    let m := num.toNat
    if !writableCreg m then .flt s { code := 0x0001, detail := w.setWidth 64 }
    else if isPrologue s.cur then .flt s { code := 0x0107, detail := w.setWidth 64 }
    else if m = 0x048 then adv s (clearRace s v)
    else if m = 0x068 then adv s (if isFaultStrand s k k.cs then setCC s { k with fltWord := v } else s)
    else if m = 0x069 then adv s (if isFaultStrand s k k.cs then setCC s { k with fltPc := v } else s)
    else if m = 0x090 then adv s (setCC s { k with wpStat := k.wpStat &&& ~~~(v &&& 0xFF) })
    else
      let n := (m - 0x080) / 2
      if m % 2 = 1 then writeWpCtl s n v w
      else if wpEn k n then adv s s
      else adv s (setCC s { k with wpAdr := tput 0 k.wpAdr n (v &&& ~~~(0xF : W64)) })) s

/-- WATCH_ARM: a crw of `wp.ctln` with en set, from x0's field; the value is the event's (R501). -/
def execWatchArm (n : BitVec 3) (v : W64) (s : State) : Host.Outcome State Fault Refusal :=
  conduct false false (packI 0x38 0 0 (1#1 ++ 0#3 ++ (0x081#12 + n.setWidth 12 * 2))) [] (fun s =>
    armWatch s n.toNat (v ||| 0x10000) (packI 0x38 0 0 (1#1 ++ 0#3 ++ (0x081#12 + n.setWidth 12 * 2)))) s

/-- WATCH_DISARM: a crw of `wp.ctln` with en clear (R501). -/
def execWatchDisarm (n : BitVec 3) (v : W64) (s : State) : Host.Outcome State Fault Refusal :=
  conduct false false (packI 0x38 0 0 (1#1 ++ 0#3 ++ (0x081#12 + n.setWidth 12 * 2))) [] (fun s =>
    adv s (disarmWatch s n.toNat (v &&& ~~~(0x10000 : W64)))) s

/-- WATCH_TAKEN: the owning port takes or refuses the watch that a strand sent (R501). -/
def execWatchTaken (strand : BitVec 2) (s : State) : Host.Outcome State Fault Refusal :=
  let n := strand.toNat
  match (sn s n).flight with
  | some fl =>
    match fl.op with
    | .watch _ _ =>
      if !mayPerform s fl then .next s
      else
        match performAt s n fl with
        | .ok s pc => .next (finishIssue s n pc false)
        | _ => .next s
    | _ => .next s
  | none => .next s

/-! ### The fault strand (R216 to R219) -/

/-- A copy word that will not resume: the bytes it has not performed leave its counted slot at once (R370). -/
def copyUncount (s : State) (p : Pending) : State :=
  match (cc s).cpy.slot with
  | some (lvl, sl) =>
    if p.issued ∧ p.trap.level = 2 ∧ p.trap.engine = 3 then
      let n := (cc s).cpy.left
      let s := setCC s { cc s with cpy := { (cc s).cpy with left := 0 } }
      match slotAdd s s.cur lvl sl (-(n : Int)) with
      | .ok s => s
      | .error _ => s
    else s
  | none => s

/-- The record of the fault strand has its verdict. -/
def giveVerdict (s : State) (code : BitVec 2) : State :=
  match (cc s).handling with
  | none => s
  | some p =>
    let s := if code = 0 then s else copyUncount s p
    let k := cc s
    let t := getStrand k 3
    let k := { setStrand k 3 { t with run := .idle } with
      handling := none, verdicts := k.verdicts ++ [{ p := p, code := code, word := k.fltWord, pc := k.fltPc }]
      slotAt := curCyc s + 1 }
    let s := setCC s k
    if k.pendRecs.isEmpty then finishCheck (endHold s s.cur) s.cur else s

def execFret (verdict : BitVec 2) (s : State) : Host.Outcome State Fault Refusal :=
  conduct false false (packJ 0x3B (0#24 ++ verdict)) [] (fun s =>
    let w : W32 := (packJ 0x3B (0#24 ++ verdict))
    let k := cc s
    if !isFaultStrand s k k.cs then .flt s { code := 0x0001, detail := w.setWidth 64 }
    else if verdict = 3 then
      let s := match k.handling with
        | some p => copyUncount s p
        | none => s
      .set (haltTask (setCC s { cc s with slotAt := curCyc s + 1 }) k.task 2 none)
    else .set (giveVerdict s verdict)) s

/-- FAULT_STRAND_START: the fault strand starts on the pending record of least sequence number, in a hold once every
issued word has completed (R48, R216). -/
def execFaultStrandStart (s : State) : Host.Outcome State Fault Refusal :=
  let k := cc s
  if k.run == .on && hasFaultStrand s k && k.handling.isNone && (!k.hold || (inHold k (curCyc s) && holdQuiet k)) then
    match nextRecord k.pendRecs with
    | some (p, rest) => .next (startHandling s s.cur p rest)
    | none => .next s
  else .next s

/-! ### Fetch faults and the end of a block (R20, R187) -/

/-- The fault of a fetch at an address, or the word (R187). The word is that of memory now: of the old and the new value that
R155 allows until a control transfer, the new one (DESIGN CHOICE, log entry 111). An address that is no multiple of 4 names no
fault of its own: its 4 bytes are read from there (DESIGN CHOICE, log entry 18). -/
def fetchAt (s : State) (c : Nat) (pc : W64) : State × Except Flt W32 :=
  match reach s c pc 4 pX false false with
  | (s, .flt f) => (s, .error f)
  | (s, .ok loc _) =>
    match uncorrectable s loc 4 with
    | some d => (s, .error { code := 0x0020, addr := pc, detail := BitVec.ofNat 64 d })
    | none => (s, .ok (BitVec.ofNat 32 (readNat s loc 4)))

/-- Where the word at `pc` lies, where that is another device (R187). -/
def farFetch (s : State) (c : Nat) (pc : W64) : Option (State × Nat) :=
  match reach s c pc 4 pX false false with
  | (s, .ok (.named pa) _) => if paTarget pa = 14 then some (s, pa) else none
  | _ => none

/-- The word that another device has answered with, for the strand's pc. -/
def fetchedWord (t : Strand) : Option W32 := (t.fetched.filter fun e => e.1 == t.pc).map (·.2)

/-- INSTRUCTION_FETCH_FAULT: the fetch of the current strand's next word faults; no C-word was read. -/
def execInstructionFetchFault (s : State) : Host.Outcome State Fault Refusal :=
  match fetchAt s s.cur (cst s).pc with
  | (s, .error f) => .next (faultIssue s (cc s).cs f 0)
  | (s, .ok _) => .next s

/-- BLOCK_END: a strand that has issued 1,024 instructions in its block gives way to the next ready strand (R20). -/
def execBlockEnd (s : State) : Host.Outcome State Fault Refusal :=
  let k := cc s
  let t := getStrand k k.cs
  if decide (t.block < 1024) || isPrologue s.cur then .next s
  else
    let next := ([1, 2, 3].find? fun i => strandReady s s.cur ((k.cs + i) % 4)).map fun i => (k.cs + i) % 4
    let m := next.getD k.cs
    let k := setStrand k k.cs { t with block := 0 }
    .next (setCC s { setStrand k m { getStrand k m with block := 0 } with cs := m, ended := false })

end Sys2Proof.Machine
end

