-- ==== Sys2Proof/Machine/Flags.lean ====
section
/-! DEFINITION. Lanes, masks and the sticky flags of the vector engine (R121, R122, R230), and the clamps of the integer
words (R244). -/

namespace Sys2Proof.Machine

/-- The lane that element `e` of width `w` belongs to (R230). -/
def laneOf (w e : Nat) : Nat := if w = 64 then 2 * e else e * w / 32

/-- Whether a mask enables an element. -/
def enabled (m : W64) (w e : Nat) : Bool := m.getLsbD (laneOf w e)

/-- The flags of lane `l` at their place in `vx`. -/
def laneFlags (l : Nat) (f : Flags) : Nat := f.toNat * 2 ^ (5 * l)

/-- The flags of lane `l` of `vx`. -/
def vxLane (vx : BitVec 320) (l : Nat) : Flags := vx.extractLsb' (5 * l) 5

/-- The flags of every lane that a mask enables, all ones (R260). -/
def vxMask (m : W64) : Nat := (List.range 64).foldl (fun a l => if m.getLsbD l then a + laneFlags l 31 else a) 0

/-- Element `e` of width `w` of a register. -/
def elemOf (v : BitVec 2048) (w e : Nat) : Nat := v.toNat / 2 ^ (w * e) % 2 ^ w

/-- A number of width `w` read in a signedness. -/
def elemInt (signed : Bool) (w n : Nat) : Int :=
  if signed && decide (2 ^ (w - 1) ≤ n % 2 ^ w) then ((n % 2 ^ w : Nat) : Int) - (2 ^ w : Nat) else ((n % 2 ^ w : Nat) : Int)

/-- The range of an integer type (R244). -/
def typeMin (signed : Bool) (w : Nat) : Int := if signed then -((2 ^ (w - 1) : Nat) : Int) else 0
def typeMax (signed : Bool) (w : Nat) : Int := if signed then (2 ^ (w - 1) : Nat) - 1 else (2 ^ w : Nat) - 1

/-- An exact integer written to an element: modulo 2^w, or clamped to the type's range (R244). -/
def intOut (signed sat : Bool) (w : Nat) (i : Int) : Nat :=
  ((if sat then clampInt (typeMin signed w) (typeMax signed w) i else i) % ((2 ^ w : Nat) : Int)).toNat

/-- What a word leaves of its destination: the bits written, their values, and the flags for `vx`. -/
structure VOut where
  val : Nat := 0
  msk : Nat := 0
  fl : Nat := 0
  deriving DecidableEq, Repr

/-- Write element `e` of width `w`. -/
def VOut.put (o : VOut) (w e v : Nat) : VOut :=
  { o with val := o.val ||| (v % 2 ^ w * 2 ^ (w * e)), msk := o.msk ||| ((2 ^ w - 1) * 2 ^ (w * e)) }

/-- Raise flags in a lane. -/
def VOut.flag (o : VOut) (l : Nat) (f : Flags) : VOut := { o with fl := o.fl ||| laneFlags l f }

/-- Elements `e` on, `k` of them, under the rules of R230: an enabled element takes `f e`, a disabled one keeps its bits
or is zeroed. -/
def eachElem (m : W64) (mz : Bool) (w : Nat) (f : Nat → Nat × Flags) : Nat → Nat → VOut → VOut
  | 0, _, o => o
  | k + 1, e, o =>
    let o :=
      if enabled m w e then let (v, fl) := f e; (o.put w e v).flag (laneOf w e) fl
      else if mz then o.put w e 0 else o
    eachElem m mz w f k (e + 1) o

/-- Every element of a register. -/
def mapElems (m : W64) (mz : Bool) (w : Nat) (f : Nat → Nat × Flags) : VOut := eachElem m mz w f (2048 / w) 0 {}

end Sys2Proof.Machine
end

