-- ==== Sys2Proof/Machine/VecCore.lean ====
section
/-! DEFINITION. How a vector word issues and completes: its registers (R228), its latency and what blocks it (R237 to
R239, R264), register errors (R261), and the landing of its result (R238). -/

namespace Sys2Proof.Machine

/-! ### Registers -/

def vreg (k : Core) (r : BitVec 5) : BitVec 2048 := tget 0 k.vec.v r.toNat
/-- `m0` reads all ones (R228). -/
def maskOf (k : Core) (m : BitVec 3) : W64 := if m = 0 then BitVec.allOnes 64 else tget 0 k.vec.m m.toNat
/-- The mask that a register field names (R232). -/
def fieldMask (r : BitVec 5) : BitVec 3 := r.extractLsb' 0 3

/-- Registers as numbers for the blocking rules and the detail of 0x0201: 0 to 31 for `v`, 32 + j for `mj` (R261). -/
def vNo (r : BitVec 5) : Nat := r.toNat
def mNo (m : BitVec 3) : List Nat := if m = 0 then [] else [32 + m.toNat]

/-- What a vector word reads and writes, and its latency (R237, R264). -/
structure VUses where
  reads : List Nat
  dst : Option Nat
  lat : Nat
  classC : Bool := false
  /-- vxrd and vxclr. -/
  flagWord : Bool := false
  deriving DecidableEq, Repr

/-! ### Landing (R238) -/

/-- The register a result is owed to. -/
def destNo : VDest → Option Nat
  | .reg vd _ _ => some vd
  | .mask md _ _ => some (32 + md)
  | .none | .clearVx _ => none

/-- Write a result: the bits of its mask; a register written whole loses its error (R261). -/
def landDest (v : Vec) (d : VDest) : Vec :=
  match d with
  | .none => v
  | .reg vd val msk =>
    { v with v := tput 0 v.v vd ((tget 0 v.v vd &&& ~~~msk) ||| (val &&& msk))
             bad := if msk = BitVec.allOnes 2048 then v.bad.filter (· ≠ vd) else v.bad }
  | .mask md val msk =>
    { v with m := tput 0 v.m md ((tget 0 v.m md &&& ~~~msk) ||| (val &&& msk))
             bad := if msk = BitVec.allOnes 64 then v.bad.filter (· ≠ 32 + md) else v.bad }
  | .clearVx msk => { v with vx := v.vx &&& ~~~msk }

/-- A word that has done everything but write: destination, flags, then completion. The word stands at the head of `fly`
no longer. -/
def vecLand (s : State) (x : VIssued) : State :=
  let k := cc s
  let v := landDest k.vec x.dest
  completeWord (setCC s { k with vec := { v with vx := v.vx ||| x.flags } }) 0 x.i

/-- The first word in flight whose cycle has come, and the others. -/
def vecTake (now : Nat) : List VIssued → Option (VIssued × List VIssued)
  | [] => none
  | x :: t =>
    if (match x.i.due with | some d => decide (d ≤ now) | none => false) then some (x, t)
    else (vecTake now t).map fun (y, r) => (y, x :: r)

/-- Complete every word whose cycle has come, in issue order. -/
def vecComplete : Nat → State → State
  | 0, s => s
  | n + 1, s =>
    match vecTake (curCyc s) (cc s).vec.fly with
    | none => s
    | some (x, rest) => vecComplete n (vecLand (setCC s { cc s with vec := { (cc s).vec with fly := rest } }) x)

def vecSettle (s : State) : State := vecComplete (cc s).vec.fly.length s

/-! ### Blocking (R239, R284) -/

/-- The NF bit of an issued word; vsplat has none and counts as a word with NF 0. -/
def wordNf (w : W64) : Bool := w.getLsbD 22 && w.extractLsb' 56 8 != 3#8

/-- What one word in flight does to a word that would issue at `now`. -/
def flyHolds (now : Nat) (u : VUses) (x : VIssued) : List Hold :=
  match x.i.due with
  | none => []
  | some d =>
    (match destNo x.dest with
      | some r =>
        (if u.reads.contains r && decide (now < d) then [Hold.timed d] else [])
        ++ (if decide (u.dst = some r) && decide (now + u.lat ≤ d) then [.timed (d - u.lat + 1)] else [])
      | none => [])
    ++ (if u.flagWord && !wordNf x.i.w.bits && decide (now < d) then [.timed d] else [])

def vecHolds (s : State) (u : VUses) : List Hold :=
  let v := (cc s).vec
  (v.fly.flatMap (flyHolds (curCyc s) u)) ++ (if u.classC && decide (curCyc s < v.cFree) then [.timed v.cFree] else [])

/-! ### Issue -/

/-- The first register read that holds an uncorrectable error (R261). -/
def badReg (k : Core) (u : VUses) : Option Nat := u.reads.find? fun r => k.vec.bad.contains r

/-- Put an issued word in flight. -/
def vecStart (s : State) (x : VIssued) (classC : Bool) : State :=
  let k := cc s
  let v := k.vec
  setCC s { k with vec := { v with fly := v.fly ++ [x], cFree := if classC then curCyc s + 8 else v.cFree } }

/-- A vector word that touches no memory: `run` gives its destination and flags from the registers at issue. -/
def vecWord (h : EHead) (u : VUses) (run : Core → VDest × Nat) (s : State) : Host.Outcome State Fault Refusal :=
  .next (issueState 0 h (fun _ => false) (fun s _ => vecHolds s u)
    (fun s _ =>
      match badReg (cc s) u with
      | some r => .flt { code := 0x0201, detail := BitVec.ofNat 64 r }
      | none =>
        let (d, fl) := run (cc s)
        .go s fun s i =>
          vecStart s { i := { i with due := some (i.t + u.lat) }, dest := d, flags := BitVec.ofNat 320 fl, acc := none } u.classC)
    (vecSettle s))

/-- The registers of a VR word: `srcs`, its mask, and the old destination where the mask may keep it (R238). -/
def vrUses (w : VWord) (srcs : List (BitVec 5)) (lat : Nat) : VUses :=
  { reads := srcs.map vNo ++ mNo w.m ++ (if w.m ≠ 0 && !w.mz then [vNo w.vd] else []), dst := some (vNo w.vd), lat := lat }

/-- Flags of a word, none where NF is set (R122). -/
def nfFlags (w : VWord) (fl : Nat) : Nat := if w.nf then 0 else fl

/-- A destination from what a word wrote. -/
def VOut.reg (o : VOut) (vd : BitVec 5) : VDest := .reg vd.toNat (BitVec.ofNat 2048 o.val) (BitVec.ofNat 2048 o.msk)
def VOut.mask (o : VOut) (md : BitVec 5) : VDest := .mask (fieldMask md).toNat (BitVec.ofNat 64 o.val) (BitVec.ofNat 64 o.msk)

/-- A word that writes `vd` from a function of the core. -/
def vecReg (w : VWord) (u : VUses) (f : Core → VOut) (s : State) : Host.Outcome State Fault Refusal :=
  vecWord w.h u (fun k => let o := f k; (o.reg w.vd, nfFlags w o.fl)) s

/-- A word that computes each element of `vd` by itself, of the width of its type. -/
def vecMap (lat : Nat) (srcs : List (BitVec 5)) (w : VWord) (f : Core → Nat → Nat × Flags) (s : State) :
    Host.Outcome State Fault Refusal :=
  vecReg w (vrUses w srcs lat) (fun k => mapElems (maskOf k w.m) w.mz (vty w).width (f k)) s

/-- VECTOR_WORD_COMPLETION: every word whose cycle has come writes its destination, ORs its flags and completes. -/
def execVectorWordCompletion (s : State) : Host.Outcome State Fault Refusal := .next (vecSettle s)

end Sys2Proof.Machine
end

