-- ==== Sys2Proof/Machine/Vector.lean ====
section
/-! DEFINITION. The vector words of rows 0x02 to 0x55 (R236): moves, floating point, integers, compares, conversions,
permutes. -/

namespace Sys2Proof.Machine

/-- The rounding mode of a word. -/
def vrm (w : VWord) : Rm := rmD w.rm

/-- Element `e` of a register of the word's type. -/
def vel (w : VWord) (k : Core) (r : BitVec 5) (e : Nat) : Nat := elemOf (vreg k r) (vty w).width e
/-- The same, as an integer in the type's signedness, and as a float. -/
def veli (w : VWord) (k : Core) (r : BitVec 5) (e : Nat) : Int := elemInt (vty w).signed (vty w).width (vel w k r e)
def velf (w : VWord) (k : Core) (r : BitVec 5) (e : Nat) : FVal := (vty w).ff.decode (vel w k r e)

/-! ### Moves, splat and flags (R258 to R260) -/

/-- Bits `l` of a mask from a test, under the lane enables and mz (R258). -/
def maskBits (m : W64) (mz : Bool) (f : Nat → Bool) : VOut :=
  (List.range 64).foldl (fun o l =>
    if m.getLsbD l then { o with val := o.val + (if f l then 2 ^ l else 0), msk := o.msk + 2 ^ l }
    else if mz then { o with msk := o.msk + 2 ^ l } else o) {}

/-- The registers of a word that writes a mask. -/
def mdUses (w : VWord) (reads : List Nat) (lat : Nat) : VUses :=
  { reads := reads ++ mNo w.m ++ (if w.m ≠ 0 && !w.mz then mNo (fieldMask w.vd) else [])
    dst := some (32 + (fieldMask w.vd).toNat), lat := lat }

def execVmov (w : VWord) (s : State) : Host.Outcome State Fault Refusal :=
  match w.fn.toNat with
  | 1 =>
    vecWord w.h (mdUses w [vNo w.va] 2)
      (fun k => ((maskBits (maskOf k w.m) w.mz fun l => elemOf (vreg k w.va) 32 l != 0).mask w.vd, 0)) s
  | 2 =>
    vecReg w { vrUses w [] 2 with reads := (vrUses w [] 2).reads ++ mNo (fieldMask w.va) }
      (fun k => mapElems (maskOf k w.m) w.mz 32 fun l => (if (maskOf k (fieldMask w.va)).getLsbD l then 2 ^ 32 - 1 else 0, 0)) s
  | _ => vecReg w (vrUses w [w.va] 2) (fun k => mapElems (maskOf k w.m) w.mz 32 fun l => (elemOf (vreg k w.va) 32 l, 0)) s

/-- Width and value of a vsplat element (R259). -/
def splatElem (w : VSplat) : Nat × Nat :=
  match w.size.toNat with
  | 0 => (32, w.imm.toNat)
  | 1 => (64, (w.imm.signExtend 64).toNat)
  | 2 => (16, w.imm.toNat)
  | _ => (8, w.imm.toNat)

def execVsplat (w : VSplat) (s : State) : Host.Outcome State Fault Refusal :=
  vecWord w.h { reads := [], dst := some (vNo w.vd), lat := 2 }
    (fun _ => ((mapElems (BitVec.allOnes 64) false (splatElem w).1 fun _ => ((splatElem w).2, 0)).reg w.vd, 0)) s

def execVxrd (w : VWord) (s : State) : Host.Outcome State Fault Refusal :=
  vecWord w.h { reads := [], dst := some (vNo w.vd), lat := 2, flagWord := true }
    (fun k => ((mapElems (BitVec.allOnes 64) false 32 fun l => ((vxLane k.vec.vx l).toNat, 0)).reg w.vd, 0)) s

def execVxclr (w : VWord) (s : State) : Host.Outcome State Fault Refusal :=
  vecWord w.h { reads := mNo w.m, dst := none, lat := 2, flagWord := true }
    (fun k => (.clearVx (BitVec.ofNat 320 (vxMask (maskOf k w.m))), 0)) s

/-! ### Floating point (R241 to R243) -/

/-- Two operands, three operands, one operand. -/
def vecF2 (lat : Nat) (f : FFmt → Rm → FVal → FVal → Nat × Flags) (w : VWord) (s : State) : Host.Outcome State Fault Refusal :=
  vecMap lat [w.va, w.vb] w (fun k e => f (vty w).ff (vrm w) (velf w k w.va e) (velf w k w.vb e)) s

def vecF3 (f : FFmt → Rm → FVal → FVal → FVal → Nat × Flags) (w : VWord) (s : State) : Host.Outcome State Fault Refusal :=
  vecMap 4 [w.va, w.vb, w.vc] w
    (fun k e => f (vty w).ff (vrm w) (velf w k w.va e) (velf w k w.vb e) (velf w k w.vc e)) s

/-- Class C words keep their unit for 8 cycles (R239). -/
def vecC (srcs : List (BitVec 5)) (w : VWord) (f : Core → Nat → Nat × Flags) (s : State) : Host.Outcome State Fault Refusal :=
  vecReg w { vrUses w srcs 14 with classC := true } (fun k => mapElems (maskOf k w.m) w.mz (vty w).width (f k)) s

def vecC1 (f : FFmt → Rm → FVal → Nat × Flags) (w : VWord) (s : State) : Host.Outcome State Fault Refusal :=
  vecC [w.va] w (fun k e => f (vty w).ff (vrm w) (velf w k w.va e)) s

def execVfadd (w : VWord) (s : State) : Host.Outcome State Fault Refusal := vecF2 4 fAdd w s
def execVfsub (w : VWord) (s : State) : Host.Outcome State Fault Refusal := vecF2 4 fSub w s
def execVfmul (w : VWord) (s : State) : Host.Outcome State Fault Refusal := vecF2 4 fMul w s
def execVfma (w : VWord) (s : State) : Host.Outcome State Fault Refusal := vecF3 fMa w s
def execVfms (w : VWord) (s : State) : Host.Outcome State Fault Refusal :=
  vecF3 (fun f md a b c => fMa f md a b c.negate) w s
def execVfnma (w : VWord) (s : State) : Host.Outcome State Fault Refusal :=
  vecF3 (fun f md a b c => fMa f md a.negate b c) w s
def execVfdiv (w : VWord) (s : State) : Host.Outcome State Fault Refusal :=
  vecC [w.va, w.vb] w (fun k e => fDiv (vty w).ff (vrm w) (velf w k w.va e) (velf w k w.vb e)) s
def execVfsqrt (w : VWord) (s : State) : Host.Outcome State Fault Refusal := vecC1 fSqrt w s
def execVfexp2 (w : VWord) (s : State) : Host.Outcome State Fault Refusal := vecC1 fExp2 w s
def execVflog2 (w : VWord) (s : State) : Host.Outcome State Fault Refusal := vecC1 fLog2 w s
def execVfrsqrt (w : VWord) (s : State) : Host.Outcome State Fault Refusal := vecC1 fRsqrt w s
def execVfrcp (w : VWord) (s : State) : Host.Outcome State Fault Refusal := vecC1 fRcp w s

def execVfmin (w : VWord) (s : State) : Host.Outcome State Fault Refusal :=
  vecMap 2 [w.va, w.vb] w (fun k e => fMinMax (vty w).ff false (vel w k w.va e) (vel w k w.vb e)) s
def execVfmax (w : VWord) (s : State) : Host.Outcome State Fault Refusal :=
  vecMap 2 [w.va, w.vb] w (fun k e => fMinMax (vty w).ff true (vel w k w.va e) (vel w k w.vb e)) s
def execVfabs (w : VWord) (s : State) : Host.Outcome State Fault Refusal :=
  vecMap 2 [w.va] w (fun k e => (fAbs (vty w).ff (vel w k w.va e), 0)) s
def execVfneg (w : VWord) (s : State) : Host.Outcome State Fault Refusal :=
  vecMap 2 [w.va] w (fun k e => (fNeg (vty w).ff (vel w k w.va e), 0)) s

/-! ### Integers (R244, R245) -/

/-- fn[0]: saturate. -/
def satBit (w : VWord) : Bool := w.fn.getLsbD 0

/-- The exact result written to an element of the word's type. -/
def vint (w : VWord) (sat : Bool) (i : Int) : Nat × Flags := (intOut (vty w).signed sat (vty w).width i, 0)

def vecI2 (lat : Nat) (sat : Bool) (f : Int → Int → Int) (w : VWord) (s : State) : Host.Outcome State Fault Refusal :=
  vecMap lat [w.va, w.vb] w (fun k e => vint w sat (f (veli w k w.va e) (veli w k w.vb e))) s

/-- Bitwise words. -/
def vecBit (f : Nat → Nat → Nat) (w : VWord) (s : State) : Host.Outcome State Fault Refusal :=
  vecMap 2 [w.va, w.vb] w (fun k e => (f (vel w k w.va e) (vel w k w.vb e), 0)) s

def execVadd (w : VWord) (s : State) : Host.Outcome State Fault Refusal := vecI2 2 (satBit w) (· + ·) w s
def execVsub (w : VWord) (s : State) : Host.Outcome State Fault Refusal := vecI2 2 (satBit w) (· - ·) w s
def execVmul (w : VWord) (s : State) : Host.Outcome State Fault Refusal := vecI2 4 (satBit w) (· * ·) w s
def execVmulh (w : VWord) (s : State) : Host.Outcome State Fault Refusal :=
  vecI2 4 false (fun a b => (a * b).fdiv ((2 ^ (vty w).width : Nat) : Int)) w s
def execVmad (w : VWord) (s : State) : Host.Outcome State Fault Refusal :=
  vecMap 4 [w.va, w.vb, w.vc] w
    (fun k e => vint w (satBit w) (veli w k w.va e * veli w k w.vb e + veli w k w.vc e)) s
def execVmin (w : VWord) (s : State) : Host.Outcome State Fault Refusal :=
  vecI2 2 false (fun a b => if b < a then b else a) w s
def execVmax (w : VWord) (s : State) : Host.Outcome State Fault Refusal :=
  vecI2 2 false (fun a b => if a < b then b else a) w s
def execVabs (w : VWord) (s : State) : Host.Outcome State Fault Refusal :=
  vecMap 2 [w.va] w (fun k e => vint w (satBit w) (veli w k w.va e).natAbs) s
def execVand (w : VWord) (s : State) : Host.Outcome State Fault Refusal := vecBit (· &&& ·) w s
def execVor (w : VWord) (s : State) : Host.Outcome State Fault Refusal := vecBit (· ||| ·) w s
def execVxor (w : VWord) (s : State) : Host.Outcome State Fault Refusal := vecBit (· ^^^ ·) w s

/-- The shift amount of R245. -/
def shiftAmt (w : VWord) (k : Core) (e : Nat) : Nat :=
  if w.fn.getLsbD 0 then (w.fn.extractLsb' 1 6).toNat else vel w k w.vb e % (vty w).width

def vecShift (f : VWord → Core → Nat → Nat → Nat) (w : VWord) (s : State) : Host.Outcome State Fault Refusal :=
  vecMap 2 (if w.fn.getLsbD 0 then [w.va] else [w.va, w.vb]) w (fun k e => (f w k e (shiftAmt w k e), 0)) s

def execVsll (w : VWord) (s : State) : Host.Outcome State Fault Refusal :=
  vecShift (fun w k e n => vel w k w.va e * 2 ^ n) w s
def execVsrl (w : VWord) (s : State) : Host.Outcome State Fault Refusal :=
  vecShift (fun w k e n => vel w k w.va e / 2 ^ n) w s
def execVsra (w : VWord) (s : State) : Host.Outcome State Fault Refusal :=
  vecShift (fun w k e n =>
    intOut true false (vty w).width ((elemInt true (vty w).width (vel w k w.va e)).fdiv ((2 ^ n : Nat) : Int))) w s

/-- The number of one bits among the low `n`. -/
def onesOf (v : Nat) : Nat → Nat
  | 0 => 0
  | n + 1 => (if v.testBit n then 1 else 0) + onesOf v n

def execVpopc (w : VWord) (s : State) : Host.Outcome State Fault Refusal :=
  vecMap 2 [w.va] w (fun k e => (onesOf (vel w k w.va e) (vty w).width, 0)) s

/-! ### Compare, select, class and mask words (R246 to R250) -/

/-- The element that lane `l` belongs to, for widths of 32 and 64. -/
def elemOfLane (w l : Nat) : Nat := if w = 64 then l / 2 else l

/-- A compare: each element's condition with its flags goes to `vd`, or to the lanes of a mask (R247). With 64-bit
elements bit 2e of `m` governs both bits of element e (R230; DEDUCED, log entry 39). -/
def vecCmp (w : VWord) (f : Core → Nat → Bool × Flags) (s : State) : Host.Outcome State Fault Refusal :=
  let wd := (vty w).width
  if w.fn.getLsbD 3 then
    vecWord w.h (mdUses w [vNo w.va, vNo w.vb] 2)
      (fun k =>
        let m := maskOf k w.m
        let em (l : Nat) : Bool := m.getLsbD (laneOf wd (elemOfLane wd l))
        let o : VOut := (List.range 64).foldl (fun o l =>
          if em l then { o with val := o.val + (if (f k (elemOfLane wd l)).1 then 2 ^ l else 0), msk := o.msk + 2 ^ l }
          else if w.mz then { o with msk := o.msk + 2 ^ l } else o) {}
        (o.mask w.vd, nfFlags w (mapElems m w.mz wd fun e => (0, (f k e).2)).fl)) s
  else
    vecMap 2 [w.va, w.vb] w (fun k e => let (b, fl) := f k e; (if b then 2 ^ wd - 1 else 0, fl)) s

def execVfcmp (w : VWord) (s : State) : Host.Outcome State Fault Refusal :=
  vecCmp w (fun k e => fCompare ((fcondOf (w.fn.extractLsb' 0 3).toNat).getD .eq) (velf w k w.va e) (velf w k w.vb e)) s

/-- The conditions 0 to 5 on integers. -/
def iCompare (c : Nat) (a b : Int) : Bool :=
  match c with
  | 0 => decide (a = b)
  | 1 => decide (a ≠ b)
  | 2 => decide (a < b)
  | 3 => decide (a ≤ b)
  | 4 => decide (b < a)
  | _ => decide (b ≤ a)

def execVcmp (w : VWord) (s : State) : Host.Outcome State Fault Refusal :=
  vecCmp w (fun k e => (iCompare (w.fn.extractLsb' 0 3).toNat (veli w k w.va e) (veli w k w.vb e), 0)) s

def execVsel (w : VWord) (s : State) : Host.Outcome State Fault Refusal :=
  vecMap 2 [w.va, w.vb, w.vc] w
    (fun k e => (if (vel w k w.vc e).testBit ((vty w).width - 1) then vel w k w.va e else vel w k w.vb e, 0)) s

def execVclass (w : VWord) (s : State) : Host.Outcome State Fault Refusal :=
  vecMap 2 [w.va] w (fun k e => (fClass (vty w).ff (vel w k w.va e), 0)) s

/-- Mask words act on whole masks. -/
def vecMask (w : VWord) (two : Bool) (f : W64 → W64 → W64) (s : State) : Host.Outcome State Fault Refusal :=
  let md := (fieldMask w.vd).toNat
  vecWord w.h
    { reads := mNo (fieldMask w.va) ++ (if two then mNo (fieldMask w.vb) else []), dst := some (32 + md), lat := 2 }
    (fun k => (.mask md (f (maskOf k (fieldMask w.va)) (maskOf k (fieldMask w.vb))) (BitVec.allOnes 64), 0)) s

def execVmand (w : VWord) (s : State) : Host.Outcome State Fault Refusal := vecMask w true (· &&& ·) s
def execVmor (w : VWord) (s : State) : Host.Outcome State Fault Refusal := vecMask w true (· ||| ·) s
def execVmxor (w : VWord) (s : State) : Host.Outcome State Fault Refusal := vecMask w true (· ^^^ ·) s
def execVmnot (w : VWord) (s : State) : Host.Outcome State Fault Refusal := vecMask w false (fun a _ => ~~~a) s

def execVmpopc (w : VWord) (s : State) : Host.Outcome State Fault Refusal :=
  vecWord w.h { reads := mNo (fieldMask w.va), dst := some (vNo w.vd), lat := 2 }
    (fun k => (.reg w.vd.toNat (BitVec.ofNat 2048 (onesOf (maskOf k (fieldMask w.va)).toNat 64)) (BitVec.allOnes 2048), 0)) s

/-! ### Conversions (R251 to R256) -/

/-- The elements of a conversion from `i` on, `n` of them: widths `ws` and `wd`, position `k`. -/
def cvtElems (m : W64) (mz : Bool) (ws wd k nn : Nat) (src : BitVec 2048) (f : Nat → Nat × Flags) : Nat → Nat → VOut → VOut
  | 0, _, o => o
  | n + 1, i, o =>
    let big := Nat.max ws wd
    let se := if wd < ws then i else k * nn + i
    let de := if wd < ws then k * nn + i else i
    let o :=
      if enabled m big i then
        let (v, fl) := f (elemOf src ws se)
        (o.put wd de v).flag (laneOf big i) fl
      else if mz then o.put wd de 0 else o
    cvtElems m mz ws wd k nn src f n (i + 1) o

def vecCvt (w : VWord) (f : VTy → Nat → Nat × Flags) (s : State) : Host.Outcome State Fault Refusal :=
  let d := (cvtDst w).getD .f32
  let ws := (vty w).width
  let wd := d.width
  let nn := 2048 / Nat.max ws wd
  vecReg w (vrUses w [w.va] 4)
    (fun k => cvtElems (maskOf k w.m) w.mz ws wd (cvtPos w) nn (vreg k w.va) (f d) nn 0 {}) s

def execVcvt (w : VWord) (s : State) : Host.Outcome State Fault Refusal :=
  vecCvt w (fun d c =>
    if (vty w).isF then d.ff.convert (vrm w) ((vty w).ff.decode c)
    else (intOut d.signed (w.fn.getLsbD 7) d.width (elemInt (vty w).signed (vty w).width c), 0)) s

/-- A float to an integer (R120, R253). -/
def toInteger (md : Rm) (signed : Bool) (w : Nat) (v : FVal) : Nat × Flags :=
  match v with
  | .nan _ _ => (0, fNV)
  | .inf n => (intOut signed false w (if n then typeMin signed w else typeMax signed w), fNV ||| fNX)
  | .fin _ _ _ =>
    let (i, ix) := v.dy.roundInt md
    let c := clampInt (typeMin signed w) (typeMax signed w) i
    (intOut signed false w c, if c ≠ i then fNV ||| fNX else if ix then fNX else 0)

def execVcvti (w : VWord) (s : State) : Host.Outcome State Fault Refusal :=
  vecCvt w (fun d c => toInteger (vrm w) d.signed d.width ((vty w).ff.decode c)) s

def execVcvtf (w : VWord) (s : State) : Host.Outcome State Fault Refusal :=
  vecCvt w (fun d c => d.ff.round (vrm w) (Dy.ofInt (elemInt (vty w).signed (vty w).width c)) false) s

/-- Bits of a piece of a packed format (R255). -/
def pieceBits : Fmt → Nat
  | .e2m1 => 256
  | .e2m3 | .e3m2 | .zt6 => 384
  | _ => 512

/-- Write `wd` bits at a bit position. -/
def VOut.putAt (o : VOut) (pos wd v : Nat) : VOut :=
  { o with val := o.val ||| (v % 2 ^ wd * 2 ^ pos), msk := o.msk ||| ((2 ^ wd - 1) * 2 ^ pos) }

def execVpack (w : VWord) (s : State) : Host.Outcome State Fault Refusal :=
  let f := (packFmt w).getD .e4m3
  let base := packPiece w * pieceBits f
  vecReg w (vrUses w [w.va] 4)
    (fun k => (List.range 64).foldl (fun o i =>
      if (maskOf k w.m).getLsbD i then
        let (c, fl) := f.convert (vrm w) (fmtFP32.decode (elemOf (vreg k w.va) 32 i))
        (o.putAt (base + i * f.width) f.width c).flag i fl
      else if w.mz then o.putAt (base + i * f.width) f.width 0 else o) {}) s

/-- A narrow code as an FP32 value (R256). -/
def unpackCode (f : Fmt) (c : Nat) : Nat × Flags :=
  match f.decode c with
  | .nan _ _ => (fmtFP32.canon, if f = .zt8 ∨ f = .zt6 then fNV else 0)
  | v => ((fmtFP32.convert .rne v).1, 0)

def execVunpk (w : VWord) (s : State) : Host.Outcome State Fault Refusal :=
  let f := (packFmt w).getD .e4m3
  let base := packPiece w * pieceBits f
  vecReg w (vrUses w [w.va] 4)
    (fun k => mapElems (maskOf k w.m) w.mz 32 fun i =>
      unpackCode f ((vreg k w.va).toNat / 2 ^ (base + i * f.width) % 2 ^ f.width)) s

/-! ### Permutes (R257) -/

def vecPerm (w : VWord) (srcs : List (BitVec 5)) (f : Core → Nat → Nat) (s : State) : Host.Outcome State Fault Refusal :=
  vecMap 4 srcs w (fun k e => (f k e, 0)) s

def execVperm (w : VWord) (s : State) : Host.Outcome State Fault Refusal :=
  vecPerm w [w.va, w.vb] (fun k e => vel w k w.va (vel w k w.vb e % (vty w).n)) s
def execVrot (w : VWord) (s : State) : Host.Outcome State Fault Refusal :=
  vecPerm w [w.va] (fun k e => vel w k w.va ((e + w.fn.toNat) % (vty w).n)) s
def execVslide (w : VWord) (s : State) : Host.Outcome State Fault Refusal :=
  vecPerm w [w.va, w.vb] (fun k e =>
    let i := e + w.fn.toNat
    if i < (vty w).n then vel w k w.va i else vel w k w.vb (i - (vty w).n)) s
def execVzip (w : VWord) (s : State) : Host.Outcome State Fault Refusal :=
  vecPerm w [w.va, w.vb] (fun k e =>
    let b := (if w.fn.getLsbD 0 then (vty w).n / 2 else 0) + e / 2
    if e % 2 = 0 then vel w k w.va b else vel w k w.vb b) s
def execVunzip (w : VWord) (s : State) : Host.Outcome State Fault Refusal :=
  vecPerm w [w.va, w.vb] (fun k e =>
    let i := 2 * e + (if w.fn.getLsbD 0 then 1 else 0)
    if i < (vty w).n then vel w k w.va i else vel w k w.vb (i - (vty w).n)) s
def execVbcast (w : VWord) (s : State) : Host.Outcome State Fault Refusal :=
  vecPerm w [w.va] (fun k _ => vel w k w.va w.fn.toNat) s

end Sys2Proof.Machine
end

