-- ==== Sys2Proof/Machine/VecMemory.lean ====
section
/-! DEFINITION. The memory words of the vector engine (R276 to R286). -/

namespace Sys2Proof.Machine

/-! ### What a word reaches (R277, R280) -/

/-- The shapes of memory words. -/
inductive VMemKind where
  | row (tag : Option TagKind)
  | index
  | mask
  deriving DecidableEq, Repr

def strmEmpty (m : Strm) : Bool := m.ext0 == 0 || m.ext1 == 0 || m.ext2 == 0

/-- A row outside the stream's extents. -/
def noRow (m : Strm) (k1 k2 : Nat) : Bool := strmEmpty m || decide (m.ext1.toNat ≤ k1) || decide (m.ext2.toNat ≤ k2)

/-- Elements that fit in a register (R277). -/
def regElems (wd : Nat) : Nat := if wd = 6 then 340 else 2048 / wd

/-- The count of R277. -/
def rowCount (m : Strm) (k1 k2 : Nat) : Nat :=
  if noRow m k1 k2 then 0 else Nat.min m.ext0.toNat (regElems (strmWidth m))

/-- The snapshot checks of R203, R277 to R280: every field that a check tests is used. -/
def vmemBad (kind : VMemKind) (w : VWord) (m : Strm) : Bool :=
  match fmtOf m.fmt.toNat with
  | none => true
  | some f =>
    (match kind with
      | .mask => f != .n64
      | .row (some _) => !(f == .n64 || f == .i64 || f == .c64)
      | .row none => f == .w128
      | .index => f.packed || f == .w128)
    || (if f.packed then m.str0 != 1 || decide (m.ext0.toNat % f.group ≠ 0) || w.m != 0
        else decide (m.base.toNat % (f.width / 8) ≠ 0))

/-- `total` bytes of a packed row from byte `o` on, in pieces that lie within 8-byte words. A packed element has no whole
number of bytes: check 1 of R281 asks no alignment of it, and a fault's addr is the start of its piece (DEDUCED, log entry
115). -/
def packedAccs (start : W64) (wd total : Nat) (reg : Nat) : Nat → Nat → List VAcc
  | 0, _ => []
  | n + 1, o =>
    if total ≤ o then []
    else
      let va := start + BitVec.ofNat 64 o
      let len := Nat.min (total - o) (8 - va.toNat % 8)
      mkAcc (o * 8 / wd) va len (8 * o) (leBytes len (reg / 2 ^ (8 * o))) :: packedAccs start wd total reg n (o + len)

/-- The accesses of a word, in ascending element order, with the bytes that a store writes. Where ext1 or ext2 is 0 a vgath makes
none (R202), and its enabled elements become zero (R280; DESIGN CHOICE, log entry 132). -/
def vmemAccs (kind : VMemKind) (w : VWord) (m : Strm) (k : Core) : List VAcc :=
  let k1 := w.fn.toNat
  let k2 := w.vc.toNat
  let wd := strmWidth m
  let mk := maskOf k w.m
  let reg := vreg k w.vd
  match kind with
  | .mask =>
    if noRow m k1 k2 then []
    else [mkAcc 0 (strmAddr m 0 k1 k2) 8 0 (leBytes 8 (maskOf k (fieldMask w.vd)).toNat)]
  | .row _ =>
    let n := rowCount m k1 k2
    if wd % 8 = 0 then
      ((List.range n).filter fun e => enabled mk wd e).map fun e =>
        mkAcc e (strmAddr m e k1 k2) (wd / 8) (wd * e) (leBytes (wd / 8) (elemOf reg wd e))
    else packedAccs (strmAddr m 0 k1 k2) wd (n * wd / 8) reg.toNat 256 0
  | .index =>
    if strmEmpty m then []
    else
      ((List.range (2048 / wd)).filter fun e => enabled mk wd e && decide (elemOf (vreg k w.vb) wd e < m.ext0.toNat)).map fun e =>
        mkAcc e (strmAddr m (elemOf (vreg k w.vb) wd e) 0 0) (wd / 8) (wd * e) (leBytes (wd / 8) (elemOf reg wd e))

/-- The destination of a load before its bytes: enabled elements zero, disabled ones kept or zeroed (R278). -/
def vmemDest (kind : VMemKind) (w : VWord) (m : Strm) (k : Core) : VDest :=
  match kind with
  | .mask => .mask (fieldMask w.vd).toNat 0 (BitVec.allOnes 64)
  | _ =>
    let wd := strmWidth m
    if wd % 8 = 0 then (mapElems (maskOf k w.m) w.mz wd fun _ => (0, 0)).reg w.vd
    else .reg w.vd.toNat 0 (BitVec.allOnes 2048)

/-- Put what was read into a destination. -/
def destFill (d : VDest) (l : List (VAcc × Nat)) : VDest :=
  let v := l.foldl (fun n (a, x) => n ||| (x * 2 ^ a.pos)) 0
  match d with
  | .reg vd val msk => .reg vd (val ||| BitVec.ofNat 2048 v) msk
  | .mask md _ msk => .mask md (BitVec.ofNat 64 v) msk
  | d => d

/-- The registers of a memory word. -/
def vmemUses (kind : VMemKind) (load : Bool) (w : VWord) : VUses :=
  let ix := if kind = .index then [vNo w.vb] else []
  match kind, load with
  | .mask, true => { reads := [], dst := some (32 + (fieldMask w.vd).toNat), lat := 6 }
  | .mask, false => { reads := mNo (fieldMask w.vd), dst := none, lat := 1 }
  | _, true => { vrUses w [] 6 with reads := ix ++ (vrUses w [] 6).reads }
  | _, false => { reads := [vNo w.vd] ++ ix ++ mNo w.m, dst := none, lat := 1 }

/-! ### Checks (R281) -/

def vmemNeed (kind : VMemKind) (load : Bool) : Perm :=
  (if load then pR else pW) ||| (match kind with | .row (some _) => pT | _ => 0)

/-- The alignment that check 1 asks for. -/
def vmemAlign (kind : VMemKind) (m : Strm) : Nat :=
  if kind = .mask then 8 else if strmWidth m % 8 = 0 then strmBytes m else 1

/-- Checks 1 to 8. -/
def vmemChecks (kind : VMemKind) (load : Bool) (qw : QWord) (m : Strm) (l : List VAcc) (s : State) :
    Except Flt (State × List VAcc) :=
  let al := vmemAlign kind m
  let (s', r) := reachAll s.cur (vmemNeed kind load) l s
  let t := located r
  let el (a : VAcc) : W64 := BitVec.ofNat 64 a.el
  let flt :=
    (fltAt 0x0205 l fun a => if a.va.toNat % al = 0 then none else some (BitVec.ofNat 64 al)).orElse fun _ =>
    (if (cc s).timed then fltAt 0x0204 l fun a => if inLocal a.va then none else some (el a) else none).orElse fun _ =>
    (stageFlt r).orElse fun _ =>
    (if kind = .index then fltAt 0x0202 t fun a => if inScr a then none else some (el a) else none).orElse fun _ =>
    (match kind with
      | .row (some _) => fltAt 0x0203 t fun a => if ownAcc s.cur [a] then none else some (el a)
      | _ => none).orElse fun _ =>
    if load || qw.noWatch then none else watchFlt s s.cur t
  match flt with
  | some f => .error f
  | none => .ok (s', t)

/-- Checks 9 and 10, made when the accesses are performed. -/
def vmemPortChecks (load : Bool) (l : List VAcc) (s : State) : Option Flt :=
  (raceFlt s s.cur (!load) l).orElse fun _ => if load then readFlt s 0 (lowVa l) l else none

/-- Perform plain accesses, stores on other devices by requests: the state and what was read. -/
def vmemPerform (load : Bool) (qw : QWord) (l : List VAcc) (s : State) : State × List (VAcc × Nat) :=
  let s := noteAll s.cur load (!load) true l (raceNote s.cur (!load) l s)
  if load then (s, readAll s 0 l) else (storeOut 0 qw l s, [])

/-! ### Issue and completion (R279, R283, R284) -/

/-- A memory word. The checks of R281 come first, the condition of a tagged word after them (R279; DEDUCED, log entry
116). -/
def vecMem (kind : VMemKind) (load : Bool) (w : VWord) (s : State) : Host.Outcome State Fault Refusal :=
  let u := vmemUses kind load w
  let sreg : SReg := w.va.extractLsb' 0 4
  .next (issueState 0 w.h (fun qw => vmemBad kind w (snapOf qw sreg)) (fun s _ => vecHolds s u)
    (fun s qw =>
      match badReg (cc s) u with
      | some r => .flt { code := 0x0201, detail := BitVec.ofNat 64 r }
      | none =>
        let m := snapOf qw sreg
        let d : VDest := if load then vmemDest kind w m (cc s) else .none
        orAsk s 0 (vmemAccs kind w m (cc s)) <|
        match vmemChecks kind load qw m (vmemAccs kind w m (cc s)) s with
        | .error f => .flt f
        | .ok (s, l) =>
          if ownAcc s.cur l then
            match kind with
            | .row (some t) =>
              match (if load then readFlt s 0 (lowVa l) l else none) with
              | some f => .flt f
              | none =>
                match tagFail t (cc s).full l with
                | some a => .wait [.flag 1 a.va]
                | none => .go s fun s i =>
                  let (s, r) := tagAll s.cur 0 qw t l (noteAll s.cur load (!load) false l s)
                  vecStart s { i := { i with due := some (i.t + u.lat) }, dest := destFill d r, flags := 0, acc := none } false
            | _ =>
              match vmemPortChecks load l s with
              | some f => .flt f
              | none => .go s fun s i =>
                let (s, r) := vmemPerform load qw l s
                vecStart s { i := { i with due := some (i.t + u.lat) }, dest := destFill d r, flags := 0, acc := none } false
          else .go s fun s i => vecStart s { i := i, dest := d, flags := 0, acc := some l, load := load } false)
    (vecSettle s))

def execVld (w : VWord) (s : State) : Host.Outcome State Fault Refusal := vecMem (.row none) true w s
def execVst (w : VWord) (s : State) : Host.Outcome State Fault Refusal := vecMem (.row none) false w s
def execVldf (w : VWord) (s : State) : Host.Outcome State Fault Refusal := vecMem (.row (some .readFull)) true w s
def execVldt (w : VWord) (s : State) : Host.Outcome State Fault Refusal := vecMem (.row (some .take)) true w s
def execVste (w : VWord) (s : State) : Host.Outcome State Fault Refusal := vecMem (.row (some .put)) false w s
def execVstf (w : VWord) (s : State) : Host.Outcome State Fault Refusal := vecMem (.row (some .setFull)) false w s
def execVgath (w : VWord) (s : State) : Host.Outcome State Fault Refusal := vecMem .index true w s
def execVscat (w : VWord) (s : State) : Host.Outcome State Fault Refusal := vecMem .index false w s
def execVldm (w : VWord) (s : State) : Host.Outcome State Fault Refusal := vecMem .mask true w s
def execVstm (w : VWord) (s : State) : Host.Outcome State Fault Refusal := vecMem .mask false w s

/-- The memory word outside the own scratchpad whose accesses are still to be performed, and the others. -/
def holdingWord : List VIssued → Option (VIssued × List VAcc × List VIssued)
  | [] => none
  | x :: t =>
    match x.acc, x.i.due with
    | some l, none => if x.i.faulted then (holdingWord t).map fun (y, a, r) => (y, a, x :: r) else some (x, l, t)
    | _, _ => (holdingWord t).map fun (y, a, r) => (y, a, x :: r)

/-- The first cycle in which a value that has come may land: behind every earlier word's write of its register (R239). -/
def landsAfter (now : Nat) (d : VDest) (fly : List VIssued) : Nat :=
  fly.foldl (fun n x => match destNo x.dest, x.i.due with
    | some r, some e => if destNo d = some r then Nat.max n (e + 1) else n
    | _, _ => n) now

/-- The memory word that held queue V is performed: what it read is a result in flight, and it completes when that lands
(R286). -/
def remoteOver (x : VIssued) (rest : List VIssued) (r : List (VAcc × Nat)) (s : State) : State :=
  let y := { x with i := { x.i with due := some (landsAfter (curCyc s) x.dest rest) }, dest := destFill x.dest r }
  clearAcks (setCC s { cc s with vec := { (cc s).vec with fly := rest ++ [y] } }) 0

/-- VECTOR_REMOTE_ACCESS_DONE: the accesses of the memory word that holds queue V are performed. Those to another device are
sent first: a load's reads, a store's checks; its last checks and its writes, here and there, come once these are answered
(R281), and its writes there are awaited. -/
def execVectorRemoteAccessDone (s : State) : Host.Outcome State Fault Refusal :=
  match holdingWord (cc s).vec.fly with
  | none => .next s
  | some (x, l, rest) =>
    let fault (f : Flt) : State := raise2 { clearAcks s 0 with fresh := s.fresh + 1 } s.cur 0 x.i.w f true 0
    match volStep s 0 x.load (lowVa l) (if x.load then [] else l) l with
    | .wait => .next s
    | .sent s => .next s
    | .flt f => .next (fault f)
    | .done => .next (remoteOver x rest [] s)
    | .ready =>
      match vmemPortChecks x.load l s with
      | some f => .next (fault f)
      | none =>
        let (s, r) := vmemPerform x.load x.i.w l s
        if !x.load && l.any fun a => isVol a.loc then .next s else .next (remoteOver x rest r s)

end Sys2Proof.Machine
end

