-- ==== Sys2Proof/Machine/Park.lean ====
section
/-! DEFINITION. Parks, resumes and halts: freezing a task (R221, R345, R346, R462), its image (R463), where it resumes
(R435, R464), halting (R465), the re-park of R55. -/

namespace Sys2Proof.Machine

/-- Act in the context of a core. -/
def inCore (s : State) (c : Nat) (f : State → Host.Outcome State Fault Refusal) : State :=
  match f { s with cur := c } with
  | .next s' => { s' with cur := s.cur }
  | _ => s

def overCores (s : State) (l : List Nat) (f : State → Nat → State) : State := l.foldl f s

/-! ### The freeze (R221, R286, R345, R346) -/

/-- Accesses of strands in flight are performed at their ports; their results are the strands'. -/
def flushStrands (s : State) (c : Nat) : State :=
  [0, 1, 2, 3, 0, 1, 2, 3, 0, 1, 2, 3, 0, 1, 2, 3].foldl (fun s n => inCore s c (execMemoryAccessPerformed (BitVec.ofNat 2 n))) s

/-- A fill word outside the own scratchpad whose writes are still to be performed. -/
def fillHolding (k : Core) : Bool :=
  match theFill k with
  | some (x, f) => x.acc.isSome && !x.i.faulted && decide (f.next < f.count)
  | none => false

/-- A piece of the copy word in progress has left the engine, and other devices have answered: it goes on to its end. -/
def pieceAcked (k : Core) : Bool :=
  (copyRun k).isSome && k.cpy.sent.isNone && !(acksOf k 3).isEmpty && (!k.cpy.own || k.cpy.begun)

/-- Accesses of vector, generator and copy words in flight are performed at their ports. -/
def flushEngines (s : State) (c : Nat) : State :=
  let s := if (holdingWord (getCore s c).vec.fly).isSome then inCore s c execVectorRemoteAccessDone else s
  let s := if (getCore s c).gen.fly.any genHolding then inCore s c execGeneratorWriteLanding else s
  let s := if fillHolding (getCore s c) then inCore s c execFillElementWrite else s
  let s := if pieceAcked (getCore s c) then inCore s c execCopyPiecePerformed else s
  if (getCore s c).cpy.sent = some .way then inCore s c execTaggedOpArrival else s

/-- A tagged operation that the copy engine of a core has sent to another device and that is not answered. -/
def farTag (c : Nat) (r : VolReq) : Bool :=
  match r.origin, r.op with
  | .engine d 3 _, .tag _ _ => decide (d = c)
  | _, _ => false

/-- Another device is told that the tagged operations of a core's copy engine are withdrawn, where it holds them. -/
def withdrawFar (s : State) (c : Nat) : State :=
  { s with vol := { s.vol with
    out := s.vol.out ++ (s.vol.fly.filter (farTag c)).map fun r => .req r.id r.dev r.off (.withdraw r.id) 0 } }

/-- An operation that waits in a pending list of this device, or for its way there, is withdrawn and leaves again as one refused
(R345, R346); one sent to another device waits for the answer. -/
def withdrawn (now : Nat) (q : Cpy) : Option Sent :=
  match q.sent with
  | some .held => some (.refused (now + 64))
  | some .way => if (q.to_.map isVol).getD true then some .way else some (.refused (now + 64))
  | o => o

/-- The copy engine withdraws its tagged operation, and decodes its chunk again (R345). -/
def withdraw (s : State) (c : Nat) : State :=
  let k := getCore s c
  withdrawFar (setCore s c { k with cpy := { k.cpy with chunk := none, sent := withdrawn (cycOf s c) k.cpy } }) c

/-- The operations of a pending list, each with the marks of those before it on the same word. -/
def heldOrder (mark : Held → Nat) : List Held → List Held → List (Held × List Nat)
  | _, [] => []
  | before, h :: t => (h, (before.filter fun e => e.word = h.word).map mark) :: heldOrder mark (before ++ [h]) t

/-- A held operation's mark: the sending core's lid, or that of the request of another device. -/
def heldMark (s : State) (h : Held) : Nat :=
  match h.sender with
  | .copy c _ => (getCore s c).lid
  | .volley src seq => farMark src seq

/-- An operation refused by a parked core: its copy engine sends it again, or, sent by another device, it waits at the hub as
the request that it was (R467); those held before it on the same word come first. -/
def refuseOne (k : Core) (s : State) (h : Held) (before : List Nat) : State :=
  match h.sender with
  | .copy c _ => setCore s c { getCore s c with cpy := { (getCore s c).cpy with behind := before } }
  | .volley src seq => { s with vol := { s.vol with parkedReqs := s.vol.parkedReqs ++
      [(k.task, k.lid, { src := src, seq := seq, off := 8 * h.word, op := .tag h.kind h.val, cls := 0 }, before)] } }

/-- The bank ports refuse what their pending lists hold, which arrives again in its order (R346). -/
def refuseHeld (s : State) (c : Nat) : State :=
  let k := getCore s c
  (heldOrder (heldMark s) [] k.held).foldl (fun s (h, b) => refuseOne k s h b) (setCore s c { k with held := [] })

/-- A park begins: every core of the task is frozen (R461). -/
def parkTask (s : State) (task : Nat) : State :=
  freezeAll (setTask s task { getTask s task with st := .freezing }) task

/-- The walks in progress for a core when it was frozen complete, and their accesses are sent, as ones in flight (R387). -/
def flushWalks (s : State) (c : Nat) : State :=
  (List.range 4).foldl (fun s n => wakeWalk s (c, n)) s

/-- The same for the copy word in progress: its piece is then performed (R345, R387). -/
def flushCopyWalk (s : State) (c : Nat) : State :=
  match (s.mm.walks ++ s.mm.walking).filter fun w => w.waiters.contains (c, 7) with
  | [] => s
  | l => inCore (l.foldl fillWalk s) c execCopyPiecePerformed

/-- Every access of a task's cores in flight that can be performed is performed. -/
def flushAll (s : State) (l : List Nat) : State :=
  overCores (overCores (overCores (overCores s l flushWalks) l flushCopyWalk) l flushStrands) l flushEngines

/-- Accesses of a core have left it and are not over: of a vector or generator word, of a copy piece, or a request to another
device; one of a tagged operation that waits there is withdrawn (R345). -/
def stillOut (s : State) (c : Nat) : Bool :=
  let k := getCore s c
  (holdingWord k.vec.fly).isSome || k.gen.fly.any genHolding || fillHolding k || pieceAcked k
  || s.vol.fly.any fun r => decide (r.origin.core = c) && !farTag c r

/-- FREEZE_COMPLETE: every core of a park victim is frozen, and its accesses in flight are performed; the freeze ends when none
is still out (R286, R462). -/
def execFreezeComplete (task : Nat) (s : State) : Host.Outcome State Fault Refusal :=
  if (getTask s task).st == .freezing then
    let l := coresOf s task
    let s := flushAll s l
    if l.any (stillOut s) then .next s
    else
      let s := overCores (overCores s l refuseHeld) l withdraw
      .next (setTask s task { getTask s task with st := .saving })
  else .next s

/-! ### The image (R45, R65, R95, R387, R463) -/

def relocLoc (f : Nat → Nat) : Loc → Loc
  | .scr c o => .scr (f c) o
  | .named pa => .named pa

def relocWait (f : Nat → Nat) : Wait → Wait
  | .tag c w l va => .tag (f c) w l va
  | w => w

/-- A strand's physical core numbers renamed; one that waited for a walk to fetch tries again. -/
def relocStrand (f : Nat → Nat) (t : Strand) : Strand :=
  { t with
    run := if t.run == .waiting && t.wait == some .walk then .ready else t.run
    wait := t.wait.map (relocWait f)
    flag := t.flag.map fun (w, c) => (relocWait f w, c)
    flight := t.flight.map fun fl => { fl with loc := relocLoc f fl.loc } }

def relocAcc (f : Nat → Nat) (a : VAcc) : VAcc := { a with loc := relocLoc f a.loc }

/-- The physical core numbers in a core's state renamed. -/
def relocCore (f : Nat → Nat) (k : Core) : Core :=
  { k with
    strands := k.strands.map fun (n, t) => (n, relocStrand f t)
    wpLoc := k.wpLoc.map fun (n, l) => (n, relocLoc f l)
    vec := { k.vec with fly := k.vec.fly.map fun x => { x with acc := x.acc.map fun l => l.map (relocAcc f) } }
    gen := { k.gen with fly := k.gen.fly.map fun x => { x with acc := x.acc.map fun l => l.map (relocAcc f) } }
    cpy := { k.cpy with to_ := k.cpy.to_.map (relocLoc f) }
    mat := { k.mat with fly := k.mat.fly.map fun x => { x with locs := x.locs.map fun l => l.map fun (va, o) => (va, relocLoc f o) } } }

/-- An offset lies in a discardable region. -/
def inDisc (l : List (Nat × Nat)) (o : Nat) : Bool := l.any fun (a, n) => decide (a ≤ o) && decide (o < a + n)

/-- A discardable region resumes with zero bytes, empty tags and clear records (R65, R95). -/
def dropDiscs (l : List (Nat × Nat)) (k : Core) : Core :=
  { k with
    scr := k.scr.filter fun e => !inDisc l e.1
    full := k.full.filter fun e => !inDisc l (8 * e.1)
    race := k.race.filter fun e => !inDisc l (64 * e.1)
    bad := k.bad.filter fun e => !inDisc l (64 * e.1) }

/-- The place of a physical core among those of a list of clusters, and back. -/
def relOf (cl : List Nat) (c : Nat) : Nat := 96 * ((cl.findIdx? fun k => k = c / 96).getD 0) + c % 96
def physOf (cl : List Nat) (i : Nat) : Nat := 96 * cl.getD (i / 96) 0 + i % 96

/-- What the image keeps of a core: its own cycle count, no translations (R387). -/
def imageCore (s : State) (t : Task) (c : Nat) : Core :=
  let k := getCore s c
  relocCore (relOf t.clusters) (dropDiscs t.kernel.discs { k with off := cycOf s c, utlb := [] })

/-- No request of a core of the task to another device is unanswered. -/
def noneFlying (s : State) (l : List Nat) : Bool :=
  s.vol.fly.all fun r => !l.contains r.origin.core

/-- Every earlier park victim has its image (R460, R461). -/
def firstToSave (s : State) (task : Nat) : Bool :=
  ((s.bur.parkedQ.takeWhile fun t => t ≠ task).all fun t =>
    (getTask s t).st != .freezing && (getTask s t).st != .saving)

/-- Waiters of a task's cores leave the walks (R387). -/
def dropWalkers (s : State) (l : List Nat) : State :=
  let f (w : WalkReq) : WalkReq := { w with waiters := w.waiters.filter fun e => !l.contains e.1 }
  setMm s { s.mm with
    walks := (s.mm.walks.map f).filter fun w => !w.waiters.isEmpty, walking := s.mm.walking.map f
    late := s.mm.late.filter fun e => !l.contains e.1 }

/-- The image fills the task's range of the park tier, in a layout of the device's own: what its bytes there are is free (R402,
R463; DESIGN CHOICE, log entry 68). -/
def fillRange (s : State) (t : Task) : State :=
  match t.range with
  | none => s
  | some (a, n) =>
    let (i, s) := takeFresh s
    writeLoc s (.named a) ((List.range n).map fun j => Config.freeImage (2 ^ 64 * i + j))

/-- The image is complete: the task is parked and its clusters are free. -/
def saveImage (s : State) (task : Nat) : State :=
  let t := getTask s task
  let s := fillRange s t
  let l := coresOf s task
  let saved := l.foldl (fun m c => tset m (getCore s c).lid (imageCore s t c)) ([] : Tbl Core)
  let s := dropClusterTlbs (dropWalkers s l) (wholeDies t.clusters)
  let s := setTask s task { t with
    st := .parked, saved := saved, savedSlots := t.slots, clusters := [], wasParked := true, imaged := true }
  let s := setNode s t.graph t.node { getNode (getGraph s t.graph) t.node with st := .parked }
  coresOff (freeClusters s false t.clusters) t.clusters

/-! ### Resuming (R435, R459, R464) -/

/-- The partition, the feature mask and the count of clusters that a task resumes on. -/
def taskCap (s : State) (t : Task) : List Nat := capable s (getGraph s t.graph).part t.kernel.feature

/-- A task is released and holds no clusters yet. -/
def wantsClusters (t : Task) : Bool := t.st == .restoring && t.clusters.isEmpty

/-- The clusters of a partition that come with the dies being powered, or wanted for a release. -/
def coming (s : State) (p : Nat) : Nat :=
  2 * ((partDies s p).filter fun d => match dieState s d with
    | .ungating _ => true
    | .gated _ => s.bur.wanted.any fun e => decide (e.1 = d ∧ e.2 ≠ 0)
    | _ => false).length

/-- Every released task wants gated dies for the clusters that it lacks, those of the tasks before it set aside: `before`
holds their partitions and counts (R464, R468). -/
def wantRestores : List (Nat × Nat) → List Nat → State → State
  | _, [], s => s
  | before, id :: rest, s =>
    let t := getTask s id
    if wantsClusters t then
      let p := (getGraph s t.graph).part
      let need := t.nclus + sumNat ((before.filter fun e => e.1 = p).map (·.2))
      let have_ := (taskCap s t).length + coming s p
      wantRestores ((p, t.nclus) :: before) rest (if have_ < need then wantDies s p (need - have_) id else s)
    else wantRestores before rest s

/-- The first released task takes its clusters when enough are free; gated dies are wanted for those that lack clusters. -/
def allotRestore (s : State) : State :=
  match s.bur.releasing with
  | [] => s
  | task :: _ =>
    let t := getTask s task
    let cap := taskCap s t
    let s :=
      if wantsClusters t ∧ t.nclus ≤ cap.length then
        let cl := cap.take t.nclus
        takeClusters (setTask s task { t with clusters := cl }) task t.vstep cl
      else s
    wantRestores [] s.bur.releasing s

/-- Release a parked task at a vstep. -/
def releaseTask (s : State) (task vstep : Nat) : State :=
  let s := setTask s task { getTask s task with st := .restoring, vstep := vstep }
  allotRestore { s with bur := { s.bur with
    parkedQ := s.bur.parkedQ.filter (· ≠ task), releasing := s.bur.releasing ++ [task], gradeAt := some s.gtc } }

/-- IMAGE_SAVED: the next image in victim order is complete. A task re-parked for a feature resumes at once (R55). -/
def execImageSaved (task : Nat) (s : State) : Host.Outcome State Fault Refusal :=
  let t := getTask s task
  if t.st == .saving && firstToSave s task && noneFlying s (coresOf s task) then
    let s := saveImage s task
    let s := if t.repark then releaseTask (setTask s task { getTask s task with repark := false }) task t.vstep else s
    .next (evalSoon s)
  else .next s

/-- A core of an image in place. -/
def placeCore (s : State) (t : Task) (lid : Nat) (k : Core) : State :=
  match coreOfLid t lid with
  | some c =>
    let k := relocCore (physOf t.clusters) { k with off := k.off - schedCyc s c, utlb := (getCore s c).utlb }
    setCore s c (if t.stopped then k else thawCore k)
  | none => s

/-- A core that resumes after a yield: its count is that of its new cluster. -/
def placeYield (s : State) (t : Task) (lid : Nat) (k : Core) : State :=
  match coreOfLid t lid with
  | some c => setCore s c { k with utlb := (getCore s c).utlb }
  | none => s

/-- Arm again the watchpoints of a resumed core, translating afresh (R501). -/
def rearm (s : State) (c : Nat) : State :=
  (List.range 8).foldl (fun s n =>
    if wpEn (getCore s c) n then
      let v := tget 0 (getCore s c).wpCtl n
      match reach s c (tget 0 (getCore s c).wpAdr n) 16 0 false false with
      | (s, .flt _) =>
        setWpSt (setCore s c { getCore s c with wpLoc := tdel (getCore s c).wpLoc n }) c n 1
      | (s, .ok loc _) => { performWatch { s with cur := c } n v loc with cur := s.cur }
    else s) s

/-- A tagged operation of another device at a bank port: performed, held, or refused (R67, R485). -/
def arriveTag (s : State) (c : Nat) (h : Held) : State :=
  if tagCond h.kind (tagFull s c h.word) then
    if tagReads h.kind && (uncorrectable s (.scr c (8 * h.word)) 8).isSome then heldBad s h
    else
      let (s, v) := tagPerform s (heldWho s h) c h.word h.kind h.val false
      heldDone s h v (0xFF, 0)
  else
    let k := getCore s c
    if k.held.length < 32 then setCore s c { k with held := k.held ++ [h] }
    else
      match h.sender with
      | .volley src seq => answerReq s src seq (.refuse src seq)
      | .copy _ _ => s

/-- Answer a request, in its class (R484 to R486). -/
def respond (s : State) (r : RemoteReq) (err : BitVec 2) (v : W64) : State := answerReq s r.src r.seq (.ack r.src r.seq err v r.cls)

/-- Bytes that a request touches. -/
def remoteLen : RemoteOp → Nat
  | .load n | .probe n => n
  | .store b => b.length
  | .piece b => b.foldl (fun n e => Nat.max n (e.1 + 1)) 0
  | .amo _ z _ => asizeBytes z
  | .cas z _ _ => asizeBytes z
  | .tag _ _ | .seqw _ => 8
  | .withdraw _ => 0

/-- Bytes at places of a line, as runs of neighbours. -/
def byteRuns : List (Nat × Byte) → List (Nat × List Byte)
  | [] => []
  | (o, b) :: t =>
    match byteRuns t with
    | (o', l) :: r => if o' = o + 1 then (o, b :: l) :: r else (o, [b]) :: (o', l) :: r
    | [] => [(o, [b])]

/-- Write a piece at its line as one write (R352, R502). -/
def pieceAtPort (s : State) (who : Who) (l : Loc) (b : List (Nat × Byte)) : State :=
  let w := (byteRuns b).map fun (o, bs) => (locShift l o, bs)
  healOver (fun _ => w.map fun (a, bs) => (a, bs.length))
    (storeMany s who (w.map fun (a, bs) => (a, BitVec.ofNat 64 (locOff a), bs)) false)

def remoteReads : RemoteOp → Bool
  | .load _ | .amo _ _ _ | .cas _ _ _ => true
  | .store _ | .piece _ | .tag _ _ | .seqw _ | .probe _ | .withdraw _ => false

/-- Perform a request of another device at the port of a location, and respond (R485). -/
def remoteDo (s : State) (r : RemoteReq) (l : Loc) : State :=
  let who : Who := { agent := 0xFE, core := 0, dev := r.src }
  let s := match l with | .named pa => awaken s pa | .scr _ _ => s
  if remoteReads r.op && (uncorrectable s l (remoteLen r.op)).isSome then respond s r 3 0
  else
    match r.op with
    | .load n => respond s r 0 (BitVec.ofNat 64 (readNat s l n))
    | .store b => respond (storeAt s who l b false) r 0 0
    | .piece b => respond (pieceAtPort s who l b) r 0 0
    | .probe _ => respond s r 0 0
    | .withdraw _ => s
    | .seqw v =>
      match l with
      | .scr c o => arriveTag s c { sender := .volley r.src r.seq, word := o / 8, kind := .setFull, val := v }
      | .named _ => respond (storeAt s who l (leBytes 8 v.toNat) false) r 0 0
    | .amo op z v => let (s, old) := amoAt s who l op z v.toNat false; respond s r 0 (BitVec.ofNat 64 old)
    | .cas z c n => let (s, old) := casAt s who l z c.toNat n.toNat false; respond s r 0 (BitVec.ofNat 64 old)
    | .tag k v =>
      match l with
      | .scr c o => arriveTag s c { sender := .volley r.src r.seq, word := o / 8, kind := k, val := v }
      | .named _ => s

/-- The requests held at the hub for a task are performed on its restored scratchpads, in their order (R467); one that a pending
list held behind an operation of this device waits until that has arrived again (R346). -/
def parkedDeliver (s : State) (task : Nat) : State :=
  s.vol.parkedReqs.foldl (fun s e =>
    let (t, lid, r, before) := e
    if t ≠ task ∨ stillBehind s task before then s
    else
      let s := { s with vol := { s.vol with parkedReqs := s.vol.parkedReqs.erase e } }
      match coreOfLid (getTask s task) lid with
      | some c => remoteDo s r (.scr c r.off)
      | none => respond s r 1 0) s

/-- Requests still held for tasks that run are performed once their turn has come. -/
def parkedTurn (s : State) : State :=
  ((s.vol.parkedReqs.map (·.1)).eraseDups.filter fun t => (getTask s t).st == .running).foldl parkedDeliver s

/-- The fabric arrivals held for a part are applied (R433). -/
def heldArrivals (s : State) (task : Nat) : State :=
  let t := getTask s task
  let fg := (getNode (getGraph s t.graph) t.node).r.fgroup
  match t.fabric, coreOfLid t t.lbase with
  | true, some c =>
    let held := s.vol.held
    let s := applyArrivals s c fg held
    { s with vol := { s.vol with held := held.filter fun e => e.1 ≠ fg } }
  | _, _ => s

/-- RESTORE_COMPLETE: the image, or what a yield kept, is in place and the task runs; one dispatched but not yet launched
launches. -/
def execRestoreComplete (task : Nat) (s : State) : Host.Outcome State Fault Refusal :=
  let t := getTask s task
  if t.st == .restoring && !t.clusters.isEmpty && !anyMoving s t.clusters && t.clusters.all fun k => dieUsable s (k / 2) then
    let nd := getNode (getGraph s t.graph) t.node
    let s := setNode s t.graph t.node { nd with st := .running, image := none }
    let s := { s with bur := { s.bur with
      gradeAt := if s.bur.releasing.contains task then some s.gtc else s.bur.gradeAt
      releasing := s.bur.releasing.filter (· ≠ task) } }
    let s :=
      if !t.ylds.isEmpty then
        t.ylds.foldl (fun s (lid, k) => placeYield s t lid k) (setTask s task { t with st := .running, ylds := [] })
      else
        let s := t.saved.foldl (fun s (lid, k) => placeCore s t lid k) (setTask s task { t with st := .running })
        overCores s (coresOf s task) rearm
    let s := heldArrivals (parkedDeliver s task) task
    .next (evalSoon (allotRestore (overCores s (coresOf s task) finishCheck)))
  else .next s

/-! ### Halting (R465) -/

/-- An access already sent is performed or dropped: the device's choice. -/
def shedStrand (s : State) (c n : Nat) : State :=
  match (getStrand (getCore s c) n).flight with
  | none => s
  | some _ =>
    let (i, s) := takeFresh s
    if Config.freeShed (2 ^ 64 * i) then inCore s c (execMemoryAccessPerformed (BitVec.ofNat 2 n)) else s

/-- Of an engine word's accesses, those in the 64-byte lines that the device chooses are performed. -/
def shedList (i : Nat) (l : List VAcc) : List VAcc :=
  l.flatMap fun a => (lineSpans a).filter fun b => Config.freeShed (2 ^ 64 * i + 1 + b.va.toNat / 64)

/-- The word writes memory: gsave, or a fill. -/
def genWrites (x : GIssued) : Bool :=
  x.fill.isSome || match decodeE .g x.i.w.bits with
    | .gsave _ => true
    | _ => false

def shedEngines (s : State) (c : Nat) : State :=
  let (i, s) := takeFresh s
  let k := getCore s c
  let s := setCore s c { k with
    vec := { k.vec with fly := k.vec.fly.map fun x => { x with acc := x.acc.map (shedList i) } }
    gen := { k.gen with fly := k.gen.fly.map fun x => if genWrites x then { x with acc := x.acc.map (shedList i) } else x } }
  let s := if (holdingWord (getCore s c).vec.fly).isSome then inCore s c execVectorRemoteAccessDone else s
  let s := if (getCore s c).gen.fly.any genHolding then inCore s c execGeneratorWriteLanding else s
  let s := if fillHolding (getCore s c) then inCore s c execFillElementWrite else s
  if Config.freeShed (2 ^ 64 * i) && decide ((getCore s c).cpy.sent = some .way) then inCore s c execTaggedOpArrival else s

/-- What a halt leaves of the accesses of a task: held operations are withdrawn, here and on other devices, the rest is performed
or dropped. -/
def shedAccesses (s : State) (l : List Nat) : State :=
  let s := overCores (overCores s l dropHeld) l withdrawFar
  overCores (overCores s l fun s c => [0, 1, 2, 3].foldl (fun s n => shedStrand s c n) s) l shedEngines

/-- Shed a task, in whatever state it is (R461). -/
def shedTask (s : State) (task status : Nat) (detail : Option W64) : State :=
  let t := getTask s task
  match t.st with
  | .parked | .yielded => launchOver s task status detail true
  | .restoring => if t.ylds.isEmpty then launchOver s task status detail true else haltTask s task status detail
  | .ended | .halting => s
  | _ => haltTask s task status detail

/-- HALT_COMPLETE: every core of a halting task has stopped; the launch and the node end. -/
def execHaltComplete (task : Nat) (s : State) : Host.Outcome State Fault Refusal :=
  let t := getTask s task
  match t.st, t.ending with
  | .halting, some (st, d) =>
    if (coresOf s task).all fun c => recordsOut (getCore s c) then .next (launchOver (shedAccesses s (coresOf s task)) task st d true)
    else .next s
  | _, _ => .next s

/-! ### A feature that the die lacks (R55) -/

/-- The Referee takes the records of code 0x0003 of a core: their words will issue again. -/
def takeFeature (s : State) (c : Nat) : State :=
  let k := getCore s c
  let (mine, rest) := k.pendRecs.partition fun p => p.trap.code = 0x0003
  if mine.isEmpty then s
  else
    let s := setCore s c { k with pendRecs := rest, verdicts := k.verdicts ++ mine.map fun p => { p := p, code := 0, word := p.word, pc := p.trap.pc } }
    if rest.isEmpty && k.handling.isNone then endHold s c else s

/-- FEATURE_ABSENT_REPARK: the Referee parks the task of a 0x0003 record and resumes it on capable dies. -/
def execFeatureAbsentRepark (task : Nat) (s : State) : Host.Outcome State Fault Refusal :=
  let l := coresOf s task
  if (getTask s task).st == .running && l.any fun c => (getCore s c).pendRecs.any fun p => p.trap.code = 0x0003 then
    let s := overCores s l takeFeature
    .next (parkTask (setTask s task { getTask s task with repark := true }) task)
  else .next s

end Sys2Proof.Machine
end

