-- ==== Sys2Proof/Machine/Packets.lean ====
section
/-! DEFINITION. Host packets: cancel, wake and nop (R407, R436 to R438), the fetcher (R99 to R102, R403 to R406, R475 to
R477), queues and rings enabled and disabled (R478 to R480). -/

namespace Sys2Proof.Machine

/-! ### Cancel (R437, R438) -/

/-- Nodes to cancel of one graph: the whole graph, or a node and its transitive successors. -/
def cancelSet (gr : Graph) (node : Nat) : List Nat :=
  let n := gr.nodes.length
  if node = 0xFFFF then List.range n
  else
    (List.range n).foldl (fun l i =>
      if i = node || (List.range i).any (fun j => l.contains j && (getNode gr i).preds.getLsbD j) then l ++ [i] else l) []

/-- A node whose cancel is a state change. -/
def cancels (s : State) (g i : Nat) : Bool :=
  let nd := getNode (getGraph s g) i
  match nd.st with
  | .done => false
  | .running => (getTask s nd.task).ending.isNone
  | _ => true

/-- Cancel one node. -/
def cancelNode (g : Nat) (s : State) (i : Nat) : State :=
  let nd := getNode (getGraph s g) i
  match nd.st with
  | .waiting | .ready | .prologue => endEarly s g i
  | .running => shedTask s nd.task 5 none
  | .parked | .yielded => shedTask s nd.task 5 none
  | .done => s

/-- Cancel in one graph: first what is not dispatched, then what runs. -/
def cancelGraph (s : State) (g : Nat) (node : Nat) : State × Nat :=
  let l := (cancelSet (getGraph s g) node).filter (cancels s g)
  let early (i : Nat) : Bool := notDispatched (getNode (getGraph s g) i)
  let s' := (l.filter early).foldl (cancelNode g) s
  let s' := (l.filter fun i => !early i).foldl (cancelNode g) s'
  (wakeNodes (endGraph s' g), l.length)

/-- The graphs in flight of a tag. -/
def graphsOf (s : State) (tag : W64) : List Nat := ((graphsInFlight s).filter fun (_, g) => g.tag == tag).map (·.1)

def cancelPkt (s : State) (q : Nat) (tag : W64) (node : Nat) : State :=
  let (s, n) := (graphsOf s tag).foldl (fun (s, n) g => let (s, m) := cancelGraph s g node; (s, n + m)) (s, 0)
  packetRecord s q tag 10 (some n)

def execCancel (q : Nat) (tag : W64) (node : Nat) (s : State) : Host.Outcome State Fault Refusal :=
  .next { s with ref := { s.ref with cancels := s.ref.cancels ++ [(q, tag, node % 65536)] } }

/-! ### Wake (R407) -/

/-- A Set-full on a core that is not in place; strands of the same task that wait on the word become ready. -/
def wakeSaved (l : Tbl Core) (rel lid off : Nat) (v : W64) : Tbl Core :=
  let k : Core := tget {} l lid
  let w := off / 8
  let was := member k.full w
  let k := { k with scr := tputs 0 k.scr off (leBytes 8 v.toNat), full := tset k.full w (), race := tdel k.race (w / 8)
                    tagBy := if was then k.tagBy else tset k.tagBy w (0xFC, 0) }
  let l := tset l lid k
  if was then l
  else l.map fun (n, k) => (n, { k with strands := k.strands.map fun (i, t) => (i, wakeStrand rel w (0xFC, 0) (i, k.lid) t) })

/-- The Set-full of a wake packet on a task, where its lid is a core of this device. -/
def wakeTask (s : State) (task lid off : Nat) (v : W64) : Option State :=
  let t := getTask s task
  let rel := lid - t.lbase
  if lid < t.lbase ∨ 96 * t.nclus ≤ rel ∨ t.n ≤ lid then none
  else
    match t.st with
    | .dispatched | .parked => some (setTask s task { t with saved := wakeSaved t.saved rel lid off v })
    | .restoring =>
      if t.ylds.isEmpty then some (setTask s task { t with saved := wakeSaved t.saved rel lid off v })
      else some (setTask s task { t with ylds := wakeSaved t.ylds rel lid off v })
    | .yielded | .ended => none
    | _ =>
      match coreOfLid t lid with
      | some c => some (tagPerform s { agent := 0xFC, core := 0 } c (off / 8) .setFull v false).1
      | none => none

/-- The node that a wake packet names is running or parked: its task. -/
def wakeable (s : State) (tag : W64) (node : Nat) : Option Nat :=
  (graphsOf s tag).findSome? fun g =>
    let gr := getGraph s g
    let nd := getNode gr node
    if node < gr.nodes.length ∧ (nd.st = .running ∨ nd.st = .parked) then some nd.task else none

def wakePkt (s : State) (q : Nat) (tag : W64) (node lid off : Nat) (v : W64) : State :=
  if off % 8 ≠ 0 ∨ scrSize ≤ off then packetRecord s q tag 11 none
  else
    match wakeable s tag node with
    | none => packetRecord s q tag 11 none
    | some task =>
      match wakeTask s task lid off v with
      | none => packetRecord s q tag 11 none
      | some s => packetRecord s q tag 10 none

def execWake (q : Nat) (tag : W64) (node lid off : Nat) (value : W64) (s : State) : Host.Outcome State Fault Refusal :=
  .next (wakePkt s q tag (node % 65536) (lid % 65536) (off % 2 ^ 32) value)

/-- NOP_PACKET: its record is all that it does. -/
def execNopPacket (q : Nat) (s : State) : Host.Outcome State Fault Refusal := .next (packetRecord s q 0 10 none)

/-! ### Reading a packet (R404 to R406, R408) -/

/-- Every body byte outside the given ranges is zero. -/
def restZero (b : List Byte) (used : List (Nat × Nat)) : Bool :=
  (List.range 255).all fun i => used.any (fun (o, n) => decide (o ≤ i + 9) && decide (i + 9 < o + n)) || b.getD (i + 9) 0 == 0

def submitOf (b : List Byte) : SubmitPkt :=
  { part := getN b 9 1, gflags := getN b 0x0A 2, nodes := getN b 0x0C 2, image := getN b 0x0E 1
    tag := BitVec.ofNat 64 (getN b 0x10 8), root := getN b 0x18 8, ntab := BitVec.ofNat 64 (getN b 0x20 8) }

/-- The body bytes that each kind uses. -/
def usedBytes (kind : Nat) : List (Nat × Nat) :=
  match kind with
  | 1 => [(0x10, 1), (0x18, 12), (0x28, 8)]
  | 2 => [(9, 6), (0x10, 24)]
  | 3 => [(0x10, 10)]
  | 4 => [(0x10, 24)]
  | _ => []

/-- The reserved bytes and bits of a packet of a defined kind are zero. -/
def packetOk (b : List Byte) : Bool :=
  let kind := getN b 8 1
  decide (1 ≤ kind ∧ kind ≤ 5) && restZero b (usedBytes kind) && (decide (kind ≠ 2) || decide (getN b 0x0A 2 < 8))

/-- The tag of a bad packet's record: the graph tag of kinds 2 to 4, zero for kinds 1 and 5, no stated value otherwise. -/
def badTag (s : State) (b : List Byte) : W64 × State :=
  let kind := getN b 8 1
  if 2 ≤ kind ∧ kind ≤ 4 then (BitVec.ofNat 64 (getN b 0x10 8), s)
  else if kind = 1 ∨ kind = 5 then (0, s)
  else let (n, s) := takeFresh s; (BitVec.ofNat 64 (Config.freeField n), s)

/-- Execute an accepted packet. A cancel is taken by the next hub cycle, behind its ends, verdicts and selection (R416). -/
def runPacket (s : State) (q : Nat) (b : List Byte) : State :=
  let w (o : Nat) : W64 := BitVec.ofNat 64 (getN b o 8)
  if packetOk b then
    match getN b 8 1 with
    | 1 => loadImagePkt s q (getN b 0x10 1) (getN b 0x18 8) (getN b 0x20 4) (w 0x28)
    | 2 => submitPkt s q (submitOf b)
    | 3 => { s with ref := { s.ref with cancels := s.ref.cancels ++ [(q, w 0x10, getN b 0x18 2)] } }
    | 4 => wakePkt s q (w 0x10) (getN b 0x18 2) (getN b 0x1A 2) (getN b 0x1C 4) (w 0x20)
    | _ => packetRecord s q 0 10 none
  else
    let (tag, s) := badTag s b
    packetRecord s q tag 11 none

/-! ### The fetcher (R99 to R102, R475 to R477) -/

def getSq (s : State) (q : Nat) : Sq := tget {} s.host.sq q
def setSq (s : State) (q : Nat) (v : Sq) : State := { s with host := { s.host with sq := tset s.host.sq q v } }
def sqPollUs (cfg : W64) : Nat := (cfg.extractLsb' 16 16).toNat

/-- The address of the slot at head. -/
def slotAddr (v : Sq) : Nat := v.base.toNat / 512 * 512 + 512 * (v.head.toNat % ringSlots v.cfg)

/-- Bytes 0x000 to 0x107 of the slot at head. -/
def readSlot (s : State) (v : Sq) : List Byte := ringGet s (ringLoc v.cfg) (slotAddr v) 0x108

def slotCrcOk (b : List Byte) : Bool := (crc32c (b.take 4 ++ b.drop 8)).toNat == getN b 4 4

/-- A submit-graph packet whose nodes the tables cannot hold yet stays not seen (R412). -/
def heldBack (s : State) (b : List Byte) : Bool :=
  packetOk b && decide (getN b 8 1 = 2) && decide (16384 < nodesHeld s + getN b 0x0C 2) && decide (getN b 0x0C 2 ≤ 64)

/-- The queue's packet at head is not in hand: no re-read is to come. -/
def Sq.afresh (v : Sq) : Sq := { v with rereads := 0, rereadDue := false, reread := false }

/-- The packet is reported torn: the queue stops (R477). -/
def tearQueue (s : State) (q : Nat) : State :=
  sendMsix (setSq s q { (getSq s q).afresh with torn := true, stopped := true, owed := 0 }) 66

/-- One read of the slot at head; `again` says it is a re-read of R101. The slot's bytes are taken as they stand, an
uncorrectable error among them included: R12 names no reader but words and instructions (DESIGN CHOICE, log entry 106). A
read that a doorbell or a poll asks for and that finds the CRC wrong is not counted among the 16 re-reads, and the wait of
1 µs begins anew (DESIGN CHOICE, log entry 107). -/
def fetchSlot (s : State) (q : Nat) (again : Bool) : State :=
  let v := { getSq s q with readAt := s.gtc }
  let s := if ringLoc v.cfg then awaken s (regionMap s (slotAddr v)) else s
  let b := readSlot s v
  if getN b 0 4 ≠ (v.head + 1).toNat then setSq s q v.afresh
  else if slotCrcOk b then
    if heldBack s b then setSq s q { v.afresh with owed := v.owed + 1 }
    else runPacket (setSq s q { v.afresh with head := v.head + 1 }) q b
  else
    let n := if again then v.rereads + 1 else v.rereads
    if 16 ≤ n then tearQueue s q else setSq s q { v with rereads := n, rereadDue := true, reread := false }

/-- The queue has a read to make. -/
def Sq.work (v : Sq) : Bool := ringEn v.cfg && !v.stopped && (v.reread || decide (0 < v.owed))

/-- The queue that the fetcher serves next: round-robin in ascending number (R403). -/
def nextQueue (s : State) : Option Nat :=
  let l := (s.host.sq.filter fun e => e.2.work && decide (e.1 < 64)).map fun e => ([(e.1 + 127 - s.host.served) % 64], e.1)
  ((sortKey l).head?).map (·.2)

/-- One turn of the fetcher: one packet of one queue, none while the Referee's tables are full (R403, R412). -/
def fetchTurn (s : State) : State :=
  match (if tablesFull s then none else nextQueue s) with
  | none => s
  | some q =>
    let s := { s with host := { s.host with served := q } }
    let v := getSq s q
    if v.reread then fetchSlot (setSq s q { v with reread := false }) q true
    else fetchSlot (setSq s q { v with owed := v.owed - 1 }) q false

/-- The cancels fetched in the last hub cycle are taken (R416, R438). -/
def takeCancels (s : State) : State :=
  s.ref.cancels.foldl (fun s (q, tag, node) => cancelPkt s q tag node) { s with ref := { s.ref with cancels := [] } }

/-- A read of queue `q` is asked for. -/
def askRead (s : State) (q : Nat) : State :=
  let v := getSq s q
  if ringEn v.cfg && !v.stopped then setSq s q { v with owed := v.owed + 1 } else s

/-- SQ_DOORBELL: a write to `sq[q].db`: the fetcher reads the slot at head at the queue's turn. -/
def execSqDoorbell (q : Nat) (s : State) : Host.Outcome State Fault Refusal :=
  if q < 64 then .next (askRead s q) else .next s

/-- The poll interval of a queue has passed. -/
def pollDue (s : State) (q : Nat) : Bool :=
  let v := getSq s q
  ringEn v.cfg && decide (sqPollUs v.cfg ≠ 0) && decide (v.polled + 1000 * sqPollUs v.cfg ≤ s.gtc)

/-- SQ_POLL. -/
def execSqPoll (q : Nat) (s : State) : Host.Outcome State Fault Refusal :=
  if q < 64 ∧ pollDue s q then .next (askRead (setSq s q { getSq s q with polled := s.gtc }) q) else .next s

/-- A re-read is due: 1 µs has passed since the last read. -/
def rereadReady (s : State) (q : Nat) : Bool := (getSq s q).rereadDue && decide ((getSq s q).readAt + 1000 ≤ s.gtc)

/-- PACKET_REREAD: 1 µs after a CRC mismatch. -/
def execPacketReread (q : Nat) (s : State) : Host.Outcome State Fault Refusal :=
  if q < 64 ∧ rereadReady s q then .next (setSq s q { getSq s q with rereadDue := false, reread := true }) else .next s

/-- TORN_CLEAR: the queue goes on with the same slot, read afresh. -/
def execTornClear (q : Nat) (s : State) : Host.Outcome State Fault Refusal :=
  let v := getSq s q
  if q < 64 ∧ v.torn then .next (askRead (setSq s q { v.afresh with torn := false, stopped := false }) q)
  else .next s

/-! ### Enables (R475, R479) -/

/-- The fields of `sq[q].cfg`, of `cq[q].cfg` and of `tr.cfg` (R481). -/
def sqCfgMask : W64 := 0xFFFF003F
def cqCfgMask : W64 := 0x1FF3F
def trCfgMask : W64 := 0x1FF3D

/-- A write to `sq[q].cfg` with en set: where en was clear, the queue is reset. -/
def enableSq (s : State) (q : Nat) (v : W64) : State :=
  let x := getSq s q
  if ringEn x.cfg then s
  else setSq s q { base := x.base, cfg := (v ||| 1) &&& sqCfgMask, polled := s.gtc }

/-- A write to `sq[q].cfg` with en clear. While en was set, no other field changes. -/
def disableSq (s : State) (q : Nat) (v : W64) : State :=
  let x := getSq s q
  if ringEn x.cfg then
    setSq s q { x with cfg := x.cfg &&& ~~~(1 : W64), torn := false, stopped := false, rereads := 0, rereadDue := false, reread := false, owed := 0 }
  else setSq s q { x with cfg := v &&& sqCfgMask &&& ~~~(1 : W64) }

def execQueueEnable (q : Nat) (v : W64) (s : State) : Host.Outcome State Fault Refusal :=
  if q < 64 then .next (enableSq s q v) else .next s
def execQueueDisable (q : Nat) (v : W64) (s : State) : Host.Outcome State Fault Refusal :=
  if q < 64 then .next (disableSq s q v) else .next s

def ringOk : RingId → Bool
  | .cq q => decide (q < 64)
  | .tr => true
def ringMask : RingId → W64
  | .cq _ => cqCfgMask
  | .tr => trCfgMask

/-- Let a ring's waiting records go. -/
def flushRing (s : State) (r : RingId) : State :=
  match r with
  | .cq _ => ringFlush r (getRing s r).wait.length s
  | .tr => drainOut (trapFlush s)

/-- A ring's en is set: head is zero, and the waiting records are written from entry 0. -/
def enableRing (s : State) (r : RingId) (v : W64) : State :=
  let x := getRing s r
  if ringEn x.cfg then s else flushRing (setRing s r { x with cfg := (v ||| 1) &&& ringMask r, head := 0 }) r

def disableRing (s : State) (r : RingId) (v : W64) : State :=
  let x := getRing s r
  if ringEn x.cfg then setRing s r { x with cfg := x.cfg &&& ~~~(1 : W64), heldMsg := false }
  else setRing s r { x with cfg := v &&& ringMask r &&& ~~~(1 : W64) }

def execRingEnable (r : RingId) (v : W64) (s : State) : Host.Outcome State Fault Refusal :=
  if ringOk r then .next (enableRing s r v) else .next s
def execRingDisable (r : RingId) (v : W64) (s : State) : Host.Outcome State Fault Refusal :=
  if ringOk r then .next (disableRing s r v) else .next s

/-- RING_TAIL_WRITE: the host has read entries. -/
def execRingTailWrite (r : RingId) (v : W64) (s : State) : Host.Outcome State Fault Refusal :=
  if ringOk r then .next (flushRing (setRing s r { getRing s r with tail := v.setWidth 32 }) r) else .next s

/-- The coalescing interval of a message held back is over. -/
def msgDue (s : State) (r : RingId) : Bool :=
  let g := getRing s r
  g.heldMsg && decide (g.sentAt + 1000 * ringMod g.cfg ≤ s.gtc)

/-- MSIX_COALESCE_EXPIRY. -/
def execMsixCoalesceExpiry (r : RingId) (s : State) : Host.Outcome State Fault Refusal :=
  if msgDue s r then .next (sendMsix (setRing s r { getRing s r with sentAt := s.gtc, heldMsg := false }) (ringVector r)) else .next s

end Sys2Proof.Machine
end

