-- ==== Sys2Proof/Machine/HostLink.lean ====
section
/-! DEFINITION. The host link: BAR accesses (R472, R473), compatibility mode (R482, R483), configuration space. -/

namespace Sys2Proof.Machine

/-! ### BAR2 and BAR4 (R472, R473) -/

/-- The places of `n` bytes of a BAR access, one of them for each granule of the region table. -/
def barPieces (s : State) (bar4 : Bool) : Nat → Nat → Nat → List (Nat × Nat)
  | 0, _, _ => []
  | fuel + 1, off, n =>
    if n = 0 then []
    else
      let m := Nat.min n (4096 - off % 4096)
      (if bar4 then regionMap s (s.host.apbase.toNat + off) else 12 * 2 ^ 47 + off, m) :: barPieces s bar4 fuel (off + m) (n - m)

/-- Every piece is backed. -/
def barBacked (s : State) (l : List (Nat × Nat)) : Bool := l.all fun (pa, _) => backed s pa

/-- The access lies in its BAR: 512 MiB, or 16 GiB; in recovery there is no BAR4 (R518). -/
def barInside (s : State) (a : BarAccess) (n : Nat) : Bool :=
  if a.bar4 then decide (a.off + n ≤ 2 ^ 34) && !s.mg.recovery else decide (a.off + n ≤ 2 ^ 29)

/-- The host's requests to another device for a piece, in parts that do not leave an aligned unit of 8 bytes: `at_` is the
place of the piece in what is read, `b` what is written there; none of it for a read. -/
def barFar (pa at_ : Nat) (b : Option (List Byte)) : Nat → Nat → Nat → State → State
  | 0, _, _, s => s
  | fuel + 1, o, n, s =>
    if n = 0 then s
    else
      let m := Nat.min n (8 - (pa + o) % 8)
      let (s, _) := match b with
        | none => sendReq s (.host (some (at_ + o, m))) (pa + o) (.load m) 1
        | some b => sendReq s (.host none) (pa + o) (.store ((b.drop o).take m)) 1
      barFar pa at_ b fuel (o + m) (n - m) s

/-- Read pieces from place `at_` on; where a line holds an uncorrectable error the bytes are free (R12 names no effect for
the host). Bytes of another device are asked for, and stand as 0 until they arrive. -/
def barRead (s : State) (at_ : Nat) : List (Nat × Nat) → List Byte × State
  | [] => ([], s)
  | (pa, n) :: l =>
    let s := awaken s pa
    let (b, s) :=
      if isVol (.named pa) then (List.replicate n 0, barFar pa at_ none n 0 n s)
      else if (uncorrectable s (.named pa) n).isSome then
        let (i, s) := takeFresh s; (leBytes n (Config.freeField i), s)
      else (readLoc s (.named pa) n, s)
    let (r, s) := barRead s (at_ + n) l
    (b ++ r, s)

/-- Write pieces, matched against every watchpoint (R502). -/
def barWrite (s : State) : List (Nat × Nat) → List Byte → State
  | [], _ => s
  | (pa, n) :: l, b =>
    let s := awaken s pa
    let s := if isVol (.named pa) then barFar pa 0 (some (b.take n)) n 0 n s
             else storeAt s { agent := 0xFD, core := 0 } (.named pa) (b.take n) false
    barWrite s l (b.drop n)

/-- A BAR access completes with Unsupported Request where it reads, or is dropped. -/
def barRefused (s : State) (read : Bool) : State := { s with host := { s.host with rdata := [], unsupported := read } }

/-- HOST_BAR_ACCESS: an AtomicOp, which no BAR completes, a write where bytes are given, else a read. -/
def execHostBarAccess (a : BarAccess) (s : State) : Host.Outcome State Fault Refusal :=
  let n := if a.write.isEmpty then a.read else a.write.length
  let l := barPieces s a.bar4 (n / 4096 + 2) a.off n
  let no := barRefused s a.write.isEmpty
  if a.atomic then .next (barRefused s true)
  else if !barInside s a n then .next no
  else if !barBacked s l then .next { no with host := { no.host with apfail := s.host.apfail || a.bar4 } }
  else if a.write.isEmpty then
    let (b, s) := barRead s 0 l
    .next { s with host := { s.host with rdata := b, unsupported := false } }
  else
    let s := barWrite s l a.write
    .next (healOver (fun _ => (l.filter fun e => !isVol (.named e.1)).map fun (pa, n) => (.named pa, n)) s)

/-! ### Compatibility mode (R482, R483) -/

/-- COMPAT_ENABLE: a write to `compat.ctl`. Setting en has no effect while PRI or ATS is off. -/
def execCompatEnable (v : W64) (s : State) : Host.Outcome State Fault Refusal :=
  if v.getLsbD 0 then
    if s.host.compatEn || !s.host.pri || !s.host.ats then .next s
    else .next (drainOut (trapFlush { s with host := { s.host with compatEn := true, compatFail := false } }))
  else .next (drainOut (trapFlush { s with host := { s.host with compatEn := false } }))

/-- PRG_RESPONSE: a tag is released. -/
def execPrgResponse (tag : Nat) (failure : Bool) (s : State) : Host.Outcome State Fault Refusal :=
  if s.host.tags.any fun e => e.1 = tag then
    let s := { s with host := { s.host with
      tags := tdel s.host.tags tag, pageReqs := s.host.pageReqs.filter fun e => e.1 ≠ tag
      compatFail := s.host.compatFail || failure } }
    .next (if s.host.compatEn then drainOut (trapFlush s) else s)
  else .next s

/-- ATS_INVALIDATION: the device drops its translation of a page of host addresses. -/
def execAtsInvalidation (page : Nat) (s : State) : Host.Outcome State Fault Refusal :=
  .next { s with host := { s.host with atc := s.host.atc.filter (·.1 ≠ page), atsGen := s.host.atsGen + 1 } }

/-- CONFIGURATION_WRITE: AtomicOp Requester Enable, PRI (none: off; `some n`: on, with an allocation of n outstanding page
requests) and the ATS enable (R74, R474, R482, R483). -/
def execConfigurationWrite (atom : Bool) (pri : Option Nat) (ats : Bool) (s : State) : Host.Outcome State Fault Refusal :=
  let s := { s with host := { s.host with atom := atom, pri := pri.isSome, ats := ats, alloc := pri.getD s.host.alloc % 2 ^ 32 } }
  .next (if s.host.compatEn then drainOut (trapFlush s) else s)

end Sys2Proof.Machine
end

