-- ==== Sys2Proof/Machine/Volley.lean ====
section
/-! DEFINITION. The Volley fabric: requests of other devices (R485 to R487), acknowledgements (R485), fabric nodes' messages
(R76, R433), global time (R490 to R492), links and routes (R493), management messages. -/

namespace Sys2Proof.Machine

def setVol (s : State) (v : Vol) : State := { s with vol := v }

/-! ### The exported aperture (R487) -/

def expEntry (s : State) (i : Nat) : BitVec 256 := tget 0 s.vol.exp i
def expOff (e : BitVec 256) : Nat := rtField e 80 17 * 65536
def expSize (e : BitVec 256) : Nat := rtField e 128 33
def expTask (e : BitVec 256) : Nat := rtField e 16 32
def expLid (e : BitVec 256) : Nat := rtField e 48 16
def expBase (e : BitVec 256) : Nat := rtField e 192 52

/-- The permission bits of an entry, in the places of R62. -/
def expPerm (e : BitVec 256) : Perm :=
  (if e.getLsbD 2 then pR else 0) ||| (if e.getLsbD 3 then pW else 0) ||| (if e.getLsbD 4 then pA else 0)
  ||| (if e.getLsbD 5 && e.getLsbD 1 then pT else 0)

/-- The enabled entry that holds every byte of an access. -/
def expFind (s : State) (off n : Nat) : Option (BitVec 256) :=
  (List.range 8).findSome? fun i =>
    let e := expEntry s i
    if e.getLsbD 0 && decide (expOff e ≤ off) && decide (off + n ≤ expOff e + expSize e) then some e else none

/-- The permissions that a request needs of an entry (R62, R372); `scr` says that the entry maps a scratchpad. -/
def remoteNeed (scr : Bool) : RemoteOp → Perm
  | .load _ => pR
  | .store _ | .piece _ | .probe _ => pW
  | .amo _ _ _ | .cas _ _ _ => pR ||| pW ||| pA
  | .tag k _ => tagNeed k
  | .seqw _ => if scr then tagNeed .setFull else pW
  | .withdraw _ => 0

/-- The host window performs only some atomics, and none while the host link's AtomicOps are off (R74). -/
def remoteHostNo (s : State) : RemoteOp → Bool
  | .amo op _ _ => !s.host.atom || !hostAmo op
  | .cas _ _ _ => !s.host.atom
  | _ => false

/-- A device withdraws a request that a pending list or the hub holds; one that is not held has its answer (R345). -/
def withdrawReq (s : State) (src seq : Nat) : State :=
  let mine (h : Held) : Bool := decide (h.sender = .volley src seq)
  let held := s.cores.any (fun (_, k) => k.held.any mine) || s.vol.parkedReqs.any fun e => decide (e.2.2.1.src = src ∧ e.2.2.1.seq = seq)
  if !held then s
  else
    let s := { s with
      cores := s.cores.map fun (c, k) => (c, if k.held.any mine then { k with held := k.held.filter fun h => !mine h } else k)
      vol := { s.vol with parkedReqs := s.vol.parkedReqs.filter fun e => !decide (e.2.2.1.src = src ∧ e.2.2.1.seq = seq) } }
    answerReq s src seq (.withdrawn src seq)

/-- The recorded answer to a request of a device (R486). -/
def answered (s : State) (src seq : Nat) : Option VolMsg := (s.vol.seen.find? fun e => e.1 = src ∧ e.2.1 = seq).map (·.2.2)

/-- A request has been received already: its response is recorded, or it is held. -/
def seenBefore (s : State) (r : RemoteReq) : Option VolMsg := answered s r.src r.seq

def heldBefore (s : State) (r : RemoteReq) : Bool :=
  (s.vol.parkedReqs.any fun e => decide (e.2.2.1.src = r.src ∧ e.2.2.1.seq = r.seq))
  || s.cores.any fun (_, k) => k.held.any fun h => decide (h.sender = .volley r.src r.seq)

/-- An operation that waits for a condition does not hold back those behind it (DEDUCED, log entry 135). -/
def remoteWaits : RemoteOp → Bool
  | .tag _ _ | .seqw _ => true
  | .load _ | .store _ | .piece _ | .amo _ _ _ | .cas _ _ _ | .probe _ | .withdraw _ => false

/-- The request that the sending core sent before this one, in its class, is not yet performed (R485); a tagged operation that
is held lets those behind it pass. -/
def tooEarly (s : State) (r : RemoteReq) : Bool :=
  match r.after with
  | none => false
  | some q =>
    (answered s r.src q).isNone
    && !(s.cores.any fun (_, k) => k.held.any fun h => decide (h.sender = .volley r.src q))
    && !(s.vol.parkedReqs.any fun e => decide (e.2.2.1.src = r.src ∧ e.2.2.1.seq = q) && remoteWaits e.2.2.1.op)

/-- A request for a scratchpad that an SCR entry names. -/
def requestScr (s : State) (r : RemoteReq) (e : BitVec 256) : State :=
  let t := getTask s (expTask e)
  let lid := expLid e
  let o := expBase e + (r.off - expOff e)
  let live := s.ref.tasks.any fun x => x.1 = expTask e
  if !live ∨ t.st = .ended ∨ lid < t.lbase ∨ t.lbase + 96 * t.nclus ≤ lid ∨ scrSize < o + remoteLen r.op then respond s r 1 0
  else
    match t.st with
    | .dispatched => s
    | .parked | .yielded | .restoring => { s with vol := { s.vol with parkedReqs := s.vol.parkedReqs ++ [(expTask e, lid, { r with off := o }, [])] } }
    | _ =>
      match coreOfLid t lid with
      | some c => remoteDo s r (.scr c o)
      | none => respond s r 1 0

/-- VOLLEY_REQUEST: a request of another device is performed once (R486), or answered with an error (R487). A request for
a task whose launch has not yet started is not yet taken, nor is one that its core's earlier request of the class is to precede
(R485). -/
def execVolleyRequest (r : RemoteReq) (s : State) : Host.Outcome State Fault Refusal :=
  match seenBefore s r, r.op with
  | _, .withdraw seq => .next (withdrawReq s r.src seq)
  | some m, _ => .next { s with vol := { s.vol with out := s.vol.out ++ [m] } }
  | none, _ =>
    if heldBefore s r || tooEarly s r then .next s
    else
      match expFind s r.off (remoteLen r.op) with
      | none => .next (respond s r 1 0)
      | some e =>
        if remoteNeed (e.getLsbD 1) r.op &&& ~~~(expPerm e) ≠ 0 then .next (respond s r 2 ((expPerm e).setWidth 64))
        else if e.getLsbD 1 then .next (requestScr s r e)
        else
          let pa := regionMap s (expBase e + (r.off - expOff e))
          if !backed s pa ∨ 14 ≤ paTarget pa then .next (respond s r 1 0)
          else if paTarget pa = 13 ∧ remoteHostNo s r.op then .next (respond s r 2 ((expPerm e).setWidth 64))
          else .next (remoteDo s r (.named pa))

/-! ### Acknowledgements (R485) -/

/-- The access of a strand is performed: its acknowledgement has come. -/
def ackStrand (s : State) (n : Nat) (fl : Flight) (v : W64) : Done :=
  match fl.op with
  | .store _ _ => .ok (if fl.rel then bumpRelease s s.cur else s) ((sn s n).pc + 4)
  | .amo _ _ _ _ | .cas _ _ _ _ => deliver (bumpRelease s s.cur) n fl v.toNat
  | _ => deliver s n fl v.toNat

/-- The response to a strand's request. -/
def ackToStrand (s : State) (n id : Nat) (err : BitVec 2) (v : W64) : State :=
  match (sn s n).flight with
  | some fl =>
    if fl.req = some id then
      if err ≠ 0 then raise1 s s.cur n (ackFault err fl.va v 0) fl.word
      else
        match ackStrand s n fl v with
        | .ok s pc => finishIssue s n pc false
        | .flt s f => raise1 s s.cur n f fl.word
        | .tagWait s _ => s
        | .sent s _ => s
    else s
  | none => s

/-- The response to a strand's fetch (R187). -/
def ackToFetch (s : State) (n : Nat) (err : BitVec 2) (v : W64) : State :=
  let t := sn s n
  match t.run, t.wait with
  | .waiting, some .fetch =>
    if err ≠ 0 then raise1 s s.cur n (ackFault err t.pc v 0) 0
    else setSn s n { t with run := .ready, fetched := some (t.pc, v.setWidth 32) }
  | _, _ => s

/-- The copy engine's tagged operation was refused by a full list, and leaves again in 64 cycles (R366), or has been
withdrawn (R345). -/
def ackUndone (s : State) (c : Nat) (refused : Bool) : State :=
  let k := getCore s c
  setCore s c { k with cpy := { k.cpy with sent := if refused then some (.refused (cycOf s c + 64)) else none } }

/-- The answer to a request of the host (R473): bytes that it reads, or, where the other device has no such offset or refuses
the access, Unsupported Request for a read and nothing for a write, with apfail set. Bytes that the other device cannot read
are free. -/
def ackToHost (s : State) (read : Option (Nat × Nat)) (err : BitVec 2) (v : W64) : State :=
  if err = 1 ∨ err = 2 then
    { s with host := { s.host with apfail := true, rdata := if read.isSome then [] else s.host.rdata
                                   unsupported := s.host.unsupported || read.isSome } }
  else
    match read with
    | none => s
    | some (o, n) =>
      let (i, s) := takeFresh s
      let b := leBytes n (if err = 0 then v.toNat else Config.freeField i)
      if s.host.unsupported then s
      else { s with host := { s.host with rdata := s.host.rdata.take o ++ b ++ s.host.rdata.drop (o + n) } }

/-- An earlier request of the same core, class and device is not yet performed (R485). -/
def notFirst (s : State) (r : VolReq) : Bool :=
  s.vol.fly.any fun x => decide (x.id < r.id ∧ x.dev = r.dev ∧ x.cls = r.cls ∧ x.origin.core = r.origin.core ∧ r.origin.core < 4096) && !remoteWaits x.op

/-- VOLLEY_ACK: an acknowledgement reaches the requester, and the access is performed; or it is refused. Those of one class from
one core to one device come in the order in which the requests were sent (R485). -/
def execVolleyAck (id : Nat) (error : BitVec 3) (value : W64) (s : State) : Host.Outcome State Fault Refusal :=
  match s.vol.fly.find? fun r => r.id = id && !notFirst s r with
  | none => .next s
  | some r =>
    let s := { s with vol := { s.vol with fly := s.vol.fly.filter fun x => x.id ≠ id } }
    let err : BitVec 2 := error.setWidth 2
    match r.origin with
    | .strand c n => .next { ackToStrand { s with cur := c } n id err value with cur := s.cur }
    | .host r => .next (ackToHost s r err value)
    | .fetch c n => .next { ackToFetch { s with cur := c } n err value with cur := s.cur }
    | .engine c q va =>
      if 4 ≤ error.toNat then .next (ackUndone s c (error = 4))
      else .next (setCore s c { getCore s c with acks := (getCore s c).acks ++ [(q, va, err, value)] })

/-! ### Fabric nodes (R76, R433) -/

/-- The node in flight of a fabric group. -/
def groupNode (s : State) (fgroup : Nat) : Option (Nat × Nat) :=
  s.ref.graphs.findSome? fun (g, gr) =>
    ((List.range gr.nodes.length).find? fun i =>
      let nd := getNode gr i
      recFabric nd.r && decide (nd.r.fgroup = fgroup) && nd.st != .done).map fun i => (g, i)

/-- FABRIC_ARRIVAL_MESSAGE: an arrival of another device, or one held for a part that does not run yet: 64 for a group. -/
def execFabricArrivalMessage (fgroup slot : Nat) (s : State) : Host.Outcome State Fault Refusal :=
  let hold : State :=
    if (s.vol.held.filter fun e => e.1 = fgroup).length < 64 then { s with vol := { s.vol with held := s.vol.held ++ [(fgroup, slot % 8)] } } else s
  match groupNode s fgroup with
  | none => .next hold
  | some (g, i) =>
    let t := getTask s (getNode (getGraph s g) i).task
    match t.st, coreOfLid t t.lbase with
    | .running, some c => .next (applyArrivals s c fgroup [(fgroup, slot % 8)])
    | _, _ => .next hold

/-- FABRIC_ABORT: the local part of a group ends with status 6, the index of the part that ended first in its record. -/
def execFabricAbort (fgroup fidx : Nat) (s : State) : Host.Outcome State Fault Refusal :=
  let d : Option W64 := some (BitVec.ofNat 64 fidx)
  match groupNode s fgroup with
  | none => .next s
  | some (g, i) =>
    let nd := getNode (getGraph s g) i
    match nd.st with
    | .waiting | .prologue | .ready => let (s, id) := leaveEarly s g i; .next (nodeDone s g i 6 d id)
    | .done => .next s
    | _ => .next (shedTask s nd.task 6 d)

/-! ### Global time (R490 to R492) -/

def upPorts (s : State) : List Nat := (List.range 16).filter fun p => s.vol.up.getLsbD p

def sendDiscipline (s : State) (ports : List Nat) : State :=
  { s with vol := { s.vol with discAt := s.gtc, out := s.vol.out ++ ports.map fun p => .discipline p (BitVec.ofNat 64 s.gtc) } }

def disciplineDue (s : State) : Bool := s.vol.tmaster && decide (s.vol.discAt + 1000000 ≤ s.gtc)

/-- DISCIPLINE_SEND: the time master sends on every port that is up, each 1 ms. -/
def execDisciplineSend (s : State) : Host.Outcome State Fault Refusal :=
  if disciplineDue s then .next (sendDiscipline s (upPorts s)) else .next s

/-- DISCIPLINE_RECEIVE: the measured offset of the master's time is slewed toward, and the message forwarded; `offset` is what the
two-way exchange, which the device begins on the port, has given. Within 4 ns of the master the device counts as locked, so that
two locked devices differ by 8 ns at most (R491; DEDUCED, log entry 74). -/
def execDisciplineReceive (port : Nat) (offset : Int) (s : State) : Host.Outcome State Fault Refusal :=
  if s.vol.tmaster then .next s
  else
    let s := { s with vol := { s.vol with out := s.vol.out ++ [.delay port (BitVec.ofNat 64 s.gtc)] } }
    let s := sendDiscipline s ((upPorts s).filter (· ≠ port))
    .next { s with vol := { s.vol with slew := offset, synced := decide (-4 ≤ offset ∧ offset ≤ 4), late := false } }

/-- A report of mc3 to the host (R480); in recovery mc3 runs no firmware (R518). -/
def reportMc3 (s : State) : State := if s.mg.recovery then s else sendMsix s 67

/-- No message has come for 10 ms, and that is not yet reported. -/
def disciplineLate (s : State) : Bool := !s.vol.tmaster && !s.vol.late && decide (s.vol.discAt + 10000000 ≤ s.gtc)

/-- DISCIPLINE_TIMEOUT: no message for 10 ms clears lock, and is reported. -/
def execDisciplineTimeout (s : State) : Host.Outcome State Fault Refusal :=
  if disciplineLate s then .next (reportMc3 { s with vol := { s.vol with synced := false, late := true } }) else .next s

/-- The ticks from now to the nearest time that an edge may mark: a multiple of 10^9 offset by `vol.ppsoff`. -/
def ppsError (s : State) : Int :=
  let d : Int := ((s.gtc : Int) - s.vol.ppsoff.toInt) % 1000000000
  if d ≤ 500000000 then -d else 1000000000 - d

/-- PPS_EDGE: the master slews toward the second that the edge marks. -/
def execPpsEdge (s : State) : Host.Outcome State Fault Refusal :=
  let v := { s.vol with ppsSeen := true, edgeAt := s.gtc }
  .next { s with vol := if v.tmaster && v.pps then { v with slew := ppsError s } else v }

def ppsLate (s : State) : Bool := s.vol.ppsSeen && decide (s.vol.edgeAt + 2000000000 ≤ s.gtc)

/-- PPS_TIMEOUT: no edge for 2 s. -/
def execPpsTimeout (s : State) : Host.Outcome State Fault Refusal :=
  if ppsLate s then .next { s with vol := { s.vol with ppsSeen := false } } else .next s

/-- Firmware steps GTC forward at boot, before the first dispatch (R492); what has been timed moves with it (DEDUCED, log entry
139). -/
def stepGtc (s : State) (v : Nat) : State :=
  if s.ref.nextTask ≠ 1 ∨ v < s.gtc ∨ s.mg.recovery then s
  else
    let d := v - s.gtc
    let old (o : Option Nat) : Option Nat := o.map (· + d)
    let ring (r : Ring) : Ring := { r with sentAt := if r.sentAt = 0 then 0 else r.sentAt + d }
    { s with
      gtc := v
      mg := { s.mg with
        trialAt := s.mg.trialAt + d, dieAt := s.mg.dieAt.map fun (i, t) => (i, t + d)
        rails := (List.range 23).map fun k => (k, let r : Rail := tget {} s.mg.rails k; { r with at_ := r.at_ + d }) }
      vol := { s.vol with
        discAt := s.vol.discAt + d, edgeAt := s.vol.edgeAt + d, slewAt := s.vol.slewAt + d
        downAt := (List.range 16).map fun p => (p, tget 0 s.vol.downAt p + d) }
      bur := { s.bur with
        sampledAt := s.bur.sampledAt + d, changed := old s.bur.changed, before := (s.bur.before.1, old s.bur.before.2)
        lastGate := old s.bur.lastGate, gradeAt := old s.bur.gradeAt
        dies := (List.range 16).map fun i => (i, match dieState s i with
          | .free t b => .free (t + d) b
          | .gated t => .gated (t + d)
          | .ungating t => .ungating (t + d)
          | .powered => .powered
          | .failed => .failed) }
      ref := { s.ref with agedAt := s.ref.agedAt + d
                          graphs := s.ref.graphs.map fun (g, gr) =>
                            (g, { gr with nodes := gr.nodes.map fun n => { n with readyAt := n.readyAt + d } }) }
      clusters := s.clusters.map fun (k, c) => (k, { c with moveAt := c.moveAt + d })
      host := { s.host with
        sq := s.host.sq.map fun (q, x) => (q, { x with polled := x.polled + d, readAt := x.readAt + d })
        cq := s.host.cq.map fun (q, r) => (q, ring r), tr := ring s.host.tr } }

/-- VOLLEY_LOCK: a write to `vol.ctl`; lock stays set. -/
def execVolleyLock (v : W64) (s : State) : Host.Outcome State Fault Refusal :=
  .next { s with vol := { s.vol with tmaster := v.getLsbD 0, pps := v.getLsbD 1, lock := s.vol.lock || v.getLsbD 2 } }

/-! ### Links and routes (R493) -/

def setUp (s : State) (p : Nat) (b : Bool) : State :=
  if 16 ≤ p then s
  else { s with vol := { s.vol with
    up := if b then s.vol.up ||| (1#16 <<< p) else s.vol.up &&& ~~~(1#16 <<< p)
    downAt := if !b && s.vol.up.getLsbD p then tset s.vol.downAt p s.gtc else s.vol.downAt } }

def execLinkDown (port : Nat) (s : State) : Host.Outcome State Fault Refusal := .next (setUp s port false)
def execLinkUp (port : Nat) (s : State) : Host.Outcome State Fault Refusal := .next (setUp s port true)

/-- The route entry of a device: primary port, alternate port. -/
def routeOf (s : State) (dev : Nat) : Nat × Nat :=
  let b := leNat (readSpa s (s.vol.rtbase.toNat + dev % 16384) 1)
  (b % 16, b / 16)

/-- Exchange the ports of an entry whose primary port is `p`. -/
def moveRoute (p : Nat) (b : Byte) : Byte := if b.toNat % 16 = p then BitVec.ofNat 8 (b.toNat % 16 * 16 + b.toNat / 16) else b

/-- REROUTE: mc7 moves the routes of a port that is down to their alternates; requests in flight on it are sent again. -/
def execReroute (port : Nat) (s : State) : Host.Outcome State Fault Refusal :=
  if 16 ≤ port ∨ s.vol.up.getLsbD port then .next s
  else
    let again := s.vol.fly.filter fun r => (routeOf s r.dev).1 = port
    let base := s.vol.rtbase.toNat
    let s := (List.range 4).foldl (fun s i => writeSpa s (base + 4096 * i) ((readSpa s (base + 4096 * i) 4096).map (moveRoute port))) s
    .next { s with vol := { s.vol with out := s.vol.out ++ again.map fun r => .req r.id r.dev r.off r.op r.cls } }

/-- The tasks, and runs of prologues, with requests to a device in flight. -/
def tasksTo (s : State) (dev : Nat) : List Nat :=
  ((s.vol.fly.filter fun r => r.dev = dev ∧ r.origin.core < 4096).map fun r => (getCore s r.origin.core).task).eraseDups

/-- End a task, or the node of a prologue's run. -/
def shedRun (s : State) (status : Nat) (task : Nat) : State :=
  let t := getTask s task
  if t.nclus = 0 && (getNode (getGraph s t.graph) t.node).pro.isSome then
    let (s, id) := leaveEarly s t.graph t.node
    nodeDone s t.graph t.node status none id
  else shedTask s task status none

/-- No route has reached a device for `vol.tmo` ms: both its ports have been down so long (R493). -/
def unreachable (s : State) (dev : Nat) : Bool :=
  let (a, b) := routeOf s dev
  let down (p : Nat) : Bool := !s.vol.up.getLsbD p && decide (tget 0 s.vol.downAt p + s.vol.tmo * 1000000 ≤ s.gtc)
  down a && down b

/-- DESTINATION_UNREACHABLE: mc3 reports, tasks are shed. -/
def execDestinationUnreachable (dev : Nat) (s : State) : Host.Outcome State Fault Refusal :=
  if unreachable s dev then .next ((tasksTo s dev).foldl (fun s t => shedRun s 6 t) (reportMc3 s)) else .next s

/-- The named bits of the four parts of an export entry (R487); the rest are reserved (R7). -/
def expMask (dw : Nat) : W64 :=
  if dw = 0 then 0xFFFFFFFFFFFF003F else if dw = 1 then 0x1FFFF0000 else if dw = 2 then 0x1FFFFFFFF else 0xFFFFFFFFFFFFF

/-- MANAGEMENT_MESSAGE: an update of an export entry's 64-bit part, or of a route entry. -/
def execManagementMessage (exp : Option (Nat × Nat × W64)) (route : Option (Nat × Byte)) (s : State) : Host.Outcome State Fault Refusal :=
  let s := match exp with
    | some (i, dw, v) => if i < 8 ∧ dw < 4 then { s with vol := { s.vol with exp := tput 0 s.vol.exp i (putDw (expEntry s i) dw (v &&& expMask dw)) } } else s
    | none => s
  match route with
  | some (dev, b) => .next (if dev < 16384 then writeSpa s (s.vol.rtbase.toNat + dev) [b] else s)
  | none => .next s

end Sys2Proof.Machine
end

