-- ==== Sys2Proof/Machine/Curve.lean ====
section
/-! DEFINITION. Curve records and what they define (R447 to R454), the averages and estimates of the Bursar (R445, R446,
R455), its event records (R470), and the events of a curve's life. All values are exact rationals, in W and ns. -/

namespace Sys2Proof.Machine

/-! ### The curve (R451 to R454) -/

/-- What a segment holds `dt` ns after its start, `from_` being the value before it. -/
def segValue (from_ : Rat) (g : Seg) (dt : Nat) : Rat :=
  let w := mkRat g.watts 1
  let d := mkRat (g.ramp * dt) 1000000
  if g.ramp = 0 then w
  else if from_ ≤ w then (if from_ + d ≤ w then from_ + d else w)
  else if w ≤ from_ - d then from_ - d else w

/-- Value and hint `t` ns after the beginning of a curve, from the segment in hand on. -/
def segWalk (from_ : Rat) (g : Seg) : List Seg → Nat → Rat × Nat
  | [], t => (segValue from_ g (t - 1000000 * g.start), g.hint)
  | g' :: rest, t =>
    if t < 1000000 * g'.start then (segValue from_ g (t - 1000000 * g.start), g.hint)
    else segWalk (segValue from_ g (1000000 * (g'.start - g.start))) g' rest t

/-- C(t) of a curve and the hint in force (R451). -/
def curveAt (c : Curve) (t : Nat) : Rat × Nat :=
  match c.segs with
  | [] => (0, 0)
  | g :: rest => segWalk (mkRat g.watts 1) g rest (t - c.vfrom)

def fallbackW : Nat := Config.otpFallback.getD ceilW

/-- The curve in force at a GTC not before now: the pending one from its vfrom on, each until its vto (R450, R452). -/
def inForce (s : State) (t : Nat) : Option Curve :=
  match s.bur.pendingC with
  | some p => if p.vfrom ≤ t then (if t < p.vto then some p else none) else s.bur.active.filter fun a => decide (t < a.vto)
  | none => s.bur.active.filter fun a => decide (t < a.vto)

/-- C(t) and the hint in force, without clamps. -/
def curveRaw (s : State) (t : Nat) : Rat × Nat :=
  match inForce s t with
  | some c => curveAt c t
  | none => (mkRat fallbackW 1, 0)

def ratMax (a b : Rat) : Rat := if a ≤ b then b else a
def ratMin (a b : Rat) : Rat := if a ≤ b then a else b

/-- C(t) held to the ceiling, then to the floor (R453, R454). -/
def curveC (s : State) (t : Nat) : Rat := ratMax (ratMin (curveRaw s t).1 (mkRat ceilW 1)) 180

/-- L and Lup (R455). -/
def targetL (s : State) : Rat := curveC s (s.gtc + 2000000)
def targetUp (s : State) : Rat := ratMin (curveC s s.gtc) (curveC s (s.gtc + 2000000))

/-- The half width of the tracking band about a value (R456). -/
def band (x : Rat) : Rat := ratMax (x * mkRat 15 1000) 30

/-- A watts field: the exact value rounded down, or 0 below 0 (R455). -/
def wattsField (x : Rat) : Nat := x.floor.toNat

/-! ### Averages and estimates (R445, R446) -/

/-- The mean in W of samples in mW. -/
def meanW (l : List Nat) : Rat := mkRat (sumNat l) (1000 * Nat.max 1 l.length)

def p1 (s : State) : Rat := meanW (s.bur.p.take 10)
def p10 (s : State) : Rat := meanW (s.bur.p.take 100)
def uAvg (s : State) : Rat := meanW s.bur.u

/-- The estimate of one cluster of a task at vstep k. -/
def estOne (t : Task) (k : Nat) : Rat := mkRat (t.watts * fTab.getD k 15) (Nat.max 1 t.nclus * fTab.getD (entryVstep t) 15)

/-- The vstep at which a cluster runs, or to which it moves. -/
def vstepOf (s : State) (k : Nat) : Nat := (getCluster s k).moving.getD (getCluster s k).vstep

def sumRat (l : List Rat) : Rat := l.foldl (· + ·) 0

/-- A task at the vsteps of its clusters, none of them below k. -/
def estFrom (s : State) (t : Task) (k : Nat) : Rat := sumRat (t.clusters.map fun c => estOne t (Nat.max k (vstepOf s c)))

/-- A task that draws power and is not on its way out. -/
def drawing (t : Task) : Bool :=
  (match t.st with
    | .dispatched | .running | .restoring => true
    | _ => false) && !t.clusters.isEmpty

/-- The estimate of the device with every running cluster at vstep k or slower, U included. -/
def estAll (s : State) (k : Nat) : Rat :=
  uAvg s + sumRat (s.ref.tasks.map fun (_, t) => if drawing t then estFrom s t k else 0)

/-! ### Event records (R470) -/

/-- The seed of the identity key as the bytes of RFC 8032, and the digest of its public half (R520). -/
def idSeed : List Byte := leBytes 32 Config.identitySeed.toNat
def devid : List Byte := sha512 (edPublic idSeed)

/-- A datagram of the management Ethernet (R522). -/
def datagram (type : Nat) (body : List Byte) : List Byte := leBytes 1 type ++ [0, 0, 0] ++ leBytes 4 body.length ++ body

/-- Report an event: the ring in hub SRAM with its message, and the management Ethernet of the module. -/
def reportEvent (s : State) (kind grade victims dies detail : Nat) : State :=
  let b := s.bur
  let cseq := (b.active.map (·.seq)).getD 0
  let msg := leBytes 4 0x0145425A ++ leBytes 2 1 ++ leBytes 1 kind ++ leBytes 1 grade ++ leBytes 8 b.evseq.toNat
    ++ leBytes 8 s.gtc ++ leBytes 8 cseq.toNat
    ++ leBytes 4 (wattsField (ratMax (curveRaw s s.gtc).1 180)) ++ leBytes 4 (wattsField (targetL s))
    ++ leBytes 4 (wattsField (p1 s)) ++ leBytes 2 victims ++ leBytes 2 dies ++ leBytes 8 detail ++ leBytes 8 0 ++ devid
  let r := msg ++ edSign idSeed msg
  let n := (b.evsize.extractLsb' 0 16).toNat
  let s := { s with bur := { b with evseq := b.evseq + 1 } }
  let s :=
    if n = 0 then s
    else
      let full := decide ((b.evhead - b.evtail).toNat = n)
      let s := writeSpa s (b.evbase.toNat + 192 * (b.evhead.toNat % n)) r
      let s := { s with bur := { s.bur with
        evhead := b.evhead + 1, evtail := if full then b.evtail + 1 else b.evtail, evlost := b.evlost || full } }
      sendMsix s 65
  match s.mg.curveSrc with
  | some src => if Config.formM then { s with mg := { s.mg with sent := s.mg.sent ++ [(src, datagram 2 r)] } } else s
  | none => s

/-! ### Curve records (R447 to R450) -/

/-- Bytes at a system physical address that lie in hub SRAM whole. -/
def inHub (s : State) (a n : Nat) : Bool :=
  (lineRange (a / 4096) ((a + n - 1) / 4096 - a / 4096 + 1)).all fun p =>
    let pa := regionMap s (if p * 4096 < a then a else p * 4096)
    paTarget pa = 12 && backed s pa

def segOf (b : List Byte) (k : Nat) : Seg :=
  let o := 0x80 + 16 * k
  { start := getN b o 4, watts := getN b (o + 4) 4, ramp := getN b (o + 8) 4, hint := getN b (o + 12) 1 }

def curveOf (b : List Byte) : Curve :=
  { seq := .ofNat _ (getN b 8 8), vfrom := getN b 0x10 8, vto := getN b 0x18 8
    segs := (List.range (getN b 6 1)).map (segOf b) }

/-- Starts increase strictly. -/
def startsRise : List Seg → Bool
  | a :: b :: l => decide (a.start < b.start) && startsRise (b :: l)
  | _ => true

/-- Magic, version, limits and reserved fields (R447). -/
def curveForm (b : List Byte) : Bool :=
  let n := getN b 6 1
  let c := curveOf b
  decide (getN b 0 4 = 0x0143425A) && decide (getN b 4 2 = 1) && decide (1 ≤ n ∧ n ≤ 64) && decide (getN b 7 1 ≤ 3)
  && decide (c.vfrom < c.vto)
  && decide ((segOf b 0).start = 0) && startsRise c.segs
  && c.segs.all (fun g => decide (c.vfrom + 1000000 * g.start < c.vto) && decide (g.hint ≤ 2))
  && (List.range 64).all fun k => if k < n then zeroAt b (0x80 + 16 * k + 13) 3 else zeroAt b (0x80 + 16 * k) 16

/-- The first failing check of 1 to 6, or 0 (R449). -/
def curveReason (s : State) (placed : Bool) (b : List Byte) : Nat :=
  let pub := (b.drop 0x60).take 32
  if !placed || !curveForm b then 1
  else if (Config.otpKey (getN b 7 1)).map (·.toNat) ≠ some (leNat (sha512 pub)) then 2
  else if !edVerify pub (b.take 0x480) ((b.drop 0x480).take 64) then 3
  else if (b.drop 0x20).take 64 ≠ devid then 4
  else if getN b 8 8 ≤ s.bur.seq.toNat then 5
  else if (curveOf b).vto ≤ s.gtc then 6
  else 0

/-- Where board flash holds the sequence record: past both slots. -/
def seqRecordAt : Nat := 0x8000000

def writeFlash (s : State) (a : Nat) (b : List Byte) : State := { s with mg := { s.mg with flash := tputs 0 s.mg.flash a b } }

/-- Write the sequence record; what a failed write leaves is free (R449, R450). -/
def putSeqRecord (s : State) (seq : W64) : State × Bool :=
  let (i, s) := takeFresh s
  if Config.flashOk i then (writeFlash s seqRecordAt (leBytes 8 seq.toNat ++ leBytes 8 (~~~seq).toNat), true)
  else (writeFlash s seqRecordAt (leBytes 16 (Config.freeField i)), false)

def setBur (s : State) (b : Bur) : State := { s with bur := b }

/-- CURVE_SUBMIT: a write to `bur.cin`; ignored while a record is being decided, or unlocked (R448, R450). -/
def execCurveSubmit (v : W64) (s : State) : Host.Outcome State Fault Refusal :=
  if s.bur.deciding.isSome || !s.bur.lock then .next (setBur s { s.bur with ovr := true })
  else .next { setBur s { s.bur with deciding := some (v &&& 0xFFFFFFFFFFFF8) } with mg := { s.mg with cinSrc := none } }

/-- A record is refused: nothing but `last` changes (R449). -/
def refuseCurve (s : State) (reason : Nat) : State :=
  reportEvent (setBur s { s.bur with last := .ofNat _ reason }) 2 0 0 0 reason

/-- A curve, or none, is in force from a GTC on; its own going below the floor and above the ceiling is reported (R453,
R454). -/
def Bur.changeTo (b : Bur) (c : Option Curve) (t : Nat) : Bur :=
  { b with active := c, changed := some t, before := (b.active, b.changed), lo := false, hi := false }

/-- A record is accepted (R450). -/
def acceptCurve (s : State) (c : Curve) (src : Option Nat) : State :=
  let now := decide (c.vfrom ≤ s.gtc)
  let b := { s.bur with seq := c.seq, last := 0, pendingC := if now then none else some c }
  let s := { s with
    bur := if now then b.changeTo (some c) s.gtc else b
    mg := { s.mg with curveSrc := src } }
  reportEvent s 1 0 0 0 (if now then 0 else 1)

/-- CURVE_DECISION: the checks in their order; the first failure refuses the record (R449). A line of the record with
an uncorrectable error gives its bytes as they are (DESIGN CHOICE, log entry 106). -/
def execCurveDecision (s : State) : Host.Outcome State Fault Refusal :=
  match s.bur.deciding with
  | none => .next s
  | some a =>
    let placed := s.mg.cinSrc.isSome || inHub s a.toNat 1216
    let b := match s.mg.cinSrc with
      | some (_, body) => body
      | none => readSpaLong s a.toNat 1216
    let src := s.mg.cinSrc.map (·.1)
    let r := curveReason s placed b
    let s := { setBur s { s.bur with deciding := none } with mg := { s.mg with cinSrc := none } }
    if r ≠ 0 then .next (refuseCurve s r)
    else
      let (s, ok) := putSeqRecord s (curveOf b).seq
      if ok then .next (acceptCurve s (curveOf b) src) else .next (refuseCurve s 7)

/-- A pending curve takes over; the active one has expired where its vto is not above that moment (R450, R452). -/
def takeOver (s : State) (c : Curve) : State :=
  let overs := s.bur.active.any fun a => decide (a.vto ≤ c.vfrom)
  let s := setBur s { s.bur.changeTo (some c) c.vfrom with pendingC := none }
  if overs then reportEvent s 3 0 0 0 0 else s

def activateDue (s : State) : Bool := s.bur.pendingC.any fun c => decide (c.vfrom ≤ s.gtc)
def expireDue (s : State) : Bool := s.bur.active.any fun c => decide (c.vto ≤ s.gtc)

/-- CURVE_ACTIVATE: a pending curve becomes active at its vfrom. -/
def execCurveActivate (s : State) : Host.Outcome State Fault Refusal :=
  match s.bur.pendingC with
  | some c => if c.vfrom ≤ s.gtc then .next (takeOver s c) else .next s
  | none => .next s

/-- CURVE_EXPIRE: the active curve expires at its vto, to a pending curve of that moment or to the fallback ceiling. -/
def execCurveExpire (s : State) : Host.Outcome State Fault Refusal :=
  match s.bur.active with
  | some a =>
    if a.vto ≤ s.gtc then
      match s.bur.pendingC.filter fun c => decide (c.vfrom ≤ a.vto) with
      | some c => .next (takeOver s c)
      | none => .next (reportEvent (setBur s (s.bur.changeTo none a.vto)) 3 0 0 0 fallbackW)
    else .next s
  | none => .next s

/-- SEQLO_WRITE: a write to `bur.seqlo`, read only once locked. -/
def execSeqloWrite (v : W64) (s : State) : Host.Outcome State Fault Refusal :=
  if s.bur.lock then .next s else .next (setBur s { s.bur with seqlo := v, seq := v })

/-- BURSAR_LOCK: a write to `bur.ctl`; lock is set once. -/
def execBursarLock (v : W64) (s : State) : Host.Outcome State Fault Refusal :=
  .next (setBur s { s.bur with lock := s.bur.lock || v.getLsbD 0 })

end Sys2Proof.Machine
end

