-- ==== Sys2Proof/Machine/Bursar.lean ====
section
/-! DEFINITION. The Bursar's control loop: samples (R446, R455), the band (R456), grades (R457, R458, R460, R461), raising
power (R459), die gating (R468) and die failure (R469). -/

namespace Sys2Proof.Machine

/-! ### Samples (R446, R526) -/

/-- What a rail counts for while its reading is stale, in mW (R444, R526). -/
def railRated (k : Nat) : Nat :=
  if k < 16 then 240000
  else if k = 16 then 150000
  else if k = 17 ∨ k = 18 then 260000
  else if k = 20 ∨ k = 21 then 125000
  else Config.railShare k

/-- A rail's reading is older than 500 µs. -/
def railOld (s : State) (k : Nat) : Bool := decide (500000 < s.gtc - (tget {} s.mg.rails k : Rail).at_)

def railMw (s : State) (k : Nat) : Nat := if railOld s k then railRated k else (tget {} s.mg.rails k : Rail).mw

/-- Sum over rails `from_` to `from_ + n - 1`. -/
def railSum (s : State) (from_ n : Nat) : Nat := sumNat ((List.range n).map fun i => railMw s (from_ + i))

def takeSample (s : State) : State :=
  let b := s.bur
  setBur s { b with
    p := (railSum s 0 23 :: b.p).take 100, u := (railSum s 16 7 :: b.u).take 10, sampledAt := s.gtc
    curW := wattsField (curveRaw s s.gtc).1, tgtW := wattsField (targetL s) }

/-! ### Clamps (R453, R454) -/

/-- Report the curve's going below the floor, or above the ceiling, once each time: a new one below the floor counts only
after the curve has risen above it. -/
def clampEvents (s : State) : State :=
  let c := (curveRaw s s.gtc).1
  let lo := decide (c < 180) || (s.bur.lo && decide (c ≤ 180))
  let hi := decide (mkRat ceilW 1 < c)
  let s' := setBur s { s.bur with lo := lo, hi := hi }
  let s' := if lo && !s.bur.lo then reportEvent s' 4 0 0 0 (wattsField c) else s'
  if hi && !s.bur.hi then reportEvent s' 13 0 0 0 (wattsField c) else s'

/-! ### The tracking band (R456) -/

/-- The integral of a segment's ramp from its start, `t` ns later: W × ns. -/
def segArea (from_ : Rat) (g : Seg) (t : Rat) : Rat :=
  let w := mkRat g.watts 1
  if g.ramp = 0 then w * t
  else
    let up := decide (from_ ≤ w)
    let rate := mkRat g.ramp 1000000
    let reach := (if up then w - from_ else from_ - w) / rate
    let x := ratMin t reach
    let slope := if up then rate else -rate
    from_ * x + slope * x * x / 2 + w * (t - x)

/-- A piece of a window: its integral, the values at its ends, and whether it begins with a step. -/
structure Piece where
  area : Rat
  first : Rat
  last : Rat
  step : Bool

/-- What the window from `a` to `b`, in ns after a curve's beginning, meets of a segment that ends at `e`; `lead` says that
it is the first one. -/
def segPiece (lead : Bool) (from_ : Rat) (g : Seg) (a b e : Nat) : List Piece :=
  let s0 := 1000000 * g.start
  if s0 < e ∧ a < e ∧ s0 < b then
    let x := Nat.max a s0 - s0
    let y := Nat.min b e - s0
    [{ area := segArea from_ g (mkRat y 1) - segArea from_ g (mkRat x 1)
       first := segValue from_ g x, last := segValue from_ g y
       step := !lead && decide (a ≤ s0) && decide (g.ramp = 0) && decide (mkRat g.watts 1 ≠ from_) }]
  else []

/-- The pieces of a window, from the segment in hand on. -/
def windowPieces (lead : Bool) (from_ : Rat) (g : Seg) (a b : Nat) : List Seg → List Piece
  | [] => segPiece lead from_ g a b b
  | g' :: more =>
    segPiece lead from_ g a b (1000000 * g'.start)
    ++ windowPieces false (segValue from_ g (1000000 * (g'.start - g.start))) g' a b more

/-- The curve in force in the window that ends now, and when it came into force: a change at this very instant lies outside
the window. -/
def windowCurve (s : State) : Option Curve × Option Nat :=
  if s.bur.changed = some s.gtc then s.bur.before else (s.bur.active, s.bur.changed)

/-- The pieces of the last 10 ms under the curve in force throughout them, or under the fallback ceiling. -/
def lastPieces (s : State) : List Piece :=
  match (windowCurve s).1 with
  | some c =>
    match c.segs with
    | g :: rest => windowPieces true (mkRat g.watts 1) g (s.gtc - 10000000 - c.vfrom) (s.gtc - c.vfrom) rest
    | [] => []
  | none => [{ area := mkRat (fallbackW * 10000000) 1, first := mkRat fallbackW 1, last := mkRat fallbackW 1, step := false }]

/-- A curve began or expired before this instant, and the event has not come yet. -/
def changeOwed (s : State) : Bool :=
  (s.bur.pendingC.any fun c => decide (c.vfrom < s.gtc)) || s.bur.active.any fun c => decide (c.vto < s.gtc)

/-- Whether the window that ends now, half open at its end, is judged. -/
def windowMeets (s : State) : Bool :=
  let w0 := s.gtc - 10000000
  decide (10000000 ≤ s.gtc) && decide (s.bur.p.length = 100)
  && (match (windowCurve s).2 with | some t => decide (t < w0) | none => true)
  && !changeOwed s
  && (match s.bur.gradeAt with | some t => decide (t < w0) | none => true)
  && (lastPieces s).all fun p => !p.step && decide (180 ≤ p.first) && decide (180 ≤ p.last)

/-- Judge the window; a run of failing windows is reported at its first. -/
def judgeBand (s : State) : State :=
  let mean := sumRat ((lastPieces s).map (·.area)) / 10000000
  let bad := windowMeets s && !(decide (mean - band mean ≤ p10 s) && decide (p10 s ≤ mean + band mean))
  let s' := setBur s { s.bur with bandBad := bad }
  if bad && !s.bur.bandBad then reportEvent s' 9 0 0 0 (wattsField (p10 s)) else s'

/-! ### Victims (R458) -/

/-- What remains of the expected duration of a task's entry, in ns. -/
def taskLeft (s : State) (t : Task) : Nat :=
  1000 * (match t.kernel.ops[t.entry]? with | some e => e.micros | none => 0) - (s.gtc - t.start)

/-- The key of the victim order, smaller first. -/
def victimKey (s : State) (id : Nat) (t : Task) : List Nat :=
  let nd := getNode (getGraph s t.graph) t.node
  [255 - nd.r.eclass, effPrio s nd,
   if t.deadline == 0 then 0 else ((2 ^ 66 : Int) - ((t.deadline.toNat : Int) - s.gtc - taskLeft s t)).toNat,
   2 ^ 64 - id]

/-- The tasks that satisfy a test, in victim order. -/
def inVictimOrder (s : State) (f : Nat → Task → Bool) : List Nat :=
  (sortKey (s.ref.tasks.filterMap fun (id, t) => if f id t then some (victimKey s id t, id) else none)).map (·.2)

/-- Already a victim of a grade in progress. -/
def isVictim (s : State) (id : Nat) : Bool := s.bur.grades.any fun g => g.victims.contains id

/-- Move every cluster of a task to a vstep, none of them upward. -/
def slowTask (s : State) (t : Task) (k : Nat) : State :=
  t.clusters.foldl (fun s c =>
    if vstepOf s c < k then setCluster s c ((getCluster s c).moveTo s.gtc k) else s) s

/-- The lowest-numbered vstep of a list whose measure is within a limit. -/
def lowestStep (f : Nat → Rat) (limit : Rat) : List Nat → Option Nat
  | [] => none
  | k :: ks => if f k ≤ limit then some k else lowestStep f limit ks

/-- Take victims under a grade (1 slow, 2 park, 3 shed) until the estimate is at most L; under park one that has no range for
its image is shed (R457). -/
def takeVictims (grade : Nat) (limit : Rat) : List Nat → Rat → List Nat → State → State × List Nat
  | [], _, got, s => (s, got)
  | id :: rest, est, got, s =>
    if est ≤ limit then (s, got)
    else
      let t := getTask s id
      let own := estFrom s t 0
      if grade = 1 then
        let k := (lowestStep (estFrom s t) (limit - (est - own)) (List.range 12)).getD 11
        takeVictims grade limit rest (est - own + estFrom s t k) (got ++ [id]) (slowTask s t k)
      else if grade = 2 ∧ t.range.isSome then
        let s := setBur s { s.bur with parkedQ := s.bur.parkedQ.filter (· ≠ id) ++ [id] }
        takeVictims grade limit rest (est - own) (got ++ [id]) (parkTask s id)
      else takeVictims grade limit rest (est - own) (got ++ [id]) (shedTask s id 6 none)

/-- The dies of a task, as a list of slots. -/
def taskDies (t : Task) : List Nat := (List.range 16).filter fun d => t.clusters.any fun k => decide (k / 2 = d)

def dieBits (l : List Nat) : Nat := sumNat (l.map fun d => 2 ^ d)

/-- Declare a grade where power is above the band of L (R457). Where the estimate is at most L already, no victim is to be
taken and nothing is declared: the average still holds samples from before the last grade (DEDUCED, log entry 81). A grade
that finds no task to take is declared with no victim, and names task 0. -/
def declareGrade (s : State) : State :=
  let L := targetL s
  if p1 s ≤ L + band L ∨ estAll s 0 ≤ L then s
  else
    let hint := (curveRaw s (s.gtc + 2000000)).2
    let grade := Nat.max (if estAll s 11 ≤ L then 1 else 2) (hint + 1)
    let order := inVictimOrder s fun id t => t.st == .running && decide (0 < t.nclus) && !isVictim s id
    let (s', got) := takeVictims grade L order (estAll s 0) [] s
    let dies := (List.range 16).filter fun d => got.any fun id => (taskDies (getTask s id)).contains d
    let s' := setBur s' { s'.bur with
      grades := s'.bur.grades ++ [{ grade := grade, at_ := s.gtc, victims := got, left := got
                                    dies := if grade = 1 then [] else dies }] }
    reportEvent s' 5 grade got.length (dieBits dies) (got.headD 0)

/-! ### The end of a grade (R460, R470) -/

/-- A victim has not reached its end state. -/
def victimOpen (s : State) (grade id : Nat) : Bool :=
  let t := getTask s id
  if grade = 1 then t.st != .ended && anyMoving s t.clusters
  else
    match t.st with
    | .freezing | .saving | .halting => true
    | _ => false

/-- A die of a grade still waits for its gating turn. -/
def dieWaits (s : State) (d : Nat) : Bool :=
  match dieState s d with
  | .free _ _ => true
  | _ => false

def settleGrade (s : State) (g : GradeRec) : GradeRec := { g with left := g.left.filter (victimOpen s g.grade) }

def gradeOver (s : State) (g : GradeRec) : Bool := g.left.isEmpty && !g.dies.any (dieWaits s)

/-- Grades that have ended are reported; overdraws of the Referee too (R428). -/
def burSettle (s : State) : State :=
  if s.bur.grades.isEmpty && s.bur.overs.isEmpty && s.bur.releasing.isEmpty then s
  else
    let overs := s.bur.overs
    let gs := s.bur.grades.map (settleGrade s)
    let on := !(s.bur.grades.isEmpty && s.bur.releasing.isEmpty)
    let s := setBur s { s.bur with
      overs := [], grades := gs.filter fun g => !gradeOver s g, gradeAt := if on then some s.gtc else s.bur.gradeAt }
    let s := overs.foldl (fun s (id, _) => reportEvent s 11 0 0 0 id) s
    (gs.filter (gradeOver s)).foldl (fun s g =>
      reportEvent s 6 g.grade g.victims.length (dieBits g.dies) ((s.gtc - g.at_) / 1000)) s

/-! ### Raising power (R459) -/

/-- Raise the slowed clusters of a running task one vstep each, where the estimate allows it and 1 ms has passed. -/
def riseTask (limit : Rat) (s : State) (id : Nat) : State :=
  let t := getTask s id
  t.clusters.foldl (fun s c =>
    let cl := getCluster s c
    let k := cl.vstep
    if cl.moving.isNone && decide (entryVstep t < k)
        && decide (s.gtc ≥ 1000000 + tget 0 s.bur.risen c ∨ tget 0 s.bur.risen c = 0)
        && decide (estAll s 0 - estOne t k + estOne t (k - 1) ≤ limit) then
      setBur (setCluster s c (cl.moveTo s.gtc (k - 1))) { s.bur with risen := tset s.bur.risen c s.gtc }
    else s) s

/-- Power left below Lup, the tasks being restored subtracted. -/
def room (s : State) : Rat :=
  targetUp s - p1 s - sumRat (s.ref.tasks.map fun (_, t) =>
    if t.st == .restoring then estOne t t.vstep * mkRat t.nclus 1 else 0)

/-- Raise power task by task; after a parked task that does not fit, none is released. -/
def raiseTasks : List Nat → Bool → State → State
  | [], _, s => s
  | id :: rest, open_, s =>
    let t := getTask s id
    if t.st == .running then raiseTasks rest open_ (riseTask (targetUp s) s id)
    else if !open_ then raiseTasks rest open_ s
    else
      match lowestStep (fun k => estOne t k * mkRat t.nclus 1) (room s) ((List.range 12).drop (entryVstep t)) with
      | some k => raiseTasks rest open_ (reportEvent (releaseTask s id k) 10 0 0 0 id)
      | none => raiseTasks rest false s

def raisePower (s : State) : State :=
  let up := targetUp s
  if s.bur.grades.isEmpty && decide (p1 s + band up ≤ up) then
    let order := inVictimOrder s fun id t =>
      (t.st == .parked && s.bur.parkedQ.contains id)
      || (t.st == .running && t.clusters.any fun c => decide (entryVstep t < (getCluster s c).vstep))
    raiseTasks order.reverse true s
  else s

/-! ### The sample (R446, R455) -/

/-- e and B (R455); B goes to the Referee rounded down. -/
def budgetB (s : State) : Int :=
  let u := uAvg s
  let d := p1 s - (u + mkRat (committed s) 1)
  let e := ratMax (ratMin d 500) (-500)
  (targetL s - u - e).floor

/-- A grid instant has passed since the last sample. -/
def sampleDue (s : State) : Bool := decide (s.bur.sampledAt / 100000 ≠ s.gtc / 100000)

/-- BURSAR_SAMPLE. -/
def execBursarSample (s : State) : Host.Outcome State Fault Refusal :=
  if sampleDue s then
    let s := raisePower (declareGrade (judgeBand (clampEvents (takeSample s))))
    .next (evalSoon (setBur s { s.bur with budget := budgetB s }))
  else .next s

/-! ### Die gating (R468) -/

def setDie (s : State) (d : Nat) (v : DieSt) : State := setBur s { s.bur with dies := tset s.bur.dies d v }

/-- Gatings and ungatings stand 200 µs apart. -/
def spaced (s : State) : Bool :=
  match s.bur.lastGate with
  | some t => decide (t + 200000 ≤ s.gtc)
  | none => true

/-- No die holds a task, and none is being powered. -/
def allFree (s : State) : Bool := (List.range 16).all fun d =>
  match dieState s d with
  | .free _ _ | .gated _ | .failed => true
  | _ => false

/-- The free die whose turn it is: the most recently freed, the higher slot among equals. -/
def gateNext (s : State) : Option Nat :=
  let mine := (List.range 16).filterMap fun d =>
    match dieState s d with
    | .free a _ => if allFree s || s.bur.grades.any fun g => g.dies.contains d then some ([2 ^ 64 - a, 15 - d], d) else none
    | _ => none
  ((sortKey mine).head?).map (·.2)

/-- The wanted die that has been gated longest, and is not held in reset (R524). -/
def ungateNext (s : State) : Option Nat :=
  let mine := s.bur.wanted.filterMap fun (d, _) =>
    match dieState s d with
    | .gated a => if s.mg.busy.getLsbD d then none else some ([a, d], d)
    | _ => none
  ((sortKey mine).head?).map (·.2)

/-- A gating or ungating turn has come. -/
def gatingDue (s : State) : Bool := spaced s && ((ungateNext s).isSome || (gateNext s).isSome)

/-- GATING_TURN: a wanted die begins to be powered; else a free die is gated. -/
def execGatingTurn (s : State) : Host.Outcome State Fault Refusal :=
  if !spaced s then .next s
  else
    match ungateNext s, gateNext s with
    | some d, _ =>
      let s := setDie s d (.ungating s.gtc)
      .next (setBur s { s.bur with
        wanted := s.bur.wanted.filter (·.1 ≠ d), parkDies := s.bur.parkDies.filter (· ≠ d), lastGate := some s.gtc })
    | none, some d =>
      let g := s.bur.grades.find? fun g => g.dies.contains d
      let s := dropClusterTlbs (setDie s d (.gated s.gtc)) [2 * d, 2 * d + 1]
      let by_ := g.any fun g => g.grade == 2
      .next (reportEvent (setBur s { s.bur with
        parkDies := if by_ then d :: s.bur.parkDies else s.bur.parkDies, lastGate := some s.gtc }) 7 ((g.map (·.grade)).getD 0)
        ((g.map (·.victims.length)).getD 0) (2 ^ d) d)
    | none, none => .next s

/-- DIE_UNGATED: the die is ready; a released task may take it. -/
def execDieUngated (die : Nat) (s : State) : Host.Outcome State Fault Refusal :=
  match dieState s die with
  | .ungating _ => .next (allotRestore (reportEvent (setDie s die (.free s.gtc false)) 8 0 0 (2 ^ die) die))
  | _ => .next s

/-! ### Die failure (R442, R469) -/

/-- A restartable task goes back to its last park image, or to the start of its launch, with its entry. -/
def restartTask (s : State) (task : Nat) : State :=
  let t := getTask s task
  let s := dropClusterTlbs (handOverTask s task) (wholeDies t.clusters)
  let s := evalSoon (forgetTask (coresOff (freeClusters s true t.clusters) t.clusters) task)
  let nd := getNode (getGraph s t.graph) t.node
  if !t.imaged then
    let s := dropParked (closeTask s task) task
    setNode s t.graph t.node { nd with st := .ready, readyAt := s.gtc, restarted := true, entry := some t.entry, image := none }
  else
    let s := setTask s task { t with
      st := .parked, clusters := [], slots := t.savedSlots, ylds := [], ending := none, restarted := true, yldReq := false, stopped := false }
    setNode s t.graph t.node { nd with st := .ready, readyAt := s.gtc, restarted := true, image := some task }

/-- A task with a cluster on a failed die halts as a shed does, and restarts or ends. -/
def failTask (s : State) (task : Nat) : State :=
  let t := getTask s task
  let s := shedAccesses s (coresOf s task)
  match t.st, t.ending with
  | .halting, some (st, d) => launchOver s task st d true
  | _, _ => if t.norestart then launchOver s task 8 none true else restartTask s task

/-- DIE_FAILURE: the die is gated at once. -/
def execDieFailure (die : Nat) (s : State) : Host.Outcome State Fault Refusal :=
  if 16 ≤ die ∨ dieState s die = .failed then .next s
  else
    let b := s.bur
    let s := setBur s { b with
      dies := tset b.dies die .failed, failures := tset b.failures die (tget 0 b.failures die + 1)
      lastGate := some s.gtc, wanted := b.wanted.filter (·.1 ≠ die), parkDies := b.parkDies.filter (· ≠ die) }
    let hit := (s.ref.tasks.filter fun (_, t) => t.st != .ended && t.clusters.any fun k => decide (k / 2 = die)).map (·.1)
    let s := hit.foldl failTask s
    let s := reportEvent (dropClusterTlbs s [2 * die, 2 * die + 1]) 12 0 0 (2 ^ die) die
    .next (reportMc3 s)

end Sys2Proof.Machine
end

