-- ==== Sys2Proof/Machine/Compose.lean ====
section
/-! DEFINITION. Composing and emitting engine words, stream registers, queue status, token links, markers and joins
(R195 to R207). -/

namespace Sys2Proof.Machine

/-! ### Composition registers (R196, R197) -/

def wval (s : State) (n : WReg) : WComp := wget (cst s) n.toNat
def setW (s : State) (n : WReg) (v : WComp) : State := setCst s (wset (cst s) n.toNat v)

/-- Bits pos to pos + len − 1 of `w` replaced by the low bits of `v`. -/
def insertBits (w v : W64) (pos len : Nat) : W64 :=
  let m : W64 := BitVec.ofNat 64 ((2 ^ len - 1) * 2 ^ pos)
  (w &&& ~~~m) ||| ((v <<< pos) &&& m)

def execWins (wd : WReg) (rs1 : Reg) (pos len : BitVec 6) (s : State) : Host.Outcome State Fault Refusal :=
  conduct false false (packJ 0x28 (0#1 ++ wd ++ rs1 ++ pos ++ len ++ 0#4)) [rs1.toNat] (fun s =>
    adv s (setW s wd { wval s wd with val := insertBits (wval s wd).val (rx s rs1) pos.toNat (len.toNat + 1) })) s

def execWmov (wa : WReg) (xj : Reg) (s : State) : Host.Outcome State Fault Refusal :=
  conduct false false (packJ 0x29 (0#1 ++ wa ++ xj ++ 0#16)) [xj.toNat] (fun s => adv s (setW s wa { val := rx s xj, origin := 0xFFFF })) s

def execWrd (xj : Reg) (wa : WReg) (s : State) : Host.Outcome State Fault Refusal :=
  conduct false false (packJ 0x29 (0#1 ++ wa ++ xj ++ 1#16)) [xj.toNat] (fun s => adv s (wx s xj (wval s wa).val)) s

def execWcpy (wa wj : WReg) (s : State) : Host.Outcome State Fault Refusal :=
  conduct false false (packJ 0x29 (0#1 ++ wa ++ 0#1 ++ wj ++ 2#16)) [] (fun s => adv s (setW s wa (wval s wj))) s

/-- The load of a template of the kernel's pool (R197): alignment is not checked. -/
def tmplReq (s : State) (op : MemOp) (idx : W16) : Req :=
  { op := op, va := (curTask s).poolVa + zx idx * 8, len := 8, need := pR, align := false }

/-- The index reaches past the kernel's pool (R155). -/
def pastPool (s : State) (idx : W16) : Bool := decide ((curTask s).kernel.poolCount ≤ idx.toNat)

def execWtmpl (wd : WReg) (idx : W16) (s : State) : Host.Outcome State Fault Refusal :=
  conduct false false (packJ 0x2A (0#1 ++ wd ++ 0#5 ++ idx)) [] (fun s =>
    let w : W32 := (packJ 0x2A (0#1 ++ wd ++ 0#5 ++ idx))
    if pastPool s idx then .flt s { code := 0x0001, detail := w.setWidth 64 }
    else sendMem w (tmplReq s (.wtmpl wd.toNat idx.toNat) idx) s) s

/-! ### Emission (R198) -/

def qn (q : Queue) : Nat := q.code.toNat

/-- The conditions of an emission that passes its predicate: no section switch pending, an entry it may take. -/
def emitWait (s : State) (q : Nat) : Option Eff :=
  let k := cc s
  if !k.switching.isEmpty then some (.wait s .sect)
  else if mayTake k q k.cs then none
  else some (.wait (setCC s (addWaiter k q k.cs)) (.entry (1#4 <<< q)))

def execEmit (q : Queue) (pd : PReg) (ws : WReg) (s : State) : Host.Outcome State Fault Refusal :=
  .next (conductState false true (packJ 0x2B (q.code ++ pd ++ ws ++ 0#17)) [] (fun s =>
    if !pget (cst s) pd.toNat then adv s s
    else
      match emitWait s (qn q) with
      | some e => e
      | none => adv s (appendWord s (cc s).cs (qn q) (wval s ws).val (wval s ws).origin)) s)

def execEmitt (q : Queue) (pd : PReg) (idx : W16) (s : State) : Host.Outcome State Fault Refusal :=
  .next (conductState false true (packJ 0x2C (q.code ++ pd ++ 0#5 ++ idx)) [] (fun s =>
    let w : W32 := (packJ 0x2C (q.code ++ pd ++ 0#5 ++ idx))
    if pastPool s idx then .flt s { code := 0x0001, detail := w.setWidth 64 }
    else if !pget (cst s) pd.toNat then adv s s
    else
      match emitWait s (qn q) with
      | some e => e
      | none => sendMem w (tmplReq s (.emitt (qn q) idx.toNat) idx) s) s)

/-! ### Stream registers (R201, R204) -/

def strmOf (s : State) (r : SReg) : Strm := tget {} (cc s).sreg r.toNat
def setStrm (s : State) (r : SReg) (v : Strm) : State := setCC s { cc s with sreg := tput {} (cc s).sreg r.toNat v }

/-- A field takes the low bits that fit it. -/
def strmSet (m : Strm) (f : Nat) (v : W64) : Strm :=
  match f with
  | 0 => { m with base := v }
  | 1 => { m with fmt := v.setWidth 5 }
  | 2 => { m with ext0 := v.setWidth 32 }
  | 3 => { m with ext1 := v.setWidth 32 }
  | 4 => { m with ext2 := v.setWidth 32 }
  | 5 => { m with str0 := v.setWidth 32 }
  | 6 => { m with str1 := v }
  | 7 => { m with str2 := v }
  | 8 => { m with sgeo := v.setWidth 2 }
  | 9 => { m with sbase := v }
  | 10 => { m with sstr := v }
  | _ => m

/-- A field, sign-extended where it is signed. -/
def strmGet (m : Strm) (f : Nat) : W64 :=
  match f with
  | 0 => m.base
  | 1 => zx m.fmt
  | 2 => zx m.ext0
  | 3 => zx m.ext1
  | 4 => zx m.ext2
  | 5 => sx m.str0
  | 6 => m.str1
  | 7 => m.str2
  | 8 => zx m.sgeo
  | 9 => m.sbase
  | 10 => m.sstr
  | _ => 0

def execSset (sd : SReg) (rs1 : Reg) (fld : BitVec 5) (s : State) : Host.Outcome State Fault Refusal :=
  conduct false false (packJ 0x30 (0#1 ++ sd ++ rs1 ++ fld ++ 0#11)) [rs1.toNat]
    (fun s => adv s (setStrm s sd (strmSet (strmOf s sd) fld.toNat (rx s rs1)))) s

def execSget (rd : Reg) (ss : SReg) (fld : BitVec 5) (s : State) : Host.Outcome State Fault Refusal :=
  conduct false false (packJ 0x31 (rd ++ 0#1 ++ ss ++ fld ++ 0#11)) [rd.toNat] (fun s => adv s (wx s rd (strmGet (strmOf s ss) fld.toNat))) s

def execScpy (sd ss : SReg) (s : State) : Host.Outcome State Fault Refusal :=
  conduct false false (packJ 0x32 (0#1 ++ sd ++ 0#1 ++ ss ++ 0#16)) [] (fun s => adv s (setStrm s sd (strmOf s ss))) s

def execSclr (sd : SReg) (s : State) : Host.Outcome State Fault Refusal :=
  conduct false false (packJ 0x33 (0#1 ++ sd ++ 0#21)) [] (fun s => adv s (setStrm s sd {})) s

/-! ### Queue status and tokens (R205, R206) -/

def qstatOf (k : Core) (q n : Nat) : W64 :=
  let e := getEng k q
  BitVec.ofNat 64 (usedEntries k q % 256 + (freeEntries k q - heldFor k q) % 256 * 2 ^ 8
    + (if (flying k q).isEmpty then 0 else 2 ^ 16) + (if e.stop then 2 ^ 17 else 0)
    + (if hasMarker k q n then 2 ^ 18 else 0))

def execQstat (rd : Reg) (q : Queue) (s : State) : Host.Outcome State Fault Refusal :=
  conduct false false (packJ 0x2D (rd ++ 0#3 ++ q.code ++ 0#16)) [rd.toNat] (fun s => adv s (wx s rd (qstatOf (cc s) (qn q) (cc s).cs))) s

/-- tkpush. While an earlier access of another strand is in flight the strand waits, so that the token stands behind it
(R206; DEDUCED, log entry 113). -/
def execTkpush (q : Queue) (s : State) : Host.Outcome State Fault Refusal :=
  conduct false true (packJ 0x2E (q.code ++ 0#24)) [] (fun s =>
    let k := cc s
    if linkFree k (linkCE (qn q)) = 0 then .wait s (.room (qn q))
    else if !(flightsBefore k k.ord).isEmpty then .wait s .order
    else adv s (setCC s (pushTok k (linkCE (qn q)) { strand := k.cs, eseq := 0 }))) s

def execTkpop (q : Queue) (s : State) : Host.Outcome State Fault Refusal :=
  conduct false true (packJ 0x2F (q.code ++ 0#24)) [] (fun s =>
    let k := cc s
    if (tokens k (linkEC (qn q))).isEmpty then .wait s (.token (qn q))
    else adv s (setCC s { popTok k (linkEC (qn q)) with popBy := k.cs })) s

/-! ### Markers and joins (R40, R207) -/

/-- The queues of a mask, in engine-code order. -/
def queuesOf (qs : BitVec 4) : List Nat := (List.range 4).filter fun q => qs.getLsbD q

/-- Place a marker of strand `n` in one queue; one with no earlier word leaves at once. -/
def placeMarker (n seq : Nat) (k : Core) (q : Nat) : Core :=
  let k := dropWaiter k q n
  let e := getEng k q
  settleMarkers (setEng k q { e with q := e.q ++ [.marker n seq] }) q

def execMark (qs : BitVec 4) (s : State) : Host.Outcome State Fault Refusal :=
  conduct false true (packJ 0x34 (qs ++ 0#22)) [] (fun s =>
    let k := cc s
    let l := queuesOf qs
    let full := l.filter fun q => !mayTake k q k.cs
    if full.isEmpty then adv s (setCC s { l.foldl (placeMarker k.cs k.ord) k with ord := k.ord + 1 })
    else
      .wait (setCC s (full.foldl (fun k q => addWaiter k q k.cs) k))
        (.entry (full.foldl (fun m q => m ||| 1#4 <<< q) 0#4))) s

def execJoin (qs : BitVec 4) (s : State) : Host.Outcome State Fault Refusal :=
  conduct false true (packJ 0x35 (qs ++ 0#22)) [] (fun s =>
    let k := cc s
    if (queuesOf qs).any fun q => hasMarker k q k.cs then .wait s (.join qs) else adv s s) s

/-! ### A reserved encoding (R138) -/

/-- A C-word with no meaning raises 0x0001. -/
def execIllegalCWord (w : W32) (s : State) : Host.Outcome State Fault Refusal :=
  conduct true false w [] (fun s => .flt s { code := 0x0001, detail := w.setWidth 64 }) s

end Sys2Proof.Machine
end

