-- ==== Sys2Proof/Machine/Control.lean ====
section
/-! DEFINITION. Branches, jumps, loops and predicates of the conductor (R184 to R192). -/

namespace Sys2Proof.Machine

/-! ### Branches and jumps (R184 to R186) -/

def execBeq (rt rs1 : Reg) (off : W16) (s : State) : Host.Outcome State Fault Refusal := branch (packI 0x1C rt rs1 off) rt rs1 off (fun a b => a == b) s
def execBne (rt rs1 : Reg) (off : W16) (s : State) : Host.Outcome State Fault Refusal := branch (packI 0x1D rt rs1 off) rt rs1 off (fun a b => a != b) s
def execBlt (rt rs1 : Reg) (off : W16) (s : State) : Host.Outcome State Fault Refusal := branch (packI 0x1E rt rs1 off) rt rs1 off (fun a b => a.slt b) s
def execBge (rt rs1 : Reg) (off : W16) (s : State) : Host.Outcome State Fault Refusal := branch (packI 0x1F rt rs1 off) rt rs1 off (fun a b => !a.slt b) s
def execBltu (rt rs1 : Reg) (off : W16) (s : State) : Host.Outcome State Fault Refusal := branch (packI 0x20 rt rs1 off) rt rs1 off (fun a b => a.ult b) s
def execBgeu (rt rs1 : Reg) (off : W16) (s : State) : Host.Outcome State Fault Refusal := branch (packI 0x21 rt rs1 off) rt rs1 off (fun a b => !a.ult b) s

/-- jal links in x23. -/
def execJal (off : BitVec 26) (s : State) : Host.Outcome State Fault Refusal :=
  conduct true false (packJ 0x22 off) [23] (fun s => .jump (wx s 23 (nextPc s)) (target s off)) s

def execJalr (rd rs1 : Reg) (off : BitVec 15) (s : State) : Host.Outcome State Fault Refusal :=
  conduct true false (packI 0x23 rd rs1 (0#1 ++ off)) [rd.toNat, rs1.toNat] (fun s =>
    let t := rx s rs1 + sx off
    if t.toNat % 4 ≠ 0 then .flt s { code := 0x0101, addr := t, detail := 4 }
    else .jump (wx s rd (nextPc s)) t) s

/-- jtab: `len` is length − 1; the entry load is a plain load (R186). -/
def execJtab (rt rs1 : Reg) (len : BitVec 6) (dflt : BitVec 9) (s : State) : Host.Outcome State Fault Refusal :=
  conduct true false (packI 0x23 rt rs1 (1#1 ++ len ++ dflt)) [rt.toNat, rs1.toNat] (fun s =>
    if len.toNat + 1 ≤ (rx s rs1).toNat then .jump s (target s dflt)
    else sendMem (packI 0x23 rt rs1 (1#1 ++ len ++ dflt))
      { op := .jtab, va := rx s rt + rx s rs1 * 4, len := 4, need := pR } s) s

/-! ### Loops (R188, R191) -/

/-- The strand after a loop of S stages over N iterations begins at `pc`. -/
def loopBegin (t : Strand) (n : W64) (stm : BitVec 3) (len : W16) : Strand :=
  { t with
    lc := n - 1, p := clearStages t.p stm.toNat
    loop := { act := true, stm := stm, ec := stm, q := true, beg := t.pc + 4, fin := t.pc + 4 + zx len * 4 } }

def execLoop (rs1 : Reg) (stm : BitVec 3) (len : W16) (s : State) : Host.Outcome State Fault Refusal :=
  conduct true false (packJ 0x24 (stm ++ 0#2 ++ rs1 ++ len)) [rs1.toNat] (fun s =>
    let t := cst s
    if t.loop.act then .flt s { code := 0x0103, detail := ((packJ 0x24 (stm ++ 0#2 ++ rs1 ++ len))).setWidth 64 }
    else if rx s rs1 = 0 then .goto s (nextPc s + zx len * 4)
    else adv s (setCst s (loopBegin t (rx s rs1) stm len))) s

/-- rot reads and writes x24 to x31. -/
def execRot (s : State) : Host.Outcome State Fault Refusal :=
  conduct true false (packI 0x25 0 0 0) [24, 25, 26, 27, 28, 29, 30, 31] (fun s => adv s (setCst s (rotate (cst s)))) s

def execLbrk (s : State) : Host.Outcome State Fault Refusal :=
  conduct true false (packI 0x25 0 0 1) [] (fun s =>
    if (cst s).loop.act then adv s (setCst s { cst s with lc := 0 })
    else .flt s { code := 0x0103, detail := ((packI 0x25 0 0 1)).setWidth 64 }) s

def execLcrd (rd : Reg) (s : State) : Host.Outcome State Fault Refusal :=
  conduct true false (packI 0x25 rd 0 2) [rd.toNat] (fun s => adv s (wx s rd (cst s).lc)) s

def execLcwr (rs1 : Reg) (s : State) : Host.Outcome State Fault Refusal :=
  conduct true false (packI 0x25 0 rs1 3) [rs1.toNat] (fun s => adv s (setCst s { cst s with lc := rx s rs1 })) s

/-! ### Predicates (R192) -/

def execPsetEq (pd : PReg) (rs1 rs2 : Reg) (s : State) : Host.Outcome State Fault Refusal := setPred (packJ 0x26 (0#2 ++ pd ++ rs1 ++ rs2 ++ 0#11)) pd rs1 rs2 (fun a b => a == b) s
def execPsetNe (pd : PReg) (rs1 rs2 : Reg) (s : State) : Host.Outcome State Fault Refusal := setPred (packJ 0x26 (0#2 ++ pd ++ rs1 ++ rs2 ++ 1#11)) pd rs1 rs2 (fun a b => a != b) s
def execPsetLt (pd : PReg) (rs1 rs2 : Reg) (s : State) : Host.Outcome State Fault Refusal := setPred (packJ 0x26 (0#2 ++ pd ++ rs1 ++ rs2 ++ 2#11)) pd rs1 rs2 (fun a b => a.slt b) s
def execPsetGe (pd : PReg) (rs1 rs2 : Reg) (s : State) : Host.Outcome State Fault Refusal := setPred (packJ 0x26 (0#2 ++ pd ++ rs1 ++ rs2 ++ 3#11)) pd rs1 rs2 (fun a b => !a.slt b) s
def execPsetLtu (pd : PReg) (rs1 rs2 : Reg) (s : State) : Host.Outcome State Fault Refusal := setPred (packJ 0x26 (0#2 ++ pd ++ rs1 ++ rs2 ++ 4#11)) pd rs1 rs2 (fun a b => a.ult b) s
def execPsetGeu (pd : PReg) (rs1 rs2 : Reg) (s : State) : Host.Outcome State Fault Refusal := setPred (packJ 0x26 (0#2 ++ pd ++ rs1 ++ rs2 ++ 5#11)) pd rs1 rs2 (fun a b => !a.ult b) s
def execPand (pd pa pb : PReg) (s : State) : Host.Outcome State Fault Refusal := predOp (packJ 0x27 (0#2 ++ pd ++ 0#2 ++ pa ++ 0#2 ++ pb ++ 0#11)) pd pa pb (fun a b => a && b) s
def execPor (pd pa pb : PReg) (s : State) : Host.Outcome State Fault Refusal := predOp (packJ 0x27 (0#2 ++ pd ++ 0#2 ++ pa ++ 0#2 ++ pb ++ 1#11)) pd pa pb (fun a b => a || b) s
def execPxor (pd pa pb : PReg) (s : State) : Host.Outcome State Fault Refusal := predOp (packJ 0x27 (0#2 ++ pd ++ 0#2 ++ pa ++ 0#2 ++ pb ++ 2#11)) pd pa pb (fun a b => a != b) s
def execPandn (pd pa pb : PReg) (s : State) : Host.Outcome State Fault Refusal := predOp (packJ 0x27 (0#2 ++ pd ++ 0#2 ++ pa ++ 0#2 ++ pb ++ 3#11)) pd pa pb (fun a b => a && !b) s
def execPmov (pd pa : PReg) (s : State) : Host.Outcome State Fault Refusal := predOp (packJ 0x27 (0#2 ++ pd ++ 0#2 ++ pa ++ 0#2 ++ 0#3 ++ 4#11)) pd pa pa (fun a _ => a) s

end Sys2Proof.Machine
end

