-- ==== Sys2Proof/Machine/Proctor.lean ====
section
/-! DEFINITION. The Proctor: open waits (R498, R499), watch stops (R505), schedule-cycle stops and resumes (R506 to R508),
debug access (R509) and the clear of the side table (R511). -/

namespace Sys2Proof.Machine

/-! ### Open waits (R499) -/

/-- The present flag wait of an agent of a core: sub kind, object, first cycle, pc, eseq, tmpl. Agents 0 to 3 are
strands, 4 to 7 engines, 8 the copy engine's held operation. -/
def agentWait (k : Core) (a : Nat) : Option (Nat × W64 × Nat × W64 × W32 × W16) :=
  if a < 4 then
    let t := getStrand k a
    t.flag.bind fun (w, c0) => (waitTrace w).map fun (sub, obj) => (sub, obj, c0, t.pc, 0, 0xFFFF)
  else if a < 8 then
    match (getEng k (a - 4)).wait, (queued k (a - 4)).head? with
    | some (sub, obj, c0), some w => some (sub, obj, c0, w.pc, w.eseq, w.tmpl)
    | _, _ => none
  else
    match k.cpy.since, k.cpy.run with
    | some c0, some i =>
      if k.timed then none else some (8, 0, c0, i.w.pc, i.w.eseq, i.w.tmpl)
    | _, _ => none

/-- The address that a held operation of a copy engine used. -/
def heldVa (s : State) (c : Nat) : W64 :=
  ((s.cores.flatMap fun (_, k) => k.held.filterMap fun h => match h.sender with
    | .copy d va => if d = c then some va else none
    | .volley _ _ => none).head?).getD 0

/-- An unended wait of an agent has reached `pr.open` cycles and is not yet reported. -/
def openDue (s : State) (c a : Nat) : Bool :=
  let k := getCore s c
  k.run == .on && !k.hold && !k.opened.contains a
  && match agentWait k a with
    | some (_, _, c0, _) => decide (s.pro.open_.toNat ≤ cycOf s c - c0)
    | none => false

/-- WAIT_OPEN_THRESHOLD: a record of kind 2, once for each wait. -/
def execWaitOpenThreshold (who : Nat) (s : State) : Host.Outcome State Fault Refusal :=
  let k := cc s
  match agentWait k who with
  | some (sub, obj, _, pc, eseq, tmpl) =>
    if openDue s s.cur who then
      .next (traceAdd (setCC s { k with opened := who :: k.opened }) {
        task := k.task, lid := k.lid, kind := 2, who := if who = 8 then 7 else who
        object := if who = 8 then heldVa s s.cur else obj
        cycles := s.pro.open_.toNat, sub := sub, pc := pc, eseq := eseq, tmpl := tmpl })
    else .next s
  | none => .next s

/-! ### Stops (R505 to R508) -/

/-- The `sched.cyc` of the cluster of a lid. -/
def lidCyc (s : State) (task lid : Nat) : Nat := ((coreOfLid (getTask s task) lid).map (schedCyc s)).getD 0

def stopTrace (s : State) (kind task lid : Nat) : State :=
  traceAdd s { task := task, lid := lid, kind := kind, object := BitVec.ofNat 64 (lidCyc s task lid) }

/-- Every core of a task freezes on one edge; nothing is drained. -/
def stopTask (s : State) (task lid : Nat) (late : Bool) : State :=
  let s := freezeAll (setTask s task { getTask s task with stopped := true }) task
  stopTrace { s with pro := { s.pro with stopped := true, armed := false, task := task, lid := lid, late := late } } 4 task lid

/-- Another task is stopped or armed, the task does not run, or the lid is none of its cores on this device (R506). -/
def stopRefused (s : State) (task lid : Nat) : Bool :=
  let t := getTask s task
  ((s.pro.stopped || s.pro.armed) && decide (s.pro.task ≠ task)) || t.st != .running
  || decide (t.n ≤ lid) || (coreOfLid t lid).isNone

def setErr (s : State) (b : Bool) : State := { s with pro := { s.pro with err := b } }

/-- STOP_NOW: `pr.stop` kind 0. -/
def execStopNow (task lid : Nat) (s : State) : Host.Outcome State Fault Refusal :=
  if stopRefused s task lid then .next (setErr s true)
  else if (getTask s task).stopped then .next (setErr s false)
  else .next (stopTask (setErr s false) task lid false)

/-- A core of the cluster of a lid has issued a word or an instruction in the present cycle. -/
def lidIssued (s : State) (task lid : Nat) : Bool :=
  match coreOfLid (getTask s task) lid with
  | some d => s.cores.any fun (c, k) =>
      !isPrologue c && decide (clusterOf c = clusterOf d) && k.run != .off
      && (decide (cycOf s c < k.slotAt) || k.eng.any fun e => decide (e.2.prev = some (cycOf s c : Int)))
  | none => false

/-- STOP_AT_CYCLE: `pr.stop` kind 1 arms; a cycle already passed, or one in which the cluster has issued, stops at once and
sets late. -/
def execStopAtCycle (task lid : Nat) (s : State) : Host.Outcome State Fault Refusal :=
  if stopRefused s task lid then .next (setErr s true)
  else
    let s := setErr s false
    let now := lidCyc s task lid
    if s.pro.stopcyc.toNat < now ∨ (s.pro.stopcyc.toNat = now ∧ lidIssued s task lid = true) then
      if (getTask s task).stopped then .next { s with pro := { s.pro with late := true } } else .next (stopTask s task lid true)
    else .next { s with pro := { s.pro with armed := true, late := false, task := task, lid := lid } }

/-- The armed cycle has come: every cycle before it has run. -/
def stopDue (s : State) : Bool :=
  s.pro.armed && (getTask s s.pro.task).st == .running && !(getTask s s.pro.task).stopped
  && decide (s.pro.stopcyc.toNat ≤ lidCyc s s.pro.task s.pro.lid)

/-- STOP_CYCLE_REACHED. -/
def execStopCycleReached (s : State) : Host.Outcome State Fault Refusal :=
  if stopDue s then .next (stopTask s s.pro.task s.pro.lid s.pro.late) else .next s

/-- STOP_RESUME: `pr.stop` kind 2; every cluster goes on from its frozen edge. -/
def execStopResume (task lid : Nat) (s : State) : Host.Outcome State Fault Refusal :=
  if stopRefused s task lid || !(getTask s task).stopped then .next (setErr s true)
  else
    let s := setTask (setErr s false) task { getTask s task with stopped := false }
    let s := thawAll s task
    .next (stopTrace { s with pro := { s.pro with stopped := false } } 5 task lid)

/-- WATCH_STOP_FREEZE: after a stop match the writer's task is stopped at once, unless another task is stopped. -/
def execWatchStopFreeze (s : State) : Host.Outcome State Fault Refusal :=
  match s.pro.freeze with
  | none => .next s
  | some (task, lid) =>
    let s := { s with pro := { s.pro with freeze := none } }
    if stopRefused s task lid || (getTask s task).stopped then .next s else .next (stopTask s task lid false)

/-! ### Debug access (R509) -/

/-- The core, strand, class and index that `pr.dsel` selects. -/
def debugSel (s : State) : Option (Nat × Nat × Nat × Nat) :=
  let v := s.pro.dsel
  let t := getTask s s.pro.task
  if s.pro.stopped && t.stopped && t.st == .running then
    (coreOfLid t (v.extractLsb' 0 16).toNat).map fun c =>
      (c, (v.extractLsb' 16 2).toNat, (v.extractLsb' 20 4).toNat, (v.extractLsb' 24 32).toNat)
  else none

/-- The value of an item. -/
def debugGet (s : State) (c n cls i : Nat) : Option W64 :=
  let k := getCore s c
  match cls with
  | 0 => if i < 32 then some (xget (getStrand k n) i) else if i = 32 then some (getStrand k n).pc else none
  | 1 => readCreg s c n i
  | 2 => if i < 2048 then some (((tget 0 k.vec.v (i / 64)).extractLsb' (32 * (i % 64)) 32).setWidth 64) else none
  | 3 =>
    if 8 * i < scrSize then
      some (if (uncorrectable s (.scr c (8 * i)) 8).isSome then BitVec.ofNat 64 (Config.freeField s.fresh)
        else BitVec.ofNat 64 (readNat s (.scr c (8 * i)) 8))
    else none
  | 4 => if 8 * i < scrSize then some (ofBool (tagFull s c i)) else none
  | _ => none

/-- The register that a strand's access in flight will write. -/
def flightDest : MemOp → Option Nat
  | .load _ rd | .tag _ rd _ | .tagrd rd | .amo _ _ rd _ | .cas _ rd _ _ => some rd
  | _ => none

/-- The places that what a core has in flight will still write: accesses of strands, of words of queues V, G and M, and the
operation that its copy engine has sent. -/
def owedBy (c : Nat) (k : Core) : List (Loc × Nat) :=
  let locs (l : List VAcc) : List (Loc × Nat) := l.map fun a => (a.loc, a.len)
  (k.strands.filterMap fun (_, t) => t.flight.bind fun f => if f.write && f.walk.isNone then some (f.loc, f.len) else none)
  ++ (match holdingWord k.vec.fly with
      | some (x, l, _) => if x.load then [] else locs l
      | none => [])
  ++ (k.gen.fly.flatMap fun x => if genHolding x && genWrites x then locs (x.acc.getD []) else [])
  ++ (match theFill k with
      | some (x, f) => if x.i.faulted then [] else
          match x.acc with
          | some l => if f.next < f.count then locs l else []
          | none => (List.range (f.count - f.next)).map fun e => (ownLoc c (fillVa f (f.next + e)), strmBytes f.m)
      | none => [])
  ++ ((k.mat.fly.flatMap (rowsOwed c)).flatMap (·.2))
  ++ (match k.cpy.sent, k.cpy.to_ with
      | some .way, some l => [(l, 8)]
      | _, _ => [])

/-- The words whose tags operations in flight of a core may still change. -/
def tagsOwedBy (k : Core) : List Loc :=
  (k.strands.filterMap fun (_, t) => t.flight.bind fun f => match f.op with
    | .tag _ _ _ => if f.walk.isNone then some f.loc else none
    | _ => none)
  ++ (match k.cpy.sent, k.cpy.to_ with
      | some .way, some l => [l]
      | _, _ => [])

/-- An item has a result in flight (R509): of a strand's register, of the lane's bits of a vector register, of bytes or the tag of
a scratchpad doubleword. -/
def debugPending (s : State) (c n cls i : Nat) : Bool :=
  let k := getCore s c
  let t := getStrand k n
  match cls with
  | 0 => t.pend.any (fun e => decide (e.1 = i)) || decide ((t.flight.bind fun f => flightDest f.op) = some i)
  | 2 => k.vec.fly.any fun x => match x.dest with
    | .reg vd _ msk => decide (vd = i / 64) && msk.extractLsb' (32 * (i % 64)) 32 != 0
    | .none | .mask _ _ _ | .clearVx _ => false
  | 3 => s.cores.any fun (d, k) => (owedBy d k).any fun e => locMeets (.scr c (8 * i)) 8 e.1 e.2
  | 4 => s.cores.any fun (_, k) => (tagsOwedBy k).any fun l => locMeets (.scr c (8 * i)) 8 l 8
  | _ => false

/-- Write an item. -/
def debugPut (s : State) (c n cls i : Nat) (v : W64) : State :=
  let k := getCore s c
  let t := getStrand k n
  match cls with
  | 0 => setCore s c (setStrand k n (if i < 32 then xset t i v else { t with pc := v }))
  | 2 =>
    let lo := 32 * (i % 64)
    let m : BitVec 2048 := BitVec.ofNat 2048 ((2 ^ 32 - 1) * 2 ^ lo)
    let x : BitVec 2048 := (tget 0 k.vec.v (i / 64) &&& ~~~m) ||| BitVec.ofNat 2048 ((v.extractLsb' 0 32).toNat * 2 ^ lo)
    setCore s c { k with vec := { k.vec with v := tput 0 k.vec.v (i / 64) x } }
  | 3 => writeLoc s (.scr c (8 * i)) (leBytes 8 v.toNat)
  | 4 =>
    let s := putTag s c i (v.getLsbD 0) (0xFD, 0)
    heldRun c i (getCore s c).held.length s
  | _ => s

def setDerr (s : State) (b : Bool) : State := { s with pro := { s.pro with derr := b } }

/-- DEBUG_READ: `pr.ddat` takes the value of the selected item. -/
def execDebugRead (s : State) : Host.Outcome State Fault Refusal :=
  match debugSel s with
  | none => .next (setDerr s true)
  | some (c, n, cls, i) =>
    match debugGet s c n cls i with
    | none => .next (setDerr s true)
    | some v => .next (setDerr { s with fresh := s.fresh + 1, pro := { s.pro with ddat := v } } false)

/-- DEBUG_WRITE: a write to `pr.ddat`. -/
def execDebugWrite (v : W64) (s : State) : Host.Outcome State Fault Refusal :=
  match debugSel s with
  | none => .next (setDerr s true)
  | some (c, n, cls, i) =>
    if (debugGet s c n cls i).isNone || decide (cls = 1) || debugPending s c n cls i then .next (setDerr s true)
    else .next (setDerr (debugPut { s with pro := { s.pro with ddat := v } } c n cls i v) false)

/-! ### The side table (R511) -/

/-- SIDE_TABLE_CLEAR: a write of 1 to `pr.stcmd[0]`. -/
def execSideTableClear (s : State) : Host.Outcome State Fault Refusal := .next { s with pro := { s.pro with stbusy := true } }

/-- Clear valid in a record. -/
def clearValid (s : State) (i : Nat) : State :=
  let a := s.pro.stbase.toNat + 64 * i
  let w := leNat (readSpa s a 8)
  if w % 2 = 1 then writeSpa s a (leBytes 8 (w - 1)) else s

/-- SIDE_TABLE_CLEAR_DONE: every record is invalid; the folds that waited are applied after it. -/
def execSideTableClearDone (s : State) : Host.Outcome State Fault Refusal :=
  if s.pro.stbusy then
    let s := (List.range s.pro.stsize).foldl clearValid s
    .next { s with pro := { s.pro with stbusy := false } }
  else .next s

end Sys2Proof.Machine
end

