-- ==== Sys2Proof/Machine/Manage.lean ====
section
/-! DEFINITION. The management block: mailboxes (R514), firmware slots, boot, trial and commit (R517 to R519), resets (R523,
R525, R527), die reset (R524), attestation (R521), management Ethernet (R522), rails (R526). -/

namespace Sys2Proof.Machine

/-! ### Mailboxes (R514) -/

/-- MAILBOX_MESSAGE: a message of 64 bytes enters the receiver's mailbox where it has room; with no body, the receiver takes
its oldest message. -/
def execMailboxMessage (src dst : Nat) (body : List Byte) (s : State) : Host.Outcome State Fault Refusal :=
  let q : List (Nat × List Byte) := tget [] s.mg.mbox dst
  let put (l : List (Nat × List Byte)) : State := { s with mg := { s.mg with mbox := tput [] s.mg.mbox dst l } }
  if 8 ≤ dst ∨ 8 ≤ src then .next s
  else if body.isEmpty then .next (put q.tail)
  else if body.length = 64 ∧ q.length < 32 then .next (put (q ++ [(src, body)]))
  else .next s

/-! ### Firmware slots (R517, R518) -/

def slotBytes : Nat := 64 * 2 ^ 20

def flashGet (s : State) (a n : Nat) : List Byte := tgets 0 s.mg.flash a n

/-- The rollback floor: as provisioned, and as commits have raised it. -/
def floorOf (s : State) : Nat := Nat.max Config.otpFloor.toNat s.mg.floor.toNat

/-- The 256-byte header of a slot. -/
def slotHeader (s : State) (k : Nat) : List Byte := flashGet s (k * slotBytes) 256

def slotRollback (s : State) (k : Nat) : Nat := getN (slotHeader s k) 8 2

/-- The firmware key, where its digest is provisioned. -/
def fwKey : Option (List Byte) :=
  let pub := leBytes 32 Config.fwPub.toNat
  if Config.otpFwKey.map (·.toNat) = some (leNat (sha512 pub)) then some pub else none

/-- ROM's checks of a slot: magic, reserved fields and size, rollback, signature, digest. -/
def slotOk (s : State) (k : Nat) : Bool :=
  let h := slotHeader s k
  let size := getN h 4 4
  decide (getN h 0 4 = 0x0146475A) && zeroAt h 0x0A 6 && zeroAt h 0x90 112 && decide (size < slotBytes - 256)
  && decide (floorOf s ≤ slotRollback s k)
  && (match fwKey with
    | some pub => edVerify pub (h.take 0x50) ((h.drop 0x50).take 64)
    | none => false)
  && decide (sha512 (flashGet s (k * slotBytes + 256) size) = (h.drop 0x10).take 64)

/-! ### Boot (R450, R518, R519, R523) -/

def slotNo (b : Bool) : Nat := if b then 1 else 0

/-- Everything that a device reset does not keep is as after power-on. What the host and the fabric already hold stays. -/
def blank (s : State) : State :=
  { State.reset with
    agenda := s.agenda, fresh := s.fresh
    host := { mem := s.host.mem, msgs := s.host.msgs }
    vol := { out := s.vol.out }
    mg := { act := s.mg.act, next := s.mg.next, bad := s.mg.bad, floor := s.mg.floor, flash := s.mg.flash, sent := s.mg.sent } }

def setBad (b : BitVec 2) (k : Bool) : BitVec 2 := b ||| BitVec.ofNat 2 (2 ^ slotNo k)

/-- Firmware restores the sequence from board flash and locks it; where the record is malformed, mc3 reports it. -/
def restoreSeq (s : State) : State :=
  let a := BitVec.ofNat 64 (leNat (flashGet s seqRecordAt 8))
  let b := BitVec.ofNat 64 (leNat (flashGet s (seqRecordAt + 8) 8))
  if b = ~~~a then setBur s { s.bur with seqlo := a, seq := a, lock := true } else reportMc3 s

/-- Firmware of a slot runs; an image that is not on trial is committed, and raises the floor. -/
def runSlot (s : State) (k trial : Bool) (bad : BitVec 2) : State :=
  let floor := if trial then s.mg.floor else BitVec.ofNat 16 (Nat.max (floorOf s) (slotRollback s (slotNo k)))
  restoreSeq { s with mg := { s.mg with
    act := k, img := ((slotHeader s (slotNo k)).drop 0x10).take 64, trial := trial, bad := bad, recovery := false, trialAt := s.gtc
    floor := floor } }

/-- A device reset with a cause: a trial reverts, ROM verifies slot `next` and then the other. A slot whose bad bit is set
does not run before its flash is rewritten. -/
def boot (s : State) (cause : BitVec 3) : State :=
  let g := s.mg
  let old := if g.trial then !g.act else g.act
  let next := if g.trial then !g.act else g.next
  let bad := if g.trial then setBad g.bad g.act else g.bad
  let s := blank s
  let s := { s with mg := { s.mg with cause := cause, next := next, bad := bad, act := old } }
  let ok (k : Bool) : Bool := !bad.getLsbD (slotNo k) && slotOk s (slotNo k)
  if ok next then runSlot s next (next != old) bad
  else if ok !next then runSlot s (!next) false (setBad bad next)
  else { s with mg := { s.mg with bad := 3, recovery := true } }

def execPowerOn (s : State) : Host.Outcome State Fault Refusal := .next (boot s 0)
def execResetPin (s : State) : Host.Outcome State Fault Refusal := .next (boot s 1)

/-- DEVICE_RESET: a write of 1 to `mg.reset.device`. -/
def execDeviceReset (s : State) : Host.Outcome State Fault Refusal := .next (boot s 2)

/-- CORE_WATCHDOG: a management core hangs for 100 ms. -/
def execCoreWatchdog (_mc : BitVec 3) (s : State) : Host.Outcome State Fault Refusal := .next (boot s 4)

def execThermalTrip (s : State) : Host.Outcome State Fault Refusal := .next (boot s 5)

/-- A junction has reached 110 °C (R527): sensors count in 1/16 °C, signed. -/
def tooHot (s : State) : Bool := decide (1760 ≤ s.mg.tempDie.toInt) || decide (1760 ≤ s.mg.tempHub.toInt)

/-- The trial clock has run out: 60,000 ms. -/
def trialOver (s : State) : Bool := s.mg.trial && decide (s.mg.trialAt + 60000000000 ≤ s.gtc)

/-- TRIAL_EXPIRY. -/
def execTrialExpiry (s : State) : Host.Outcome State Fault Refusal :=
  if trialOver s then .next (boot s 3) else .next s

/-- FIRMWARE_COMMIT: a write of 1 to `mg.commit` in a trial; the expiry of the same cycle wins. -/
def execFirmwareCommit (s : State) : Host.Outcome State Fault Refusal :=
  if s.mg.trial && !trialOver s then
    .next { s with mg := { s.mg with
      trial := false, floor := BitVec.ofNat 16 (Nat.max (floorOf s) (slotRollback s (slotNo s.mg.act))) } }
  else .next s

/-- Write a slot's flash at an offset, which clears its bad bit (R519). -/
def writeSlot (s : State) (k : Bool) (o : Nat) (b : List Byte) : State :=
  if slotBytes < o + b.length then s
  else
    let s := writeFlash s (slotNo k * slotBytes + o) b
    { s with mg := { s.mg with bad := s.mg.bad &&& ~~~(BitVec.ofNat 2 (2 ^ slotNo k)) } }

/-- Firmware writes a slot; in recovery none runs (R518). -/
def updateSlot (s : State) (k : Bool) (o : Nat) (b : List Byte) : State := if s.mg.recovery then s else writeSlot s k o b

/-- RECOVERY_COMMIT: the image in hub SRAM goes to slot 0, whose bad bit clears, and the device resets. The spec gives that
reset no cause code: it is free. -/
def execRecoveryCommit (s : State) : Host.Outcome State Fault Refusal :=
  if s.mg.recovery then
    let at_ := 12 * 2 ^ 47
    let size := leNat (readLoc s (.named (at_ + 4)) 4)
    let b := readLoc s (.named at_) (Nat.min (256 + size) slotBytes)
    let s := writeSlot s false 0 b
    let (i, s) := takeFresh s
    .next (boot { s with mg := { s.mg with next := false, act := false } } (BitVec.ofNat 3 (Config.freeField i)))
  else .next s

/-! ### Die reset (R524) -/

/-- The die may be reset: it is gated or failed. -/
def mayReset (s : State) (d : Nat) : Bool :=
  match dieState s d with
  | .gated _ | .failed => true
  | _ => false

/-- The dies of a bitmap that satisfy a test. -/
def diesOf (b : W16) (f : Nat → Bool) : W16 :=
  BitVec.ofNat 16 (dieBits ((List.range 16).filter fun d => b.getLsbD d && f d))

/-- No state of a die survives its own reset (R15): its clusters' counts and TLBs go, counters folded. -/
def clearDies (s : State) (ds : List Nat) : State :=
  let cl := ds.flatMap fun d => [2 * d, 2 * d + 1]
  let s := dropClusterTlbs s cl
  { s with clusters := s.clusters.filter fun e => !cl.contains e.1 }

/-- DIE_RESET: a write to `mg.reset.dies`. -/
def execDieReset (dies : W16) (s : State) : Host.Outcome State Fault Refusal :=
  let ok := diesOf dies (mayReset s)
  let err := diesOf dies fun d => !mayReset s d
  let s := clearDies s ((List.range 16).filter fun d => dies.getLsbD d && mayReset s d)
  .next { s with mg := { s.mg with
    dieAt := (List.range 16).foldl (fun t d => if ok.getLsbD d then tset t d s.gtc else t) s.mg.dieAt
    busy := s.mg.busy ||| ok, pass := s.mg.pass &&& ~~~ok, err := if dies = 0 then s.mg.err else err != 0 } }

/-- DIE_SELF_TEST_DONE: after 20 ms in reset the die is tested. It is free and gated if it passes; a die that has failed
twice stays failed. -/
def execDieSelfTestDone (die : Nat) (pass : Bool) (s : State) : Host.Outcome State Fault Refusal :=
  if 16 ≤ die ∨ !s.mg.busy.getLsbD die ∨ s.gtc < tget 0 s.mg.dieAt die + 20000000 then .next s
  else
    let bit : W16 := BitVec.ofNat 16 (2 ^ die)
    let s := { s with mg := { s.mg with busy := s.mg.busy &&& ~~~bit, pass := if pass then s.mg.pass ||| bit else s.mg.pass } }
    if pass ∧ tget 0 s.bur.failures die < 2 then
      match dieState s die with
      | .gated _ => .next s
      | _ => .next (setDie s die (.gated s.gtc))
    else .next (setDie s die .failed)

/-! ### Attestation (R521) -/

/-- The four facility key digest slots. -/
def keySlots : List Byte := (List.range 4).flatMap fun i => leBytes 64 (((Config.otpKey i).getD (Config.otpBlank i)).toNat)

/-- The report over a nonce. -/
def attestBytes (s : State) (nonce : List Byte) : List Byte :=
  let m := leBytes 4 0x0141475A ++ leBytes 2 1 ++ leBytes 1 (slotNo s.mg.act)
    ++ leBytes 1 ((if s.mg.trial then 1 else 0) + (if Config.dbgLock then 0 else 2))
    ++ leBytes 8 s.gtc ++ nonce ++ ((slotHeader s (slotNo s.mg.act)).drop 0x10).take 64
    ++ sha512 keySlots ++ devid ++ leBytes 8 (floorOf s) ++ leBytes 8 0
  m ++ edSign idSeed m

/-- ATTEST_REQUEST: a write to `mg.att`. -/
def execAttestRequest (v : W64) (s : State) : Host.Outcome State Fault Refusal :=
  .next { s with mg := { s.mg with att := some (v &&& 0xFFFFFFFFFFFC0) } }

/-- ATTEST_REPORT: the report stands at the buffer + 64; err where the buffer does not lie in hub SRAM. A nonce
whose line has an uncorrectable error is read as it is (DESIGN CHOICE, log entry 106). -/
def execAttestReport (s : State) : Host.Outcome State Fault Refusal :=
  match s.mg.att with
  | none => .next s
  | some a =>
    let s := { s with mg := { s.mg with att := none } }
    if inHub s a.toNat 384 then
      let s := writeSpa s (a.toNat + 64) (attestBytes s (readSpa s a.toNat 32))
      .next { s with mg := { s.mg with attDone := true } }
    else .next { s with mg := { s.mg with attErr := true } }

/-! ### Management Ethernet (R522) -/

/-- ETHERNET_DATAGRAM: mc7 of the module takes a curve record or an attestation request; it drops everything else. -/
def execEthernetDatagram (src : Nat) (payload : List Byte) (s : State) : Host.Outcome State Fault Refusal :=
  let body := payload.drop 8
  let type := getN payload 0 1
  if !Config.formM || s.mg.recovery || decide (payload.length < 8) || decide (getN payload 4 4 ≠ body.length) then .next s
  else if type = 1 ∧ body.length = 1216 then
    if s.bur.deciding.isSome || !s.bur.lock then .next (setBur s { s.bur with ovr := true })
    else .next { setBur s { s.bur with deciding := some 0 } with mg := { s.mg with cinSrc := some (src, body) } }
  else if type = 3 ∧ body.length = 32 then
    .next { s with mg := { s.mg with sent := s.mg.sent ++ [(src, datagram 4 (attestBytes s body))] } }
  else .next s

/-! ### Rails (R526) -/

/-- A rail has just become stale. -/
def railDue (s : State) (k : Nat) : Bool := decide (k < 23) && railOld s k && !(tget {} s.mg.rails k : Rail).stale

/-- RAIL_STALE: mc3 reports a reading older than 500 µs. -/
def execRailStale (rail : Nat) (s : State) : Host.Outcome State Fault Refusal :=
  if railDue s rail then
    .next (reportMc3 { s with mg := { s.mg with rails := tset s.mg.rails rail { (tget {} s.mg.rails rail : Rail) with stale := true } } })
  else .next s

/-- RAIL_READING: the board delivers a reading. -/
def execRailReading (rail mw mv : Nat) (s : State) : Host.Outcome State Fault Refusal :=
  if rail < 23 then
    .next { s with mg := { s.mg with rails := tset s.mg.rails rail { mw := mw % 2 ^ 32, mv := mv % 2 ^ 16, at_ := s.gtc } } }
  else .next s

end Sys2Proof.Machine
end

