-- ==== Sys2Proof/Machine/Matrix.lean ====
section
/-! DEFINITION. The words of queue M and their events: the matrix engine (R318 to R343). -/

namespace Sys2Proof.Machine

/-! ### Words in flight -/

/-- Replace the word at an index. -/
def putFly (s : State) (j : Nat) (x : MIssued) : State := setMat s { (cc s).mat with fly := (cc s).mat.fly.set j x }

/-- The index of the first word that satisfies a test. -/
def flyFind (p : Nat → MIssued → Bool) : Nat → List MIssued → Option (Nat × MIssued)
  | _, [] => none
  | j, x :: t => if p j x then some (j, x) else flyFind p (j + 1) t

/-! ### Check points (R334, R341 tests 14 and 15) -/

/-- Detail of 0x0301 (R342). -/
def nonFinite (va : W64) (row col : Nat) (scale : Bool) : Flt :=
  { code := 0x0301, addr := va, detail := BitVec.ofNat 64 (row % 256 + col % 256 * 256 + (if scale then 65536 else 0)) }

/-- The row and column named for element `e` of check point `q`. -/
def pointPlace (p : MPlan) (q e : Nat) : Nat × Nat :=
  match p.kind with
  | .load _ _ g =>
    let C := p.m.ext0.toNat
    if p.gn.isSome then (q, e) else (g * q + e / C, e % C)
  | _ => (q, e)

/-- The row and column named for scale `e` of check point `q`: of the K positions that a scale covers the first (R342; DEDUCED,
log entry 117). -/
def scalePlace (p : MPlan) (q e : Nat) : Nat × Nat :=
  match p.kind with
  | .load ms _ _ =>
    match ((loadScales p ms.length).map (·.1))[e]? with
    | some (i, b, n) => (32 * b, 128 * i + n)
    | none => (0, 0)
  | _ => (q, 32 * e)

/-- The first element that is not finite, then the first scale of 0xFF. -/
def valueFlt (p : MPlan) (q : Nat) (els scs : List VAcc) (codes scales : List Nat) : Option Flt :=
  let f := fmtD p.m.fmt
  let tests := match p.kind with
    | .rest _ _ => false
    | _ => true
  if !tests then none
  else
    (((List.range codes.length).find? fun e => !finiteCode f (codes.getD e 0)).map fun e =>
      nonFinite ((els[e]?.map (·.va)).getD 0) (pointPlace p q e).1 (pointPlace p q e).2 false).orElse fun _ =>
    ((List.range scales.length).find? fun e => decide (scales.getD e 0 = 0xFF)).map fun e =>
      nonFinite ((scs[e]?.map (·.va)).getD 0) (scalePlace p q e).1 (scalePlace p q e).2 true

/-- The code of an element read: its bits out of the bytes that hold them. -/
def codeOf (w v : Nat) (a : VAcc) : Nat := v / 2 ^ a.pos % 2 ^ w

/-- What check point `q` accesses, located. -/
def pointLocs (s : State) (x : MIssued) (q : Nat) : List VAcc × List VAcc :=
  let (e, sc) := pointAccs x.p q
  (e.map fun a => mLoc s.cur x a.1, sc.map fun a => mLoc s.cur x a.1)

/-- What check point `q` reads: its codes, or a fault. -/
def pointRead (s : State) (x : MIssued) (q : Nat) : Except Flt (List Nat) :=
  match x.gen with
  | some g =>
    let codes := drawCodes x.p g q
    match valueFlt x.p q [] [] codes [] with
    | some f => .error f
    | none => .ok codes
  | none =>
    let (els, scs) := pointLocs s x q
    match readFlt s 1 (lowVa ((allAccs x.p).map (·.1))) (els ++ scs) with
    | some f => .error f
    | none =>
      let codes := els.map fun a => codeOf (strmWidth x.p.m) (readAcc s 1 a) a
      let scales := scs.map fun a => readAcc s 1 a
      match valueFlt x.p q els scs codes scales with
      | some f => .error f
      | none => .ok (codes ++ scales)

/-- Sample what check point `q` has read: a strip is one plain access, at the cycle of its check point (R80, R96). -/
def samplePoint (s : State) (x : MIssued) (q : Nat) : State :=
  if x.gen.isSome then s
  else
    let (els, scs) := pointLocs s x q
    sampleAll s.cur false (els ++ scs) s

/-- Pass the next check point of the word at index `j`. A word with an address elsewhere has its landing fixed by its
last check point (R334). -/
def readPoint (s : State) (j : Nat) (x : MIssued) : State :=
  match pointRead s x x.next with
  | .error f => raise2 (setMat s { (cc s).mat with free := 0 }) s.cur 1 x.i.w f true 0
  | .ok l =>
    let s := samplePoint s x x.next
    let y := { x with next := x.next + 1, buf := x.buf ++ [l] }
    if y.next = y.cps && y.locs.isSome then
      let s := putFly s j { y with i := { y.i with due := some (curCyc s + mTail x.p x.per) } }
      setMat s { (cc s).mat with free := curCyc s + 1 }
    else putFly s j y

/-- Pass it when the reads from another device, where it makes any, have returned. -/
def passPoint (s : State) (j : Nat) (x : MIssued) : State :=
  let (els, scs) := pointLocs s x x.next
  match (if x.gen.isSome then VolStep.ready else volStep s 1 true (lowVa ((allAccs x.p).map (·.1))) [] (els ++ scs)) with
  | .wait => s
  | .sent s => s
  | .flt f => raise2 (setMat (clearAcks s 1) { (cc s).mat with free := 0 }) s.cur 1 x.i.w f true 0
  | .ready | .done => if (acksOf (cc s) 1).isEmpty then readPoint s j x else clearAcks (readPoint s j x) 1

/-- Words with an address elsewhere access it one after another, in queue order (R30, R83). -/
def farFirst (k : Core) (j : Nat) : Bool :=
  (k.mat.fly.take j).all fun y => y.locs.isNone || y.i.faulted || decide (y.cps ≤ y.next)

/-- A word whose next check point is due by a cycle; one that waits for data from elsewhere. -/
def pointDue (now : Nat) (x : MIssued) : Bool :=
  !mStores x.p.kind && !x.i.faulted && decide (x.next < x.cps) && x.locs.isNone && decide (x.i.t + x.next * x.per ≤ now)
def pointOpen (x : MIssued) : Bool :=
  !mStores x.p.kind && !x.i.faulted && decide (x.next < x.cps) && x.locs.isSome

/-- Every check point due by cycle `now`. -/
def matPoints (now : Nat) : Nat → State → State
  | 0, s => s
  | n + 1, s =>
    match flyFind (fun _ x => pointDue now x) 0 (cc s).mat.fly with
    | some (j, x) => matPoints now n (passPoint s j x)
    | none => s

/-- Check points not yet passed. -/
def pointsLeft (k : Core) : Nat := k.mat.fly.foldl (fun n x => n + (x.cps - x.next)) 0

/-- The check points of the current cycle, once every write of the cycle has been made (R283, R285). -/
def matPointsNow (s : State) : State := matPoints (curCyc s) (pointsLeft (cc s)) s

/-- The last cycle whose check points may be passed: in a timed section words of the present cycle may still store (R285). -/
def pointLimit (k : Core) (now : Nat) : Nat := if k.timed then now - 1 else now

/-- MATRIX_CHECK_POINT: the strips and rows due are read and tested; where none is due, the next one of a word that
waits for data from elsewhere. In a timed section those of the present cycle come with its end. -/
def execMatrixCheckPoint (s : State) : Host.Outcome State Fault Refusal :=
  let k := cc s
  let now := pointLimit k (curCyc s)
  if k.mat.fly.any (pointDue now) then .next (matPoints now (pointsLeft k) s)
  else
    match flyFind (fun j x => pointOpen x && farFirst k j) 0 k.mat.fly with
    | some (j, x) => .next (passPoint s j x)
    | none => .next s

/-! ### Rows that drains and saves write -/

/-- The bytes of row `q` that a storing word writes. -/
def storeRow (s : State) (x : MIssued) (q : Nat) : List VAcc :=
  match x.p.kind with
  | .stat t => [{ mLoc s.cur x (mkAcc 0 x.p.m.base 64 0 []) with data := statBytes (cc s) t }]
  | .drain _ t _ _ | .save t =>
    let (e, sc) := pointAccs x.p q
    ((e ++ sc).zip (rowData x.p (getTile (cc s) t) q)).map fun (a, d) => { mLoc s.cur x a.1 with data := d }
  | _ => []

/-- The places of the rows that a word has written once row `q` is. -/
def rowLocs (s : State) (x : MIssued) (q : Nat) : List (Loc × Nat) :=
  (List.range (q + 1)).flatMap fun r =>
    let (e, sc) := pointAccs x.p r
    hereLocs ((e ++ sc).map fun a => mLoc s.cur x a.1)

/-- Row `x.next` is written. A word with an address elsewhere completes behind its last row, and no sooner than the interval of
R334 after its check point. -/
def rowWritten (s : State) (j : Nat) (x : MIssued) : State :=
  let y := { x with next := x.next + 1 }
  let due := if y.next = y.cps && y.locs.isSome then some (Nat.max (curCyc s) (mNominal x.p x.per x.i.t)) else x.i.due
  putFly (healOver (fun s => rowLocs s x x.next) s) j { y with i := { y.i with due := due } }

/-- Write the next row of the word at index `j`: a plain access, sampled as it is performed (R80, R96). -/
def writeRow (s : State) (j : Nat) (x : MIssued) : State :=
  let l := storeRow s x x.next
  let all := (allAccs x.p).map fun a => mLoc s.cur x a.1
  match volStep s 1 false (lowVa all) (if x.next = 0 then all else []) l with
  | .wait => s
  | .sent s => s
  | .flt f => raise2 (clearAcks s 1) s.cur 1 x.i.w f true 0
  | .done => rowWritten (clearAcks s 1) j x
  | .ready =>
    let s := storeOut 1 x.i.w l (sampleAll s.cur true l s)
    if l.any fun a => isVol a.loc then s else rowWritten s j x

def rowDue (now : Nat) (x : MIssued) : Bool :=
  mStores x.p.kind && !x.i.faulted && decide (x.next < x.cps) && (x.locs.isSome || decide (rowCycle x ≤ now))

/-- Rows due by now; of words with an address elsewhere, where `far` says so, all of them. -/
def matRows (far : Bool) : Nat → State → State
  | 0, s => s
  | n + 1, s =>
    match flyFind (fun j x => rowDue (curCyc s) x && (x.locs.isNone || far && farFirst (cc s) j)) 0 (cc s).mat.fly with
    | some (j, x) => matRows far n (writeRow s j x)
    | none => s

/-! ### Landing and completion (R334, R336) -/

/-- No earlier word still in flight, and none that completed in this cycle, keeps word `j` from landing. -/
def landFree (k : Core) (now j : Nat) (x : MIssued) : Bool :=
  (mWrites x.p).all (fun o => decide (tget 0 k.mat.last o ≤ now))
  && (k.mat.fly.take j).all fun y => !meets (mWrites x.p) (mWrites y.p ++ mReads y.p)

/-- The word at index `j` completes in this cycle. -/
def landReady (k : Core) (now j : Nat) (x : MIssued) : Bool :=
  !x.i.faulted && decide (x.cps ≤ x.next)
  && (match x.i.due with | some d => decide (d ≤ now) | none => false) && landFree k now j x

/-- Count the lines that a word has read, as it lands (R341, R391). -/
def noteReads (s : State) (x : MIssued) : State :=
  if mStores x.p.kind || x.gen.isSome then s
  else noteAll s.cur true false false ((allAccs x.p).map fun a => mLoc s.cur x a.1) s

/-- Land, and complete. -/
def mComplete (s : State) (j : Nat) (x : MIssued) : State :=
  let s := mLand x (noteReads s x)
  let m := (cc s).mat
  let last := (mWrites x.p ++ mReads x.p).foldl (fun t o => tset t o (curCyc s + 1)) m.last
  completeWord (setMat s { m with fly := m.fly.eraseIdx j, last := last }) 1 x.i

/-- Every landing and completion due by now. -/
def matLandings : Nat → State → State
  | 0, s => s
  | n + 1, s =>
    match flyFind (fun j x => landReady (cc s) (curCyc s) j x) 0 (cc s).mat.fly with
    | some (j, x) => matLandings n (mComplete s j x)
    | none => s

/-- Rows and landings due. -/
def matSettle (far : Bool) (s : State) : State :=
  let s := matRows far (pointsLeft (cc s)) s
  matLandings (cc s).mat.fly.length s

/-- MATRIX_LANDING: rows due are written; every word whose cycle has come lands and completes. -/
def execMatrixLanding (s : State) : Host.Outcome State Fault Refusal := .next (matSettle true s)

/-- ACCUMULATOR_SCRUB_ERROR: an uncorrectable error that the scrub finds sets a bad bit (R320). -/
def execAccumulatorScrubError (pl : ScrubPlace) (s : State) : Host.Outcome State Fault Refusal :=
  let k := cc s
  match pl with
  | .row t r =>
    let T := getTile k t.toNat
    .next (putTile s t.toNat { T with bad := T.bad ||| (1#128 <<< (r % 128)) })
  | .bank m b => .next (putBank s m.toNat b.toNat { getBank k m.toNat b.toNat with bad := true })

/-! ### Tests at issue (R341 tests 4 to 13) -/

/-- Detail of 0x0305 for a tile row. -/
def badRowDetail (t i : Nat) : W64 := BitVec.ofNat 64 (t + 256 + i * 512)

/-- The lowest bad row of a tile from `lo` on, `n` rows. -/
def badRow (k : Core) (t lo n : Nat) : Option Flt :=
  ((List.range n).find? fun i => (getTile k t).bad.getLsbD (lo + i)).map fun i =>
    ({ code := 0x0305, detail := badRowDetail t (lo + i) } : Flt)

def bankFlt (code : W16) (b : Nat) (bad : Nat → Bool) (ps : List (Nat × Nat)) : Option Flt :=
  (ps.find? fun (m, _) => bad m).map fun (m, _) => ({ code := code, detail := BitVec.ofNat 64 (m + 2 * b) } : Flt)

/-- Tests 4 and 5. -/
def objFlt (k : Core) (p : MPlan) : Option Flt :=
  let rows := if mEmpty p then 0 else mRows p
  match p.kind with
  | .mul ps b _ =>
    (bankFlt 0x0302 b (fun m => (getBank k m b).fmt == 0x1F) ps).orElse fun _ =>
      bankFlt 0x0305 b (fun m => (getBank k m b).bad) ps
  | .drain _ t _ _ | .save t => badRow k t p.orow rows
  | .rest t acc => if acc then badRow k t p.orow rows else none
  | .tile .mov _ ts _ => badRow k ts 0 128
  | .tile .add td ts _ => (badRow k td 0 128).orElse fun _ => badRow k ts 0 128
  | .tile _ _ _ _ | .load _ _ _ | .stat _ => none

/-- Test 7: the guard (R333). -/
def guardFlt (k : Core) (p : MPlan) : Option Flt :=
  match p.kind with
  | .drain _ t _ _ =>
    let T := getTile k t
    if T.st && T.te then
      some { code := 0x0050, detail := BitVec.ofNat 64 (((List.range 128).find? fun i => T.ovf.getLsbD i).getD 128) }
    else none
  | _ => none

/-- Tests 4 to 7. An uncorrectable error in the generator of a word that draws is none of them: its contents are drawn as they are
(R316, R341; DESIGN CHOICE, log entry 133). -/
def preFlt (k : Core) (p : MPlan) : Option Flt :=
  (objFlt k p).orElse fun _ =>
  (match p.gn with
    | some g =>
      if genUsable (getGen k g) then (none : Option Flt)
      else some { code := 0x0401, detail := unusableDetail g (getGen k g) }
    | none => none).orElse fun _ => guardFlt k p

/-- Tests 8 to 13 over every address. -/
def mChecks (p : MPlan) (qw : QWord) (s : State) : Except Flt (State × List VAcc) :=
  let wr := mStores p.kind
  let al := allAccs p
  let l := al.map (·.1)
  let (s', r) := reachAll s.cur (if wr then pW else pR) l s
  let t := located r
  let flt :=
    ((al.find? fun a => decide (a.1.va.toNat % a.2 ≠ 0)).map fun a =>
      ({ code := 0x0304, addr := a.1.va, detail := BitVec.ofNat 64 a.2 } : Flt)).orElse fun _ =>
    (if (cc s).timed then fltAt 0x0303 l fun a => if inLocal a.va then none else some (BitVec.ofNat 64 a.el)
     else none).orElse fun _ =>
    (stageFlt r).orElse fun _ =>
    (if !wr || qw.noWatch then none else watchFlt s s.cur t).orElse fun _ => raceFlt s s.cur wr t
  match flt with
  | some f => .error f
  | none => .ok (s', t)

/-! ### Issue -/

/-- The cycle of a landing or completion issued with known timing (R334, R336). -/
def mDue (k : Core) (p : MPlan) (per t : Nat) : Nat :=
  let w := mWrites p
  let d := w.foldl (fun d o => Nat.max d (tget 0 k.mat.last o)) (mNominal p per t)
  k.mat.fly.foldl (fun d y =>
    if meets w (mWrites y.p ++ mReads y.p) then
      match y.i.due with
      | some e => Nat.max d (e + 1)
      | none => d
    else d) d

/-- Put an issued word in flight, and do what it does in its issue cycle. Every line is recorded once it has been checked
(R93, R341; DEDUCED, log entry 105). -/
def mStart (p : MPlan) (g : Option Gen) (l : List VAcc) (s : State) (i : Issued) : State :=
  let k := cc s
  let per := mPeriod k p g
  let own := ownAcc s.cur l
  let wr := mStores p.kind
  let cps := match p.kind with
    | .stat _ => 1
    | _ => mPoints p
  let s := raceNote s.cur wr l s
  let s := if wr then noteAll s.cur false true false l s else s
  let x : MIssued :=
    { i := { i with due := if own then some (mDue k p per i.t) else none }, p := p, gen := g, per := per, cps := cps,
      locs := if own then none else some (l.map fun a => (a.va, a.loc)), ents := (l.filterMap (·.ent)).eraseDups }
  let free := if own && !wr then i.t + (cps - 1) * per + 1 else i.t + 1
  matSettle false (setMat s { (cc s).mat with fly := (cc s).mat.fly ++ [x], free := free })

/-- A matrix word with its plan. -/
def matWord (h : EHead) (plan : QWord → MPlan) (s : State) : Host.Outcome State Fault Refusal :=
  .next (issueState 1 h (fun qw => mBad (plan qw)) (fun s qw => mHolds s (plan qw))
    (fun s qw =>
      let p := plan qw
      let k := cc s
      let hs := if draws p then
          (if mShort k p then [Hold.open_] else pipeHolds s (claimOf s 1 qw) (fillClaim s))
        else []
      if !hs.isEmpty then .starve hs
      else
        match preFlt k p with
        | some f => .flt f
        | none =>
          orAsk s 1 ((allAccs p).map (·.1)) <|
          match mChecks p qw s with
          | .error f => .flt f
          | .ok (s, l) => .go s (mStart p (p.gn.map (getGen k)) l))
    (matSettle false (genSettle s)))

/-- A tile word (R330). -/
def tilePlan (op : MtOp) (w : MT) : QWord → MPlan := fun _ => { kind := .tile op w.td.toNat w.ts.toNat w.imm }
/-- A drain, save, restore or mstat. -/
def movePlan (k : MKind) (w : MS) : QWord → MPlan :=
  fun qw => { kind := k, m := snapOf qw w.ss, k2 := w.k2.toNat, orow := w.orow.toNat }

def execMldb (w : MS) (s : State) : Host.Outcome State Fault Refusal := matWord w.h (loadPlan w [w.b.toNat] 8 false) s
def execMldbG (w : MS) (s : State) : Host.Outcome State Fault Refusal := matWord w.h (loadPlan w [w.b.toNat] 1 true) s
def execMldbp (w : MS) (s : State) : Host.Outcome State Fault Refusal := matWord w.h (loadPlan w [0, 1] 4 false) s
def execMma (w : MS) (s : State) : Host.Outcome State Fault Refusal := matWord w.h (mulPlan w (onePair w) false false) s
def execMmaG (w : MS) (s : State) : Host.Outcome State Fault Refusal := matWord w.h (mulPlan w (onePair w) false true) s
def execMmap (w : MS) (s : State) : Host.Outcome State Fault Refusal := matWord w.h (mulPlan w bothPairs false false) s
def execMmapG (w : MS) (s : State) : Host.Outcome State Fault Refusal := matWord w.h (mulPlan w bothPairs false true) s
def execMmat (w : MS) (s : State) : Host.Outcome State Fault Refusal := matWord w.h (mulPlan w (onePair w) true false) s
def execMmatG (w : MS) (s : State) : Host.Outcome State Fault Refusal := matWord w.h (mulPlan w (onePair w) true true) s
def execMzero (w : MT) (s : State) : Host.Outcome State Fault Refusal := matWord w.h (tilePlan .zero w) s
def execManch (w : MT) (s : State) : Host.Outcome State Fault Refusal := matWord w.h (tilePlan .anch w) s
def execMovclr (w : MT) (s : State) : Host.Outcome State Fault Refusal := matWord w.h (tilePlan .ovclr w) s
def execMtrap (w : MT) (s : State) : Host.Outcome State Fault Refusal := matWord w.h (tilePlan .trap w) s
def execMshift (w : MT) (s : State) : Host.Outcome State Fault Refusal := matWord w.h (tilePlan .shift w) s
def execMadd (w : MT) (s : State) : Host.Outcome State Fault Refusal := matWord w.h (tilePlan .add w) s
def execMmov (w : MT) (s : State) : Host.Outcome State Fault Refusal := matWord w.h (tilePlan .mov w) s
def execMstat (w : MS) (s : State) : Host.Outcome State Fault Refusal := matWord w.h (movePlan (.stat w.t.toNat) w) s
def execMdrn (w : MS) (s : State) : Host.Outcome State Fault Refusal :=
  matWord w.h (movePlan (.drain false w.t.toNat w.rm w.z) w) s
def execMdrnMx (w : MS) (s : State) : Host.Outcome State Fault Refusal :=
  matWord w.h (movePlan (.drain true w.t.toNat 0 w.z) w) s
def execMsave (w : MS) (s : State) : Host.Outcome State Fault Refusal := matWord w.h (movePlan (.save w.t.toNat) w) s
def execMrest (w : MS) (s : State) : Host.Outcome State Fault Refusal := matWord w.h (movePlan (.rest w.t.toNat w.z) w) s

end Sys2Proof.Machine
end

