-- ==== Sys2Proof/Machine/Miss.lean ====
section
/-! DEFINITION. The schedule miss of a word that arrives late or that its links hold (R43, R200), behind the illegal-word
check of every word (R146, R262). -/

namespace Sys2Proof.Machine

/-- The plan of a matrix word. -/
def mPlanOf (i : Instr) (qw : QWord) : Option MPlan :=
  match i with
  | .mldb w => some (loadPlan w [w.b.toNat] 8 false qw)
  | .mldbG w => some (loadPlan w [w.b.toNat] 1 true qw)
  | .mldbp w => some (loadPlan w [0, 1] 4 false qw)
  | .mma w => some (mulPlan w (onePair w) false false qw)
  | .mmaG w => some (mulPlan w (onePair w) false true qw)
  | .mmap w => some (mulPlan w bothPairs false false qw)
  | .mmapG w => some (mulPlan w bothPairs false true qw)
  | .mmat w => some (mulPlan w (onePair w) true false qw)
  | .mmatG w => some (mulPlan w (onePair w) true true qw)
  | .mstat w => some (movePlan (.stat w.t.toNat) w qw)
  | .mdrn w => some (movePlan (.drain false w.t.toNat w.rm w.z) w qw)
  | .mdrnMx w => some (movePlan (.drain true w.t.toNat 0 w.z) w qw)
  | .msave w => some (movePlan (.save w.t.toNat) w qw)
  | .mrest w => some (movePlan (.rest w.t.toNat w.z) w qw)
  | _ => none

/-- The kind of a vector memory word, and the word. -/
def vKindOf (i : Instr) : Option (VMemKind × VWord) :=
  match i with
  | .vld w | .vst w => some (.row none, w)
  | .vldf w => some (.row (some .readFull), w)
  | .vldt w => some (.row (some .take), w)
  | .vste w => some (.row (some .put), w)
  | .vstf w => some (.row (some .setFull), w)
  | .vgath w | .vscat w => some (.index, w)
  | .vldm w | .vstm w => some (.mask, w)
  | _ => none

/-- The illegal-word check of a word of queue V, M, G or X: its bits, then its snapshots (R203). -/
def wordBad (q : Queue) (qw : QWord) : Bool :=
  match decodeE q qw.bits with
  | .illegalEWord _ _ => true
  | .gfreq w => gmemBad .freq (snapOf qw w.ss)
  | .gload w => gmemBad .load (snapOf qw w.ss)
  | .gsave w => gmemBad .save (snapOf qw w.ss)
  | .gfill w | .gvec w => fillBad w qw
  | i =>
    ((vKindOf i).map fun (k, w) => vmemBad k w (snapOf qw (w.va.extractLsb' 0 4))).getD false
    || ((mPlanOf i qw).map mBad).getD false || ((xPlanOf qw).map fun p => decide (q = .x) && !xGood p).getD false

/-- SCHEDULE_MISS: in a timed section the word at the head of a queue arrived after its cycle, or its links hold it at its
cycle (R43, R200); an illegal word is reported as such first (R262). What an engine's own rules hold is tested where the
word's meaning issues it. -/
def execScheduleMiss (q : Queue) (s : State) : Host.Outcome State Fault Refusal :=
  let k := cc s
  let n := q.code.toNat
  let e := getEng k n
  match (wordsOf e.q).head?.bind fun w => (headOf w.bits).map fun h => (w, h) with
  | none => .next s
  | some (w, h) =>
    let due := wordDue k e (wordIdle w.bits)
    if !k.timed || e.stop || inHold k (curCyc s) || decide ((curCyc s : Int) < due) || wordIdle w.bits == 0 || wordBad q w then .next s
    else if due < curCyc s then
      .next (issueProg (raise2 s s.cur n w { code := 0x0040, detail := lateness (curCyc s) due } false 0))
    else if (tokenHolds k n h w).isEmpty then .next s
    else .next (issueProg (holdWord s n w (tokenHolds k n h w)))

end Sys2Proof.Machine
end

