-- ==== Sys2Proof/Machine/RegMap.lean ====
section
/-! DEFINITION. The hub register space (R7, R515): what a register reads, and the writes to registers whose writing is no
event of its own. Registers of 256 and 512 bits are read and written in parts of 64 bits. -/

namespace Sys2Proof.Machine

/-- A register value from its fields: value, and place of the lowest bit. -/
def packRegs (l : List (Nat × Nat)) : W64 := BitVec.ofNat 64 (sumNat (l.map fun (v, p) => v * 2 ^ p))

def bit1 (b : Bool) : Nat := if b then 1 else 0

/-! ### Reads -/

/-- Trial time left in ms (R516, R519). -/
def wdogMs (s : State) : Nat := if s.mg.trial then 60000 - (s.gtc - s.mg.trialAt) / 1000000 else 0

/-- Age of a rail's reading in µs, saturating. -/
def railAge (s : State) (k : Nat) : Nat := Nat.min 65535 ((s.gtc - (tget {} s.mg.rails k : Rail).at_) / 1000)

def readMg (s : State) (o : Nat) : W64 :=
  let g := s.mg
  if 0x40 ≤ o ∧ o < 0x40 + 8 * 23 then
    let k := (o - 0x40) / 8
    let r : Rail := tget {} g.rails k
    packRegs [(r.mw, 0), (r.mv, 32), (railAge s k, 48)]
  else
    match o with
    | 0x000 => packRegs [(Config.silicon.toNat, 0), ((Config.fwVersion g.img).toNat, 16)]
    | 0x008 => packRegs [(bit1 g.act, 0), (bit1 g.trial, 1), (bit1 g.next, 2), (g.bad.toNat, 3), (bit1 g.recovery, 5)]
    | 0x018 => packRegs [(wdogMs s, 0)]
    | 0x028 => packRegs [(g.pass.toNat, 0), (g.busy.toNat, 16), (bit1 g.err, 32)]
    | 0x030 => packRegs [(g.cause.toNat, 0)]
    | 0x038 => packRegs [(g.tempDie.toNat, 0), (g.tempHub.toNat, 16)]
    | 0x100 => packRegs [(sumNat ((List.range 4).map fun i => bit1 (Config.otpKey i).isSome * 2 ^ i), 0),
        (bit1 Config.otpFwKey.isSome, 4), (bit1 Config.dbgLock, 5), (floorOf s, 32)]
    | 0x110 => packRegs [(bit1 g.attDone, 0), (bit1 g.attErr, 1)]
    | _ => 0

/-- Part `dw` of a 256-bit register. -/
def dwOf (e : BitVec 256) (dw : Nat) : W64 := e.extractLsb' (64 * dw) 64

def readMm (s : State) (o : Nat) : W64 :=
  let m := s.mm
  if o < 0x800 then dwOf (tget 0 m.act (o / 32)) (o / 8 % 4)
  else if o < 0x1000 then dwOf (tget 0 m.shd ((o - 0x800) / 32)) (o / 8 % 4)
  else if 0x1040 ≤ o ∧ o < 0x1240 then
    let k := (o - 0x1040) / 64
    let b := (o - 0x1040) % 64 * 8
    packRegs ((List.range 64).map fun i => (bit1 (member m.ret (512 * k + b + i)), i))
  else if 0x1240 ≤ o ∧ o < 0x1260 then BitVec.ofNat 64 (parkCap ((o - 0x1240) / 8))
  else
    match o with
    | 0x1008 => packRegs [(bit1 m.busy, 0), (bit1 m.gen, 1), (bit1 m.rej, 2), (bit1 m.inval, 3), (m.idx.toNat, 6), (m.why.toNat, 12)]
    | 0x1010 => BitVec.ofNat 64 m.mode
    | 0x1018 => BitVec.ofNat 64 m.next
    | 0x1028 => m.inva
    | 0x1030 => m.invn
    | 0x1038 => packRegs [(bit1 m.invBusy, 0), (bit1 m.invErr, 1)]
    | 0x1260 => packRegs [(m.sr.toNat, 0)]
    | _ => 0

/-- Clusters of usable dies that no task holds. -/
def freeCount (s : State) : Nat := ((List.range 32).filter fun k => dieUsable s (k / 2) && decide ((getCluster s k).task = 0)).length

def readyCount (s : State) : Nat := sumNat (s.ref.graphs.map fun (_, g) => (g.nodes.filter fun nd => nd.st == .ready).length)

/-- The Referee's registers (R443). The counts of `ref.stat` are those of the last hub cycle; before the first it reads its
reset value. -/
def readRef (s : State) (o : Nat) : W64 :=
  if o = 0 then BitVec.ofNat 64 s.ref.age
  else if o = 8 then if s.gtc = 0 then 0 else packRegs [((graphsInFlight s).length % 65536, 0), (readyCount s % 65536, 16), (freeCount s, 32)]
  else if o < 0x10 + 8 * 16 then Config.features.setWidth 64
  else 0

/-- The dies in a state, as a bitmap. -/
def dieMap (s : State) (f : DieSt → Bool) : Nat := dieBits ((List.range 16).filter fun d => f (dieState s d))

def isGated : DieSt → Bool
  | .gated _ => true
  | _ => false

def readBur (s : State) (o : Nat) : W64 :=
  let b := s.bur
  match o with
  | 0x008 => packRegs [(bit1 b.deciding.isSome, 0), (b.last.toNat, 1), (bit1 b.ovr, 4)]
  | 0x010 => b.seq
  | 0x018 => b.seqlo
  | 0x020 => packRegs [(bit1 b.lock, 0)]
  | 0x028 => packRegs [(b.curW, 0), (b.tgtW, 32)]
  | 0x030 => packRegs [(wattsField (p1 s), 0), (wattsField (p10 s), 32)]
  | 0x038 => packRegs [((b.grades.getLast?.map (·.grade)).getD 0, 0), (Nat.min 255 (sumNat (b.grades.map fun g => g.left.length)), 8)]
  | 0x040 => packRegs [(dieMap s isGated, 0), (dieMap s (· == .failed), 16)]
  | 0x048 => BitVec.ofNat 64 fallbackW
  | 0x050 => b.evbase
  | 0x058 => b.evsize
  | 0x060 => b.evhead.setWidth 64
  | 0x068 => b.evtail.setWidth 64
  | 0x070 => packRegs [(bit1 b.evlost, 0)]
  | 0x078 => BitVec.ofNat 64 ceilW
  | _ => 0

/-- Doubleword `i` of a compatibility tag: the trap record it carries (R482). -/
def readTag (s : State) (t i : Nat) : W64 :=
  match s.host.tags.find? fun e => e.1 = t with
  | some (_, r) => trapWord r i
  | none => 0

def readHost (s : State) (o : Nat) : W64 :=
  let h := s.host
  if o < 0x800 then
    let v : Sq := tget {} h.sq (o / 32)
    match o % 32 with
    | 0x00 => v.base
    | 0x08 => v.cfg
    | 0x18 => packRegs [(v.head.toNat, 0), (bit1 v.torn, 32), (bit1 v.stopped, 33)]
    | _ => 0
  else if o < 0x1000 then
    let v : Ring := tget {} h.cq ((o - 0x800) / 32)
    match o % 32 with
    | 0x00 => v.base
    | 0x08 => v.cfg
    | 0x10 => v.head.setWidth 64
    | _ => v.tail.setWidth 64
  else if 0x2000 ≤ o ∧ o < 0x6000 then readTag s ((o - 0x2000) / 64) (o / 8 % 8)
  else
    match o with
    | 0x1000 => h.tr.base
    | 0x1008 => h.tr.cfg
    | 0x1010 => h.tr.head.setWidth 64
    | 0x1018 => h.tr.tail.setWidth 64
    | 0x1020 => h.hwbase
    | 0x1028 => h.hwsize
    | 0x1030 => h.apbase
    | 0x1038 => packRegs [(bit1 h.atom, 0), (bit1 h.apfail, 1)]
    | 0x1040 => packRegs [(bit1 h.compatEn, 0)]
    | 0x1048 => packRegs [(h.tags.length, 0), (bit1 h.compatFail, 9)]
    | _ => 0

def readVol (s : State) (o : Nat) : W64 :=
  let v := s.vol
  if 0x100 ≤ o ∧ o < 0x200 then dwOf (expEntry s ((o - 0x100) / 32)) (o / 8 % 4)
  else
    match o with
    | 0x000 => v.id.setWidth 64
    | 0x008 => packRegs [(bit1 v.tmaster, 0), (bit1 v.pps, 1), (bit1 v.lock, 2)]
    | 0x010 => packRegs [(v.up.toNat, 0), (bit1 v.synced, 16), (bit1 v.ppsSeen, 17)]
    | 0x018 => v.ppsoff.setWidth 64
    | 0x020 => v.rtbase
    | 0x028 => BitVec.ofNat 64 v.tmo
    | _ => 0

def readPro (s : State) (o : Nat) : W64 :=
  let p := s.pro
  match o with
  | 0x000 => p.ctl.setWidth 64
  | 0x008 => p.base
  | 0x010 => BitVec.ofNat 64 p.size
  | 0x018 => p.head.setWidth 64
  | 0x020 => p.tail.setWidth 64
  | 0x028 => p.thr.setWidth 64
  | 0x030 => p.open_.setWidth 64
  | 0x038 => packRegs [(bit1 p.lost, 0), (bit1 p.stfull, 1), (bit1 p.stbusy, 2)]
  | 0x040 => p.stbase
  | 0x048 => BitVec.ofNat 64 p.stsize
  | 0x060 => p.stopcyc
  | 0x068 => packRegs [(bit1 p.stopped, 0), (bit1 p.armed, 1), (bit1 p.late, 2), (bit1 p.err, 3), (bit1 p.derr, 4), (p.task, 32)]
  | 0x070 => p.dsel
  | 0x078 => p.ddat
  | _ => 0

/-- What the 8 bytes at an offset of BAR0 read; in recovery the management block alone (R515, R518). -/
def hubRead (s : State) (off : Nat) : W64 :=
  let o := off % 0x100000
  let b := off / 0x100000
  if s.mg.recovery && decide (b ≠ 0) then 0
  else
    match b with
    | 0 => readMg s o
    | 1 => readMm s o
    | 2 => readRef s o
    | 3 => readBur s o
    | 4 => readHost s o
    | 5 => readVol s o
    | 6 => readPro s o
    | 7 => tget 0 s.host.msix (o / 8)
    | _ => 0

/-! ### Writes that are no event of their own -/

def writeMg (s : State) (o : Nat) (v : W64) : State :=
  match o with
  | 0x008 => { s with mg := { s.mg with next := v.getLsbD 2 } }
  | 0x110 => { s with mg := { s.mg with attDone := s.mg.attDone && !v.getLsbD 0, attErr := s.mg.attErr && !v.getLsbD 1 } }
  | _ => s

/-- `rt.ctl` with both commands set is refused (R396), and `mm.inv` with its reserved kind (R388). -/
def writeMm (s : State) (o : Nat) (v : W64) : State :=
  match o with
  | 0x1000 => if v.getLsbD 0 && v.getLsbD 1 then rtRefuse s false (if s.mm.busy then 2 else 3) 0 else s
  | 0x1008 => setMm s { s.mm with rej := s.mm.rej && !v.getLsbD 2, inval := s.mm.inval && !v.getLsbD 3 }
  | 0x1020 => if v.extractLsb' 0 2 = 3 then setMm s { s.mm with invErr := true } else s
  | 0x1028 => setMm s { s.mm with inva := v &&& 0x1FFFFFFFFFF0000 }
  | 0x1030 => setMm s { s.mm with invn := v &&& 0xFFFFFFFF }
  | 0x1038 => setMm s { s.mm with invErr := s.mm.invErr && !v.getLsbD 1 }
  | _ => s

def writeRef (s : State) (o : Nat) (v : W64) : State :=
  let a := (v.extractLsb' 0 20).toNat
  if o = 0 ∧ 100 ≤ a ∧ a ≤ 1000000 then { s with ref := { s.ref with age := a } } else s

def writeBur (s : State) (o : Nat) (v : W64) : State :=
  match o with
  | 0x008 => setBur s { s.bur with ovr := s.bur.ovr && !v.getLsbD 4 }
  | 0x050 => setBur s { s.bur with evbase := v &&& 0xFFFFFFFFFFFC0 }
  | 0x058 => setBur s { s.bur with evsize := v &&& 0xFFFF }
  | 0x068 => setBur s { s.bur with evtail := v.setWidth 16 }
  | 0x070 => setBur s { s.bur with evlost := s.bur.evlost && !v.getLsbD 0 }
  | _ => s

/-- A queue's or a ring's base, ignored while it is enabled (R475, R478). -/
def writeHost (s : State) (o : Nat) (v : W64) : State :=
  let h := s.host
  let put (h : HostLink) : State := { s with host := h }
  if o < 0x800 then
    let q : Sq := tget {} h.sq (o / 32)
    if o % 32 = 0 ∧ !ringEn q.cfg then put { h with sq := tset h.sq (o / 32) { q with base := v &&& 0xFFFFFFFFFFFFFE00 } } else s
  else if o < 0x1000 then
    let q : Ring := tget {} h.cq ((o - 0x800) / 32)
    if o % 32 = 0 ∧ !ringEn q.cfg then
      put { h with cq := tset h.cq ((o - 0x800) / 32) { q with base := v &&& 0xFFFFFFFFFFFFFE00 } }
    else s
  else
    match o with
    | 0x1000 => if ringEn h.tr.cfg then s else put { h with tr := { h.tr with base := v &&& 0xFFFFFFFFFFFC0 } }
    | 0x1020 => put { h with hwbase := v &&& 0xFFFFFFFFFFFFF000 }
    | 0x1028 => put { h with hwsize := v &&& 0x7FFFFFFFF000 }
    | 0x1030 => put { h with apbase := v &&& 0xFFFFC00000000 }
    | 0x1038 => put { h with apfail := h.apfail && !v.getLsbD 1 }
    | _ => s

def writeVol (s : State) (o : Nat) (v : W64) : State :=
  let x := s.vol
  if 0x100 ≤ o ∧ o < 0x200 then
    let e := (o - 0x100) / 32
    { s with vol := { x with exp := tput 0 x.exp e (putDw (expEntry s e) (o / 8 % 4) (v &&& expMask (o / 8 % 4))) } }
  else
    match o with
    | 0x000 => if x.lock then s else { s with vol := { x with id := v.setWidth 14 } }
    | 0x018 => { s with vol := { x with ppsoff := v.setWidth 32 } }
    | 0x020 => { s with vol := { x with rtbase := v &&& 0xFFFFFFFFFC000 } }
    | 0x028 => if (v.extractLsb' 0 16).toNat = 0 then s else { s with vol := { x with tmo := (v.extractLsb' 0 16).toNat } }
    | _ => s

/-- `pr.stop` with its reserved kind is refused (R506). -/
def writePro (s : State) (o : Nat) (v : W64) : State :=
  let p := s.pro
  let put (p : Pro) : State := { s with pro := p }
  match o with
  | 0x000 => put { p with ctl := v.setWidth 4 }
  | 0x008 => put { p with base := v &&& 0xFFFFFFFFFFFC0 }
  | 0x010 => put { p with size := (v.extractLsb' 0 16).toNat }
  | 0x020 => put { p with tail := v.setWidth 32 }
  | 0x028 => put { p with thr := v.setWidth 32 }
  | 0x030 => put { p with open_ := v.setWidth 32 }
  | 0x038 => put { p with lost := p.lost && !v.getLsbD 0, stfull := p.stfull && !v.getLsbD 1 }
  | 0x040 => put { p with stbase := v &&& 0xFFFFFFFFFFFC0 }
  | 0x048 => put { p with stsize := (v.extractLsb' 0 20).toNat }
  | 0x058 => if v.extractLsb' 48 2 = 3 then put { p with err := true } else s
  | 0x060 => put { p with stopcyc := v }
  | 0x070 => put { p with dsel := v &&& 0xFFFFFFFFF3FFFF }
  | _ => s

/-- REGISTER_WRITE: the 8 bytes at an offset of BAR0. Reserved bits, and offsets outside every register, are ignored. -/
def execRegisterWrite (off : Nat) (v : W64) (s : State) : Host.Outcome State Fault Refusal :=
  let o := off % 0x100000
  if off % 8 ≠ 0 ∨ (s.mg.recovery ∧ off / 0x100000 ≠ 0) then .next s
  else
    .next (match off / 0x100000 with
    | 0 => writeMg s o v
    | 1 => writeMm s o v
    | 2 => writeRef s o v
    | 3 => writeBur s o v
    | 4 => writeHost s o v
    | 5 => writeVol s o v
    | 6 => writePro s o v
    | 7 => if o < 16 * 80 then { s with host := { s.host with msix := tput 0 s.host.msix (o / 8) v } } else s
    | _ => s)

end Sys2Proof.Machine
end

