-- ==== Sys2Proof/Machine/Scalar.lean ====
section
/-! DEFINITION. Integer, bit and immediate instructions of the conductor (R167 to R169). -/

namespace Sys2Proof.Machine

/-! ### What they compute -/

def sllBy (a : W64) (n : Nat) : W64 := a <<< n
def srlBy (a : W64) (n : Nat) : W64 := a >>> n
def sraBy (a : W64) (n : Nat) : W64 := a.sshiftRight n
/-- The shift amount b[5:0]. -/
def shAmt (b : W64) : Nat := b.toNat % 64

/-- Leading and trailing zero bits; 64 for zero. -/
def clz64 (a : W64) : Nat := ((List.range 64).find? fun i => a.getLsbD (63 - i)).getD 64
def ctz64 (a : W64) : Nat := ((List.range 64).find? fun i => a.getLsbD i).getD 64
def popc64 (a : W64) : Nat := ((List.range 64).filter fun i => a.getLsbD i).length
def bswap64 (a : W64) : W64 := BitVec.ofNat 64 (leNat (leBytes 8 a.toNat).reverse)

/-- R168. -/
def mulhSS (a b : W64) : W64 := BitVec.ofInt 64 (a.toInt * b.toInt / 2 ^ 64)
def mulhUU (a b : W64) : W64 := BitVec.ofNat 64 (a.toNat * b.toNat / 2 ^ 64)
def mulhSU (a b : W64) : W64 := BitVec.ofInt 64 (a.toInt * (b.toNat : Int) / 2 ^ 64)
def divS (a b : W64) : W64 :=
  if b = 0 then -1 else if a = 0x8000000000000000 ∧ b = -1 then a else BitVec.ofInt 64 (a.toInt.tdiv b.toInt)
def divU (a b : W64) : W64 := if b = 0 then -1 else BitVec.ofNat 64 (a.toNat / b.toNat)
def remS (a b : W64) : W64 :=
  if b = 0 then a else if a = 0x8000000000000000 ∧ b = -1 then 0
  else BitVec.ofInt 64 (a.toInt - b.toInt * a.toInt.tdiv b.toInt)
def remU (a b : W64) : W64 := if b = 0 then a else BitVec.ofNat 64 (a.toNat % b.toNat)

def minS (a b : W64) : W64 := if a.slt b then a else b
def maxS (a b : W64) : W64 := if a.slt b then b else a
def minU (a b : W64) : W64 := if a.ult b then a else b
def maxU (a b : W64) : W64 := if a.ult b then b else a

/-! ### Register instructions (R167) -/

def execAdd (rd rs1 rs2 : Reg) (s : State) : Host.Outcome State Fault Refusal := op2 (packR 0x01 rd rs1 rs2 0) rd rs1 rs2 (· + ·) s
def execSub (rd rs1 rs2 : Reg) (s : State) : Host.Outcome State Fault Refusal := op2 (packR 0x01 rd rs1 rs2 1) rd rs1 rs2 (· - ·) s
def execAnd (rd rs1 rs2 : Reg) (s : State) : Host.Outcome State Fault Refusal := op2 (packR 0x01 rd rs1 rs2 2) rd rs1 rs2 (· &&& ·) s
def execOr (rd rs1 rs2 : Reg) (s : State) : Host.Outcome State Fault Refusal := op2 (packR 0x01 rd rs1 rs2 3) rd rs1 rs2 (· ||| ·) s
def execXor (rd rs1 rs2 : Reg) (s : State) : Host.Outcome State Fault Refusal := op2 (packR 0x01 rd rs1 rs2 4) rd rs1 rs2 (· ^^^ ·) s
def execSll (rd rs1 rs2 : Reg) (s : State) : Host.Outcome State Fault Refusal := op2 (packR 0x01 rd rs1 rs2 5) rd rs1 rs2 (fun a b => sllBy a (shAmt b)) s
def execSrl (rd rs1 rs2 : Reg) (s : State) : Host.Outcome State Fault Refusal := op2 (packR 0x01 rd rs1 rs2 6) rd rs1 rs2 (fun a b => srlBy a (shAmt b)) s
def execSra (rd rs1 rs2 : Reg) (s : State) : Host.Outcome State Fault Refusal := op2 (packR 0x01 rd rs1 rs2 7) rd rs1 rs2 (fun a b => sraBy a (shAmt b)) s
def execSlt (rd rs1 rs2 : Reg) (s : State) : Host.Outcome State Fault Refusal := op2 (packR 0x01 rd rs1 rs2 8) rd rs1 rs2 (fun a b => ofBool (a.slt b)) s
def execSltu (rd rs1 rs2 : Reg) (s : State) : Host.Outcome State Fault Refusal := op2 (packR 0x01 rd rs1 rs2 9) rd rs1 rs2 (fun a b => ofBool (a.ult b)) s
def execMin (rd rs1 rs2 : Reg) (s : State) : Host.Outcome State Fault Refusal := op2 (packR 0x01 rd rs1 rs2 10) rd rs1 rs2 minS s
def execMax (rd rs1 rs2 : Reg) (s : State) : Host.Outcome State Fault Refusal := op2 (packR 0x01 rd rs1 rs2 11) rd rs1 rs2 maxS s
def execMinu (rd rs1 rs2 : Reg) (s : State) : Host.Outcome State Fault Refusal := op2 (packR 0x01 rd rs1 rs2 12) rd rs1 rs2 minU s
def execMaxu (rd rs1 rs2 : Reg) (s : State) : Host.Outcome State Fault Refusal := op2 (packR 0x01 rd rs1 rs2 13) rd rs1 rs2 maxU s
def execClz (rd rs1 : Reg) (s : State) : Host.Outcome State Fault Refusal := op1 (packI 0x03 rd rs1 0) rd rs1 (fun a => BitVec.ofNat 64 (clz64 a)) s
def execCtz (rd rs1 : Reg) (s : State) : Host.Outcome State Fault Refusal := op1 (packI 0x03 rd rs1 1) rd rs1 (fun a => BitVec.ofNat 64 (ctz64 a)) s
def execPopc (rd rs1 : Reg) (s : State) : Host.Outcome State Fault Refusal := op1 (packI 0x03 rd rs1 2) rd rs1 (fun a => BitVec.ofNat 64 (popc64 a)) s
def execBswap (rd rs1 : Reg) (s : State) : Host.Outcome State Fault Refusal := op1 (packI 0x03 rd rs1 3) rd rs1 bswap64 s

/-! ### Multiply and divide (R168), with the latencies of R164 -/

def execMul (rd rs1 rs2 : Reg) (s : State) : Host.Outcome State Fault Refusal := op2Late (packR 0x02 rd rs1 rs2 0) rd rs1 rs2 4 (· * ·) s
def execMulh (rd rs1 rs2 : Reg) (s : State) : Host.Outcome State Fault Refusal := op2Late (packR 0x02 rd rs1 rs2 1) rd rs1 rs2 4 mulhSS s
def execMulhu (rd rs1 rs2 : Reg) (s : State) : Host.Outcome State Fault Refusal := op2Late (packR 0x02 rd rs1 rs2 2) rd rs1 rs2 4 mulhUU s
def execMulhsu (rd rs1 rs2 : Reg) (s : State) : Host.Outcome State Fault Refusal := op2Late (packR 0x02 rd rs1 rs2 3) rd rs1 rs2 4 mulhSU s
def execDiv (rd rs1 rs2 : Reg) (s : State) : Host.Outcome State Fault Refusal := op2Late (packR 0x02 rd rs1 rs2 4) rd rs1 rs2 36 divS s
def execDivu (rd rs1 rs2 : Reg) (s : State) : Host.Outcome State Fault Refusal := op2Late (packR 0x02 rd rs1 rs2 5) rd rs1 rs2 36 divU s
def execRem (rd rs1 rs2 : Reg) (s : State) : Host.Outcome State Fault Refusal := op2Late (packR 0x02 rd rs1 rs2 6) rd rs1 rs2 36 remS s
def execRemu (rd rs1 rs2 : Reg) (s : State) : Host.Outcome State Fault Refusal := op2Late (packR 0x02 rd rs1 rs2 7) rd rs1 rs2 36 remU s

/-! ### Immediate instructions (R169) -/

def execAddi (rd rs1 : Reg) (imm : W16) (s : State) : Host.Outcome State Fault Refusal := op1 (packI 0x04 rd rs1 imm) rd rs1 (fun a => a + sx imm) s
def execAndi (rd rs1 : Reg) (imm : W16) (s : State) : Host.Outcome State Fault Refusal := op1 (packI 0x05 rd rs1 imm) rd rs1 (fun a => a &&& zx imm) s
def execOri (rd rs1 : Reg) (imm : W16) (s : State) : Host.Outcome State Fault Refusal := op1 (packI 0x06 rd rs1 imm) rd rs1 (fun a => a ||| zx imm) s
def execXori (rd rs1 : Reg) (imm : W16) (s : State) : Host.Outcome State Fault Refusal := op1 (packI 0x07 rd rs1 imm) rd rs1 (fun a => a ^^^ zx imm) s
def execSlti (rd rs1 : Reg) (imm : W16) (s : State) : Host.Outcome State Fault Refusal := op1 (packI 0x09 rd rs1 imm) rd rs1 (fun a => ofBool (a.slt (sx imm))) s
def execSltiu (rd rs1 : Reg) (imm : W16) (s : State) : Host.Outcome State Fault Refusal := op1 (packI 0x0A rd rs1 imm) rd rs1 (fun a => ofBool (a.ult (sx imm))) s
def execLsi (rd rs1 : Reg) (imm : W16) (s : State) : Host.Outcome State Fault Refusal := op1 (packI 0x0C rd rs1 imm) rd rs1 (fun a => a * 65536 + zx imm) s
def execSlli (rd rs1 : Reg) (sh : BitVec 6) (s : State) : Host.Outcome State Fault Refusal := op1 (packI 0x08 rd rs1 (0#10 ++ sh)) rd rs1 (fun a => sllBy a sh.toNat) s
def execSrli (rd rs1 : Reg) (sh : BitVec 6) (s : State) : Host.Outcome State Fault Refusal := op1 (packI 0x08 rd rs1 (1#10 ++ sh)) rd rs1 (fun a => srlBy a sh.toNat) s
def execSrai (rd rs1 : Reg) (sh : BitVec 6) (s : State) : Host.Outcome State Fault Refusal := op1 (packI 0x08 rd rs1 (2#10 ++ sh)) rd rs1 (fun a => sraBy a sh.toNat) s
def execLui (rd : Reg) (imm : W16) (s : State) : Host.Outcome State Fault Refusal :=
  conduct true false (packI 0x0B rd 0 imm) [rd.toNat] (fun s => adv s (wx s rd (sx imm * 65536))) s
def execLpc (rd : Reg) (imm : W16) (s : State) : Host.Outcome State Fault Refusal :=
  conduct true false (packI 0x0D rd 0 imm) [rd.toNat] (fun s => adv s (wx s rd (target s imm))) s

end Sys2Proof.Machine
end

