-- ==== Sys2Proof/Machine/VecSignal.lean ====
section
/-! DEFINITION. Complex and butterfly words, bit reversal and reductions (R265 to R275). -/

namespace Sys2Proof.Machine

/-! ### Complex elements (R265, R266) -/

/-- A complex element: real and imaginary operands. -/
structure Cx where
  re : FVal
  im : FVal
  deriving DecidableEq, Repr

def cxOf (v : BitVec 2048) (j : Nat) : Cx := ⟨dec32 (elemOf v 32 (2 * j)), dec32 (elemOf v 32 (2 * j + 1))⟩
def Cx.conj (c : Cx) : Cx := ⟨c.re, c.im.negate⟩

/-- One term of R266: an input, or a product of two, with a sign. -/
inductive CTerm where
  | one (neg : Bool) (a : FVal)
  | mul (neg : Bool) (a b : FVal)
  deriving DecidableEq, Repr

def CTerm.inputs : CTerm → List FVal
  | .one _ a => [a]
  | .mul _ a b => [a, b]

def signTerm (neg : Bool) (t : Term) : Term := if neg then t.negate else t

def CTerm.term : CTerm → Option Term
  | .one n a => some (signTerm n (termOf a))
  | .mul n a b => (termMul a b).map (signTerm n)

/-- A component (R266). -/
def cSum (md : Rm) (ts : List CTerm) : Nat × Flags :=
  let ins := ts.flatMap CTerm.inputs
  if ins.any FVal.isNan then (fmtFP32.canon, nanFlags ins)
  else deliverSum fmtFP32 md zeroSignTerms (ts.map CTerm.term)

/-- The 32 complex elements of a word, from `j` on: real and imaginary components with their flags (R265). -/
def cxElems (m : W64) (mz : Bool) (f : Nat → (Nat × Flags) × (Nat × Flags)) : Nat → Nat → VOut → VOut
  | 0, _, o => o
  | n + 1, j, o =>
    let o :=
      if m.getLsbD (2 * j) then
        let (r, i) := f j
        (((o.put 32 (2 * j) r.1).put 32 (2 * j + 1) i.1).flag (2 * j) r.2).flag (2 * j + 1) i.2
      else if mz then (o.put 32 (2 * j) 0).put 32 (2 * j + 1) 0 else o
    cxElems m mz f n (j + 1) o

def vecCx (lat : Nat) (srcs : List (BitVec 5)) (w : VWord) (f : Core → Nat → (Nat × Flags) × (Nat × Flags)) (s : State) :
    Host.Outcome State Fault Refusal :=
  vecReg w (vrUses w srcs lat) (fun k => cxElems (maskOf k w.m) w.mz (f k) 32 0 {}) s

/-- `b`, conjugated where cb is set (R268). -/
def cbOf (w : VWord) (c : Cx) : Cx := if w.fn.getLsbD 0 then c.conj else c

/-- The terms of a complex product, `neg` for its negative: real and imaginary. -/
def prodRe (neg : Bool) (a b : Cx) : List CTerm := [.mul neg a.re b.re, .mul (!neg) a.im b.im]
def prodIm (neg : Bool) (a b : Cx) : List CTerm := [.mul neg a.re b.im, .mul neg a.im b.re]

def execVcmul (w : VWord) (s : State) : Host.Outcome State Fault Refusal :=
  vecCx 6 [w.va, w.vb] w (fun k j =>
    let a := cxOf (vreg k w.va) j
    let b := cbOf w (cxOf (vreg k w.vb) j)
    (cSum (vrm w) (prodRe false a b), cSum (vrm w) (prodIm false a b))) s

/-- `c + a b`, or `c − a b`, each component rounded once (R268, R269). -/
def cxMulAdd (md : Rm) (neg : Bool) (a b c : Cx) : (Nat × Flags) × (Nat × Flags) :=
  (cSum md (.one false c.re :: prodRe neg a b), cSum md (.one false c.im :: prodIm neg a b))

def execVcmac (w : VWord) (s : State) : Host.Outcome State Fault Refusal :=
  vecCx 6 [w.va, w.vb, w.vc] w (fun k j =>
    cxMulAdd (vrm w) false (cxOf (vreg k w.va) j) (cbOf w (cxOf (vreg k w.vb) j)) (cxOf (vreg k w.vc) j)) s

def execVconj (w : VWord) (s : State) : Host.Outcome State Fault Refusal :=
  vecCx 2 [w.va] w (fun k j =>
    ((elemOf (vreg k w.va) 32 (2 * j), 0), (fNeg fmtFP32 (elemOf (vreg k w.va) 32 (2 * j + 1)), 0))) s

def execVbfly2 (w : VWord) (s : State) : Host.Outcome State Fault Refusal :=
  if w.fn.getLsbD 3 then
    vecCx 6 [w.va, w.vb, w.vc] w (fun k j =>
      cxMulAdd (vrm w) (w.fn.getLsbD 4) (cxOf (vreg k w.vc) j) (cxOf (vreg k w.vb) j) (cxOf (vreg k w.va) j)) s
  else
    let h := 2 ^ (w.fn.extractLsb' 0 3).toNat
    vecCx 6 [w.va, w.vb] w (fun k j =>
      let up := decide (j % (2 * h) < h)
      let i := if up then j else j - h
      cxMulAdd (vrm w) (!up) (cxOf (vreg k w.vb) i) (cxOf (vreg k w.va) (i + h)) (cxOf (vreg k w.va) i)) s

/-- The terms of output `r` of a radix-4 butterfly; `inv` for σ = +1 (R270). -/
def fly4Re (inv : Bool) (a b c d : Cx) (r : Nat) : List CTerm :=
  match r with
  | 0 => [.one false a.re, .one false b.re, .one false c.re, .one false d.re]
  | 1 => [.one false a.re, .one inv b.im, .one true c.re, .one (!inv) d.im]
  | 2 => [.one false a.re, .one true b.re, .one false c.re, .one true d.re]
  | _ => [.one false a.re, .one (!inv) b.im, .one true c.re, .one inv d.im]
def fly4Im (inv : Bool) (a b c d : Cx) (r : Nat) : List CTerm :=
  match r with
  | 0 => [.one false a.im, .one false b.im, .one false c.im, .one false d.im]
  | 1 => [.one false a.im, .one (!inv) b.re, .one true c.im, .one inv d.re]
  | 2 => [.one false a.im, .one true b.im, .one false c.im, .one true d.im]
  | _ => [.one false a.im, .one inv b.re, .one true c.im, .one (!inv) d.re]

def execVbfly4 (w : VWord) (s : State) : Host.Outcome State Fault Refusal :=
  let h := 2 ^ (w.fn.extractLsb' 0 2).toNat
  let inv := w.fn.getLsbD 2
  vecCx 6 [w.va] w (fun k j =>
    let r := j % (4 * h) / h
    let i := j - r * h
    let x (n : Nat) : Cx := cxOf (vreg k w.va) (i + n * h)
    (cSum (vrm w) (fly4Re inv (x 0) (x 1) (x 2) (x 3) r), cSum (vrm w) (fly4Im inv (x 0) (x 1) (x 2) (x 3) r))) s

/-- The index k_j of vtwid (R271). -/
def twidIndex (w : VWord) (k : Core) (j : Nat) : Nat :=
  let n := (w.fn.extractLsb' 0 5).toNat
  if w.fn.getLsbD 6 then j % 2 ^ w.va.toNat * 2 ^ (n - 1 - w.va.toNat) else elemOf (vreg k w.va) 32 (2 * j) % 2 ^ n

def execVtwid (w : VWord) (s : State) : Host.Outcome State Fault Refusal :=
  let n := (w.fn.extractLsb' 0 5).toNat
  vecCx 6 (if w.fn.getLsbD 6 then [] else [w.va]) w (fun k j =>
    let phi := twidIndex w k j * 2 ^ (32 - n)
    let im := sinp phi
    ((posZero32 (cosp phi), 0), (if w.fn.getLsbD 5 then posZero32 im else posZero32 (negCode32 im), 0))) s

/-- The low `n` bits of `i`, reversed. -/
def revBits (i : Nat) : Nat → Nat
  | 0 => 0
  | n + 1 => i % 2 * 2 ^ n + revBits (i / 2) n

def execVrevb (w : VWord) (s : State) : Host.Outcome State Fault Refusal :=
  let n := (w.fn.extractLsb' 0 4).toNat
  vecPerm w [w.va] (fun k e => vel w k w.va (e - e % 2 ^ n + revBits (e % 2 ^ n) n)) s

/-! ### Reductions (R273 to R275) -/

/-- A node's operation on two present children: the value and its flags. -/
abbrev NodeOp (α : Type) := α → α → α × Flags

/-- One level of the canonical tree: absent children pass the other up. -/
def treeLevel {α : Type} (f : NodeOp α) : List (Option α) → List (Option α) × Flags
  | some a :: some b :: t =>
    let (c, fl) := f a b
    let (r, fl') := treeLevel f t
    (some c :: r, fl ||| fl')
  | some a :: none :: t => let (r, fl) := treeLevel f t; (some a :: r, fl)
  | none :: b :: t => let (r, fl) := treeLevel f t; (b :: r, fl)
  | [a] => ([a], 0)
  | [] => ([], 0)

/-- `g` levels over a group of 2^g leaves (R130, R274). -/
def treeRun {α : Type} (f : NodeOp α) : Nat → List (Option α) → Option α × Flags
  | 0, l => ((l.head?).join, 0)
  | g + 1, l =>
    let (l', fl) := treeLevel f l
    let (r, fl') := treeRun f g l'
    (r, fl ||| fl')

/-- A reduction: the leaf of an element with its flags, the node, the root's code with its flags, the identity. -/
structure RedOp (α : Type) where
  leaf : Core → Nat → α × Flags
  node : NodeOp α
  root : α → Nat × Flags
  ident : Nat

/-- The code and flags of group `q` of 2^g elements. -/
def redGroup {α : Type} (r : RedOp α) (w : VWord) (k : Core) (g q : Nat) : Nat × Flags :=
  let wd := (vty w).width
  let ls : List (Option (α × Flags)) := (List.range (2 ^ g)).map fun i =>
    let e := q * 2 ^ g + i
    if enabled (maskOf k w.m) wd e then some (r.leaf k e) else none
  let lf : Flags := ls.foldl (fun a o => match o with | some x => a ||| x.2 | none => a) 0
  match treeRun r.node g (ls.map fun o => o.map (·.1)) with
  | (some a, fl) => let (c, fl') := r.root a; (c, lf ||| fl ||| fl')
  | (none, fl) => (r.ident, lf ||| fl)

/-- The registers of a reduction: the destination is written whole, its old value is not read. -/
def redUses (w : VWord) (srcs : List (BitVec 5)) : VUses :=
  { reads := srcs.map vNo ++ mNo w.m, dst := some (vNo w.vd), lat := 10 }

/-- A reduction. The flags of result element q go into its lane, whether or not the word's mask enables it: the mask governs
the operands, not the destination (R274; DEDUCED, log entry 110). -/
def vecRed {α : Type} (srcs : List (BitVec 5)) (w : VWord) (r : RedOp α) (s : State) : Host.Outcome State Fault Refusal :=
  let g := (w.fn.extractLsb' 0 4).toNat
  vecReg w (redUses w srcs)
    (fun k => mapElems (BitVec.allOnes 64) false (vty w).width fun q =>
      if q < (vty w).n / 2 ^ g then redGroup r w k g q else (0, 0)) s

/-- A code as a word delivers it: a NaN is the canonical one (R108). -/
def canonOf (f : FFmt) (c : Nat) : Nat := if (f.decode c).isNan then f.canon else c

def execVfsum (w : VWord) (s : State) : Host.Outcome State Fault Refusal :=
  vecRed (α := Nat) [w.va] w
    { leaf := fun k e => (vel w k w.va e, 0)
      node := fun a b => fAdd (vty w).ff (vrm w) ((vty w).ff.decode a) ((vty w).ff.decode b)
      root := fun a => (canonOf (vty w).ff a, 0), ident := 0 } s

/-- vfrmax and vfrmin. -/
def vecFred (mx : Bool) (w : VWord) (s : State) : Host.Outcome State Fault Refusal :=
  vecRed (α := Nat) [w.va] w
    { leaf := fun k e => (vel w k w.va e, 0), node := fun a b => fMinMax (vty w).ff mx a b
      root := fun a => (canonOf (vty w).ff a, 0), ident := (vty w).ff.withSign mx (vty w).ff.infCode } s

def execVfrmax (w : VWord) (s : State) : Host.Outcome State Fault Refusal := vecFred true w s
def execVfrmin (w : VWord) (s : State) : Host.Outcome State Fault Refusal := vecFred false w s

/-- The exact product of two operands as a leaf of vfdot, and its flags (R275). -/
def dotLeaf (a b : FVal) : FVal × Flags :=
  if a.isNan || b.isNan then (.nan false false, nanFlags [a, b])
  else
    match a, b with
    | .fin n m e, .fin n' m' e' => (.fin (n != n') (m * m') (e + e'), 0)
    | _, _ => if a.isZero || b.isZero then (.nan false false, fNV) else (.inf (xorNeg a b), 0)

def execVfdot (w : VWord) (s : State) : Host.Outcome State Fault Refusal :=
  vecRed (α := FVal) [w.va, w.vb] w
    { leaf := fun k e => dotLeaf (velf w k w.va e) (velf w k w.vb e)
      node := fun a b => let (c, fl) := fAdd (vty w).ff (vrm w) a b; ((vty w).ff.decode c, fl)
      root := fun a => (vty w).ff.convert (vrm w) a, ident := 0 } s

/-- Integer reductions. -/
def vecIred (f : Int → Int → Int) (ident : Int) (w : VWord) (s : State) : Host.Outcome State Fault Refusal :=
  let sg := (vty w).signed
  let wd := (vty w).width
  vecRed (α := Int) [w.va] w
    { leaf := fun k e => (veli w k w.va e, 0), node := fun a b => (f a b, 0)
      root := fun a => (intOut sg false wd a, 0), ident := intOut sg false wd ident } s

def execVrsum (w : VWord) (s : State) : Host.Outcome State Fault Refusal :=
  let sg := (vty w).signed
  let wd := (vty w).width
  vecIred (fun a b => if w.fn.getLsbD 4 then clampInt (typeMin sg wd) (typeMax sg wd) (a + b) else a + b) 0 w s
def execVrmax (w : VWord) (s : State) : Host.Outcome State Fault Refusal :=
  vecIred (fun a b => if a < b then b else a) (typeMin (vty w).signed (vty w).width) w s
def execVrmin (w : VWord) (s : State) : Host.Outcome State Fault Refusal :=
  vecIred (fun a b => if b < a then b else a) (typeMax (vty w).signed (vty w).width) w s

end Sys2Proof.Machine
end

