-- ==== Sys2Proof/Machine/Dispatch.lean ====
section
/-! DEFINITION. The dispatcher: one arm for each instruction and each event, each a call of its meaning. -/

namespace Sys2Proof.Machine

/-- The meaning of an instruction or event in a state. -/
def exec (i : Instr) (s : State) : Host.Outcome State Fault Refusal :=
  match i with
  | .add rd rs1 rs2 => Sys2Proof.Machine.execAdd rd rs1 rs2 s
  | .sub rd rs1 rs2 => Sys2Proof.Machine.execSub rd rs1 rs2 s
  | .and_ rd rs1 rs2 => Sys2Proof.Machine.execAnd rd rs1 rs2 s
  | .or_ rd rs1 rs2 => Sys2Proof.Machine.execOr rd rs1 rs2 s
  | .xor rd rs1 rs2 => Sys2Proof.Machine.execXor rd rs1 rs2 s
  | .sll rd rs1 rs2 => Sys2Proof.Machine.execSll rd rs1 rs2 s
  | .srl rd rs1 rs2 => Sys2Proof.Machine.execSrl rd rs1 rs2 s
  | .sra rd rs1 rs2 => Sys2Proof.Machine.execSra rd rs1 rs2 s
  | .slt rd rs1 rs2 => Sys2Proof.Machine.execSlt rd rs1 rs2 s
  | .sltu rd rs1 rs2 => Sys2Proof.Machine.execSltu rd rs1 rs2 s
  | .mul rd rs1 rs2 => Sys2Proof.Machine.execMul rd rs1 rs2 s
  | .div rd rs1 rs2 => Sys2Proof.Machine.execDiv rd rs1 rs2 s
  | .clz rd rs1 => Sys2Proof.Machine.execClz rd rs1 s
  | .ctz rd rs1 => Sys2Proof.Machine.execCtz rd rs1 s
  | .popc rd rs1 => Sys2Proof.Machine.execPopc rd rs1 s
  | .bswap rd rs1 => Sys2Proof.Machine.execBswap rd rs1 s
  | .addi rd rs1 imm => Sys2Proof.Machine.execAddi rd rs1 imm s
  | .ori rd rs1 imm => Sys2Proof.Machine.execOri rd rs1 imm s
  | .slli rd rs1 sh => Sys2Proof.Machine.execSlli rd rs1 sh s
  | .srli rd rs1 sh => Sys2Proof.Machine.execSrli rd rs1 sh s
  | .lui rd imm => Sys2Proof.Machine.execLui rd imm s
  | .lsi rd rs1 imm => Sys2Proof.Machine.execLsi rd rs1 imm s
  | .lpc rd imm => Sys2Proof.Machine.execLpc rd imm s
  | .ldB rd rs1 off => Sys2Proof.Machine.execLdB rd rs1 off s
  | .ldH rd rs1 off => Sys2Proof.Machine.execLdH rd rs1 off s
  | .ldW rd rs1 off => Sys2Proof.Machine.execLdW rd rs1 off s
  | .ldD rd rs1 off => Sys2Proof.Machine.execLdD rd rs1 off s
  | .ldBu rd rs1 off => Sys2Proof.Machine.execLdBu rd rs1 off s
  | .ldHu rd rs1 off => Sys2Proof.Machine.execLdHu rd rs1 off s
  | .ldWu rd rs1 off => Sys2Proof.Machine.execLdWu rd rs1 off s
  | .stB rt rs1 off => Sys2Proof.Machine.execStB rt rs1 off s
  | .stH rt rs1 off => Sys2Proof.Machine.execStH rt rs1 off s
  | .stW rt rs1 off => Sys2Proof.Machine.execStW rt rs1 off s
  | .stD rt rs1 off => Sys2Proof.Machine.execStD rt rs1 off s
  | .ldS rd rs1 width sc => Sys2Proof.Machine.execLdS rd rs1 width sc s
  | .ldAcq rd rs1 width sc => Sys2Proof.Machine.execLdAcq rd rs1 width sc s
  | .stS rt rs1 width sc => Sys2Proof.Machine.execStS rt rs1 width sc s
  | .stRel rt rs1 width sc => Sys2Proof.Machine.execStRel rt rs1 width sc s
  | .ldf rd rs1 => Sys2Proof.Machine.execLdf rd rs1 s
  | .ldt rd rs1 => Sys2Proof.Machine.execLdt rd rs1 s
  | .ste rs1 rs2 => Sys2Proof.Machine.execSte rs1 rs2 s
  | .stf rs1 rs2 => Sys2Proof.Machine.execStf rs1 rs2 s
  | .tclr rs1 => Sys2Proof.Machine.execTclr rs1 s
  | .tagrd rd rs1 => Sys2Proof.Machine.execTagrd rd rs1 s
  | .fenceAcq sc => Sys2Proof.Machine.execFenceAcq sc s
  | .fenceRel sc => Sys2Proof.Machine.execFenceRel sc s
  | .fenceFull sc => Sys2Proof.Machine.execFenceFull sc s
  | .amoAdd rd rs1 rs2 z o sc => Sys2Proof.Machine.execAmoAdd rd rs1 rs2 z o sc s
  | .amoQadd rd rs1 rs2 o sc => Sys2Proof.Machine.execAmoQadd rd rs1 rs2 o sc s
  | .amoSwap rd rs1 rs2 z o sc => Sys2Proof.Machine.execAmoSwap rd rs1 rs2 z o sc s
  | .cas rd rs1 rs2 z o sc => Sys2Proof.Machine.execCas rd rs1 rs2 z o sc s
  | .beq rt rs1 off => Sys2Proof.Machine.execBeq rt rs1 off s
  | .bne rt rs1 off => Sys2Proof.Machine.execBne rt rs1 off s
  | .blt rt rs1 off => Sys2Proof.Machine.execBlt rt rs1 off s
  | .bge rt rs1 off => Sys2Proof.Machine.execBge rt rs1 off s
  | .bltu rt rs1 off => Sys2Proof.Machine.execBltu rt rs1 off s
  | .bgeu rt rs1 off => Sys2Proof.Machine.execBgeu rt rs1 off s
  | .jal off => Sys2Proof.Machine.execJal off s
  | .jalr rd rs1 off => Sys2Proof.Machine.execJalr rd rs1 off s
  | .jtab rt rs1 len dflt => Sys2Proof.Machine.execJtab rt rs1 len dflt s
  | .loop rs1 stm len => Sys2Proof.Machine.execLoop rs1 stm len s
  | .rot => Sys2Proof.Machine.execRot s
  | .lbrk => Sys2Proof.Machine.execLbrk s
  | .lcrd rd => Sys2Proof.Machine.execLcrd rd s
  | .lcwr rs1 => Sys2Proof.Machine.execLcwr rs1 s
  | .psetEq pd rs1 rs2 => Sys2Proof.Machine.execPsetEq pd rs1 rs2 s
  | .pand pd pa pb => Sys2Proof.Machine.execPand pd pa pb s
  | .pmov pd pa => Sys2Proof.Machine.execPmov pd pa s
  | .wins wd rs1 pos len => Sys2Proof.Machine.execWins wd rs1 pos len s
  | .wmov wa xj => Sys2Proof.Machine.execWmov wa xj s
  | .wrd xj wa => Sys2Proof.Machine.execWrd xj wa s
  | .wcpy wa wj => Sys2Proof.Machine.execWcpy wa wj s
  | .wtmpl wd idx => Sys2Proof.Machine.execWtmpl wd idx s
  | .emit q pd ws => Sys2Proof.Machine.execEmit q pd ws s
  | .emitt q pd idx => Sys2Proof.Machine.execEmitt q pd idx s
  | .qstat rd q => Sys2Proof.Machine.execQstat rd q s
  | .tkpush q => Sys2Proof.Machine.execTkpush q s
  | .tkpop q => Sys2Proof.Machine.execTkpop q s
  | .sset sd rs1 fld => Sys2Proof.Machine.execSset sd rs1 fld s
  | .sget rd ss fld => Sys2Proof.Machine.execSget rd ss fld s
  | .scpy sd ss => Sys2Proof.Machine.execScpy sd ss s
  | .sclr sd => Sys2Proof.Machine.execSclr sd s
  | .mark qs => Sys2Proof.Machine.execMark qs s
  | .join qs => Sys2Proof.Machine.execJoin qs s
  | .bar lvl slot => Sys2Proof.Machine.execBar lvl slot s
  | .waitCyc rs1 => Sys2Proof.Machine.execWaitCyc rs1 s
  | .waitGtc rs1 => Sys2Proof.Machine.execWaitGtc rs1 s
  | .crr rd num => Sys2Proof.Machine.execCrr rd num s
  | .crw num rs1 => Sys2Proof.Machine.execCrw num rs1 s
  | .spawn strand rs1 => Sys2Proof.Machine.execSpawn strand rs1 s
  | .exit => Sys2Proof.Machine.execExit s
  | .yield => Sys2Proof.Machine.execYield s
  | .nop => Sys2Proof.Machine.execNop s
  | .start rs1 => Sys2Proof.Machine.execStart rs1 s
  | .ilock => Sys2Proof.Machine.execIlock s
  | .fret verdict => Sys2Proof.Machine.execFret verdict s
  | .vnop h => Sys2Proof.Machine.execVnop h s
  | .vmov w => Sys2Proof.Machine.execVmov w s
  | .vsplat w => Sys2Proof.Machine.execVsplat w s
  | .vxrd w => Sys2Proof.Machine.execVxrd w s
  | .vxclr w => Sys2Proof.Machine.execVxclr w s
  | .vfadd w => Sys2Proof.Machine.execVfadd w s
  | .vfsub w => Sys2Proof.Machine.execVfsub w s
  | .vfmul w => Sys2Proof.Machine.execVfmul w s
  | .vfma w => Sys2Proof.Machine.execVfma w s
  | .vfms w => Sys2Proof.Machine.execVfms w s
  | .vfnma w => Sys2Proof.Machine.execVfnma w s
  | .vfdiv w => Sys2Proof.Machine.execVfdiv w s
  | .vfsqrt w => Sys2Proof.Machine.execVfsqrt w s
  | .vfmin w => Sys2Proof.Machine.execVfmin w s
  | .vfmax w => Sys2Proof.Machine.execVfmax w s
  | .vfabs w => Sys2Proof.Machine.execVfabs w s
  | .vfneg w => Sys2Proof.Machine.execVfneg w s
  | .vfexp2 w => Sys2Proof.Machine.execVfexp2 w s
  | .vflog2 w => Sys2Proof.Machine.execVflog2 w s
  | .vfrsqrt w => Sys2Proof.Machine.execVfrsqrt w s
  | .vfrcp w => Sys2Proof.Machine.execVfrcp w s
  | .vadd w => Sys2Proof.Machine.execVadd w s
  | .vsub w => Sys2Proof.Machine.execVsub w s
  | .vmul w => Sys2Proof.Machine.execVmul w s
  | .vmulh w => Sys2Proof.Machine.execVmulh w s
  | .vmad w => Sys2Proof.Machine.execVmad w s
  | .vmin w => Sys2Proof.Machine.execVmin w s
  | .vmax w => Sys2Proof.Machine.execVmax w s
  | .vabs w => Sys2Proof.Machine.execVabs w s
  | .vand w => Sys2Proof.Machine.execVand w s
  | .vor w => Sys2Proof.Machine.execVor w s
  | .vxor w => Sys2Proof.Machine.execVxor w s
  | .vsll w => Sys2Proof.Machine.execVsll w s
  | .vsrl w => Sys2Proof.Machine.execVsrl w s
  | .vsra w => Sys2Proof.Machine.execVsra w s
  | .vpopc w => Sys2Proof.Machine.execVpopc w s
  | .vfcmp w => Sys2Proof.Machine.execVfcmp w s
  | .vcmp w => Sys2Proof.Machine.execVcmp w s
  | .vsel w => Sys2Proof.Machine.execVsel w s
  | .vclass w => Sys2Proof.Machine.execVclass w s
  | .vmand w => Sys2Proof.Machine.execVmand w s
  | .vmor w => Sys2Proof.Machine.execVmor w s
  | .vmxor w => Sys2Proof.Machine.execVmxor w s
  | .vmnot w => Sys2Proof.Machine.execVmnot w s
  | .vmpopc w => Sys2Proof.Machine.execVmpopc w s
  | .vcvt w => Sys2Proof.Machine.execVcvt w s
  | .vcvti w => Sys2Proof.Machine.execVcvti w s
  | .vcvtf w => Sys2Proof.Machine.execVcvtf w s
  | .vpack w => Sys2Proof.Machine.execVpack w s
  | .vunpk w => Sys2Proof.Machine.execVunpk w s
  | .vperm w => Sys2Proof.Machine.execVperm w s
  | .vrot w => Sys2Proof.Machine.execVrot w s
  | .vslide w => Sys2Proof.Machine.execVslide w s
  | .vzip w => Sys2Proof.Machine.execVzip w s
  | .vunzip w => Sys2Proof.Machine.execVunzip w s
  | .vbcast w => Sys2Proof.Machine.execVbcast w s
  | .vcmul w => Sys2Proof.Machine.execVcmul w s
  | .vcmac w => Sys2Proof.Machine.execVcmac w s
  | .vconj w => Sys2Proof.Machine.execVconj w s
  | .vbfly2 w => Sys2Proof.Machine.execVbfly2 w s
  | .vbfly4 w => Sys2Proof.Machine.execVbfly4 w s
  | .vtwid w => Sys2Proof.Machine.execVtwid w s
  | .vrevb w => Sys2Proof.Machine.execVrevb w s
  | .vfsum w => Sys2Proof.Machine.execVfsum w s
  | .vfrmax w => Sys2Proof.Machine.execVfrmax w s
  | .vfrmin w => Sys2Proof.Machine.execVfrmin w s
  | .vfdot w => Sys2Proof.Machine.execVfdot w s
  | .vrsum w => Sys2Proof.Machine.execVrsum w s
  | .vrmax w => Sys2Proof.Machine.execVrmax w s
  | .vrmin w => Sys2Proof.Machine.execVrmin w s
  | .vld w => Sys2Proof.Machine.execVld w s
  | .vst w => Sys2Proof.Machine.execVst w s
  | .vldf w => Sys2Proof.Machine.execVldf w s
  | .vldt w => Sys2Proof.Machine.execVldt w s
  | .vste w => Sys2Proof.Machine.execVste w s
  | .vstf w => Sys2Proof.Machine.execVstf w s
  | .vgath w => Sys2Proof.Machine.execVgath w s
  | .vscat w => Sys2Proof.Machine.execVscat w s
  | .vldm w => Sys2Proof.Machine.execVldm w s
  | .vstm w => Sys2Proof.Machine.execVstm w s
  | .mnop h => Sys2Proof.Machine.execMnop h s
  | .mldb w => Sys2Proof.Machine.execMldb w s
  | .mldbG w => Sys2Proof.Machine.execMldbG w s
  | .mldbp w => Sys2Proof.Machine.execMldbp w s
  | .mma w => Sys2Proof.Machine.execMma w s
  | .mmaG w => Sys2Proof.Machine.execMmaG w s
  | .mmap w => Sys2Proof.Machine.execMmap w s
  | .mmapG w => Sys2Proof.Machine.execMmapG w s
  | .mmat w => Sys2Proof.Machine.execMmat w s
  | .mmatG w => Sys2Proof.Machine.execMmatG w s
  | .mzero w => Sys2Proof.Machine.execMzero w s
  | .manch w => Sys2Proof.Machine.execManch w s
  | .movclr w => Sys2Proof.Machine.execMovclr w s
  | .mtrap w => Sys2Proof.Machine.execMtrap w s
  | .mstat w => Sys2Proof.Machine.execMstat w s
  | .mshift w => Sys2Proof.Machine.execMshift w s
  | .mdrn w => Sys2Proof.Machine.execMdrn w s
  | .mdrnMx w => Sys2Proof.Machine.execMdrnMx w s
  | .madd w => Sys2Proof.Machine.execMadd w s
  | .msave w => Sys2Proof.Machine.execMsave w s
  | .mrest w => Sys2Proof.Machine.execMrest w s
  | .mmov w => Sys2Proof.Machine.execMmov w s
  | .gnop h => Sys2Proof.Machine.execGnop h s
  | .gseed w => Sys2Proof.Machine.execGseed w s
  | .gscope w => Sys2Proof.Machine.execGscope w s
  | .gkind w => Sys2Proof.Machine.execGkind w s
  | .gorig w => Sys2Proof.Machine.execGorig w s
  | .gfreq w => Sys2Proof.Machine.execGfreq w s
  | .gparm w => Sys2Proof.Machine.execGparm w s
  | .gload w => Sys2Proof.Machine.execGload w s
  | .gsave w => Sys2Proof.Machine.execGsave w s
  | .gfill w => Sys2Proof.Machine.execGfill w s
  | .gvec w => Sys2Proof.Machine.execGvec w s
  | .gdraw w => Sys2Proof.Machine.execGdraw w s
  | .gskip w => Sys2Proof.Machine.execGskip w s
  | .gclr w => Sys2Proof.Machine.execGclr w s
  | .xnop h => Sys2Proof.Machine.execXnop h s
  | .xcpy w => Sys2Proof.Machine.execXcpy w s
  | .xcpyc w => Sys2Proof.Machine.execXcpyc w s
  | .xfill w => Sys2Proof.Machine.execXfill w s
  | .xgath w => Sys2Proof.Machine.execXgath w s
  | .xscat w => Sys2Proof.Machine.execXscat w s
  | .xtab w => Sys2Proof.Machine.execXtab w s
  | .xdec w => Sys2Proof.Machine.execXdec w s
  | .xamo w => Sys2Proof.Machine.execXamo w s
  | .xcas w => Sys2Proof.Machine.execXcas w s
  | .xste w => Sys2Proof.Machine.execXste w s
  | .xstf w => Sys2Proof.Machine.execXstf w s
  | .xldf w => Sys2Proof.Machine.execXldf w s
  | .xtclr w => Sys2Proof.Machine.execXtclr w s
  | .xget w => Sys2Proof.Machine.execXget w s
  | .xput w => Sys2Proof.Machine.execXput w s
  | .xgetc w => Sys2Proof.Machine.execXgetc w s
  | .xputc w => Sys2Proof.Machine.execXputc w s
  | .xbar w => Sys2Proof.Machine.execXbar w s
  | .xseq w => Sys2Proof.Machine.execXseq w s
  | .illegalCWord w => Sys2Proof.Machine.execIllegalCWord w s
  | .illegalEWord q w => Sys2Proof.Machine.execIllegalEWord q w s
  | .waitTargetReached strand => Sys2Proof.Machine.execWaitTargetReached strand s
  | .watchTaken strand => Sys2Proof.Machine.execWatchTaken strand s
  | .taggedWaitTimeout strand => Sys2Proof.Machine.execTaggedWaitTimeout strand s
  | .memoryAccessPerformed strand => Sys2Proof.Machine.execMemoryAccessPerformed strand s
  | .scheduleMiss q => Sys2Proof.Machine.execScheduleMiss q s
  | .sqPoll q => Sys2Proof.Machine.execSqPoll q s
  | .packetReread q => Sys2Proof.Machine.execPacketReread q s
  | .msixCoalesceExpiry r => Sys2Proof.Machine.execMsixCoalesceExpiry r s
  | .prologueLimit conductor => Sys2Proof.Machine.execPrologueLimit conductor s
  | .launchStart task => Sys2Proof.Machine.execLaunchStart task s
  | .vstepTransitionComplete cluster => Sys2Proof.Machine.execVstepTransitionComplete cluster s
  | .launchEnd task => Sys2Proof.Machine.execLaunchEnd task s
  | .longLatencyResult strand => Sys2Proof.Machine.execLongLatencyResult strand s
  | .min_ rd rs1 rs2 => Sys2Proof.Machine.execMin rd rs1 rs2 s
  | .max_ rd rs1 rs2 => Sys2Proof.Machine.execMax rd rs1 rs2 s
  | .minu rd rs1 rs2 => Sys2Proof.Machine.execMinu rd rs1 rs2 s
  | .maxu rd rs1 rs2 => Sys2Proof.Machine.execMaxu rd rs1 rs2 s
  | .mulh rd rs1 rs2 => Sys2Proof.Machine.execMulh rd rs1 rs2 s
  | .mulhu rd rs1 rs2 => Sys2Proof.Machine.execMulhu rd rs1 rs2 s
  | .mulhsu rd rs1 rs2 => Sys2Proof.Machine.execMulhsu rd rs1 rs2 s
  | .divu rd rs1 rs2 => Sys2Proof.Machine.execDivu rd rs1 rs2 s
  | .rem rd rs1 rs2 => Sys2Proof.Machine.execRem rd rs1 rs2 s
  | .remu rd rs1 rs2 => Sys2Proof.Machine.execRemu rd rs1 rs2 s
  | .andi rd rs1 imm => Sys2Proof.Machine.execAndi rd rs1 imm s
  | .xori rd rs1 imm => Sys2Proof.Machine.execXori rd rs1 imm s
  | .srai rd rs1 sh => Sys2Proof.Machine.execSrai rd rs1 sh s
  | .slti rd rs1 imm => Sys2Proof.Machine.execSlti rd rs1 imm s
  | .sltiu rd rs1 imm => Sys2Proof.Machine.execSltiu rd rs1 imm s
  | .amoSmin rd rs1 rs2 z o sc => Sys2Proof.Machine.execAmoSmin rd rs1 rs2 z o sc s
  | .amoSmax rd rs1 rs2 z o sc => Sys2Proof.Machine.execAmoSmax rd rs1 rs2 z o sc s
  | .amoUmin rd rs1 rs2 z o sc => Sys2Proof.Machine.execAmoUmin rd rs1 rs2 z o sc s
  | .amoUmax rd rs1 rs2 z o sc => Sys2Proof.Machine.execAmoUmax rd rs1 rs2 z o sc s
  | .amoAnd rd rs1 rs2 z o sc => Sys2Proof.Machine.execAmoAnd rd rs1 rs2 z o sc s
  | .amoOr rd rs1 rs2 z o sc => Sys2Proof.Machine.execAmoOr rd rs1 rs2 z o sc s
  | .amoXor rd rs1 rs2 z o sc => Sys2Proof.Machine.execAmoXor rd rs1 rs2 z o sc s
  | .psetNe pd rs1 rs2 => Sys2Proof.Machine.execPsetNe pd rs1 rs2 s
  | .psetLt pd rs1 rs2 => Sys2Proof.Machine.execPsetLt pd rs1 rs2 s
  | .psetGe pd rs1 rs2 => Sys2Proof.Machine.execPsetGe pd rs1 rs2 s
  | .psetLtu pd rs1 rs2 => Sys2Proof.Machine.execPsetLtu pd rs1 rs2 s
  | .psetGeu pd rs1 rs2 => Sys2Proof.Machine.execPsetGeu pd rs1 rs2 s
  | .por pd pa pb => Sys2Proof.Machine.execPor pd pa pb s
  | .pxor pd pa pb => Sys2Proof.Machine.execPxor pd pa pb s
  | .pandn pd pa pb => Sys2Proof.Machine.execPandn pd pa pb s
  | .watchArm n v => Sys2Proof.Machine.execWatchArm n v s
  | .watchDisarm n v => Sys2Proof.Machine.execWatchDisarm n v s
  | .blockEnd => Sys2Proof.Machine.execBlockEnd s
  | .faultStrandStart => Sys2Proof.Machine.execFaultStrandStart s
  | .vectorWordCompletion => Sys2Proof.Machine.execVectorWordCompletion s
  | .vectorRemoteAccessDone => Sys2Proof.Machine.execVectorRemoteAccessDone s
  | .matrixCheckPoint => Sys2Proof.Machine.execMatrixCheckPoint s
  | .matrixLanding => Sys2Proof.Machine.execMatrixLanding s
  | .accumulatorScrubError place => Sys2Proof.Machine.execAccumulatorScrubError place s
  | .generatorWriteLanding => Sys2Proof.Machine.execGeneratorWriteLanding s
  | .fillElementWrite => Sys2Proof.Machine.execFillElementWrite s
  | .fillComplete => Sys2Proof.Machine.execFillComplete s
  | .copyPiecePerformed => Sys2Proof.Machine.execCopyPiecePerformed s
  | .copyWordComplete => Sys2Proof.Machine.execCopyWordComplete s
  | .taggedResend => Sys2Proof.Machine.execTaggedResend s
  | .taggedOpArrival => Sys2Proof.Machine.execTaggedOpArrival s
  | .atomicAtPort => Sys2Proof.Machine.execAtomicAtPort s
  | .raceSampleReplace target oldLine newLine => Sys2Proof.Machine.execRaceSampleReplace target oldLine newLine s
  | .sqDoorbell q => Sys2Proof.Machine.execSqDoorbell q s
  | .loadImage q image addr size vbase => Sys2Proof.Machine.execLoadImage q image addr size vbase s
  | .submitGraph q p => Sys2Proof.Machine.execSubmitGraph q p s
  | .cancel q tag node => Sys2Proof.Machine.execCancel q tag node s
  | .wake q tag node lid off value => Sys2Proof.Machine.execWake q tag node lid off value s
  | .nopPacket q => Sys2Proof.Machine.execNopPacket q s
  | .tornClear q => Sys2Proof.Machine.execTornClear q s
  | .queueEnable q v => Sys2Proof.Machine.execQueueEnable q v s
  | .queueDisable q v => Sys2Proof.Machine.execQueueDisable q v s
  | .ringEnable r v => Sys2Proof.Machine.execRingEnable r v s
  | .ringDisable r v => Sys2Proof.Machine.execRingDisable r v s
  | .ringTailWrite r v => Sys2Proof.Machine.execRingTailWrite r v s
  | .hostBarAccess a => Sys2Proof.Machine.execHostBarAccess a s
  | .compatEnable v => Sys2Proof.Machine.execCompatEnable v s
  | .prgResponse tag failure => Sys2Proof.Machine.execPrgResponse tag failure s
  | .atsInvalidation page => Sys2Proof.Machine.execAtsInvalidation page s
  | .featureAbsentRepark task => Sys2Proof.Machine.execFeatureAbsentRepark task s
  | .prologueStart => Sys2Proof.Machine.execPrologueStart s
  | .agingTick => Sys2Proof.Machine.execAgingTick s
  | .fabricArrivalMessage fgroup slot => Sys2Proof.Machine.execFabricArrivalMessage fgroup slot s
  | .fabricAbort fgroup fidx => Sys2Proof.Machine.execFabricAbort fgroup fidx s
  | .dieFailure die => Sys2Proof.Machine.execDieFailure die s
  | .bursarSample => Sys2Proof.Machine.execBursarSample s
  | .freezeComplete task => Sys2Proof.Machine.execFreezeComplete task s
  | .imageSaved task => Sys2Proof.Machine.execImageSaved task s
  | .restoreComplete task => Sys2Proof.Machine.execRestoreComplete task s
  | .haltComplete task => Sys2Proof.Machine.execHaltComplete task s
  | .gatingTurn => Sys2Proof.Machine.execGatingTurn s
  | .dieUngated die => Sys2Proof.Machine.execDieUngated die s
  | .selfRefreshEnter stack => Sys2Proof.Machine.execSelfRefreshEnter stack s
  | .selfRefreshExit stack => Sys2Proof.Machine.execSelfRefreshExit stack s
  | .curveSubmit v => Sys2Proof.Machine.execCurveSubmit v s
  | .curveDecision => Sys2Proof.Machine.execCurveDecision s
  | .curveActivate => Sys2Proof.Machine.execCurveActivate s
  | .curveExpire => Sys2Proof.Machine.execCurveExpire s
  | .seqloWrite v => Sys2Proof.Machine.execSeqloWrite v s
  | .bursarLock v => Sys2Proof.Machine.execBursarLock v s
  | .rtSwitch => Sys2Proof.Machine.execRtSwitch s
  | .rtCopy => Sys2Proof.Machine.execRtCopy s
  | .rtSwitchDrained => Sys2Proof.Machine.execRtSwitchDrained s
  | .rtActiveWrite entry dw v => Sys2Proof.Machine.execRtActiveWrite entry dw v s
  | .rtShadowWrite entry dw v => Sys2Proof.Machine.execRtShadowWrite entry dw v s
  | .partNextWrite v => Sys2Proof.Machine.execPartNextWrite v s
  | .shootdownAll => Sys2Proof.Machine.execShootdownAll s
  | .shootdownAsn asn => Sys2Proof.Machine.execShootdownAsn asn s
  | .shootdownRange asn => Sys2Proof.Machine.execShootdownRange asn s
  | .shootdownComplete => Sys2Proof.Machine.execShootdownComplete s
  | .hbmRetire stack channel => Sys2Proof.Machine.execHbmRetire stack channel s
  | .walkComplete => Sys2Proof.Machine.execWalkComplete s
  | .foldDelivered => Sys2Proof.Machine.execFoldDelivered s
  | .volleyRequest r => Sys2Proof.Machine.execVolleyRequest r s
  | .volleyAck id error value => Sys2Proof.Machine.execVolleyAck id error value s
  | .disciplineSend => Sys2Proof.Machine.execDisciplineSend s
  | .disciplineReceive port offset => Sys2Proof.Machine.execDisciplineReceive port offset s
  | .disciplineTimeout => Sys2Proof.Machine.execDisciplineTimeout s
  | .ppsEdge => Sys2Proof.Machine.execPpsEdge s
  | .ppsTimeout => Sys2Proof.Machine.execPpsTimeout s
  | .linkDown port => Sys2Proof.Machine.execLinkDown port s
  | .reroute port => Sys2Proof.Machine.execReroute port s
  | .destinationUnreachable dev => Sys2Proof.Machine.execDestinationUnreachable dev s
  | .volleyLock v => Sys2Proof.Machine.execVolleyLock v s
  | .managementMessage exp route => Sys2Proof.Machine.execManagementMessage exp route s
  | .waitOpenThreshold who => Sys2Proof.Machine.execWaitOpenThreshold who s
  | .watchStopFreeze => Sys2Proof.Machine.execWatchStopFreeze s
  | .stopNow task lid => Sys2Proof.Machine.execStopNow task lid s
  | .stopAtCycle task lid => Sys2Proof.Machine.execStopAtCycle task lid s
  | .stopResume task lid => Sys2Proof.Machine.execStopResume task lid s
  | .stopCycleReached => Sys2Proof.Machine.execStopCycleReached s
  | .debugRead => Sys2Proof.Machine.execDebugRead s
  | .debugWrite v => Sys2Proof.Machine.execDebugWrite v s
  | .sideTableClear => Sys2Proof.Machine.execSideTableClear s
  | .sideTableClearDone => Sys2Proof.Machine.execSideTableClearDone s
  | .mailboxMessage src dst body => Sys2Proof.Machine.execMailboxMessage src dst body s
  | .firmwareCommit => Sys2Proof.Machine.execFirmwareCommit s
  | .recoveryCommit => Sys2Proof.Machine.execRecoveryCommit s
  | .trialExpiry => Sys2Proof.Machine.execTrialExpiry s
  | .coreWatchdog mc => Sys2Proof.Machine.execCoreWatchdog mc s
  | .deviceReset => Sys2Proof.Machine.execDeviceReset s
  | .dieReset dies => Sys2Proof.Machine.execDieReset dies s
  | .dieSelfTestDone die pass => Sys2Proof.Machine.execDieSelfTestDone die pass s
  | .powerOn => Sys2Proof.Machine.execPowerOn s
  | .resetPin => Sys2Proof.Machine.execResetPin s
  | .thermalTrip => Sys2Proof.Machine.execThermalTrip s
  | .attestRequest v => Sys2Proof.Machine.execAttestRequest v s
  | .attestReport => Sys2Proof.Machine.execAttestReport s
  | .ethernetDatagram src payload => Sys2Proof.Machine.execEthernetDatagram src payload s
  | .railStale rail => Sys2Proof.Machine.execRailStale rail s
  | .registerWrite off v => Sys2Proof.Machine.execRegisterWrite off v s
  | .instructionFetchFault => Sys2Proof.Machine.execInstructionFetchFault s
  | .configurationWrite atom pri ats => Sys2Proof.Machine.execConfigurationWrite atom pri ats s
  | .pseudoChannelFailure stack channel => Sys2Proof.Machine.execPseudoChannelFailure stack channel s
  | .railReading rail mw mv => Sys2Proof.Machine.execRailReading rail mw mv s
  | .linkUp port => Sys2Proof.Machine.execLinkUp port s

end Sys2Proof.Machine
end

