-- ==== Sys2Proof/Machine/Schedule.lean ====
section
/-! DEFINITION. Who acts next: one turn of the agenda, or, with an empty agenda, the default schedule (due events, engine
issues, the conductors, the hub's own events, then the clocks). -/

namespace Sys2Proof.Machine

noncomputable section

abbrev Out := Host.Outcome State Fault Refusal

/-- Go on from a next state. -/
def andThen (o : Out) (f : State → Out) : Out :=
  match o with
  | .next s => f s
  | .fault r => .fault r
  | .refused r => .refused r

/-! ### The conductor's turn (R19, R20, R187) -/

/-- The core's clock runs: no vstep transition of its cluster (R45). -/
def clockRuns (s : State) (c : Nat) : Bool := isPrologue c || (getCluster s (clusterOf c)).moving.isNone

/-- The conductor of a core may issue in this cycle. -/
def issueReady (s : State) (c : Nat) : Bool :=
  issuing (getCore s c) (cycOf s c) && decide ((getCore s c).slotAt ≤ cycOf s c) && clockRuns s c

/-- Make strand `n` of core `c` the one that issues, beginning a block where its last one ended (R20). -/
def prepIssue (s : State) (c : Nat) (d : Bool) (n : Nat) : State :=
  let k := getCore s c
  let t := getStrand k n
  let t := if (decide (n = k.cs) && blockLasts k) || isPrologue c then t else { t with block := 0 }
  setCore { s with cur := c, defer := d } c { setStrand k n t with cs := n, ended := false }

/-- The word at the current strand's pc is fetched and runs. While the strand's access is in flight its next instruction
waits (R165). -/
def runFetched (s : State) : Out :=
  let c := s.cur
  let pc := (cst s).pc
  if (cst s).flight.isSome then .next (waitFor s (cc s).cs (.result []))
  else if isPrologue c && decide (4096 ≤ (cst s).block) then exec (.prologueLimit (BitVec.ofNat 2 (c - 3072))) s
  else if asksWalk s c pc then .next (waitFor (requestWalk s (cc s).cs pc) (cc s).cs .walk)
  else
    match fetchedWord (cst s), farFetch s c pc with
    | some w, _ => exec (decodeC w) s
    | none, some (s', pa) => .next (sendFetch s' (cc s).cs pa)
    | none, none =>
      match fetchAt s c pc with
      | (_, .error _) => exec .instructionFetchFault s
      | (s', .ok w) => exec (decodeC w) s'

def issueTurn (s : State) (c : Nat) (d : Bool) : Out :=
  if issueReady s c then
    match pickStrand s c with
    | none => .next s
    | some n => runFetched (prepIssue s c d n)
  else .next s

/-! ### An engine's turn -/

/-- The engine may issue the word at the head of its queue: the core runs, no hold, not stopped (R48). -/
def engineReady (s : State) (c q : Nat) : Bool :=
  let k := getCore s c
  issuing k (cycOf s c) && !inHold k (cycOf s c) && !(getEng k q).stop && !(queued k q).isEmpty && clockRuns s c && !isPrologue c

/-- The word at the head of a queue. -/
def headBits (k : Core) (q : Nat) : W64 := ((queued k q).head?.map (·.bits)).getD 0

/-- The word at the head of queue `q` is tried. -/
def engineRun (s : State) (c : Nat) (q : Queue) : Out :=
  if engineReady s c q.code.toNat then
    exec (decodeE q (headBits (getCore s c) q.code.toNat)) { s with cur := c }
  else .next s

/-- The word reads memory in its issue cycle: a vector load, or gfreq and gload. -/
def headReads (k : Core) (q : Queue) : Bool :=
  let op := (headBits k q.code.toNat).extractLsb' 56 8
  match q with
  | .v => [0x80#8, 0x82, 0x83, 0x86, 0x88].contains op
  | .g => [0x14#8, 0x16].contains op
  | .m | .x => false

/-- In a timed section a word that reads issues at the end of its cycle, behind every write of the cycle (R283). -/
def engineTurn (s : State) (c : Nat) (q : Queue) : Out :=
  if (getCore s c).timed && headReads (getCore s c) q then .next s else engineRun s c q

/-! ### Events -/

/-- Events of a core's own strands and engines: none happens while a park or a stop has frozen the core (R221, R507). -/
def coreEvent (i : Instr) : Bool :=
  match i with
  | .longLatencyResult _ | .memoryAccessPerformed _ | .taggedWaitTimeout _ | .waitTargetReached _ | .watchTaken _
  | .faultStrandStart | .vectorWordCompletion | .vectorRemoteAccessDone | .matrixCheckPoint | .matrixLanding
  | .generatorWriteLanding | .fillElementWrite | .fillComplete | .copyPiecePerformed | .copyWordComplete | .taggedResend
  | .taggedOpArrival | .atomicAtPort => true
  | _ => false

/-- Writes to registers outside the management block: ignored in recovery (R518). -/
def blockWrite (i : Instr) : Bool :=
  match i with
  | .sqDoorbell _ | .tornClear _ | .queueEnable _ _ | .queueDisable _ _ | .ringEnable _ _ | .ringDisable _ _
  | .ringTailWrite _ _ | .compatEnable _ | .curveSubmit _ | .seqloWrite _ | .bursarLock _ | .rtSwitch | .rtCopy
  | .rtActiveWrite _ _ _ | .rtShadowWrite _ _ _ | .partNextWrite _ | .shootdownAll | .shootdownAsn _ | .shootdownRange _
  | .hbmRetire _ _ | .volleyLock _ | .stopNow _ _ | .stopAtCycle _ _ | .stopResume _ _ | .debugRead | .debugWrite _
  | .sideTableClear => true
  | _ => false

/-- What firmware of the management cores does: none of it in recovery (R513, R518). -/
def firmwareAct (i : Instr) : Bool :=
  match i with
  | .reroute _ | .managementMessage _ _ | .railStale _ | .destinationUnreachable _ | .attestReport | .mailboxMessage _ _ _ => true
  | _ => false

def eventTurn (s : State) (c : Nat) (i : Instr) : Out :=
  if coreEvent i && (getCore s c).run == .frozen then .next s
  else if (blockWrite i || firmwareAct i) && s.mg.recovery then .next s
  else exec i { s with cur := c }

/-- A stop whose moment has come is taken before anything else issues (R505, R507). -/
def settleStops (s : State) : Out :=
  andThen (if s.pro.freeze.isSome then exec .watchStopFreeze s else .next s) fun s =>
    if stopDue s then exec .stopCycleReached s else .next s

/-- Fold over a list of turns, stopping at the first fault or refusal. -/
def runAll (f : State → Nat → Out) : List Nat → State → Out
  | [], s => .next s
  | a :: as, s => andThen (f s a) (runAll f as)

/-- Events of a core whose moment has come: results, counters reached, tag timeouts. -/
def coreDue (s : State) (c : Nat) : List Instr :=
  let k := getCore s c
  let now := cycOf s c
  (List.range 4).flatMap fun n =>
    let t := getStrand k n
    let b : BitVec 2 := BitVec.ofNat 2 n
    (if t.pend.any fun (_, _, at_) => decide (at_ ≤ now) then [Instr.longLatencyResult b] else [])
    ++ (match t.run, t.flight, t.wait with
        | .waiting, _, some (.cyc v) => if v.toNat ≤ schedCyc s c then [.waitTargetReached b] else []
        | .waiting, _, some (.gtc v) => if v.toNat ≤ s.gtc then [.waitTargetReached b] else []
        | .waiting, none, some (.tag _ _ l _) => if l ≤ now then [.taggedWaitTimeout b] else []
        | _, _, _ => [])

/-- Events of a core's engines whose cycle has come (R239, R310, R334). -/
def engineDue (s : State) (c : Nat) : List Instr :=
  let k := getCore s c
  let now := cycOf s c
  let due (i : Issued) : Bool := !i.faulted && (match i.due with | some d => decide (d ≤ now) | none => false)
  let fill := match theFill k with
    | some (x, f) => x.i.due.isSome && decide (f.next < fillReached x.i.t now f)
    | none => false
  (if k.vec.fly.any fun x => due x.i then [Instr.vectorWordCompletion] else [])
  ++ (if k.gen.fly.any (genDue now) then [Instr.generatorWriteLanding] else [])
  ++ (if fill then [Instr.fillElementWrite] else [])
  ++ (if k.gen.fly.any (fillOver now) || fill then [Instr.fillComplete] else [])
  ++ (if k.mat.fly.any fun x => (rowDue now x && x.locs.isNone) || (due x.i && (!mStores x.p.kind || decide (x.cps ≤ x.next)))
      then [Instr.matrixLanding] else [])

/-- Run the due events of a core, one after another. -/
def runDue (s : State) (c : Nat) : Out :=
  (coreDue s c ++ engineDue s c).foldl (fun o i => andThen o fun s => eventTurn s c i) (.next s)

/-- The order in which a cycle's words are tried: those that read come last (R283). -/
def timedOrder (k : Core) : List Queue :=
  let l := [Queue.v, .m, .g, .x]
  l.filter (fun q => !headReads k q) ++ l.filter (headReads k)

/-- Every queue of a core in a timed section tries its word: it issues in this cycle or misses (R43). -/
def timedTurns (s : State) (c : Nat) : Out :=
  if (getCore s c).timed then
    (timedOrder (getCore s c)).foldl (fun o q => andThen o fun s => engineRun s c q) (.next s)
  else .next s

/-- The check points of this cycle read what the cycle has written (R283, R285). -/
def pointTurn (s : State) (c : Nat) : Out :=
  if (getCore s c).run != .frozen && (getCore s c).mat.fly.any (pointDue (cycOf s c)) then .next (matPointsNow { s with cur := c })
  else .next s

/-- The cores of a cluster that are in use. -/
def clusterCores (s : State) (k : Nat) : List Nat :=
  (s.cores.filter fun (c, _) => !isPrologue c && decide (clusterOf c = k)).map (·.1)

/-- A frozen cluster's clock does not count (R221, R507), nor one in a transition, nor that of a die without supply. -/
def clusterTicks (s : State) (k : Nat) : Bool :=
  (getCluster s k).moving.isNone && dieUsable s (k / 2) && (clusterCores s k).all fun c => (getCore s c).run != .frozen

/-- The core clock in MHz, by vstep (R445). -/
def vstepMHz (v : Nat) : Nat := [2100, 1950, 1800, 1650, 1500, 1350, 1200, 1050, 900, 800, 700, 600].getD v 600

/-- A conductor that has not used its slot issues before its cycle ends: a ready strand waits for no more than the blocks of
the others (R19, R21). -/
def lastIssue (s : State) (c : Nat) : Out := issueTurn s c false

/-- One cycle of a cluster's clock: what it must still issue, its check points, its records, then the next cycle's events. A
stop that is due comes first: nothing issues in its cycle (R507). -/
def tickTurn (s : State) (k : Nat) : Out :=
  if 32 ≤ k then .fault .noSuchAgent
  else andThen (settleStops { s with defer := false }) fun s =>
    if clusterTicks s k then
      andThen (runAll lastIssue (clusterCores s k) s) fun s => andThen (runAll timedTurns (clusterCores s k) s) fun s =>
      andThen (runAll pointTurn (clusterCores s k) s) fun s =>
        let s := (clusterCores s k).foldl deliverRecs s
        let cl := getCluster s k
        let s := setCluster s k { cl with cyc := cl.cyc + 1, acc := cl.acc - 1000 }
        andThen (settleStops s) fun s => runAll runDue (clusterCores s k) s
    else .next s

/-- Whether the tick counter slews in this hub cycle: at most one tick added or omitted per 10 µs (R490). -/
def gtcStep (s : State) : State :=
  if s.vol.slew ≠ 0 ∧ s.vol.slewAt + 10000 ≤ s.gtc then
    let up := decide (0 < s.vol.slew)
    { s with gtc := s.gtc + (if up then 2 else 0), vol := { s.vol with slew := s.vol.slew + (if up then -1 else 1), slewAt := s.gtc } }
  else { s with gtc := s.gtc + 1 }

/-- The clusters take their share of a hub cycle. -/
def shareClock (s : State) : State :=
  { s with clusters := (List.range 32).foldl (fun t k =>
      let cl : Cluster := tget {} t k
      if clusterTicks s k then tset t k { cl with acc := cl.acc + vstepMHz cl.vstep } else t) s.clusters }

/-- The rest of the Referee's cycle, behind the ends of nodes that this hub cycle has seen: verdicts, selection, cancels,
packet fetches (R416). Released tasks take free clusters first (R464). -/
def refereeCycle (s : State) : State :=
  let s := allotRestore (takeVerdicts (ageNow s))
  let s := if s.ref.again then evaluate s else s
  fetchTurn (takeCancels s)

/-- A vstep transition stops a clock for 10 µs at most (R45). -/
def endMoves (s : State) : State :=
  { s with clusters := s.clusters.map fun (i, c) =>
      (i, match c.moving with
        | some v => if c.moveAt + 10000 ≤ s.gtc then { c with vstep := v, moving := none } else c
        | none => c) }

/-- The conductors of prologues in use. -/
def prologueCores (s : State) : List Nat := (s.cores.filter fun (c, _) => isPrologue c).map (·.1)

/-- One cycle of the hub clock: 1 ns of device time. -/
def hubTurn (s : State) : Out :=
  andThen (runAll lastIssue (prologueCores s) { s with defer := false }) fun s =>
    let s := burSettle (parkedTurn (refereeCycle s))
    let s := endMoves (shareClock (gtcStep { s with ref := { s.ref with cyc := s.ref.cyc + 1 } }))
    runAll runDue (prologueCores s) s

/-! ### The default schedule -/

/-- Accesses in flight and folds that no rule times are performed as soon as they may be (R529). -/
def openEvents (s : State) (c : Nat) : List Turn :=
  (List.range 4).flatMap fun n =>
    if (getStrand (getCore s c) n).flight.isSome then [.event c (.memoryAccessPerformed (BitVec.ofNat 2 n)), .event c (.watchTaken (BitVec.ofNat 2 n))] else []

/-- The same for the engines: words whose accesses lie outside the own scratchpad, and the copy word in progress. -/
def openWords (s : State) (c : Nat) : List Turn :=
  let k := getCore s c
  ((if (holdingWord k.vec.fly).isSome then [Instr.vectorRemoteAccessDone] else [])
  ++ (if k.gen.fly.any genHolding then [Instr.generatorWriteLanding] else [])
  ++ (if k.gen.fly.any fun x => x.fill.isSome && x.acc.isSome then [Instr.fillElementWrite, .fillComplete] else [])
  ++ (if k.mat.fly.any pointOpen then [Instr.matrixCheckPoint] else [])
  ++ (if k.mat.fly.any fun x => mStores x.p.kind && x.locs.isSome then [Instr.matrixLanding] else [])
  ++ (if k.cpy.run.isSome then [Instr.copyPiecePerformed, .atomicAtPort, .taggedOpArrival, .taggedResend, .copyWordComplete] else [])).map (.event c)

def coreTurns (s : State) (c : Nat) : List Turn :=
  (coreDue s c ++ engineDue s c).map (.event c) ++ openEvents s c ++ openWords s c ++ [.event c .faultStrandStart]
  ++ [.engine c .v, .engine c .m, .engine c .g, .engine c .x] ++ [.issue c false]

/-- An event, where its condition holds. -/
def ifDue (b : Bool) (i : Instr) : List Instr := if b then [i] else []

/-- Events of a task that has not ended. -/
def taskEvents (t : Nat) : List Instr :=
  [.launchStart t, .launchEnd t, .freezeComplete t, .imageSaved t, .restoreComplete t, .haltComplete t, .featureAbsentRepark t]

/-- Events of the queues and rings whose moment has come. -/
def linkDue (s : State) : List Instr :=
  (s.host.sq.flatMap fun (q, _) => ifDue (pollDue s q) (.sqPoll q) ++ ifDue (rereadReady s q) (.packetReread q))
  ++ (s.host.cq.flatMap fun (q, _) => ifDue (msgDue s (.cq q)) (.msixCoalesceExpiry (.cq q)))
  ++ ifDue (msgDue s .tr) (.msixCoalesceExpiry .tr)

/-- Events of the Bursar. -/
def burDue (s : State) : List Instr :=
  ifDue s.bur.deciding.isSome .curveDecision ++ ifDue (activateDue s) .curveActivate ++ ifDue (expireDue s) .curveExpire
  ++ ifDue (sampleDue s) .bursarSample ++ ifDue (gatingDue s) .gatingTurn
  ++ (List.range 16).flatMap fun d => match dieState s d with
    | .ungating _ => [Instr.dieUngated d]
    | _ => []

/-- Events of the memory manager, the fabric's time, the Proctor and the management block. -/
def restDue (s : State) : List Instr :=
  ifDue s.mm.busy .rtSwitchDrained ++ ifDue s.mm.invBusy .shootdownComplete ++ ifDue (!s.mm.walking.isEmpty) .walkComplete
  ++ ifDue (!s.pro.folds.isEmpty) .foldDelivered ++ ifDue s.pro.stbusy .sideTableClearDone
  ++ ifDue (disciplineDue s) .disciplineSend ++ ifDue (disciplineLate s) .disciplineTimeout ++ ifDue (ppsLate s) .ppsTimeout
  ++ ifDue (tooHot s) .thermalTrip ++ ifDue (trialOver s) .trialExpiry ++ ifDue s.mg.att.isSome .attestReport
  ++ (List.range 23).flatMap fun k => ifDue (railDue s k) (.railStale k)

/-- The hub's own events whose conditions its state decides. -/
def hubEvents (s : State) : List Instr :=
  ((s.ref.tasks.filter fun e => e.2.st != .ended).flatMap fun e => taskEvents e.1)
  ++ (s.clusters.flatMap fun e => ifDue e.2.moving.isSome (.vstepTransitionComplete e.1))
  ++ linkDue s ++ burDue s ++ restDue s ++ [Instr.prologueStart, .agingTick]

/-- Waits of a core to be reported open. -/
def openTurns (s : State) (c : Nat) : List Turn :=
  ((List.range 9).flatMap fun a => ifDue (openDue s c a) (.waitOpenThreshold a)).map (.event c)

def hubTurns (s : State) : List Turn := (hubEvents s).map (.event 0) ++ s.cores.flatMap fun e => openTurns s e.1

/-- The clock that is due: a cluster with a whole cycle of its own, else the hub. -/
def clockTurn (s : State) : Turn :=
  match s.clusters.find? fun (k, cl) => decide (1000 ≤ cl.acc) && clusterTicks s k with
  | some (k, _) => .tick k
  | none => .hubTick

/-- One turn. -/
def runTurn (s : State) (t : Turn) : Out :=
  match t with
  | .tick k => tickTurn s k
  | .hubTick => hubTurn s
  | .issue c d => if c < 3076 then andThen (settleStops s) fun s => issueTurn s c d else .fault .noSuchAgent
  | .engine c q => if c < 3072 then andThen (settleStops s) fun s => engineTurn { s with defer := false } c q else .fault .noSuchAgent
  | .engineLate c q => if c < 3072 then andThen (settleStops s) fun s => engineTurn { s with defer := true } c q else .fault .noSuchAgent
  | .hostMem a b => .next { s with host := { s.host with mem := tputs 0 s.host.mem a b } }
  | .temps d h => .next { s with mg := { s.mg with tempDie := d, tempHub := h } }
  | .gtcStep v => .next (stepGtc s v)
  | .flashWrite k o b => .next (updateSlot s k o b)
  | .event c i => if c < 3076 then eventTurn { s with defer := false } c i else .fault .noSuchAgent
  | .eventLate c i => if c < 3076 then eventTurn { s with defer := true } c i else .fault .noSuchAgent

/-- The first turn of a list that changes the device. -/
def firstChange (s : State) : List Turn → Option Out
  | [] => none
  | t :: ts =>
    match runTurn s t with
    | .next s' => if { s' with cur := s.cur, defer := s.defer } = s then firstChange s ts else some (.next s')
    | o => some o

/-- The default schedule: whatever can happen now, else a clock. -/
def defaultTurn (s : State) : Out :=
  match firstChange s (s.cores.flatMap (fun (c, _) => coreTurns s c) ++ hubTurns s) with
  | some o => o
  | none => runTurn s (clockTurn s)

end

end Sys2Proof.Machine
end

