-- ==== Sys2Proof/Machine/Step.lean ====
section
/-! DEFINITION. One step of the device, and how an instruction is placed to be the next one it runs. -/

namespace Sys2Proof.Machine

noncomputable section

/-- One step: the turn at the head of the agenda, or the default schedule's. -/
def step (s : State) : Host.Outcome State Fault Refusal :=
  match s.agenda with
  | t :: rest => runTurn { s with agenda := rest } t
  | [] => defaultTurn s

/-- Place a C-word (32 bits) at the pc of strand 0 of core 0, or an E-word (64 bits) at the head of the queue that
`tableQueue` names, with what fetching or issuing it needs: the core on, a translation of the page with R and X (or the
scratchpad), the word itself, and the turn on the agenda. -/
def State.withFetchWord (s : State) (nbits w : Nat) : State :=
  let k := getCore s 0
  let t := getStrand k 0
  if nbits ≤ 32 then
    let e := mkTlbE (getTask s k.task).asn t.pc 0x29 5
    let t := { t with run := .ready, wait := none, flag := none, flight := none, fetched := none }
    let k := { setStrand k 0 t with
      run := .on, cs := 0, slotAt := 0, hold := false, utlb := e :: k.utlb }
    let s := setCore s 0 k
    let s := if inLocal t.pc then writeLoc s (.scr 0 (t.pc.extractLsb' 0 21).toNat) (leBytes 4 w)
      else writeSpa s (t.pc.toNat % 65536) (leBytes 4 w)
    { s with agenda := [.issue 0 false] }
  else
    let b : W64 := BitVec.ofNat 64 w
    let q := tableQueue b
    let k := setEng { k with run := .on, hold := false } q.code.toNat
      { q := [.word { bits := b, snaps := snapshot k q.code.toNat b }] }
    let cl := getCluster s 0
    { setCluster (setCore s 0 k) 0 { cl with cyc := cl.cyc + wordIdle b + 1 } with agenda := [.engine 0 q] }

end

end Sys2Proof.Machine
end

