-- ==== Sys2Proof/Safety.lean ====
section
/-! DEFINITION. What counts as a safe state and a safe step, and when an instruction or a word may complete, in the terms
the statements use. -/

namespace Sys2Proof.Machine

/-! ### Canonical memories -/

/-- Named memory, host memory and board flash hold their canonical form: keys strictly rising, no zero byte listed. -/
def memWf (s : State) : Bool := twf 0 s.mem && twf 0 s.host.mem && twf 0 s.mg.flash

/-- The scratchpad and the registers of a core hold their canonical form. -/
def coreWf (k : Core) : Bool :=
  twf 0 k.scr && k.strands.all fun (_, t) => twf 0 t.x && (tget 0 t.x 0 == 0)

/-! ### A C-word completes -/

/-- The registers that a C-word uses await nothing, and the strand has no access in flight (R164, R165). -/
abbrev Free (s : State) (uses : List Nat) : Prop := mustWait (cst s) uses = false
/-- The current core is no prologue conductor (R417). -/
abbrev OnCore (s : State) : Prop := isPrologue s.cur = false
/-- The current strand is not the fault strand (R217). -/
abbrev NotFault (s : State) : Prop := isFaultStrand s (cc s) (cc s).cs = false

/-- The current strand of `s` completes with effect `s'` and goes on at an address, or at the next word. -/
def goTo (s s' : State) (pc : W64) : State := finishIssue s' (cc s).cs pc true
def goOn (s s' : State) : State := goTo s s' (nextPc s)

/-- The strand waits, from a state `s'`. -/
def waits (s s' : State) (w : Wait) : State := waitFor s' (cc s).cs w

/-- The strand takes a level 1 fault at its instruction, whose word is `w`. -/
def faults (s : State) (f : Flt) (w : W32) : State := faultIssue s (cc s).cs f w

/-- The pass of a loop ends with an instruction that goes on at `pc` (R189). -/
def endsPass (t : Strand) (pc : W64) : Bool := t.loop.act && inBody t.loop t.pc && pc == t.loop.fin

/-- A memory request passes its checks and reaches location `loc` in state `s1`, where nothing issued earlier holds it back
and it is performed at once (R173, R175, R176); its translation awaits no walker (R386), and the location lies on this device. -/
abbrev Reaches (s : State) (r : Req) (s1 : State) (loc : Loc) : Prop :=
  (r.align = true → r.va.toNat % r.len = 0) ∧ asksWalk s s.cur r.va = false ∧ s.defer = false ∧ s1.defer = false ∧ locTarget loc ≠ 14
  ∧ (∃ p, reach s s.cur r.va r.len r.need false r.hostNo = (s1, .ok loc p))
  ∧ (r.watched = true → (cst s1).noWatch = true ∨ preciseHit s1 s1.cur loc r.len = none)
  ∧ mayPerform s1 (r.flight s1 0 loc) = true

/-! ### An engine's word issues -/

/-- The word at the head of queue `q` has reached its cycle and neither the engine's state, nor the queue's earlier words, nor
a token, nor the range checker holds it (R38, R42, R43, R528). -/
abbrev MayIssue (q : Nat) (h : EHead) (s : State) (w : QWord) : Prop :=
  (wordsOf (getEng (cc s) q).q).head? = some w
  ∧ (getEng (cc s) q).stop = false ∧ inHold (cc s) (curCyc s) = false ∧ queueHolds (cc s) q (curCyc s) = []
  ∧ (if (cc s).timed then curCyc s = wordDue (cc s) (getEng (cc s) q) h.idle.toNat ∧ h.idle ≠ 0
     else wordDue (cc s) (getEng (cc s) q) h.idle.toNat ≤ curCyc s)
  ∧ tokenHolds (cc s) q h w = [] ∧ rangeHold s q w = []

end Sys2Proof.Machine
end

