-- ==== Sys2Proof/Certificates/Slice0/Obligations.lean ====
section
/-! DEFINITION. The statements about the model, for the provers. The tables of namespace `Statements` say, instruction by
instruction and from the rules of the spec, what the instruction computes; a statement then says that `exec` answers
exactly that. -/

open Sys2Proof Sys2Proof.Machine

/-! ### Register instructions (R167 to R169) -/

namespace Sys2Proof.Statements

/-- A condition as a register value. -/
def one (b : Bool) : W64 := if b then 1 else 0

/-- Destination, sources and result of the register and immediate instructions whose result is there at once. -/
def aluResult (s : State) : Instr → Option (Reg × List Reg × W64)
  | .add d a b => some (d, [a, b], rx s a + rx s b)
  | .sub d a b => some (d, [a, b], rx s a - rx s b)
  | .and_ d a b => some (d, [a, b], rx s a &&& rx s b)
  | .or_ d a b => some (d, [a, b], rx s a ||| rx s b)
  | .xor d a b => some (d, [a, b], rx s a ^^^ rx s b)
  | .sll d a b => some (d, [a, b], rx s a <<< ((rx s b).toNat % 64))
  | .srl d a b => some (d, [a, b], rx s a >>> ((rx s b).toNat % 64))
  | .sra d a b => some (d, [a, b], (rx s a).sshiftRight ((rx s b).toNat % 64))
  | .slt d a b => some (d, [a, b], one (decide ((rx s a).toInt < (rx s b).toInt)))
  | .sltu d a b => some (d, [a, b], one (decide ((rx s a).toNat < (rx s b).toNat)))
  | .min_ d a b => some (d, [a, b], if (rx s a).toInt < (rx s b).toInt then rx s a else rx s b)
  | .max_ d a b => some (d, [a, b], if (rx s a).toInt < (rx s b).toInt then rx s b else rx s a)
  | .minu d a b => some (d, [a, b], if (rx s a).toNat < (rx s b).toNat then rx s a else rx s b)
  | .maxu d a b => some (d, [a, b], if (rx s a).toNat < (rx s b).toNat then rx s b else rx s a)
  | .clz d a => some (d, [a], BitVec.ofNat 64 (clz64 (rx s a)))
  | .ctz d a => some (d, [a], BitVec.ofNat 64 (ctz64 (rx s a)))
  | .popc d a => some (d, [a], BitVec.ofNat 64 (popc64 (rx s a)))
  | .bswap d a => some (d, [a], BitVec.ofNat 64 (leNat (leBytes 8 (rx s a).toNat).reverse))
  | .addi d a i => some (d, [a], rx s a + i.signExtend 64)
  | .andi d a i => some (d, [a], rx s a &&& i.setWidth 64)
  | .ori d a i => some (d, [a], rx s a ||| i.setWidth 64)
  | .xori d a i => some (d, [a], rx s a ^^^ i.setWidth 64)
  | .slli d a n => some (d, [a], rx s a <<< n.toNat)
  | .srli d a n => some (d, [a], rx s a >>> n.toNat)
  | .srai d a n => some (d, [a], (rx s a).sshiftRight n.toNat)
  | .slti d a i => some (d, [a], one (decide ((rx s a).toInt < (i.signExtend 64).toInt)))
  | .sltiu d a i => some (d, [a], one (decide ((rx s a).toNat < (i.signExtend 64).toNat)))
  | .lui d i => some (d, [], i.signExtend 64 * 65536)
  | .lsi d a i => some (d, [a], rx s a * 65536 + i.setWidth 64)
  | .lpc d i => some (d, [], (cst s).pc + i.signExtend 64 * 4)
  | _ => none

/-- Destination, operands, cycles to the result and result of the multiply and divide instructions. -/
def lateResult (s : State) : Instr → Option (Reg × Reg × Reg × Nat × W64)
  | .mul d a b => some (d, a, b, 4, rx s a * rx s b)
  | .mulh d a b => some (d, a, b, 4, BitVec.ofInt 64 ((rx s a).toInt * (rx s b).toInt / 2 ^ 64))
  | .mulhu d a b => some (d, a, b, 4, BitVec.ofNat 64 ((rx s a).toNat * (rx s b).toNat / 2 ^ 64))
  | .mulhsu d a b => some (d, a, b, 4, BitVec.ofInt 64 ((rx s a).toInt * ((rx s b).toNat : Int) / 2 ^ 64))
  | .div d a b => some (d, a, b, 36, divS (rx s a) (rx s b))
  | .divu d a b => some (d, a, b, 36, divU (rx s a) (rx s b))
  | .rem d a b => some (d, a, b, 36, remS (rx s a) (rx s b))
  | .remu d a b => some (d, a, b, 36, remU (rx s a) (rx s b))
  | _ => none

end Sys2Proof.Statements

open Sys2Proof.Statements in
/-- R167, R169: a register or immediate instruction writes its result to rd and goes on at the next word. -/
def Obligations.RegisterResultIsWrittenAtOnce : Prop :=
  ∀ (s : State) (i : Instr) (d : Reg) (us : List Reg) (v : W64),
    aluResult s i = some (d, us, v) → Free s (d.toNat :: us.map BitVec.toNat) →
    exec i s = .next (goOn s (wx s d v))

open Sys2Proof.Statements in
/-- R164, R168: a multiply or divide notes its result for the cycle at which it lands; x0 takes none. -/
def Sys2Proof.Statements.LateResultLandsAfterItsLatency : Prop :=
  ∀ (s : State) (i : Instr) (d a b : Reg) (lat : Nat) (v : W64),
    lateResult s i = some (d, a, b, lat, v) → Free s [d.toNat, a.toNat, b.toNat] →
    exec i s = .next (goOn s (if d = 0 then s
      else setCst s { cst s with pend := (cst s).pend ++ [(d.toNat, v, curCyc s + lat)] }))

/-- R164: LONG_LATENCY_RESULT writes every result of the strand whose cycle has come, oldest first, and keeps the others. -/
def Sys2Proof.Statements.DueResultsAreWrittenInOrder : Prop :=
  ∀ (s : State) (b : BitVec 2),
    let t := sn s b.toNat
    let due (e : Nat × W64 × Nat) : Bool := decide (e.2.2 ≤ curCyc s)
    exec (.longLatencyResult b) s = .next (setSn s b.toNat
      { (t.pend.filter due).foldl (fun u e => xset u e.1 e.2.1) t with pend := t.pend.filter fun e => !due e })

/-- R168: division by zero and the overflowing quotient have the values of the rule; every other signed quotient is
truncated toward zero and its remainder has the dividend's sign, every other unsigned one is rounded down. -/
def Sys2Proof.Statements.DivisionMeetsItsCorners : Prop :=
  (∀ a : W64, divS a 0 = -1 ∧ divU a 0 = -1 ∧ remS a 0 = a ∧ remU a 0 = a)
  ∧ divS 0x8000000000000000 (-1) = 0x8000000000000000 ∧ remS 0x8000000000000000 (-1) = 0
  ∧ (∀ a b : W64, b ≠ 0 → a ≠ 0x8000000000000000 ∨ b ≠ -1 →
    (divS a b).toInt = a.toInt.tdiv b.toInt ∧ (remS a b).toInt = a.toInt.tmod b.toInt)
  ∧ (∀ a b : W64, b ≠ 0 → (divU a b).toNat = a.toNat / b.toNat ∧ (remU a b).toNat = a.toNat % b.toNat)

/-- R164, R168: multiplies and divides note their result, it lands at its cycle, and division meets its corners. -/
def Obligations.LateResultsLandAndDivisionMeetsItsCorners : Prop :=
  Sys2Proof.Statements.LateResultLandsAfterItsLatency
  ∧ Sys2Proof.Statements.DueResultsAreWrittenInOrder
  ∧ Sys2Proof.Statements.DivisionMeetsItsCorners

/-! ### Branches, jumps, loops, predicates (R184 to R192) -/

namespace Sys2Proof.Statements

/-- Registers compared, offset and condition of a branch. -/
def branchTaken (s : State) : Instr → Option (Reg × Reg × W16 × Bool)
  | .beq t a o => some (t, a, o, decide (rx s t = rx s a))
  | .bne t a o => some (t, a, o, decide (rx s t ≠ rx s a))
  | .blt t a o => some (t, a, o, decide ((rx s t).toInt < (rx s a).toInt))
  | .bge t a o => some (t, a, o, decide ((rx s a).toInt ≤ (rx s t).toInt))
  | .bltu t a o => some (t, a, o, decide ((rx s t).toNat < (rx s a).toNat))
  | .bgeu t a o => some (t, a, o, decide ((rx s a).toNat ≤ (rx s t).toNat))
  | _ => none

/-- Registers used, state and target of a jump: jal links in x23, jalr in rd; jtab jumps to its default where the index is
not below the length. -/
def jumpTarget (s : State) : Instr → Option (List Nat × State × W64)
  | .jal o => some ([23], wx s 23 (nextPc s), (cst s).pc + o.signExtend 64 * 4)
  | .jalr d a o =>
    let t := rx s a + o.signExtend 64
    if t.toNat % 4 = 0 then some ([d.toNat, a.toNat], wx s d (nextPc s), t) else none
  | .jtab t a len f =>
    if len.toNat + 1 ≤ (rx s a).toNat then some ([t.toNat, a.toNat], s, (cst s).pc + f.signExtend 64 * 4) else none
  | _ => none

/-- Destination, sources and value of the instructions that write a predicate. -/
def predValue (s : State) : Instr → Option (PReg × List Reg × Bool)
  | .psetEq p a b => some (p, [a, b], decide (rx s a = rx s b))
  | .psetNe p a b => some (p, [a, b], decide (rx s a ≠ rx s b))
  | .psetLt p a b => some (p, [a, b], decide ((rx s a).toInt < (rx s b).toInt))
  | .psetGe p a b => some (p, [a, b], decide ((rx s b).toInt ≤ (rx s a).toInt))
  | .psetLtu p a b => some (p, [a, b], decide ((rx s a).toNat < (rx s b).toNat))
  | .psetGeu p a b => some (p, [a, b], decide ((rx s b).toNat ≤ (rx s a).toNat))
  | .pand p a b => some (p, [], pget (cst s) a.toNat && pget (cst s) b.toNat)
  | .por p a b => some (p, [], pget (cst s) a.toNat || pget (cst s) b.toNat)
  | .pxor p a b => some (p, [], xor (pget (cst s) a.toNat) (pget (cst s) b.toNat))
  | .pandn p a b => some (p, [], pget (cst s) a.toNat && !pget (cst s) b.toNat)
  | .pmov p a => some (p, [], pget (cst s) a.toNat)
  | _ => none

/-- Registers used and effect of the loop instructions, where they do not fault. -/
def loopEffect (s : State) : Instr → Option (List Nat × State)
  | .loop a stm len =>
    if (cst s).loop.act ∨ rx s a = 0 then none
    else some ([a.toNat], setCst s { cst s with
      lc := rx s a - 1, p := clearStages (cst s).p stm.toNat
      loop := { act := true, stm := stm, ec := stm, q := true, beg := nextPc s, fin := nextPc s + len.setWidth 64 * 4 } })
  | .rot => some ((List.range 8).map (· + 24), setCst s (rotate (cst s)))
  | .lbrk => if (cst s).loop.act then some ([], setCst s { cst s with lc := 0 }) else none
  | .lcrd d => some ([d.toNat], wx s d (cst s).lc)
  | .lcwr a => some ([a.toNat], setCst s { cst s with lc := rx s a })
  | _ => none

end Sys2Proof.Statements

open Sys2Proof.Statements in
/-- R184, R190: a branch whose condition holds goes to its target, one that does not hold to the next word; nothing else
changes. A taken branch of the body of an active loop that leaves it raises 0x0102. -/
def Obligations.BranchGoesWhereItsConditionSays : Prop :=
  ∀ (s : State) (i : Instr) (t a : Reg) (o : W16) (c : Bool),
    branchTaken s i = some (t, a, o, c) → Free s [t.toNat, a.toNat] →
    let dest := (cst s).pc + o.signExtend 64 * 4
    (c = false → exec i s = .next (goOn s s))
    ∧ (c = true → leavesLoop (cst s) dest = false → exec i s = .next (goTo s s dest))
    ∧ (c = true → leavesLoop (cst s) dest = true → ∀ w, encode i = .cword w →
        exec i s = .next (faults s { code := 0x0102, addr := dest, detail := w.setWidth 64 } w))

open Sys2Proof.Statements in
/-- R185, R186, R190: a jump goes to its target and links; one of the body of an active loop that leaves it raises
0x0102, with no link written. -/
def Sys2Proof.Statements.JumpLinksAndGoesToItsTarget : Prop :=
  ∀ (s : State) (i : Instr) (us : List Nat) (s' : State) (dest : W64), jumpTarget s i = some (us, s', dest) → Free s us →
    (leavesLoop (cst s) dest = false → exec i s = .next (goTo s s' dest))
    ∧ (leavesLoop (cst s) dest = true → ∀ w, encode i = .cword w →
        exec i s = .next (faults s { code := 0x0102, addr := dest, detail := w.setWidth 64 } w))

/-- R186, R190: jtab whose index is below its length loads its entry, four bytes at the table's base plus four times the
index, as a plain load, and goes to its pc plus four times the entry, sign-extended; where that leaves the body of an
active loop that holds the jtab it raises 0x0102. -/
def Sys2Proof.Statements.TableJumpGoesWhereItsEntrySays : Prop :=
  ∀ (s : State) (t a : Reg) (len : BitVec 6) (f : BitVec 9) (w : W32) (s1 s2 : State) (loc : Loc),
    Free s [t.toNat, a.toNat] → (rx s a).toNat ≤ len.toNat → encode (.jtab t a len f) = .cword w →
    let r : Req := { op := .jtab, va := rx s t + rx s a * 4, len := 4, need := pR }
    Reaches s r s1 loc → raceStep (takeOrd s1) (r.flight s1 0 loc) = .ok s2 → uncorrectable s1 loc 4 = none →
    let dest := (cst s).pc + (BitVec.ofNat 32 (leNat (readLoc s1 loc 4))).signExtend 64 * 4
    let u := noteAccess s2 (r.flight s1 0 loc) true false
    (leavesLoop (cst s) dest = false → exec (.jtab t a len f) s = .next (goTo s u dest))
    ∧ (leavesLoop (cst s) dest = true → exec (.jtab t a len f) s
        = .next (faultIssue u (cc s).cs { code := 0x0102, addr := dest, detail := w.setWidth 64 } w))

/-- R190: only an instruction of the body of an active loop can leave it, and it does where it goes neither into the
body nor to the address after it. -/
def Sys2Proof.Statements.OnlyBodyInstructionsLeaveTheirLoop : Prop :=
  ∀ (t : Strand) (dest : W64), leavesLoop t dest = true ↔
    t.loop.act = true ∧ (t.loop.beg.toNat ≤ t.pc.toNat ∧ t.pc.toNat < t.loop.fin.toNat)
      ∧ ¬ (t.loop.beg.toNat ≤ dest.toNat ∧ dest.toNat < t.loop.fin.toNat) ∧ dest ≠ t.loop.fin

/-- R185: jalr to an address that is no multiple of 4 raises 0x0101 with that address and 4. -/
def Sys2Proof.Statements.MisalignedJumpTargetFaults : Prop :=
  ∀ (s : State) (d a : Reg) (o : BitVec 15) (w : W32),
    Free s [d.toNat, a.toNat] → encode (.jalr d a o) = .cword w → (rx s a + o.signExtend 64).toNat % 4 ≠ 0 →
    exec (.jalr d a o) s = .next (faults s { code := 0x0101, addr := rx s a + o.signExtend 64, detail := 4 } w)

/-- R185, R186, R190: jumps, the table jump among them, link and go to their targets; a misaligned one and one that
leaves the body of its loop fault. -/
def Obligations.JumpsGoToTheirTargets : Prop :=
  Sys2Proof.Statements.JumpLinksAndGoesToItsTarget
  ∧ Sys2Proof.Statements.MisalignedJumpTargetFaults
  ∧ Sys2Proof.Statements.TableJumpGoesWhereItsEntrySays
  ∧ Sys2Proof.Statements.OnlyBodyInstructionsLeaveTheirLoop

open Sys2Proof.Statements in
/-- R188, R191: loop, lbrk, lcrd, lcwr and rot; a loop over zero iterations skips its body, a loop inside a loop and a
lbrk outside raise 0x0103. -/
def Sys2Proof.Statements.LoopInstructionsKeepLoopState : Prop :=
  (∀ (s : State) (i : Instr) (us : List Nat) (s' : State),
    loopEffect s i = some (us, s') → Free s us → exec i s = .next (goOn s s'))
  ∧ (∀ (s : State) (a : Reg) (stm : BitVec 3) (len : W16) (w : W32),
      Free s [a.toNat] → encode (.loop a stm len) = .cword w →
      ((cst s).loop.act = false → rx s a = 0 → exec (.loop a stm len) s = .next (goTo s s (nextPc s + len.setWidth 64 * 4)))
      ∧ ((cst s).loop.act = true → exec (.loop a stm len) s = .next (faults s { code := 0x0103, detail := w.setWidth 64 } w)))
  ∧ (∀ (s : State) (w : W32), Free s [] → encode .lbrk = .cword w → (cst s).loop.act = false →
      exec .lbrk s = .next (faults s { code := 0x0103, detail := w.setWidth 64 } w))

/-- R189: a pass end rotates x24 to x31, shifts the stage predicates and counts down LC, then EC; where both are zero it
ends the loop, clears the stage predicates and goes on after the body. -/
def Sys2Proof.Statements.PassEndRotatesAndCounts : Prop :=
  ∀ t : Strand,
    let u := passEnd t
    (∀ r, 24 < r → r ≤ 31 → xget u r = xget t (r - 1)) ∧ xget u 24 = xget t 31 ∧ (∀ r, r < 24 → xget u r = xget t r)
    ∧ (t.lc ≠ 0 → u.lc = t.lc - 1 ∧ u.loop = { t.loop with q := true } ∧ u.pc = t.loop.beg)
    ∧ (t.lc = 0 → t.loop.ec ≠ 0 → u.lc = 0 ∧ u.loop = { t.loop with ec := t.loop.ec - 1, q := false } ∧ u.pc = t.loop.beg)
    ∧ (t.lc = 0 → t.loop.ec = 0 → u.loop.act = false ∧ u.pc = t.loop.fin ∧ ∀ j, 1 ≤ j → j ≤ t.loop.stm.toNat → pget u j = false)
    ∧ (t.lc ≠ 0 ∨ t.loop.ec ≠ 0 → 1 ≤ t.loop.stm.toNat → pget u 1 = t.loop.q
        ∧ ∀ j, 1 ≤ j → j < t.loop.stm.toNat → pget u (j + 1) = pget t j)

/-- R188, R189, R191: the loop instructions and the pass end. -/
def Obligations.LoopsRunTheirPasses : Prop :=
  Sys2Proof.Statements.LoopInstructionsKeepLoopState
  ∧ Sys2Proof.Statements.PassEndRotatesAndCounts

open Sys2Proof.Statements in
/-- R192: a predicate instruction writes its condition to pd; p0 stays true. -/
def Obligations.PredicateTakesItsCondition : Prop :=
  ∀ (s : State) (i : Instr) (p : PReg) (us : List Reg) (b : Bool),
    predValue s i = some (p, us, b) → Free s (us.map BitVec.toNat) →
    exec i s = .next (goOn s (setCst s (pset (cst s) p.toNat b)))
    ∧ (∀ j, j < 8 → pget (pset (cst s) p.toNat b) j = (if j = 0 then true else if j = p.toNat then b else pget (cst s) j))

/-! ### Loads, stores, tags, fences and atomics (R170 to R183) -/

namespace Sys2Proof.Statements

/-- Width, acquire, plain and address of a load. -/
def loadOf (s : State) : Instr → Option (Reg × Reg × LWidth × Bool × Bool × W64)
  | .ldB d a o => some (d, a, .b, false, true, rx s a + o.signExtend 64)
  | .ldH d a o => some (d, a, .h, false, true, rx s a + o.signExtend 64)
  | .ldW d a o => some (d, a, .w, false, true, rx s a + o.signExtend 64)
  | .ldD d a o => some (d, a, .d, false, true, rx s a + o.signExtend 64)
  | .ldBu d a o => some (d, a, .bu, false, true, rx s a + o.signExtend 64)
  | .ldHu d a o => some (d, a, .hu, false, true, rx s a + o.signExtend 64)
  | .ldWu d a o => some (d, a, .wu, false, true, rx s a + o.signExtend 64)
  | .ldS d a z _ => some (d, a, z, false, false, rx s a)
  | .ldAcq d a z _ => some (d, a, z, true, false, rx s a)
  | _ => none

/-- Bytes that a load reads, and the value they give: sign-extended, or zero-extended for the widths in u. -/
def loadBytes : LWidth → Nat
  | .b | .bu => 1
  | .h | .hu => 2
  | .w | .wu => 4
  | .d => 8
def extended (z : LWidth) (v : Nat) : W64 :=
  match z with
  | .b => (BitVec.ofNat 8 v).signExtend 64
  | .h => (BitVec.ofNat 16 v).signExtend 64
  | .w => (BitVec.ofNat 32 v).signExtend 64
  | .bu => (BitVec.ofNat 8 v).setWidth 64
  | .hu => (BitVec.ofNat 16 v).setWidth 64
  | .wu => (BitVec.ofNat 32 v).setWidth 64
  | .d => BitVec.ofNat 64 v

def loadReq (d : Reg) (z : LWidth) (acq plain : Bool) (va : W64) : Req :=
  { op := .load z d.toNat, va := va, len := loadBytes z, need := pR, acq := acq, plain := plain }

/-- Data register, width in bytes, release, plain and address of a store. -/
def storeOf (s : State) : Instr → Option (Reg × Reg × Nat × Bool × Bool × W64)
  | .stB t a o => some (t, a, 1, false, true, rx s a + o.signExtend 64)
  | .stH t a o => some (t, a, 2, false, true, rx s a + o.signExtend 64)
  | .stW t a o => some (t, a, 4, false, true, rx s a + o.signExtend 64)
  | .stD t a o => some (t, a, 8, false, true, rx s a + o.signExtend 64)
  | .stS t a z _ => some (t, a, swidthBytes z, false, false, rx s a)
  | .stRel t a z _ => some (t, a, swidthBytes z, true, false, rx s a)
  | _ => none

def storeReq (n : Nat) (v : W64) (rel plain : Bool) (va : W64) : Req :=
  { op := .store n v, va := va, len := n, need := pW, write := true, rel := rel, plain := plain, watched := true }

/-- Kind, destination, address and data register of a tagged instruction. -/
def tagOf : Instr → Option (TagKind × Reg × Reg × Reg)
  | .ldf d a => some (.readFull, d, a, 0)
  | .ldt d a => some (.take, d, a, 0)
  | .ste a b => some (.put, 0, a, b)
  | .stf a b => some (.setFull, 0, a, b)
  | .tclr a => some (.clear, 0, a, 0)
  | _ => none

/-- Permissions: T, and R for a form that reads, W for one that writes (R178). -/
def tagPerm : TagKind → Perm
  | .readFull | .take => pT ||| pR
  | .put | .setFull => pT ||| pW
  | .clear => pT

def tagReq (s : State) (k : TagKind) (d a b : Reg) : Req :=
  { op := .tag k d.toNat (rx s b), va := rx s a, len := 8, need := tagPerm k, write := k != .readFull
    rel := tagWrites k, acq := tagReads k, plain := false }

/-- Operation, size, order and registers of an atomic. -/
def atomicOf : Instr → Option (AmoOp × ASize × AOrder × Reg × Reg × Reg)
  | .amoAdd d a b z o _ => some (.add, z, o, d, a, b)
  | .amoQadd d a b o _ => some (.qadd, .d, o, d, a, b)
  | .amoSmin d a b z o _ => some (.smin, z, o, d, a, b)
  | .amoSmax d a b z o _ => some (.smax, z, o, d, a, b)
  | .amoUmin d a b z o _ => some (.umin, z, o, d, a, b)
  | .amoUmax d a b z o _ => some (.umax, z, o, d, a, b)
  | .amoAnd d a b z o _ => some (.and, z, o, d, a, b)
  | .amoOr d a b z o _ => some (.or, z, o, d, a, b)
  | .amoXor d a b z o _ => some (.xor, z, o, d, a, b)
  | .amoSwap d a b z o _ => some (.swap, z, o, d, a, b)
  | _ => none

def amoReq (s : State) (op : AmoOp) (z : ASize) (o : AOrder) (d a b : Reg) : Req :=
  { op := .amo op z d.toNat (rx s b), va := rx s a, len := asizeBytes z, need := pR ||| pW ||| pA, write := true
    rel := ordRel o, acq := ordAcq o, plain := false, watched := true, hostNo := !(op == .add || op == .swap) }

def casReq (s : State) (z : ASize) (o : AOrder) (d a b : Reg) : Req :=
  { op := .cas z d.toNat (rx s d) (rx s b), va := rx s a, len := asizeBytes z, need := pR ||| pW ||| pA, write := true
    rel := ordRel o, acq := ordAcq o, plain := false, watched := true }

/-- The value that an atomic stores: the operation on the old value and the operand, of the operation's width. -/
def amoStores (op : AmoOp) (z : ASize) (old v : Nat) : Nat :=
  let m := v % 2 ^ (8 * asizeBytes z)
  match op with
  | .add | .qadd => (old + v) % 2 ^ (8 * asizeBytes z)
  | .smin => if sInt (8 * asizeBytes z) v < sInt (8 * asizeBytes z) old then m else old
  | .smax => if sInt (8 * asizeBytes z) old < sInt (8 * asizeBytes z) v then m else old
  | .umin => Nat.min old m
  | .umax => Nat.max old m
  | .and => old &&& m
  | .or => old ||| m
  | .xor => old ^^^ m
  | .swap => m
  | .fadd => (fAdd fmtFP32 .rne (fmtFP32.decode old) (fmtFP32.decode v)).1

/-- Acquire and release of a fence. -/
def fenceOf : Instr → Option (Bool × Bool)
  | .fenceAcq _ => some (true, false)
  | .fenceRel _ => some (false, true)
  | .fenceFull _ => some (true, true)
  | _ => none

/-- Every memory instruction whose address must be a multiple of its size, with the registers it uses. -/
def alignOf (s : State) (i : Instr) : Option (List Nat × W64 × Nat) :=
  match loadOf s i, storeOf s i, tagOf i, atomicOf i, i with
  | some (d, a, z, _, _, va), _, _, _, _ => some ([d.toNat, a.toNat], va, loadBytes z)
  | _, some (t, a, n, _, _, va), _, _, _ => some ([t.toNat, a.toNat], va, n)
  | _, _, some (_, d, a, b), _, _ => some ([d.toNat, a.toNat, b.toNat], rx s a, 8)
  | _, _, _, some (_, z, _, d, a, b), _ => some ([d.toNat, a.toNat, b.toNat], rx s a, asizeBytes z)
  | _, _, _, _, .cas d a b z _ _ => some ([d.toNat, a.toNat, b.toNat], rx s a, asizeBytes z)
  | _, _, _, _, .tagrd d a => some ([d.toNat, a.toNat], rx s a, 8)
  | _, _, _, _, _ => none

end Sys2Proof.Statements

open Sys2Proof.Statements in
/-- R173: an access whose address is no multiple of its size raises 0x0101 before any other check, with the address and
the size; nothing is accessed. -/
def Obligations.MisalignedAccessFaults : Prop :=
  ∀ (s : State) (i : Instr) (us : List Nat) (va : W64) (n : Nat) (w : W32),
    alignOf s i = some (us, va, n) → encode i = .cword w → Free s us → OnCore s → va.toNat % n ≠ 0 →
    exec i s = .next (faults s { code := 0x0101, addr := va, detail := BitVec.ofNat 64 n } w)

open Sys2Proof.Statements in
/-- R170, R171, R173: a load that passes its checks reads the bytes at its place, writes them extended to rd and goes on. -/
def Obligations.LoadWritesTheExtendedBytes : Prop :=
  ∀ (s : State) (i : Instr) (d a : Reg) (z : LWidth) (acq plain : Bool) (va : W64) (s1 s2 : State) (loc : Loc),
    loadOf s i = some (d, a, z, acq, plain, va) → Free s [d.toNat, a.toNat] →
    Reaches s (loadReq d z acq plain va) s1 loc →
    let fl := (loadReq d z acq plain va).flight s1 0 loc
    raceStep (takeOrd s1) fl = .ok s2 → uncorrectable s1 loc (loadBytes z) = none →
    exec i s = .next (goOn s (setReg (noteAccess s2 fl true false) (cc s).cs d.toNat
      (extended z (leNat (readLoc s1 loc (loadBytes z))))))

open Sys2Proof.Statements in
/-- R170, R171, R173: a store that passes its checks writes the low bytes of its register, little-endian, at its place; a
release counts. -/
def Obligations.StoreWritesTheLowBytes : Prop :=
  ∀ (s : State) (i : Instr) (t a : Reg) (n : Nat) (rel plain : Bool) (va : W64) (s1 s2 : State) (loc : Loc),
    storeOf s i = some (t, a, n, rel, plain, va) → Free s [t.toNat, a.toNat] → OnCore s →
    Reaches s (storeReq n (rx s t) rel plain va) s1 loc →
    let fl := (storeReq n (rx s t) rel plain va).flight s1 0 loc
    raceStep (takeOrd s1) fl = .ok s2 →
    let who : Who := { agent := (cc s).cs, core := s.cur, pc := (cst s).pc, va := va }
    let s3 := storeAt (noteAccess s2 fl false true) who loc (leBytes n (rx s t).toNat) true
    exec i s = .next (goOn s (if rel then bumpRelease s3 s.cur else s3))

open Sys2Proof.Statements in
/-- R66, R177, R178: a tagged operation whose word's tag meets its condition is performed at once, and a form that reads
returns the word; tagrd returns the tag. One whose condition fails waits, with the limit of R179. -/
def Sys2Proof.Statements.TaggedOperationActsOrWaits : Prop :=
  (∀ (s : State) (i : Instr) (k : TagKind) (d a b : Reg) (s1 : State) (c o : Nat),
    tagOf i = some (k, d, a, b) → Free s [d.toNat, a.toNat, b.toNat] → OnCore s →
    Reaches s (tagReq s k d a b) s1 (.scr c o) →
    let fl := (tagReq s k d a b).flight s1 0 (.scr c o)
    let who : Who := { agent := (cc s).cs, core := s.cur, pc := (cst s).pc, va := rx s a }
    (tagCond k (tagFull s1 c (o / 8)) = true →
      (tagReads k = true → uncorrectable s1 (.scr c o) 8 = none) →
      let r := tagPerform (noteAccess (takeOrd s1) fl (tagReads k) (tagWrites k)) who c (o / 8) k (rx s b) false
      (tagReads k = false → exec i s = .next (goOn s r.1))
      ∧ (tagReads k = true → exec i s = .next (goOn s (setReg r.1 (cc s).cs d.toNat r.2))))
    ∧ (tagCond k (tagFull s1 c (o / 8)) = false →
      exec i s = .next (waits s s1 (.tag c (o / 8) (curCyc s + 1024) (rx s a)))))
  ∧ (∀ (s : State) (d a : Reg) (s1 : State) (c o : Nat),
    Free s [d.toNat, a.toNat] → OnCore s →
    let r : Req := { op := .tagrd d.toNat, va := rx s a, len := 8, need := pT ||| pR, plain := false }
    Reaches s r s1 (.scr c o) → uncorrectable s1 (.scr c o) 8 = none →
    exec (.tagrd d a) s = .next (goOn s (setReg (noteAccess (takeOrd s1) (r.flight s1 0 (.scr c o)) true false) (cc s).cs
      d.toNat (if tagFull s1 c (o / 8) then 1 else 0))))

open Sys2Proof.Statements in
/-- R69, R181, R182: an atomic reads its word, stores the result of its operation and returns the old value, sign-extended
for 32 bits; cas stores its operand where the old value equals x[rd], and the old value otherwise. -/
def Obligations.AtomicStoresItsResultAndReturnsTheOldValue : Prop :=
  (∀ (s : State) (i : Instr) (op : AmoOp) (z : ASize) (o : AOrder) (d a b : Reg) (s1 : State) (loc : Loc),
    atomicOf i = some (op, z, o, d, a, b) → Free s [d.toNat, a.toNat, b.toNat] → OnCore s →
    Reaches s (amoReq s op z o d a b) s1 loc → uncorrectable s1 loc (asizeBytes z) = none →
    let s2 := noteAccess (takeOrd s1) ((amoReq s op z o d a b).flight s1 0 loc) true true
    let who : Who := { agent := (cc s).cs, core := s.cur, pc := (cst s).pc, va := rx s a }
    let old := leNat (readLoc s2 loc (asizeBytes z))
    exec i s = .next (goOn s (setReg
      (bumpRelease (storeAt s2 who loc (leBytes (asizeBytes z) (amoStores op z old (rx s b).toNat)) true) s.cur)
      (cc s).cs d.toNat (match z with | .w => (BitVec.ofNat 32 old).signExtend 64 | .d => BitVec.ofNat 64 old))))
  ∧ (∀ (s : State) (z : ASize) (o : AOrder) (sc : Scope) (d a b : Reg) (s1 : State) (loc : Loc),
    Free s [d.toNat, a.toNat, b.toNat] → OnCore s →
    Reaches s (casReq s z o d a b) s1 loc → uncorrectable s1 loc (asizeBytes z) = none →
    let s2 := noteAccess (takeOrd s1) ((casReq s z o d a b).flight s1 0 loc) true true
    let who : Who := { agent := (cc s).cs, core := s.cur, pc := (cst s).pc, va := rx s a }
    let old := leNat (readLoc s2 loc (asizeBytes z))
    let m := 2 ^ (8 * asizeBytes z)
    exec (.cas d a b z o sc) s = .next (goOn s (setReg
      (bumpRelease (storeAt s2 who loc
        (leBytes (asizeBytes z) (if old = (rx s d).toNat % m then (rx s b).toNat % m else old)) true) s.cur)
      (cc s).cs d.toNat (match z with | .w => (BitVec.ofNat 32 old).signExtend 64 | .d => BitVec.ofNat 64 old))))

open Sys2Proof.Statements in
/-- R180: with no earlier access of the core in flight a fence completes at once; a release fence counts as a release. -/
def Sys2Proof.Statements.FenceCompletesWhenNothingIsInFlight : Prop :=
  ∀ (s : State) (i : Instr) (acq rel : Bool),
    fenceOf i = some (acq, rel) → Free s [] → OnCore s → flightsBefore (cc s) (cc s).ord = [] →
    exec i s = .next (goOn s (if rel then bumpRelease (takeOrd s) s.cur else takeOrd s))

/-- R165: a load that an earlier issue has left in flight is performed at its port, when nothing issued before it holds it
back: the register takes the value, the strand is ready at the next word, and the issue slot is not taken again. -/
def Sys2Proof.Statements.FlightIsPerformedAtItsPort : Prop :=
  ∀ (s : State) (b : BitVec 2) (fl : Flight) (z : LWidth) (d : Nat) (s2 : State),
    (sn s b.toNat).flight = some fl → fl.op = .load z d → fl.req = none → fl.walk = none → retiredLoc s fl.loc = false →
    mayPerform s fl = true → locTarget fl.loc ≠ 14 →
    raceStep s fl = .ok s2 → badRead s fl = none →
    exec (.memoryAccessPerformed b) s = .next (finishIssue
      (setReg (noteAccess s2 fl true false) b.toNat d (loadValue z (leNat (readLoc s fl.loc fl.len))))
      b.toNat ((sn s b.toNat).pc + 4) false)

/-- R83, R85, R88, R175, R176, R180: an access in flight is not performed before an earlier access of its core that
orders it: any, where it is a release; an acquire or a full fence; a release fence, where it stores; a strong access,
where it is strong; one with a byte in common. -/
def Sys2Proof.Statements.AccessesInFlightKeepTheirOrder : Prop :=
  ∀ (s : State) (b : BitVec 2) (fl g : Flight), (sn s b.toNat).flight = some fl → g ∈ flightsBefore (cc s) fl.ord →
    (fl.rel = true ∨ g.acq = true ∨ (g.op = .fence ∧ g.rel = true ∧ fl.write = true)
      ∨ (g.strong = true ∧ fl.strong = true)
      ∨ (g.op.touches = true ∧ fl.op.touches = true ∧ locMeets g.loc g.len fl.loc fl.len = true)) →
    exec (.memoryAccessPerformed b) s = .next s

/-- R179: a strand that has waited on a tag for 1,024 cycles becomes ready and tries again. -/
def Sys2Proof.Statements.TagWaitTimesOut : Prop :=
  ∀ (s : State) (b : BitVec 2) (c w limit : Nat) (va : W64),
    (sn s b.toNat).run = .waiting → (sn s b.toNat).flight = none → (sn s b.toNat).wait = some (.tag c w limit va) → limit ≤ curCyc s →
    exec (.taggedWaitTimeout b) s = .next (setSn s b.toNat { sn s b.toNat with run := .ready })

/-- R66, R177 to R179: tagged operations act at once or wait, and a wait ends after 1,024 cycles. -/
def Obligations.TaggedOperationsActWaitOrTimeOut : Prop :=
  Sys2Proof.Statements.TaggedOperationActsOrWaits
  ∧ Sys2Proof.Statements.TagWaitTimesOut

open Sys2Proof.Statements in
/-- R165, R386: a load or store whose address misses both TLBs, where the walk is left to a walker, is sent: its
instruction takes the issue slot and an order number, the access stands in flight until its walk is over, and a request
for its page is outstanding, or stands behind the 64 of its cluster. Nothing in memory changes. -/
def Sys2Proof.Statements.AccessAwaitingAWalkIsInFlight : Prop :=
  ∀ (s : State) (i : Instr) (us : List Nat) (r : Req) (w : W32), encode i = .cword w → Free s us →
    ((∃ d a z acq plain va, loadOf s i = some (d, a, z, acq, plain, va) ∧ us = [d.toNat, a.toNat] ∧ r = loadReq d z acq plain va)
      ∨ (OnCore s ∧ ∃ x a n rel plain va, storeOf s i = some (x, a, n, rel, plain, va) ∧ us = [x.toNat, a.toNat]
          ∧ r = storeReq n (rx s x) rel plain va)) →
    r.va.toNat % r.len = 0 → asksWalk s s.cur r.va = true →
    ∃ (t : State) (fl : Flight), exec i s = .next t ∧ (cst t).flight = some fl ∧ fl.op = r.op ∧ fl.va = r.va ∧ fl.walk = some r
      ∧ fl.ord = (cc s).ord ∧ (cc t).ord = (cc s).ord + 1 ∧ (cc t).slotAt = curCyc s + 1 ∧ (cst t).pc = (cst s).pc
      ∧ (cst t).x = (cst s).x ∧ t.mem = s.mem
      ∧ ((∃ q ∈ t.mm.walks ++ t.mm.walking, q.serves (curTask s).asn r.va = true) ∨ (s.cur, (cc s).cs) ∈ t.mm.late)
/-! ### Composition, emission, stream registers, tokens and markers (R195 to R207) -/

/-- R85, R88, R165, R175, R176, R180, R386: fences complete once nothing is in flight, and an access in flight is
performed at its port, in order. -/
def Obligations.FencesAndFlightsComplete : Prop :=
  Sys2Proof.Statements.FenceCompletesWhenNothingIsInFlight
  ∧ Sys2Proof.Statements.FlightIsPerformedAtItsPort
  ∧ Sys2Proof.Statements.AccessesInFlightKeepTheirOrder
  ∧ Sys2Proof.Statements.AccessAwaitingAWalkIsInFlight

namespace Sys2Proof.Statements

/-- Registers used and effect of the instructions on composition and stream registers. -/
def composeEffect (s : State) : Instr → Option (List Nat × State)
  | .wins wd a pos len =>
    let m : W64 := BitVec.ofNat 64 ((2 ^ (len.toNat + 1) - 1) * 2 ^ pos.toNat)
    some ([a.toNat], setW s wd { wval s wd with val := ((wval s wd).val &&& ~~~m) ||| ((rx s a <<< pos.toNat) &&& m) })
  | .wmov wa j => some ([j.toNat], setW s wa { val := rx s j, origin := 0xFFFF })
  | .wrd j wa => some ([j.toNat], wx s j (wval s wa).val)
  | .wcpy wa wj => some ([], setW s wa (wval s wj))
  | .sset sd a f => some ([a.toNat], setStrm s sd (strmSet (strmOf s sd) f.toNat (rx s a)))
  | .sget d ss f => some ([d.toNat], wx s d (strmGet (strmOf s ss) f.toNat))
  | .scpy sd ss => some ([], setStrm s sd (strmOf s ss))
  | .sclr sd => some ([], setStrm s sd {})
  | .qstat d q => some ([d.toNat], wx s d (qstatOf (cc s) (qn q) (cc s).cs))
  | _ => none

/-- The template load of wtmpl and emitt. -/
def templateReq (s : State) (op : MemOp) (idx : W16) : Req :=
  { op := op, va := (curTask s).poolVa + idx.setWidth 64 * 8, len := 8, need := pR, align := false }

end Sys2Proof.Statements

open Sys2Proof.Statements in
/-- R195, R196, R201, R204, R205: wins, wmov, wrd, wcpy, sset, sget, scpy, sclr and qstat make their change and go on. -/
def Sys2Proof.Statements.CompositionAndStreamRegistersChange : Prop :=
  ∀ (s : State) (i : Instr) (us : List Nat) (s' : State),
    composeEffect s i = some (us, s') → Free s us → OnCore s → exec i s = .next (goOn s s')

/-- R201, R204: a stream field that sset writes reads back in sget as the low bits that fit it, sign-extended where the
field is signed; the other fields keep their values. -/
def Sys2Proof.Statements.StreamFieldReadsBackWhatFits : Prop :=
  ∀ (m : Strm) (f : Nat) (v : W64), f ≤ 10 →
    strmGet (strmSet m f v) f =
      (match f with
        | 1 => (v.setWidth 5).setWidth 64
        | 2 | 3 | 4 => (v.setWidth 32).setWidth 64
        | 5 => (v.setWidth 32).signExtend 64
        | 8 => (v.setWidth 2).setWidth 64
        | _ => v)
    ∧ ∀ g, g ≤ 10 → g ≠ f → strmGet (strmSet m f v) g = strmGet m g

/-- R195, R196, R201, R204, R205: composition and stream registers. -/
def Obligations.CompositionAndStreamRegistersHoldWhatIsWritten : Prop :=
  Sys2Proof.Statements.CompositionAndStreamRegistersChange
  ∧ Sys2Proof.Statements.StreamFieldReadsBackWhatFits

open Sys2Proof.Statements in
/-- R197: wtmpl loads the template of its index into its register with that origin; an index past the pool raises
0x0001. -/
def Sys2Proof.Statements.TemplateLoadsFromThePool : Prop :=
  ∀ (s : State) (wd : WReg) (idx : W16) (w : W32), Free s [] → OnCore s → encode (.wtmpl wd idx) = .cword w →
    ((curTask s).kernel.poolCount ≤ idx.toNat →
      exec (.wtmpl wd idx) s = .next (faults s { code := 0x0001, detail := w.setWidth 64 } w))
    ∧ (idx.toNat < (curTask s).kernel.poolCount → ∀ s1 loc,
      let r := templateReq s (.wtmpl wd.toNat idx.toNat) idx
      Reaches s r s1 loc → uncorrectable s1 loc 8 = none →
      exec (.wtmpl wd idx) s = .next (goOn s (setW (noteAccess (takeOrd s1) (r.flight s1 0 loc) true false) wd
        { val := BitVec.ofNat 64 (leNat (readLoc s1 loc 8)), origin := idx })))

open Sys2Proof.Statements in
/-- R28, R198, R199, R200: emit and emitt append their word with its snapshots and provenance to the queue; where the
predicate is false they do nothing; where the strand may take no entry they wait for one, in order of arrival, and while a
section switch is pending they wait for that. An emitt whose index lies past the kernel's pool raises 0x0001, whatever its
predicate (the model's choice, log entry 15). -/
def Sys2Proof.Statements.EmissionAppendsOrWaits : Prop :=
  (∀ (s : State) (q : Queue) (p : PReg) (ws : WReg), Free s [] → OnCore s → NotFault s →
    (pget (cst s) p.toNat = false → exec (.emit q p ws) s = .next (goOn s s))
    ∧ (pget (cst s) p.toNat = true → (cc s).switching = [] →
      (mayTake (cc s) (qn q) (cc s).cs = true →
        exec (.emit q p ws) s = .next (goOn s (appendWord s (cc s).cs (qn q) (wval s ws).val (wval s ws).origin)))
      ∧ (mayTake (cc s) (qn q) (cc s).cs = false →
        exec (.emit q p ws) s = .next (waits s (setCC s (addWaiter (cc s) (qn q) (cc s).cs)) (.entry (1#4 <<< qn q)))))
    ∧ (pget (cst s) p.toNat = true → (cc s).switching ≠ [] → exec (.emit q p ws) s = .next (waits s s .sect)))
  ∧ (∀ (s : State) (q : Queue) (p : PReg) (idx : W16), Free s [] → OnCore s → NotFault s →
    idx.toNat < (curTask s).kernel.poolCount →
    (pget (cst s) p.toNat = false → exec (.emitt q p idx) s = .next (goOn s s))
    ∧ (pget (cst s) p.toNat = true → (cc s).switching = [] →
      (mayTake (cc s) (qn q) (cc s).cs = true → ∀ s1 loc,
        let r := templateReq s (.emitt (qn q) idx.toNat) idx
        Reaches s r s1 loc → uncorrectable s1 loc 8 = none →
        exec (.emitt q p idx) s = .next (goOn s (appendWord (noteAccess (takeOrd s1) (r.flight s1 0 loc) true false)
          (cc s).cs (qn q) (BitVec.ofNat 64 (leNat (readLoc s1 loc 8))) idx)))
      ∧ (mayTake (cc s) (qn q) (cc s).cs = false →
        exec (.emitt q p idx) s = .next (waits s (setCC s (addWaiter (cc s) (qn q) (cc s).cs)) (.entry (1#4 <<< qn q)))))
    ∧ (pget (cst s) p.toNat = true → (cc s).switching ≠ [] → exec (.emitt q p idx) s = .next (waits s s .sect)))
  ∧ (∀ (s : State) (q : Queue) (p : PReg) (idx : W16) (w : W32), Free s [] → OnCore s → NotFault s →
    encode (.emitt q p idx) = .cword w → (curTask s).kernel.poolCount ≤ idx.toNat →
    exec (.emitt q p idx) s = .next (faults s { code := 0x0001, detail := w.setWidth 64 } w))

/-- R28: the word that an emission appends stands last in its queue with the strand, its pc, its emit sequence number, the
template index and the snapshots of the stream registers it names; the strand's emit sequence number is one more. -/
def Sys2Proof.Statements.EmittedWordCarriesItsProvenance : Prop :=
  ∀ (s : State) (n q : Nat) (bits : W64) (tix : W16),
    let t := appendWord s n q bits tix
    ∃ w : QWord, (getEng (cc t) q).q = (getEng (cc s) q).q ++ [.word w] ∧ w.bits = bits ∧ w.strand = n
      ∧ w.pc = (sn s n).pc ∧ w.eseq = (sn s n).eseq + 1 ∧ w.tmpl = tix ∧ w.seq = (cc s).ord ∧ w.snaps = snapshot (cc s) q bits
      ∧ (sn t n).eseq = (sn s n).eseq + 1 ∧ (cc t).ord = (cc s).ord + 1 ∧ t.mem = s.mem
      ∧ ∀ p, p ≠ q → getEng (cc t) p = getEng (cc s) p

/-- R28, R197 to R200: templates load, emissions append or wait, and the word carries its snapshots and provenance. -/
def Obligations.EmissionsCarryWordAndProvenance : Prop :=
  Sys2Proof.Statements.TemplateLoadsFromThePool
  ∧ Sys2Proof.Statements.EmissionAppendsOrWaits
  ∧ Sys2Proof.Statements.EmittedWordCarriesItsProvenance

/-- R35, R206: tkpush writes a token to the conductor's link of an engine, or waits for room; tkpop takes the engine's, or
waits for one. -/
def Sys2Proof.Statements.ConductorTokensMoveOrWait : Prop :=
  ∀ (s : State) (q : Queue), Free s [] → OnCore s → NotFault s →
    (linkFree (cc s) (linkCE (qn q)) ≠ 0 → flightsBefore (cc s) (cc s).ord = [] →
      exec (.tkpush q) s = .next (goOn s (setCC s (pushTok (cc s) (linkCE (qn q)) { strand := (cc s).cs, eseq := 0 }))))
    ∧ (linkFree (cc s) (linkCE (qn q)) = 0 → exec (.tkpush q) s = .next (waits s s (.room (qn q))))
    ∧ (∀ t ts, tokens (cc s) (linkEC (qn q)) = t :: ts →
      exec (.tkpop q) s = .next (goOn s (setCC s { popTok (cc s) (linkEC (qn q)) with popBy := (cc s).cs })))
    ∧ (tokens (cc s) (linkEC (qn q)) = [] → exec (.tkpop q) s = .next (waits s s (.token (qn q))))

/-- R40, R207: mark places a marker in every queue of its mask, all in one step or none; join goes on once no queue of its
mask holds a marker of its strand. -/
def Sys2Proof.Statements.MarkersArePlacedTogetherAndJoined : Prop :=
  ∀ (s : State) (qs : BitVec 4), Free s [] → OnCore s → NotFault s →
    ((∀ q ∈ queuesOf qs, mayTake (cc s) q (cc s).cs = true) →
      exec (.mark qs) s = .next (goOn s (setCC s
        { (queuesOf qs).foldl (placeMarker (cc s).cs (cc s).ord) (cc s) with ord := (cc s).ord + 1 })))
    ∧ ((∃ q ∈ queuesOf qs, mayTake (cc s) q (cc s).cs = false) →
      ∃ s' m, exec (.mark qs) s = .next (waits s s' (.entry m))
        ∧ ∀ q, (getEng (cc s') q).q = (getEng (cc s) q).q)
    ∧ ((∀ q ∈ queuesOf qs, hasMarker (cc s) q (cc s).cs = false) → exec (.join qs) s = .next (goOn s s))
    ∧ ((∃ q ∈ queuesOf qs, hasMarker (cc s) q (cc s).cs = true) → exec (.join qs) s = .next (waits s s (.join qs)))

/-- R35, R40, R206, R207: tokens and markers of the conductor. -/
def Obligations.TokensAndMarkersMoveOrWait : Prop :=
  Sys2Proof.Statements.ConductorTokensMoveOrWait
  ∧ Sys2Proof.Statements.MarkersArePlacedTogetherAndJoined

/-! ### Barriers, waits, strands, sections (R208 to R213, R227) -/

/-- R75, R76, R208: a bar whose arrival completes its slot goes on; one whose slot is in the phase of its bar waits. -/
def Sys2Proof.Statements.BarrierReleasesItsStrandOnANewPhase : Prop :=
  ∀ (s : State) (l : Scope) (k : BitVec 3), Free s [] → OnCore s → NotFault s → (cst s).barOn = none →
    let lvl := Sys2Proof.Machine.Scope.code l
    let ph := (getSlot s s.cur lvl k.toNat).phase.toNat
    let s' := tryArrive (setBarOn s (cc s).cs (some (lvl, k.toNat, ph))) lvl k.toNat (cc s).cs
    ((getSlot s' s'.cur lvl k.toNat).phase.toNat ≠ ph →
      exec (.bar l k) s = .next (goOn s (setBarOn s' (cc s).cs none)))
    ∧ ((getSlot s' s'.cur lvl k.toNat).phase.toNat = ph → exec (.bar l k) s = .next (waits s s' (.bar lvl k.toNat ph)))

/-- R77: adding bytes to a slot's pending count is refused where it would leave 64 bits, and else changes the count by that
much; a slot completes when every member has arrived and nothing is pending. -/
def Sys2Proof.Statements.CountedBytesHoldTheSlot : Prop :=
  ∀ (s : State) (c lvl slot : Nat) (n : Int),
    let v := getSlot s c lvl slot
    ((v.pending.toNat + n < 0 ∨ 2 ^ 64 ≤ v.pending.toNat + n) → slotAdd s c lvl slot n = .error v.pending)
    ∧ (0 ≤ v.pending.toNat + n → v.pending.toNat + n < 2 ^ 64 →
      slotAdd s c lvl slot n
        = .ok (slotCheck (setSlot s c lvl slot { v with pending := BitVec.ofInt 64 (v.pending.toNat + n) }) c lvl slot))

/-- R75 to R77, R208: barriers and counted bytes. -/
def Obligations.BarriersHoldUntilEveryArrival : Prop :=
  Sys2Proof.Statements.BarrierReleasesItsStrandOnANewPhase
  ∧ Sys2Proof.Statements.CountedBytesHoldTheSlot

/-- R209: a timed wait whose target the counter has reached goes on at once, another waits; WAIT_TARGET_REACHED readies the
strand when the counter gets there. -/
def Sys2Proof.Statements.TimedWaitEndsAtItsTarget : Prop :=
  ∀ (s : State) (a : Reg), Free s [a.toNat] → OnCore s → NotFault s →
    ((rx s a).toNat ≤ schedCyc s s.cur → exec (.waitCyc a) s = .next (goOn s s))
    ∧ (schedCyc s s.cur < (rx s a).toNat → exec (.waitCyc a) s = .next (waits s s (.cyc (rx s a))))
    ∧ ((rx s a).toNat ≤ s.gtc → exec (.waitGtc a) s = .next (goOn s s))
    ∧ (s.gtc < (rx s a).toNat → exec (.waitGtc a) s = .next (waits s s (.gtc (rx s a))))

/-- R209: WAIT_TARGET_REACHED. -/
def Sys2Proof.Statements.ReachedTargetReadiesTheStrand : Prop :=
  ∀ (s : State) (b : BitVec 2) (v : W64), (sn s b.toNat).run = .waiting →
    ((sn s b.toNat).wait = some (.cyc v) → v.toNat ≤ schedCyc s s.cur →
      exec (.waitTargetReached b) s = .next (setSn s b.toNat { sn s b.toNat with run := .ready }))
    ∧ ((sn s b.toNat).wait = some (.gtc v) → v.toNat ≤ s.gtc →
      exec (.waitTargetReached b) s = .next (setSn s b.toNat { sn s b.toNat with run := .ready }))

/-- R209: timed waits and the event that ends them. -/
def Obligations.TimedWaitsEndAtTheirTarget : Prop :=
  Sys2Proof.Statements.TimedWaitEndsAtItsTarget
  ∧ Sys2Proof.Statements.ReachedTargetReadiesTheStrand

/-- R211: spawn starts a strand that is not live at an aligned address with x1 to x10 of the spawner and all else zero; a
live strand or the fault strand raises 0x0104, a misaligned address 0x0101. -/
def Sys2Proof.Statements.SpawnStartsAStrand : Prop :=
  ∀ (s : State) (k : BitVec 2) (a : Reg) (w : W32),
    Free s (a.toNat :: (List.range 10).map (· + 1)) → OnCore s → NotFault s → encode (.spawn k a) = .cword w →
    (liveStrand s (cc s) k.toNat = true ∨ isFaultStrand s (cc s) k.toNat = true →
      exec (.spawn k a) s = .next (faults s { code := 0x0104, detail := w.setWidth 64 } w))
    ∧ (liveStrand s (cc s) k.toNat = false → isFaultStrand s (cc s) k.toNat = false →
      ((rx s a).toNat % 4 ≠ 0 → exec (.spawn k a) s = .next (faults s { code := 0x0101, addr := rx s a, detail := 4 } w))
      ∧ ((rx s a).toNat % 4 = 0 → ∃ u : Strand,
        exec (.spawn k a) s = .next (goOn s (setSn s k.toNat u))
        ∧ u.run = .ready ∧ u.pc = rx s a ∧ u.eseq = (sn s k.toNat).eseq ∧ u.p = 0 ∧ u.lc = 0 ∧ u.loop = {} ∧ u.w = []
        ∧ (∀ r, 1 ≤ r → r ≤ 10 → xget u r = xget (cst s) r) ∧ (∀ r, 10 < r → xget u r = 0)))

/-- R41, R212: exit ends a strand whose words have all completed, and waits where one has not. -/
def Sys2Proof.Statements.ExitEndsADrainedStrand : Prop :=
  ∀ s : State, Free s [] → OnCore s → NotFault s →
    (drainedOf (cc s) (cc s).cs = false → exec .exit s = .next (waits s s .drainOwn))
    ∧ (drainedOf (cc s) (cc s).cs = true → (cst s).flag = none →
      let t := stopStrand s (cc s).cs
      exec .exit s = .next (finishCheck (exitArrive t) s.cur)
      ∧ (getStrand (getCore t s.cur) (cc s).cs).run = .idle ∧ t.mem = s.mem
      ∧ ∀ n, n ≠ (cc s).cs → getStrand (getCore t s.cur) n = getStrand (cc s) n)

/-- R211, R212: spawn and exit. -/
def Obligations.StrandsStartAndEnd : Prop :=
  Sys2Proof.Statements.SpawnStartsAStrand
  ∧ Sys2Proof.Statements.ExitEndsADrainedStrand

/-- R227: yield with no request pending goes on; with one it stops the core, which will go on at the next word; its
conditions fail with 0x0106 and detail 1, 2 or 3. nop goes on. -/
def Obligations.YieldStopsOnlyOnRequest : Prop :=
  (∀ s : State, Free s [] → exec .nop s = .next (goOn s s))
  ∧ (∀ (s : State) (w : W32), Free s [] → OnCore s → NotFault s → encode .yield = .cword w →
    ((cc s).cs ≠ 0 ∨ liveStrands s (cc s) ≠ [0] ∨ faultRunning (cc s) = true →
      exec .yield s = .next (faults s { code := 0x0106, detail := 1 } w))
    ∧ ((cc s).cs = 0 → liveStrands s (cc s) = [0] → faultRunning (cc s) = false →
      ((cst s).loop.act = true → exec .yield s = .next (faults s { code := 0x0106, detail := 2 } w))
      ∧ ((cst s).loop.act = false → drained (cc s) = false → exec .yield s = .next (waits s s .drainYield))
      ∧ ((cst s).loop.act = false → drained (cc s) = true → anyToken (cc s) = true →
        exec .yield s = .next (faults s { code := 0x0106, detail := 3 } w))
      ∧ ((cst s).loop.act = false → drained (cc s) = true → anyToken (cc s) = false →
        ((curTask s).yldReq = false → exec .yield s = .next (goOn s s))
        ∧ ((curTask s).yldReq = true →
          exec .yield s = .next (taskLeaves (setCC (goOn s s) { cc (goOn s s) with run := .yielded }) (cc s).task)))))

/-- R44, R213: start and ilock switch the core's section when its queues have drained and no earlier switch is pending, and
wait otherwise, an emission of another strand in flight included; start sets the cycle from which every queue counts, and
after ilock no queue counts from a start. -/
def Obligations.SectionSwitchesWhenDrained : Prop :=
  ∀ (s : State), OnCore s → NotFault s → (cc s).switching = [] →
    (∀ a : Reg, Free s [a.toNat] → sectionDrained (cc s) = true →
      let at_ : Int := (rx s a).toNat + (cc s).off
      exec (.start a) s = .next (goOn s (setCC s (switchSection { cc s with switching := [(cc s).cs] } (some at_))))
      ∧ (switchSection { cc s with switching := [(cc s).cs] } (some at_)).timed = true
      ∧ ∀ q, q < 4 → (getEng (switchSection { cc s with switching := [(cc s).cs] } (some at_)) q).base = some at_)
    ∧ (Free s [] → sectionDrained (cc s) = true →
      exec .ilock s = .next (goOn s (setCC s (switchSection { cc s with switching := [(cc s).cs] } none)))
      ∧ (switchSection { cc s with switching := [(cc s).cs] } none).timed = false
      ∧ ∀ q, q < 4 → (getEng (switchSection { cc s with switching := [(cc s).cs] } none) q).base = none)
    ∧ (∀ a : Reg, Free s [a.toNat] → sectionDrained (cc s) = false →
      exec (.start a) s = .next (waits s (setCC s { cc s with switching := [(cc s).cs] }) .drain))
    ∧ (Free s [] → sectionDrained (cc s) = false →
      exec .ilock s = .next (waits s (setCC s { cc s with switching := [(cc s).cs] }) .drain))

/-! ### Control registers (R25, R214) -/

/-- R214: crr reads the control register it names into rd; a number that names none raises 0x0001; a prologue reads its own
three only, and else raises 0x0107. -/
def Sys2Proof.Statements.ControlRegisterReads : Prop :=
  ∀ (s : State) (d : Reg) (num : BitVec 12) (w : W32), Free s [d.toNat] → encode (.crr d num) = .cword w →
    (readCreg s s.cur (cc s).cs num.toNat = none →
      exec (.crr d num) s = .next (faults s { code := 0x0001, detail := w.setWidth 64 } w))
    ∧ ∀ v, readCreg s s.cur (cc s).cs num.toNat = some v →
      ((isPrologue s.cur = false ∨ num.toNat = 0x000 ∨ num.toNat = 0x006 ∨ num.toNat = 0x00C) →
        exec (.crr d num) s = .next (goOn s (wx s d v)))
      ∧ (isPrologue s.cur = true → num.toNat ≠ 0x000 → num.toNat ≠ 0x006 → num.toNat ≠ 0x00C →
        exec (.crr d num) s = .next (faults s { code := 0x0107, detail := w.setWidth 64 } w))

/-- R25, R163, R214: what the control registers read, and which numbers name none. -/
def Sys2Proof.Statements.ControlRegistersHoldTheirValues : Prop :=
  ∀ (s : State) (c n : Nat),
    let k := getCore s c
    let t := getStrand k n
    readCreg s c n 0x000 = some (BitVec.ofNat 64 s.gtc) ∧ readCreg s c n 0x001 = some (BitVec.ofNat 64 (schedCyc s c))
    ∧ readCreg s c n 0x002 = some (BitVec.ofNat 64 k.lid) ∧ readCreg s c n 0x003 = some (BitVec.ofNat 64 k.ncores)
    ∧ readCreg s c n 0x005 = some (BitVec.ofNat 64 n) ∧ readCreg s c n 0x006 = some (BitVec.ofNat 64 k.task)
    ∧ readCreg s c n 0x007 = some (t.eseq.setWidth 64) ∧ readCreg s c n 0x008 = some (if k.timed then 1 else 0)
    ∧ (∀ q, q < 4 → readCreg s c n (0x010 + q) = some (getEng k q).cseq)
    ∧ (∀ l, l < 5 → readCreg s c n (0x040 + l) = some (tget 0 k.dom l))
    ∧ readCreg s c n 0x050 = some (BitVec.ofNat 64
        ((if t.loop.act then 1 else 0) + t.loop.stm.toNat * 2 + t.loop.ec.toNat * 16 + (if t.loop.q then 128 else 0)))
    ∧ readCreg s c n 0x051 = some t.loop.beg ∧ readCreg s c n 0x052 = some t.loop.fin
    ∧ (isFaultStrand s k n = false → ∀ j, j ≤ 9 → readCreg s c n (0x060 + j) = some 0)
    ∧ ∀ num, 0x090 < num → readCreg s c n num = none

/-- R25, R163, R214: crr and what the control registers read. -/
def Obligations.ControlRegistersReadTheirValues : Prop :=
  Sys2Proof.Statements.ControlRegisterReads
  ∧ Sys2Proof.Statements.ControlRegistersHoldTheirValues

/-- R98, R214, R500: crw writes the registers that may be written: race.stat by clearing, the verdict registers for the
fault strand only, wp.stat by clearing, an address of a watchpoint that is off with its low bits clear, a control whose
en bit is clear disarming, one whose en bit is set arming. A number that may not be written raises 0x0001 (R138): that
0x060 to 0x067 raise it also where another strand than the fault strand writes them, where R215 has such writes ignored,
is the model's choice (log entry 114). -/
def Obligations.ControlRegisterWrites : Prop :=
  ∀ (s : State) (a : Reg) (num : BitVec 12) (w : W32), Free s [a.toNat] → OnCore s → encode (.crw num a) = .cword w →
    let k := cc s
    (writableCreg num.toNat = false → exec (.crw num a) s = .next (faults s { code := 0x0001, detail := w.setWidth 64 } w))
    ∧ (num.toNat = 0x048 → exec (.crw num a) s = .next (goOn s (clearRace s (rx s a))))
    ∧ (num.toNat = 0x068 → isFaultStrand s k k.cs = true → exec (.crw num a) s = .next (goOn s (setCC s { k with fltWord := rx s a })))
    ∧ (num.toNat = 0x069 → isFaultStrand s k k.cs = true → exec (.crw num a) s = .next (goOn s (setCC s { k with fltPc := rx s a })))
    ∧ (num.toNat = 0x068 ∨ num.toNat = 0x069 → NotFault s → exec (.crw num a) s = .next (goOn s s))
    ∧ (num.toNat = 0x090 → exec (.crw num a) s = .next (goOn s (setCC s { k with wpStat := k.wpStat &&& ~~~(rx s a &&& 0xFF) })))
    ∧ (∀ n, n < 8 → num.toNat = 0x080 + 2 * n → wpEn k n = false →
      exec (.crw num a) s = .next (goOn s (setCC s { k with wpAdr := tput 0 k.wpAdr n (rx s a &&& ~~~(0xF : W64)) })))
    ∧ (∀ n, n < 8 → num.toNat = 0x080 + 2 * n → wpEn k n = true → exec (.crw num a) s = .next (goOn s s))
    ∧ (∀ n, n < 8 → num.toNat = 0x081 + 2 * n → (rx s a).getLsbD 16 = false →
      exec (.crw num a) s = .next (goOn s (disarmWatch s n (rx s a))))
    ∧ (∀ n, n < 8 → num.toNat = 0x081 + 2 * n → (rx s a).getLsbD 16 = true → ∀ s1 loc p,
      reach s s.cur (tget 0 k.wpAdr n) 16 0 false false = (s1, .ok loc p) → s1.defer = false → flightsBefore (cc s1) (cc s1).ord = [] →
      exec (.crw num a) s = .next (goOn s (performWatch (takeOrd s1) n (rx s a) loc)))

/-- R500, R501: a watchpoint's control written with en clear disarms it; armed at a place of this device, the port takes the
watch at once and st reads 0, or refuses it and st reads 2; an address that cannot be reached leaves it off with st 1.
WATCH_ARM and WATCH_DISARM do the same with a value of their own. -/
def Sys2Proof.Statements.WatchpointsAreArmedAndDisarmed : Prop :=
  ∀ (s : State) (n : BitVec 3) (v : W64), Free s [] → OnCore s →
    let va := tget 0 (cc s).wpAdr n.toNat
    let arm := v ||| 0x10000
    exec (.watchDisarm n v) s = .next (goOn s (disarmWatch s n.toNat (v &&& ~~~(0x10000 : W64))))
    ∧ (∀ s1 f, reach s s.cur va 16 0 false false = (s1, .flt f) →
      exec (.watchArm n v) s = .next (goOn s (setWpSt (disarmWatch s1 n.toNat arm) s.cur n.toNat 1)))
    ∧ (∀ s1 loc p, reach s s.cur va 16 0 false false = (s1, .ok loc p) → s1.defer = false → flightsBefore (cc s1) (cc s1).ord = [] →
      exec (.watchArm n v) s = .next (goOn s (performWatch (takeOrd s1) n.toNat arm loc)))

/-- R501: a watch that was sent is taken or refused by its port. -/
def Sys2Proof.Statements.SentWatchIsTakenByItsPort : Prop :=
  ∀ (s : State) (b : BitVec 2) (fl : Flight) (n : Nat) (v : W64),
    (sn s b.toNat).flight = some fl → fl.op = .watch n v → mayPerform s fl = true →
    exec (.watchTaken b) s = .next (finishIssue (performWatch s n v fl.loc) b.toNat ((sn s b.toNat).pc + 4) false)

/-- R500, R501: watchpoints are armed, disarmed, and taken by their ports. -/
def Obligations.WatchpointsReachTheirPorts : Prop :=
  Sys2Proof.Statements.WatchpointsAreArmedAndDisarmed
  ∧ Sys2Proof.Statements.SentWatchIsTakenByItsPort

/-! ### Faults, the fault strand and the return from it (R46 to R53, R216 to R219) -/

/-- R46, R50, R52: a level 1 fault stops its strand at its instruction and writes one trap record, numbered among those
of its cycle, with the code, the address and the detail; no other strand, no register and no memory of the core changes.
-/
def Sys2Proof.Statements.LevelOneFaultRecordsAndStops : Prop :=
  ∀ (s : State) (c n : Nat) (f : Flt) (w : W32), isPrologue c = false → hasFaultStrand s (getCore s c) = true →
    isFaultStrand s (getCore s c) n = false →
    let k := getCore s c
    let pc := (getStrand k n).pc
    let r : Trap := {
      gtc := BitVec.ofNat 64 s.gtc, task := BitVec.ofNat 32 k.task, seq := k.recSeq, lid := BitVec.ofNat 16 k.lid
      strand := BitVec.ofNat 8 n, level := 1, code := f.code, engine := 0xFF, pc := pc, position := pc, eseq := 0
      tmpl := 0xFFFF, addr := f.addr, detail := f.detail }
    let k' := getCore (raise1 s c n f w) c
    k'.strands = tset k.strands n { getStrand k n with run := .faulted, flight := none, fetched := none }
    ∧ k'.recSeq = k.recSeq + 1 ∧ k'.newRecs = (addRecord k r).newRecs
    ∧ k'.pendRecs = (addRecord k r).pendRecs ++ [{ trap := numbered k r, word := w.setWidth 64, prog := 0, issued := false }]
    ∧ k'.hold = k.hold ∧ k'.scr = k.scr ∧ k'.sreg = k.sreg ∧ ∀ q, (getEng k' q).q = (getEng k q).q

/-- R48, R50: a level 2 fault of a word that has not issued stops its engine, puts the core in hold from the next cycle
on and records the word; the other engines keep their queues. -/
def Sys2Proof.Statements.LevelTwoFaultStopsItsEngine : Prop :=
  ∀ (s : State) (c q : Nat) (w : QWord) (f : Flt), isPrologue c = false → hasFaultStrand s (getCore s c) = true →
    let k := getCore s c
    let k' := getCore (raise2 s c q w f false 0) c
    (getEng k' q).stop = true ∧ (getEng k' q).q = (getEng k q).q
    ∧ k'.hold = true ∧ (k.hold = false → k'.holdAt = cycOf s c) ∧ k'.recSeq = k.recSeq + 1
    ∧ k'.newRecs = (addRecord k (trap2 s c q w f)).newRecs
    ∧ k'.pendRecs = (addRecord k (trap2 s c q w f)).pendRecs
        ++ [{ trap := numbered k (trap2 s c q w f), word := w.bits, prog := 0, issued := false }]
    ∧ k'.strands = k.strands ∧ k'.scr = k.scr ∧ ∀ p, p ≠ q → getEng k' p = getEng k p

namespace Sys2Proof.Statements

/-- The records of a core's present cycle stand in the order of R50, level 2 by engine and then level 1 by strand, and bear
the last sequence numbers given, in that order. -/
def NumberedCycle (k : Core) : Prop :=
  k.newRecs.Pairwise (fun a b => recRank a ≤ recRank b)
  ∧ ∀ (i : Nat) (t : Trap), k.newRecs[i]? = some t → t.seq = k.recSeq - BitVec.ofNat 32 k.newRecs.length + BitVec.ofNat 32 i

end Sys2Proof.Statements

/-- R50, R53: whichever order the faults of one cycle come in, their records are numbered level 2 before level 1, V, M,
G, X, then by strand: a record that is added takes its place, and what comes after it moves on by one. -/
def Sys2Proof.Statements.RecordsOfOneCycleAreNumberedInOrder : Prop :=
  ∀ (k : Core) (r : Trap), Sys2Proof.Statements.NumberedCycle k →
    Sys2Proof.Statements.NumberedCycle (addRecord k r) ∧ numbered k r ∈ (addRecord k r).newRecs

/-- R46, R48, R50, R52: what taking a fault of level 1 and of level 2 does, and how the records of one cycle are
numbered. -/
def Obligations.FaultsRecordAndStop : Prop :=
  Sys2Proof.Statements.LevelOneFaultRecordsAndStops
  ∧ Sys2Proof.Statements.LevelTwoFaultStopsItsEngine
  ∧ Sys2Proof.Statements.RecordsOfOneCycleAreNumberedInOrder

/-- R216: the fault strand starts on the pending record of least sequence number, at the kernel's fault entry, with the word
and the pc of that record in its verdict registers; its registers are zero. -/
def Sys2Proof.Statements.FaultStrandStartsOnTheOldestRecord : Prop :=
  ∀ (s : State) (p : Pending) (rest : List Pending),
    (cc s).run = .on → hasFaultStrand s (cc s) = true → (cc s).handling = none →
    ((cc s).hold = true → inHold (cc s) (curCyc s) = true ∧ holdQuiet (cc s) = true) →
    nextRecord (cc s).pendRecs = some (p, rest) →
    ∃ t, exec .faultStrandStart s = .next t
      ∧ (∀ r ∈ (cc s).pendRecs, p.trap.seq.toNat ≤ r.trap.seq.toNat)
      ∧ (cc t).handling = some p ∧ (cc t).pendRecs = rest ∧ (cc t).fltWord = p.word ∧ (cc t).fltPc = p.trap.pc
      ∧ (getStrand (cc t) 3).run = .ready
      ∧ (getStrand (cc t) 3).pc = (getTask s (cc s).task).codeVa + BitVec.ofNat 64 ((getTask s (cc s).task).kernel.onfault.getD 0)
      ∧ (∀ r, xget (getStrand (cc t) 3) r = 0)

/-- R217, R218, R219: fret outside the fault strand raises 0x0001; in it, a verdict of 3 ends the node with status 2,
and any other is noted for the record and, when no record is pending, takes effect at the end of the hold. Of a copy
word that will not go on, the bytes not performed leave its counted slot at once. -/
def Sys2Proof.Statements.FaultReturnGivesItsVerdict : Prop :=
  ∀ (s : State) (v : BitVec 2) (w : W32), Free s [] → OnCore s → encode (.fret v) = .cword w →
    (NotFault s → exec (.fret v) s = .next (faults s { code := 0x0001, detail := w.setWidth 64 } w))
    ∧ (isFaultStrand s (cc s) (cc s).cs = true → ∀ p, (cc s).handling = some p →
      let u := if v = 0 then s else copyUncount s p
      (v = 3 → exec (.fret v) s = .next (haltTask (setCC u { cc u with slotAt := curCyc u + 1 }) (cc s).task 2 none))
      ∧ (v ≠ 3 →
        let k := { setStrand (cc u) 3 { getStrand (cc u) 3 with run := .idle } with
          handling := none, verdicts := (cc u).verdicts ++ [{ p := p, code := v, word := (cc u).fltWord, pc := (cc u).fltPc }]
          slotAt := curCyc u + 1 }
        exec (.fret v) s = .next (if (cc u).pendRecs = [] then finishCheck (endHold (setCC u k) u.cur) u.cur else setCC u k)))

/-- R370: a verdict other than retry takes from its counted slot the bytes that an issued copy word has not performed;
of any other record, and of a word without a slot, it takes none. -/
def Sys2Proof.Statements.StoppedCopyWordLeavesItsSlot : Prop :=
  ∀ (s : State) (p : Pending),
    let mine := p.issued = true ∧ p.trap.level = 2 ∧ p.trap.engine = 3
    ((cc s).cpy.slot = none ∨ ¬ mine → copyUncount s p = s)
    ∧ (∀ lvl sl, (cc s).cpy.slot = some (lvl, sl) → mine →
      let t := setCC s { cc s with cpy := { (cc s).cpy with left := 0 } }
      ∀ t1, slotAdd t t.cur lvl sl (-((cc s).cpy.left : Int)) = .ok t1 → copyUncount s p = t1)

/-- R218: what the verdicts do to a strand that faulted: retry and replace go on at flt.pc, skip after the instruction. -/
def Sys2Proof.Statements.VerdictResumesTheStrand : Prop :=
  ∀ (k : Core) (v : Verdict),
    let n := v.p.trap.strand.toNat
    (getStrand (verdict1 k v) n).run = .ready
    ∧ (getStrand (verdict1 k v) n).pc = (if v.code = 1 then v.p.trap.pc + 4 else v.pc)
    ∧ (∀ r, xget (getStrand (verdict1 k v) n) r = xget (getStrand k n) r)
    ∧ ∀ m, m ≠ n → getStrand (verdict1 k v) m = getStrand k m

/-- R216 to R219, R370: the fault strand and the return from it. -/
def Obligations.FaultStrandRunsAndReturns : Prop :=
  Sys2Proof.Statements.FaultStrandStartsOnTheOldestRecord
  ∧ Sys2Proof.Statements.FaultReturnGivesItsVerdict
  ∧ Sys2Proof.Statements.StoppedCopyWordLeavesItsSlot
  ∧ Sys2Proof.Statements.VerdictResumesTheStrand

/-- R138, R146: a reserved C-word raises 0x0001, a reserved E-word at the head of its queue raises 0x0002, each with its
word. -/
def Sys2Proof.Statements.ReservedWordsFault : Prop :=
  (∀ (s : State) (w : W32), Free s [] → exec (.illegalCWord w) s = .next (faults s { code := 0x0001, detail := w.setWidth 64 } w))
  ∧ (∀ (s : State) (q : Queue) (w : W64) (qw : QWord),
    MayIssue q.code.toNat { pop := none, push := none, idle := w.extractLsb' 0 10 } s qw → qw.bits = w →
    exec (.illegalEWord q w) s = .next (raise2 s s.cur q.code.toNat qw { code := 0x0002, detail := w } false 0))

/-- R187: an instruction fetch that cannot be made raises its fault on the strand, with no word. -/
def Sys2Proof.Statements.FetchFaultStopsTheStrand : Prop :=
  ∀ (s s1 : State) (f : Flt), fetchAt s s.cur (cst s).pc = (s1, .error f) →
    exec .instructionFetchFault s = .next (faultIssue s1 (cc s1).cs f 0)

/-- R20: a strand that has issued 1,024 instructions in its block gives way to the next ready strand in ascending order; so
does one that waits, when the next instruction issues. -/
def Sys2Proof.Statements.BlockEndsAfterItsInstructions : Prop :=
  (∀ s : State, OnCore s → 1024 ≤ (cst s).block →
    ∃ t, exec .blockEnd s = .next t ∧ (getStrand (cc t) (cc s).cs).block = 0
      ∧ (∀ i, 1 ≤ i → i ≤ 3 → strandReady s s.cur (((cc s).cs + i) % 4) = true →
          (∀ j, 1 ≤ j → j < i → strandReady s s.cur (((cc s).cs + j) % 4) = false) → (cc t).cs = ((cc s).cs + i) % 4)
      ∧ ((∀ i, 1 ≤ i → i ≤ 3 → strandReady s s.cur (((cc s).cs + i) % 4) = false) → (cc t).cs = (cc s).cs))
  ∧ (∀ (s : State) (w : Wait), (cc (waitFor s (cc s).cs w)).ended = true)
  ∧ (∀ (s : State) (c i : Nat), (getCore s c).ended = true → 1 ≤ i → i ≤ 4 → strandReady s c (((getCore s c).cs + i) % 4) = true →
      (∀ j, 1 ≤ j → j < i → strandReady s c (((getCore s c).cs + j) % 4) = false) →
      pickStrand s c = some (((getCore s c).cs + i) % 4))

namespace Sys2Proof.Statements

/-- Conductor instructions that a prologue may not execute (R418). -/
def notInPrologue : Instr → Bool
  | .stB _ _ _ | .stH _ _ _ | .stW _ _ _ | .stD _ _ _ | .stS _ _ _ _ | .stRel _ _ _ _ => true
  | .ldf _ _ | .ldt _ _ | .ste _ _ | .stf _ _ | .tclr _ | .tagrd _ _ => true
  | .fenceAcq _ | .fenceRel _ | .fenceFull _ | .cas _ _ _ _ _ _ => true
  | .amoAdd _ _ _ _ _ _ | .amoQadd _ _ _ _ _ | .amoSmin _ _ _ _ _ _ | .amoSmax _ _ _ _ _ _ | .amoUmin _ _ _ _ _ _ => true
  | .amoUmax _ _ _ _ _ _ | .amoAnd _ _ _ _ _ _ | .amoOr _ _ _ _ _ _ | .amoXor _ _ _ _ _ _ | .amoSwap _ _ _ _ _ _ => true
  | .wins _ _ _ _ | .wmov _ _ | .wrd _ _ | .wcpy _ _ | .wtmpl _ _ | .emit _ _ _ | .emitt _ _ _ | .qstat _ _ => true
  | .tkpush _ | .tkpop _ | .sset _ _ _ | .sget _ _ _ | .scpy _ _ | .sclr _ | .mark _ | .join _ => true
  | .bar _ _ | .waitCyc _ | .waitGtc _ | .spawn _ _ | .yield | .start _ | .ilock | .fret _ => true
  | _ => false

/-- Those that the fault strand may not execute (R217). -/
def notInFaultStrand : Instr → Bool
  | .emit _ _ _ | .emitt _ _ _ | .tkpush _ | .tkpop _ | .mark _ | .join _ | .bar _ _ | .waitCyc _ | .waitGtc _ => true
  | .spawn _ _ | .exit | .yield | .start _ | .ilock => true
  | _ => false

end Sys2Proof.Statements

open Sys2Proof.Statements in
/-- R217, R418: an instruction that a prologue may not execute raises 0x0107 there, one that the fault strand may not
execute raises 0x0105 there, each with its word and no other effect. -/
def Sys2Proof.Statements.ForbiddenInstructionsFault : Prop :=
  ∀ (s : State) (i : Instr) (w : W32), encode i = .cword w →
    (notInPrologue i = true → isPrologue s.cur = true → exec i s = .next (faults s { code := 0x0107, detail := w.setWidth 64 } w))
    ∧ (notInFaultStrand i = true → OnCore s → isFaultStrand s (cc s) (cc s).cs = true →
      exec i s = .next (faults s { code := 0x0105, detail := w.setWidth 64 } w))

/-- R20, R138, R146, R187, R217, R418: reserved words, forbidden instructions, fetches that fault, and the end of a
block. -/
def Obligations.WordsThatMayNotRunFault : Prop :=
  Sys2Proof.Statements.ReservedWordsFault
  ∧ Sys2Proof.Statements.ForbiddenInstructionsFault
  ∧ Sys2Proof.Statements.FetchFaultStopsTheStrand
  ∧ Sys2Proof.Statements.BlockEndsAfterItsInstructions

/-! ### Engine words: issue (R33, R38 to R43, R141, R200, R528) -/

/-- R38, R40, R141, R215: a null word that may issue leaves its queue, takes its pop, writes its push, counts and lets the
markers behind it go. -/
def Sys2Proof.Statements.NullWordCompletesAtIssue : Prop :=
  ∀ (s : State) (h : EHead) (w : QWord),
    (MayIssue 0 h s w → exec (.vnop h) s = .next (completeWord (takeWord s 0 h w).1 0 (takeWord s 0 h w).2))
    ∧ (MayIssue 1 h s w → exec (.mnop h) s = .next (completeWord (takeWord s 1 h w).1 1 (takeWord s 1 h w).2))
    ∧ (MayIssue 2 h s w → exec (.gnop h) s = .next (completeWord (takeWord s 2 h w).1 2 (takeWord s 2 h w).2))
    ∧ (MayIssue 3 h s w → exec (.xnop h) s = .next (completeWord (takeWord s 3 h w).1 3 (takeWord s 3 h w).2))

/-- R38, R42: the word that issues leaves the head of its queue, its pop takes the oldest token of its link and its push
reserves an entry of its own; its cycle becomes the queue's; the other queues, the strands and the scratchpad stay. -/
def Sys2Proof.Statements.IssueTakesTheWordAndItsTokens : Prop :=
  ∀ (s : State) (q : Nat) (h : EHead) (w : QWord), w.held = false → (getEng (cc s) q).wait = none →
    let t := (takeWord s q h w).1
    (getEng (cc t) q).q = headWord (fun _ => none) (getEng (cc s) q).q ∧ (getEng (cc t) q).prev = some (curCyc s) ∧ (getEng (cc t) q).base = none
    ∧ (∀ p, p ≠ q → getEng (cc t) p = getEng (cc s) p)
    ∧ (∀ p, h.pop = some p → tokens (cc t) (popLink q p.code.toNat) = (tokens (cc s) (popLink q p.code.toNat)).tail)
    ∧ (∀ p, h.push = some p →
        tget 0 (cc t).resv (pushLink q p.code.toNat) = tget 0 (cc s).resv (pushLink q p.code.toNat) + 1)
    ∧ (h.pop = none → (cc t).links = (cc s).links) ∧ (h.push = none → (cc t).resv = (cc s).resv)
    ∧ (cc t).strands = (cc s).strands ∧ (cc t).scr = (cc s).scr ∧ t.mem = s.mem
    ∧ (takeWord s q h w).2 = { w := w, t := curCyc s, due := none, push := h.push.map fun p => pushLink q p.code.toNat, gen := s.mm.gen }

/-- R38, R40, R215: completion writes the reserved push token, counts the word, and takes out every marker whose earlier
words have completed. -/
def Sys2Proof.Statements.CompletionPushesCountsAndFreesMarkers : Prop :=
  ∀ (s : State) (q : Nat) (i : Issued),
    let t := completeWord s q i
    (getEng (cc t) q).cseq = (if i.w.skipped then (getEng (cc s) q).cseq else (getEng (cc s) q).cseq + 1)
    ∧ (getEng (cc t) q).q = dropMarkers ((flying (cc s) q).map (·.w)) (getEng (cc s) q).q
    ∧ (∀ l, i.push = some l →
        tokens (cc t) l = tokens (cc s) l ++ [{ strand := i.w.strand, eseq := i.w.eseq }])
    ∧ (i.push = none → (cc t).links = (cc s).links)
    ∧ (∀ p, p ≠ q → getEng (cc t) p = getEng (cc s) p) ∧ (cc t).scr = (cc s).scr ∧ t.mem = s.mem

/-- R38, R40 to R42, R141, R215: issue and completion of an engine word, and the null word. -/
def Obligations.EngineWordsIssueAndComplete : Prop :=
  Sys2Proof.Statements.NullWordCompletesAtIssue
  ∧ Sys2Proof.Statements.IssueTakesTheWordAndItsTokens
  ∧ Sys2Proof.Statements.CompletionPushesCountsAndFreesMarkers

/-- R43, R200, R262: in a timed section a word that stands at the head of its queue after its cycle raises 0x0040 with the
cycles it is late, and one whose token link holds it at its cycle raises 0x0040 with 0; an illegal word misses no cycle. A
record of queue X then takes the number of the word's pieces. -/
def Obligations.ScheduleMissFaults : Prop :=
  ∀ (s : State) (q : Queue) (w : QWord) (h : EHead),
    let n := q.code.toNat
    let due := wordDue (cc s) (getEng (cc s) n) (wordIdle w.bits)
    (wordsOf (getEng (cc s) n).q).head? = some w → headOf w.bits = some h → (cc s).timed = true →
    (getEng (cc s) n).stop = false → inHold (cc s) (curCyc s) = false → wordIdle w.bits ≠ 0 →
    (wordBad q w = true → exec (.scheduleMiss q) s = .next s)
    ∧ (wordBad q w = false → due < curCyc s → exec (.scheduleMiss q) s = .next (issueProg
        (raise2 s s.cur n w { code := 0x0040, detail := BitVec.ofInt 64 (curCyc s - due) } false 0)))
    ∧ (wordBad q w = false → due = curCyc s → tokenHolds (cc s) n h w ≠ [] → exec (.scheduleMiss q) s
      = .next (issueProg (raise2 s s.cur n w { code := 0x0040, detail := 0 } false 0)))


/-! ### Where the forms that may wait or fault complete -/

/-- R197 to R200: wtmpl, emit and emitt complete on a strand that awaits nothing: emit and emitt whose predicate is
false go on at once; with the predicate true, no switch pending and an entry free for the strand, they append one word
to their queue; a template of the pool, reached and readable, is loaded by wtmpl and emitted by emitt. -/
def Sys2Proof.Statements.CompositionFormsComplete : Prop :=
  ∀ s : State, Free s [] → OnCore s → NotFault s →
    (∀ (q : Queue) (p : PReg) (ws : WReg),
      (pget (cst s) p.toNat = false → ∃ t, exec (.emit q p ws) s = .next t ∧ (getEng (cc t) (qn q)).q = (getEng (cc s) (qn q)).q)
      ∧ (pget (cst s) p.toNat = true → (cc s).switching = [] → mayTake (cc s) (qn q) (cc s).cs = true →
        ∃ t w, exec (.emit q p ws) s = .next t ∧ (getEng (cc t) (qn q)).q = (getEng (cc s) (qn q)).q ++ [.word w]
          ∧ w.bits = (wval s ws).val ∧ w.tmpl = (wval s ws).origin ∧ w.strand = (cc s).cs))
    ∧ (∀ (q : Queue) (p : PReg) (idx : W16), idx.toNat < (curTask s).kernel.poolCount → pget (cst s) p.toNat = false →
      ∃ t, exec (.emitt q p idx) s = .next t ∧ (getEng (cc t) (qn q)).q = (getEng (cc s) (qn q)).q)
    ∧ (∀ (q : Queue) (p : PReg) (idx : W16) (s1 : State) (loc : Loc), idx.toNat < (curTask s).kernel.poolCount →
      pget (cst s) p.toNat = true → (cc s).switching = [] → mayTake (cc s) (qn q) (cc s).cs = true →
      Reaches s (Sys2Proof.Statements.templateReq s (.emitt (qn q) idx.toNat) idx) s1 loc → uncorrectable s1 loc 8 = none →
      ∃ t, exec (.emitt q p idx) s = .next t)
    ∧ (∀ (d : WReg) (idx : W16) (s1 : State) (loc : Loc), idx.toNat < (curTask s).kernel.poolCount →
      Reaches s (Sys2Proof.Statements.templateReq s (.wtmpl d.toNat idx.toNat) idx) s1 loc → uncorrectable s1 loc 8 = none →
      ∃ t, exec (.wtmpl d idx) s = .next (goOn s t) ∧ (wval t d).origin = idx
        ∧ (wval t d).val = BitVec.ofNat 64 (leNat (readLoc s1 loc 8)))

/-- R75, R76, R208: the bar by which the last live strand of the last member comes to a slot of its core, cluster, die or
device with no bytes outstanding completes: the slot's phase advances, nobody has arrived in the new phase, and the strand
goes on. -/
def Sys2Proof.Statements.LastArrivalCompletesItsBar : Prop :=
  ∀ (s : State) (l : Scope) (k : BitVec 3), Free s [] → OnCore s → NotFault s →
    let lvl := Sys2Proof.Machine.Scope.code l
    let v := getSlot s s.cur lvl k.toNat
    l ≠ .fabric → (cst s).barOn = none → (cc s).cs ∈ liveStrands s (cc s) →
    (∀ n ∈ liveStrands s (cc s), n ≠ (cc s).cs → (getStrand (cc s) n).barOn = some (lvl, k.toNat, v.phase.toNat)) →
    (∀ e ∈ (cc s).arrivals, e.1 = 8 * lvl + k.toNat → e.2 ≠ v.phase.toNat) →
    (v.arrived + 1).toNat = domCount (cc s) lvl → v.arrived + 1 ≠ 0 → v.pending = 0 →
    ∃ t, exec (.bar l k) s = .next (goOn s t) ∧ (getSlot t t.cur lvl k.toNat).phase = v.phase + 1
      ∧ (getSlot t t.cur lvl k.toNat).arrived = 0

/-- R213, R214: crr of a register that the strand may read writes its value; start and ilock on a core whose queues have
drained, with no other switch pending, switch its section and go on. -/
def Sys2Proof.Statements.SectionAndRegisterFormsComplete : Prop :=
  ∀ s : State, OnCore s →
    (∀ (d : Reg) (num : BitVec 12) (v : W64), Free s [d.toNat] → readCreg s s.cur (cc s).cs num.toNat = some v →
      ∃ t, exec (.crr d num) s = .next (goOn s t) ∧ (d ≠ 0 → rx t d = v) ∧ t.mem = s.mem)
    ∧ (NotFault s → (cc s).switching = [] → sectionDrained (cc s) = true →
      (∀ a : Reg, Free s [a.toNat] → ∃ t, exec (.start a) s = .next (goOn s t) ∧ (cc t).timed = true ∧ (cc t).switching = []
        ∧ ∀ q, q < 4 → (getEng (cc t) q).base = some ((rx s a).toNat + (cc s).off : Int))
      ∧ (Free s [] → ∃ t, exec .ilock s = .next (goOn s t) ∧ (cc t).timed = false ∧ (cc t).switching = []
        ∧ ∀ q, q < 4 → (getEng (cc t) q).base = none))

/-- R20, R43, R138, R146, R187, R200: the forms whose own effect is a fault or the end of a block have it: a reserved C-word
takes 0x0001; a reserved E-word that may issue stops its queue with 0x0002; a word past its cycle, or held by a token at its
cycle, stops its queue with 0x0040; a fetch that cannot be made takes its fault; a full block ends. -/
def Sys2Proof.Statements.StoppingFormsHaveTheirEffect : Prop :=
  ∀ s : State,
    (∀ w : W32, Free s [] → ∃ t, exec (.illegalCWord w) s = .next t
      ∧ t = faults s { code := 0x0001, detail := w.setWidth 64 } w)
    ∧ (∀ (q : Queue) (w : W64) (qw : QWord), MayIssue q.code.toNat { pop := none, push := none, idle := w.extractLsb' 0 10 } s qw →
      qw.bits = w → ∃ t, exec (.illegalEWord q w) s = .next t
        ∧ t = raise2 s s.cur q.code.toNat qw { code := 0x0002, detail := w } false 0)
    ∧ (∀ (q : Queue) (w : QWord) (h : EHead), (wordsOf (getEng (cc s) q.code.toNat).q).head? = some w → headOf w.bits = some h →
      (cc s).timed = true → (getEng (cc s) q.code.toNat).stop = false → inHold (cc s) (curCyc s) = false →
      wordIdle w.bits ≠ 0 → wordBad q w = false →
      let due := wordDue (cc s) (getEng (cc s) q.code.toNat) (wordIdle w.bits)
      due < curCyc s ∨ (due = curCyc s ∧ tokenHolds (cc s) q.code.toNat h w ≠ []) →
      ∃ t late, exec (.scheduleMiss q) s = .next t
        ∧ t = issueProg (raise2 s s.cur q.code.toNat w { code := 0x0040, detail := late } false 0)
        ∧ (due < curCyc s → late = BitVec.ofInt 64 (curCyc s - due)))
    ∧ (∀ (s1 : State) (f : Flt), fetchAt s s.cur (cst s).pc = (s1, .error f) →
      ∃ t, exec .instructionFetchFault s = .next t ∧ t = faultIssue s1 (cc s1).cs f 0)
    ∧ (OnCore s → 1024 ≤ (cst s).block → ∃ t, exec .blockEnd s = .next t ∧ (getStrand (cc t) (cc s).cs).block = 0)

/-- R20, R43, R75, R76, R138, R146, R187, R197 to R200, R208, R213, R214: wtmpl, emit, emitt, bar, crr, start, ilock, the
reserved words, the schedule miss, the fetch fault and the end of a block complete where their conditions hold. -/
def Obligations.FormsCompleteWhereTheirConditionsHold : Prop :=
  Sys2Proof.Statements.CompositionFormsComplete
  ∧ Sys2Proof.Statements.LastArrivalCompletesItsBar
  ∧ Sys2Proof.Statements.SectionAndRegisterFormsComplete
  ∧ Sys2Proof.Statements.StoppingFormsHaveTheirEffect
/-! ### Vector words (R228 to R286) -/

namespace Sys2Proof.Statements

/-- What a vector word does at issue: its token byte and IDLE, its registers and latency, and from the registers its
destination and flags. -/
structure VecEffect where
  h : EHead
  uses : VUses
  run : Core → VDest × Nat

/-- A word each of whose elements is a function of the elements of its sources. -/
def elementwise (w : VWord) (lat : Nat) (srcs : List (BitVec 5)) (f : Core → Nat → Nat × Flags) : VecEffect :=
  { h := w.h, uses := vrUses w srcs lat
    run := fun k => let o := mapElems (maskOf k w.m) w.mz (vty w).width (f k)
                    (.reg w.vd.toNat (BitVec.ofNat 2048 o.val) (BitVec.ofNat 2048 o.msk), if w.nf then 0 else o.fl) }

/-- The same, keeping the class C unit. -/
def classC (w : VWord) (srcs : List (BitVec 5)) (f : Core → Nat → Nat × Flags) : VecEffect :=
  { elementwise w 14 srcs f with uses := { vrUses w srcs 14 with classC := true } }

/-- Elements of the word's three sources as floating-point operands, as codes, as integers. -/
def fa (w : VWord) (k : Core) (e : Nat) : FVal := (vty w).ff.decode (elemOf (vreg k w.va) (vty w).width e)
def fb (w : VWord) (k : Core) (e : Nat) : FVal := (vty w).ff.decode (elemOf (vreg k w.vb) (vty w).width e)
def fc (w : VWord) (k : Core) (e : Nat) : FVal := (vty w).ff.decode (elemOf (vreg k w.vc) (vty w).width e)
def ca (w : VWord) (k : Core) (e : Nat) : Nat := elemOf (vreg k w.va) (vty w).width e
def cb (w : VWord) (k : Core) (e : Nat) : Nat := elemOf (vreg k w.vb) (vty w).width e
def ia (w : VWord) (k : Core) (e : Nat) : Int := elemInt (vty w).signed (vty w).width (ca w k e)
def ib (w : VWord) (k : Core) (e : Nat) : Int := elemInt (vty w).signed (vty w).width (cb w k e)
def ic (w : VWord) (k : Core) (e : Nat) : Int := elemInt (vty w).signed (vty w).width (elemOf (vreg k w.vc) (vty w).width e)

/-- Floating-point words (R241 to R243): each element is the operation, rounded once. -/
def floatWord : Instr → Option VecEffect
  | .vfadd w => some (elementwise w 4 [w.va, w.vb] fun k e => fAdd (vty w).ff (rmD w.rm) (fa w k e) (fb w k e))
  | .vfsub w => some (elementwise w 4 [w.va, w.vb] fun k e => fSub (vty w).ff (rmD w.rm) (fa w k e) (fb w k e))
  | .vfmul w => some (elementwise w 4 [w.va, w.vb] fun k e => fMul (vty w).ff (rmD w.rm) (fa w k e) (fb w k e))
  | .vfma w => some (elementwise w 4 [w.va, w.vb, w.vc] fun k e => fMa (vty w).ff (rmD w.rm) (fa w k e) (fb w k e) (fc w k e))
  | .vfms w => some (elementwise w 4 [w.va, w.vb, w.vc] fun k e => fMa (vty w).ff (rmD w.rm) (fa w k e) (fb w k e) (fc w k e).negate)
  | .vfnma w => some (elementwise w 4 [w.va, w.vb, w.vc] fun k e => fMa (vty w).ff (rmD w.rm) (fa w k e).negate (fb w k e) (fc w k e))
  | .vfdiv w => some (classC w [w.va, w.vb] fun k e => fDiv (vty w).ff (rmD w.rm) (fa w k e) (fb w k e))
  | .vfsqrt w => some (classC w [w.va] fun k e => fSqrt (vty w).ff (rmD w.rm) (fa w k e))
  | .vfexp2 w => some (classC w [w.va] fun k e => fExp2 (vty w).ff (rmD w.rm) (fa w k e))
  | .vflog2 w => some (classC w [w.va] fun k e => fLog2 (vty w).ff (rmD w.rm) (fa w k e))
  | .vfrsqrt w => some (classC w [w.va] fun k e => fRsqrt (vty w).ff (rmD w.rm) (fa w k e))
  | .vfrcp w => some (classC w [w.va] fun k e => fRcp (vty w).ff (rmD w.rm) (fa w k e))
  | .vfmin w => some (elementwise w 2 [w.va, w.vb] fun k e => fMinMax (vty w).ff false (ca w k e) (cb w k e))
  | .vfmax w => some (elementwise w 2 [w.va, w.vb] fun k e => fMinMax (vty w).ff true (ca w k e) (cb w k e))
  | .vfabs w => some (elementwise w 2 [w.va] fun k e => (fAbs (vty w).ff (ca w k e), 0))
  | .vfneg w => some (elementwise w 2 [w.va] fun k e => (fNeg (vty w).ff (ca w k e), 0))
  | .vclass w => some (elementwise w 2 [w.va] fun k e => (fClass (vty w).ff (ca w k e), 0))
  | _ => none

/-- An exact integer in an element: modulo the width, or clamped to the type's range where the word saturates. -/
def intElem (w : VWord) (sat : Bool) (i : Int) : Nat × Flags := (intOut (vty w).signed sat (vty w).width i, 0)

/-- The shift amount: in the word, or the element of vb modulo the width (R245). -/
def shiftOf (w : VWord) (k : Core) (e : Nat) : Nat :=
  if w.fn.getLsbD 0 then (w.fn.extractLsb' 1 6).toNat else cb w k e % (vty w).width
def shiftSrcs (w : VWord) : List (BitVec 5) := if w.fn.getLsbD 0 then [w.va] else [w.va, w.vb]

/-- Integer and bit words (R244, R245, R250) and vsel (R248). -/
def intWord : Instr → Option VecEffect
  | .vadd w => some (elementwise w 2 [w.va, w.vb] fun k e => intElem w (w.fn.getLsbD 0) (ia w k e + ib w k e))
  | .vsub w => some (elementwise w 2 [w.va, w.vb] fun k e => intElem w (w.fn.getLsbD 0) (ia w k e - ib w k e))
  | .vmul w => some (elementwise w 4 [w.va, w.vb] fun k e => intElem w (w.fn.getLsbD 0) (ia w k e * ib w k e))
  | .vmulh w => some (elementwise w 4 [w.va, w.vb] fun k e =>
      intElem w false ((ia w k e * ib w k e).fdiv ((2 ^ (vty w).width : Nat) : Int)))
  | .vmad w => some (elementwise w 4 [w.va, w.vb, w.vc] fun k e => intElem w (w.fn.getLsbD 0) (ia w k e * ib w k e + ic w k e))
  | .vmin w => some (elementwise w 2 [w.va, w.vb] fun k e => intElem w false (if ib w k e < ia w k e then ib w k e else ia w k e))
  | .vmax w => some (elementwise w 2 [w.va, w.vb] fun k e => intElem w false (if ia w k e < ib w k e then ib w k e else ia w k e))
  | .vabs w => some (elementwise w 2 [w.va] fun k e => intElem w (w.fn.getLsbD 0) (ia w k e).natAbs)
  | .vand w => some (elementwise w 2 [w.va, w.vb] fun k e => (ca w k e &&& cb w k e, 0))
  | .vor w => some (elementwise w 2 [w.va, w.vb] fun k e => (ca w k e ||| cb w k e, 0))
  | .vxor w => some (elementwise w 2 [w.va, w.vb] fun k e => (ca w k e ^^^ cb w k e, 0))
  | .vsll w => some (elementwise w 2 (shiftSrcs w) fun k e => (ca w k e * 2 ^ shiftOf w k e, 0))
  | .vsrl w => some (elementwise w 2 (shiftSrcs w) fun k e => (ca w k e / 2 ^ shiftOf w k e, 0))
  | .vsra w => some (elementwise w 2 (shiftSrcs w) fun k e =>
      (intOut true false (vty w).width ((elemInt true (vty w).width (ca w k e)).fdiv ((2 ^ shiftOf w k e : Nat) : Int)), 0))
  | .vpopc w => some (elementwise w 2 [w.va] fun k e => (onesOf (ca w k e) (vty w).width, 0))
  | .vsel w => some (elementwise w 2 [w.va, w.vb, w.vc] fun k e =>
      (if (elemOf (vreg k w.vc) (vty w).width e).testBit ((vty w).width - 1) then ca w k e else cb w k e, 0))
  | .vperm w => some (elementwise w 4 [w.va, w.vb] fun k e => (ca w k (cb w k e % (vty w).n), 0))
  | .vrot w => some (elementwise w 4 [w.va] fun k e => (ca w k ((e + w.fn.toNat) % (vty w).n), 0))
  | .vslide w => some (elementwise w 4 [w.va, w.vb] fun k e =>
      (if e + w.fn.toNat < (vty w).n then ca w k (e + w.fn.toNat) else cb w k (e + w.fn.toNat - (vty w).n), 0))
  | .vzip w => some (elementwise w 4 [w.va, w.vb] fun k e =>
      let i := (if w.fn.getLsbD 0 then (vty w).n / 2 else 0) + e / 2
      (if e % 2 = 0 then ca w k i else cb w k i, 0))
  | .vunzip w => some (elementwise w 4 [w.va, w.vb] fun k e =>
      let i := 2 * e + (if w.fn.getLsbD 0 then 1 else 0)
      (if i < (vty w).n then ca w k i else cb w k (i - (vty w).n), 0))
  | .vbcast w => some (elementwise w 4 [w.va] fun k _ => (ca w k w.fn.toNat, 0))
  | .vrevb w => some (elementwise w 4 [w.va] fun k e =>
      let n := (w.fn.extractLsb' 0 4).toNat
      (ca w k (e - e % 2 ^ n + revBits (e % 2 ^ n) n), 0))
  | _ => none

/-- A word that writes lanes of a mask from a test of each lane. -/
def toMask (w : VWord) (reads : List Nat) (o : Core → VOut) (fl : Core → Nat) : VecEffect :=
  { h := w.h, uses := mdUses w reads 2
    run := fun k => (.mask (fieldMask w.vd).toNat (BitVec.ofNat 64 (o k).val) (BitVec.ofNat 64 (o k).msk), fl k) }

/-- Mask words act on whole masks (R249). -/
def wholeMask (w : VWord) (reads : List Nat) (f : Core → W64) : VecEffect :=
  { h := w.h, uses := { reads := reads, dst := some (32 + (fieldMask w.vd).toNat), lat := 2 }
    run := fun k => (.mask (fieldMask w.vd).toNat (f k) (BitVec.allOnes 64), 0) }

def maskA (w : VWord) (k : Core) : W64 := maskOf k (fieldMask w.va)
def maskB (w : VWord) (k : Core) : W64 := maskOf k (fieldMask w.vb)

/-- A compare to a mask: every lane takes the condition of its element, which the mask enables by its first lane (the
model's choice, log entry 39); the flags are those of the elements (R247). -/
def cmpMask (w : VWord) (f : Core → Nat → Bool × Flags) : VecEffect :=
  let el (l : Nat) : Nat := if (vty w).width = 64 then l / 2 else l
  { h := w.h, uses := mdUses w [vNo w.va, vNo w.vb] 2
    run := fun k =>
      let o : VOut := (List.range 64).foldl (fun o l =>
        if (maskOf k w.m).getLsbD (laneOf (vty w).width (el l)) then
          { o with val := o.val + (if (f k (el l)).1 then 2 ^ l else 0), msk := o.msk + 2 ^ l }
        else if w.mz then { o with msk := o.msk + 2 ^ l } else o) {}
      (.mask (fieldMask w.vd).toNat (BitVec.ofNat 64 o.val) (BitVec.ofNat 64 o.msk),
       if w.nf then 0 else (mapElems (maskOf k w.m) w.mz (vty w).width fun e => (0, (f k e).2)).fl) }

/-- Moves, splats, flag words, compares, mask words (R246 to R250, R258 to R260). -/
def moveWord : Instr → Option VecEffect
  | .vmov w =>
    if w.fn = 1 then some (toMask w [vNo w.va] (fun k => maskBits (maskOf k w.m) w.mz fun l => elemOf (vreg k w.va) 32 l != 0) fun _ => 0)
    else if w.fn = 2 then
      some { h := w.h, uses := { vrUses w [] 2 with reads := (vrUses w [] 2).reads ++ mNo (fieldMask w.va) }
             run := fun k =>
               let o := mapElems (maskOf k w.m) w.mz 32 fun l => (if (maskA w k).getLsbD l then 2 ^ 32 - 1 else 0, 0)
               (.reg w.vd.toNat (BitVec.ofNat 2048 o.val) (BitVec.ofNat 2048 o.msk), if w.nf then 0 else o.fl) }
    else
      some { h := w.h, uses := vrUses w [w.va] 2
             run := fun k =>
               let o := mapElems (maskOf k w.m) w.mz 32 fun l => (elemOf (vreg k w.va) 32 l, 0)
               (.reg w.vd.toNat (BitVec.ofNat 2048 o.val) (BitVec.ofNat 2048 o.msk), if w.nf then 0 else o.fl) }
  | .vsplat w =>
    some { h := w.h, uses := { reads := [], dst := some w.vd.toNat, lat := 2 }
           run := fun _ =>
             let o := mapElems (BitVec.allOnes 64) false (splatElem w).1 fun _ => ((splatElem w).2, 0)
             (.reg w.vd.toNat (BitVec.ofNat 2048 o.val) (BitVec.ofNat 2048 o.msk), 0) }
  | .vxrd w =>
    some { h := w.h, uses := { reads := [], dst := some w.vd.toNat, lat := 2, flagWord := true }
           run := fun k =>
             let o := mapElems (BitVec.allOnes 64) false 32 fun l => ((k.vec.vx.extractLsb' (5 * l) 5).toNat, 0)
             (.reg w.vd.toNat (BitVec.ofNat 2048 o.val) (BitVec.ofNat 2048 o.msk), 0) }
  | .vxclr w =>
    some { h := w.h, uses := { reads := mNo w.m, dst := none, lat := 2, flagWord := true }
           run := fun k => (.clearVx (BitVec.ofNat 320 (vxMask (maskOf k w.m))), 0) }
  | .vmand w => some (wholeMask w (mNo (fieldMask w.va) ++ mNo (fieldMask w.vb)) fun k => maskA w k &&& maskB w k)
  | .vmor w => some (wholeMask w (mNo (fieldMask w.va) ++ mNo (fieldMask w.vb)) fun k => maskA w k ||| maskB w k)
  | .vmxor w => some (wholeMask w (mNo (fieldMask w.va) ++ mNo (fieldMask w.vb)) fun k => maskA w k ^^^ maskB w k)
  | .vmnot w => some (wholeMask w (mNo (fieldMask w.va) ++ []) fun k => ~~~maskA w k)
  | .vmpopc w =>
    some { h := w.h, uses := { reads := mNo (fieldMask w.va), dst := some w.vd.toNat, lat := 2 }
           run := fun k => (.reg w.vd.toNat (BitVec.ofNat 2048 (onesOf (maskA w k).toNat 64)) (BitVec.allOnes 2048), 0) }
  | .vfcmp w =>
    if w.fn.getLsbD 3 then
      some (cmpMask w fun k e => fCompare ((fcondOf (w.fn.extractLsb' 0 3).toNat).getD .eq) (fa w k e) (fb w k e))
    else some (elementwise w 2 [w.va, w.vb] fun k e =>
      let r := fCompare ((fcondOf (w.fn.extractLsb' 0 3).toNat).getD .eq) (fa w k e) (fb w k e)
      (if r.1 then 2 ^ (vty w).width - 1 else 0, r.2))
  | .vcmp w =>
    if w.fn.getLsbD 3 then some (cmpMask w fun k e => (iCompare (w.fn.extractLsb' 0 3).toNat (ia w k e) (ib w k e), 0))
    else some (elementwise w 2 [w.va, w.vb] fun k e =>
      (if iCompare (w.fn.extractLsb' 0 3).toNat (ia w k e) (ib w k e) then 2 ^ (vty w).width - 1 else 0, 0))
  | _ => none

/-- A word whose destination and flags come from what it writes. -/
def written (w : VWord) (u : VUses) (f : Core → VOut) : VecEffect :=
  { h := w.h, uses := u
    run := fun k => (.reg w.vd.toNat (BitVec.ofNat 2048 (f k).val) (BitVec.ofNat 2048 (f k).msk), if w.nf then 0 else (f k).fl) }

/-- Conversions (R251 to R256): widths of source and destination, position, and the conversion of one code. -/
def convertWord : Instr → Option VecEffect
  | .vcvt w => some (conv w fun d c =>
      if (vty w).isF then d.ff.convert (rmD w.rm) ((vty w).ff.decode c)
      else (intOut d.signed (w.fn.getLsbD 7) d.width (elemInt (vty w).signed (vty w).width c), 0))
  | .vcvti w => some (conv w fun d c => toInteger (rmD w.rm) d.signed d.width ((vty w).ff.decode c))
  | .vcvtf w => some (conv w fun d c => d.ff.round (rmD w.rm) (Dy.ofInt (elemInt (vty w).signed (vty w).width c)) false)
  | .vpack w =>
    let f := (packFmt w).getD .e4m3
    let base := packPiece w * pieceBits f
    some (written w (vrUses w [w.va] 4) fun k => (List.range 64).foldl (fun o i =>
      if (maskOf k w.m).getLsbD i then
        let r := f.convert (rmD w.rm) (fmtFP32.decode (elemOf (vreg k w.va) 32 i))
        (o.putAt (base + i * f.width) f.width r.1).flag i r.2
      else if w.mz then o.putAt (base + i * f.width) f.width 0 else o) {})
  | .vunpk w =>
    let f := (packFmt w).getD .e4m3
    let base := packPiece w * pieceBits f
    some (written w (vrUses w [w.va] 4) fun k => mapElems (maskOf k w.m) w.mz 32 fun i =>
      unpackCode f ((vreg k w.va).toNat / 2 ^ (base + i * f.width) % 2 ^ f.width))
  | _ => none
where
  conv (w : VWord) (f : VTy → Nat → Nat × Flags) : VecEffect :=
    let d := (cvtDst w).getD .f32
    let nn := 2048 / Nat.max (vty w).width d.width
    written w (vrUses w [w.va] 4) fun k =>
      cvtElems (maskOf k w.m) w.mz (vty w).width d.width (cvtPos w) nn (vreg k w.va) (f d) nn 0 {}

/-- Complex words (R265 to R272): the pair of components of each complex element. -/
def complexWord : Instr → Option VecEffect
  | .vcmul w => some (cx w 6 [w.va, w.vb] fun k j =>
      let a := cxOf (vreg k w.va) j
      let b := cbOf w (cxOf (vreg k w.vb) j)
      (cSum (rmD w.rm) [.mul false a.re b.re, .mul true a.im b.im], cSum (rmD w.rm) [.mul false a.re b.im, .mul false a.im b.re]))
  | .vcmac w => some (cx w 6 [w.va, w.vb, w.vc] fun k j =>
      let a := cxOf (vreg k w.va) j
      let b := cbOf w (cxOf (vreg k w.vb) j)
      let c := cxOf (vreg k w.vc) j
      (cSum (rmD w.rm) [.one false c.re, .mul false a.re b.re, .mul true a.im b.im],
       cSum (rmD w.rm) [.one false c.im, .mul false a.re b.im, .mul false a.im b.re]))
  | .vconj w => some (cx w 2 [w.va] fun k j =>
      ((elemOf (vreg k w.va) 32 (2 * j), 0), (fNeg fmtFP32 (elemOf (vreg k w.va) 32 (2 * j + 1)), 0)))
  | .vbfly2 w =>
    if w.fn.getLsbD 3 then some (cx w 6 [w.va, w.vb, w.vc] fun k j =>
      cxMulAdd (rmD w.rm) (w.fn.getLsbD 4) (cxOf (vreg k w.vc) j) (cxOf (vreg k w.vb) j) (cxOf (vreg k w.va) j))
    else some (cx w 6 [w.va, w.vb] fun k j =>
      let h := 2 ^ (w.fn.extractLsb' 0 3).toNat
      let i := if j % (2 * h) < h then j else j - h
      cxMulAdd (rmD w.rm) (!decide (j % (2 * h) < h)) (cxOf (vreg k w.vb) i) (cxOf (vreg k w.va) (i + h)) (cxOf (vreg k w.va) i))
  | .vbfly4 w => some (cx w 6 [w.va] fun k j =>
      let h := 2 ^ (w.fn.extractLsb' 0 2).toNat
      let inv := w.fn.getLsbD 2
      let r := j % (4 * h) / h
      let x (n : Nat) : Cx := cxOf (vreg k w.va) (j - r * h + n * h)
      (cSum (rmD w.rm) (fly4Re inv (x 0) (x 1) (x 2) (x 3) r), cSum (rmD w.rm) (fly4Im inv (x 0) (x 1) (x 2) (x 3) r)))
  | .vtwid w => some (cx w 6 (if w.fn.getLsbD 6 then [] else [w.va]) fun k j =>
      let phi := twidIndex w k j * 2 ^ (32 - (w.fn.extractLsb' 0 5).toNat)
      ((posZero32 (cosp phi), 0),
       (if w.fn.getLsbD 5 then posZero32 (sinp phi) else posZero32 (negCode32 (sinp phi)), 0)))
  | _ => none
where
  cx (w : VWord) (lat : Nat) (srcs : List (BitVec 5)) (f : Core → Nat → (Nat × Flags) × (Nat × Flags)) : VecEffect :=
    written w (vrUses w srcs lat) fun k => cxElems (maskOf k w.m) w.mz (f k) 32 0 {}

/-- Reductions (R273 to R275): each group of 2^g elements gives one element by the canonical tree over its enabled ones. -/
def reduceWord : Instr → Option VecEffect
  | .vfsum w => some (red (α := Nat) w [w.va]
      { leaf := fun k e => (ca w k e, 0), node := fun a b => fAdd (vty w).ff (rmD w.rm) ((vty w).ff.decode a) ((vty w).ff.decode b)
        root := fun a => (canonOf (vty w).ff a, 0), ident := 0 })
  | .vfrmax w => some (red (α := Nat) w [w.va]
      { leaf := fun k e => (ca w k e, 0), node := fun a b => fMinMax (vty w).ff true a b
        root := fun a => (canonOf (vty w).ff a, 0), ident := (vty w).ff.withSign true (vty w).ff.infCode })
  | .vfrmin w => some (red (α := Nat) w [w.va]
      { leaf := fun k e => (ca w k e, 0), node := fun a b => fMinMax (vty w).ff false a b
        root := fun a => (canonOf (vty w).ff a, 0), ident := (vty w).ff.withSign false (vty w).ff.infCode })
  | .vfdot w => some (red (α := FVal) w [w.va, w.vb]
      { leaf := fun k e => dotLeaf (fa w k e) (fb w k e)
        node := fun a b => ((vty w).ff.decode (fAdd (vty w).ff (rmD w.rm) a b).1, (fAdd (vty w).ff (rmD w.rm) a b).2)
        root := fun a => (vty w).ff.convert (rmD w.rm) a, ident := 0 })
  | .vrsum w => some (ints w (fun a b => if w.fn.getLsbD 4 then
        clampInt (typeMin (vty w).signed (vty w).width) (typeMax (vty w).signed (vty w).width) (a + b) else a + b) 0)
  | .vrmax w => some (ints w (fun a b => if a < b then b else a) (typeMin (vty w).signed (vty w).width))
  | .vrmin w => some (ints w (fun a b => if b < a then b else a) (typeMax (vty w).signed (vty w).width))
  | _ => none
where
  red {α : Type} (w : VWord) (srcs : List (BitVec 5)) (r : RedOp α) : VecEffect :=
    let g := (w.fn.extractLsb' 0 4).toNat
    written w { reads := srcs.map vNo ++ mNo w.m, dst := some w.vd.toNat, lat := 10 } fun k =>
      mapElems (BitVec.allOnes 64) false (vty w).width fun q => if q < (vty w).n / 2 ^ g then redGroup r w k g q else (0, 0)
  ints (w : VWord) (f : Int → Int → Int) (ident : Int) : VecEffect :=
    red (α := Int) w [w.va]
      { leaf := fun k e => (ia w k e, 0), node := fun a b => (f a b, 0)
        root := fun a => (intOut (vty w).signed false (vty w).width a, 0)
        ident := intOut (vty w).signed false (vty w).width ident }

/-- The vector word `i` issues: everything due has landed, it may issue, its rules do not hold it and no register it reads
holds an error; it then stands in flight until its latency has passed. -/
def vectorIssues (table : Instr → Option VecEffect) : Prop :=
  ∀ (s : State) (i : Instr) (e : VecEffect) (w : QWord), table i = some e →
    let t := vecSettle s
    MayIssue 0 e.h t w → vecHolds t e.uses = [] → badReg (cc t) e.uses = none →
    let u := takeWord t 0 e.h w
    exec i s = .next (vecStart u.1
      { i := { u.2 with due := some (curCyc t + e.uses.lat) }, dest := (e.run (cc t)).1
        flags := BitVec.ofNat 320 (e.run (cc t)).2, acc := none } e.uses.classC)

end Sys2Proof.Statements

open Sys2Proof.Statements

/-- R122, R237 to R243: the floating-point words compute each enabled element and take the latency of their class. -/
def Sys2Proof.Statements.FloatWordsComputeTheirElements : Prop := vectorIssues floatWord

/-- R237, R244, R245, R248, R250, R257, R272: the integer, bit, select and permute words compute each enabled element. -/
def Sys2Proof.Statements.IntegerWordsComputeTheirElements : Prop := vectorIssues intWord

/-- R246 to R249, R258 to R260: moves, splats, flag words, compares and mask words. That bit 2e of m governs both lanes
of a 64-bit element of a compare to a mask is the model's choice (log entry 39). -/
def Sys2Proof.Statements.MoveAndMaskWordsWriteTheirDestination : Prop := vectorIssues moveWord

/-- R251 to R256: conversions, packs and unpacks. -/
def Sys2Proof.Statements.ConversionWordsConvertEachElement : Prop := vectorIssues convertWord

/-- R237 to R245, R248, R250 to R257: floating-point, integer, permute and conversion words. -/
def Obligations.ArithmeticVectorWordsComputeTheirElements : Prop :=
  Sys2Proof.Statements.FloatWordsComputeTheirElements
  ∧ Sys2Proof.Statements.IntegerWordsComputeTheirElements
  ∧ Sys2Proof.Statements.ConversionWordsConvertEachElement

/-- R265 to R271: complex products, butterflies and twiddles round each component once. -/
def Sys2Proof.Statements.ComplexWordsRoundEachComponentOnce : Prop := vectorIssues complexWord

/-- R273 to R275: reductions follow the canonical tree over the enabled elements. What a group of one leaf delivers,
without a flag but those of a product (log entry 38), and that the flags of group q go to the lane of element q whether
or not the mask enables it (log entry 110), is the model's choice. -/
def Sys2Proof.Statements.ReductionsFollowTheCanonicalTree : Prop := vectorIssues reduceWord

/-- R246 to R249, R258 to R260, R265 to R275: moves, masks, flag words, complex words and reductions. -/
def Obligations.MaskComplexAndReductionWordsCompute : Prop :=
  Sys2Proof.Statements.MoveAndMaskWordsWriteTheirDestination
  ∧ Sys2Proof.Statements.ComplexWordsRoundEachComponentOnce
  ∧ Sys2Proof.Statements.ReductionsFollowTheCanonicalTree

/-- R230, R238: an elementwise result, landed in its register, gives every enabled element its value, modulo the width; a
disabled element keeps its old value, or is zero where mz is set. -/
def Obligations.DisabledElementsKeepOrZero : Prop :=
  ∀ (m : W64) (mz : Bool) (w : Nat) (f : Nat → Nat × Flags) (old : BitVec 2048) (e : Nat),
    (w = 8 ∨ w = 16 ∨ w = 32 ∨ w = 64) → e < 2048 / w →
    let o := mapElems m mz w f
    let msk := BitVec.ofNat 2048 o.msk
    elemOf ((old &&& ~~~msk) ||| (BitVec.ofNat 2048 o.val &&& msk)) w e =
      if m.getLsbD (if w = 64 then 2 * e else e * w / 32) then (f e).1 % 2 ^ w else if mz then 0 else elemOf old w e

namespace Sys2Proof.Statements

/-- The vector state of a core in which a result has landed: a register or mask register takes the bits the word writes, and
one written whole loses its error; vxclr clears the flags of its lanes. -/
def landedVec (v : Vec) : VDest → Vec
  | .none => v
  | .reg vd val msk =>
    { v with v := tput 0 v.v vd ((tget 0 v.v vd &&& ~~~msk) ||| (val &&& msk))
             bad := if msk = BitVec.allOnes 2048 then v.bad.filter (· ≠ vd) else v.bad }
  | .mask md val msk =>
    { v with m := tput 0 v.m md ((tget 0 v.m md &&& ~~~msk) ||| (val &&& msk))
             bad := if msk = BitVec.allOnes 64 then v.bad.filter (· ≠ 32 + md) else v.bad }
  | .clearVx msk => { v with vx := v.vx &&& ~~~msk }

end Sys2Proof.Statements

open Sys2Proof.Statements in
/-- R238, R249, R261: VECTOR_WORD_COMPLETION lands the first word whose cycle has come: its vector register, its mask
register or the flags that vxclr clears take the bits it writes, its own flags are ORed into vx, and it completes; the
others stay in flight. -/
def Sys2Proof.Statements.DueVectorWordLands : Prop :=
  ∀ (s : State) (x : VIssued) (rest : List VIssued) (d : Nat),
    (cc s).vec.fly = x :: rest → x.i.due = some d → d ≤ curCyc s →
    (∀ y ∈ rest, ∀ e, y.i.due = some e → curCyc s < e) →
    let v := landedVec (cc s).vec x.dest
    exec .vectorWordCompletion s
      = .next (completeWord (setCC s { cc s with vec := { v with fly := rest, vx := v.vx ||| x.flags } }) 0 x.i)

namespace Sys2Proof.Statements

/-- Vector memory words: kind, whether it loads, and its word. -/
def vecMemOf : Instr → Option (VMemKind × Bool × VWord)
  | .vld w => some (.row none, true, w)
  | .vst w => some (.row none, false, w)
  | .vgath w => some (.index, true, w)
  | .vscat w => some (.index, false, w)
  | .vldm w => some (.mask, true, w)
  | .vstm w => some (.mask, false, w)
  | _ => none
def vecTagOf : Instr → Option (TagKind × Bool × VWord)
  | .vldf w => some (.readFull, true, w)
  | .vldt w => some (.take, true, w)
  | .vste w => some (.put, false, w)
  | .vstf w => some (.setFull, false, w)
  | _ => none

/-- What such a word needs: it may issue, it asks no walk, and its checks pass with its accesses located. -/
def vecMemGoes (t : State) (kind : VMemKind) (load : Bool) (w : VWord) (qw : QWord) (s1 : State) (l : List VAcc) : Prop :=
  let u := vmemUses kind load w
  let m := snapOf qw (w.va.extractLsb' 0 4)
  MayIssue 0 w.h t qw ∧ vmemBad kind w m = false ∧ vecHolds t u = [] ∧ badReg (cc t) u = none
  ∧ walksAsked t 0 (vmemAccs kind w m (cc t)) = none ∧ vmemChecks kind load qw m (vmemAccs kind w m (cc t)) t = .ok (s1, l)

end Sys2Proof.Statements

/-- R277 to R284: a plain vector memory word whose accesses lie in the own scratchpad performs them at issue, in element
order, and a load lands 6 cycles later; one that reaches further holds its queue with its accesses owed. -/
def Sys2Proof.Statements.VectorMemoryWordsPerformTheirAccesses : Prop :=
  ∀ (s : State) (i : Instr) (kind : VMemKind) (load : Bool) (w : VWord) (qw : QWord) (s1 : State) (l : List VAcc),
    vecMemOf i = some (kind, load, w) →
    let t := vecSettle s
    vecMemGoes t kind load w qw s1 l →
    let d : VDest := if load then vmemDest kind w (snapOf qw (w.va.extractLsb' 0 4)) (cc t) else .none
    (ownAcc s1.cur l = true → vmemPortChecks load l s1 = none →
      let u := takeWord s1 0 w.h qw
      let r := vmemPerform load qw l u.1
      exec i s = .next (vecStart r.1
        { i := { u.2 with due := some (curCyc s1 + (if load then 6 else 1)) }, dest := destFill d r.2, flags := 0, acc := none } false))
    ∧ (ownAcc s1.cur l = false →
      let u := takeWord s1 0 w.h qw
      exec i s = .next (vecStart u.1 { i := u.2, dest := d, flags := 0, acc := some l, load := load } false))

/-- R66, R279: a tagged vector word all of whose elements meet their condition in order acts on all of them in one step;
else it waits with no element performed. -/
def Sys2Proof.Statements.TaggedVectorWordsActTogether : Prop :=
  ∀ (s : State) (i : Instr) (k : TagKind) (load : Bool) (w : VWord) (qw : QWord) (s1 : State) (l : List VAcc),
    vecTagOf i = some (k, load, w) →
    let t := vecSettle s
    vecMemGoes t (.row (some k)) load w qw s1 l → ownAcc s1.cur l = true → (load = true → readFlt s1 0 (lowVa l) l = none) →
    let d : VDest := if load then vmemDest (.row (some k)) w (snapOf qw (w.va.extractLsb' 0 4)) (cc t) else .none
    (tagFail k (cc s1).full l = none →
      let u := takeWord s1 0 w.h qw
      let r := tagAll u.1.cur 0 qw k l (noteAll u.1.cur load (!load) false l u.1)
      exec i s = .next (vecStart r.1
        { i := { u.2 with due := some (curCyc s1 + (if load then 6 else 1)) }, dest := destFill d r.2, flags := 0, acc := none } false))
    ∧ (∀ a, tagFail k (cc s1).full l = some a → (cc t).timed = false →
      exec i s = .next (noteWait t 0 qw [.flag 1 a.va]))

/-- R66, R277 to R284: vector memory words, plain and tagged. -/
def Obligations.VectorMemoryWordsAccessOrWait : Prop :=
  Sys2Proof.Statements.VectorMemoryWordsPerformTheirAccesses
  ∧ Sys2Proof.Statements.TaggedVectorWordsActTogether

namespace Sys2Proof.Statements

/-- The word x that held queue V lands what it read: at once, or after every earlier word in flight that writes its
register. -/
def remoteWordLands (s t : State) (x : VIssued) (rest : List VIssued) (r : List (VAcc × Nat)) : Prop :=
  ∃ d, curCyc s ≤ d
    ∧ (∀ y ∈ rest, ∀ e, y.i.due = some e → destNo x.dest ≠ none → destNo y.dest = destNo x.dest → e < d)
    ∧ t = clearAcks (setCC s { cc s with vec := { (cc s).vec with
        fly := rest ++ [{ x with i := { x.i with due := some d }, dest := destFill x.dest r }] } }) 0

end Sys2Proof.Statements

open Sys2Proof.Statements in
/-- R281, R284, R485: VECTOR_REMOTE_ACCESS_DONE performs the accesses of the memory word that holds queue V once other
devices have answered and its last checks pass, and the word then lands; a store with accesses in the Volley window has
sent them and lands once they are acknowledged. Where another device refuses an access, or a last check fails, nothing
is stored and the word takes the fault. -/
def Sys2Proof.Statements.RemoteVectorWordCompletes : Prop :=
  ∀ (s : State) (x : VIssued) (l : List VAcc) (rest : List VIssued), holdingWord (cc s).vec.fly = some (x, l, rest) →
    let step := volStep s 0 x.load (lowVa l) (if x.load then [] else l) l
    let fault (f : Flt) := raise2 { clearAcks s 0 with fresh := s.fresh + 1 } s.cur 0 x.i.w f true 0
    (step = .ready → vmemPortChecks x.load l s = none →
      let r := vmemPerform x.load x.i.w l s
      ((x.load = true ∨ ∀ a ∈ l, isVol a.loc = false) →
        ∃ t, exec .vectorRemoteAccessDone s = .next t ∧ remoteWordLands r.1 t x rest r.2)
      ∧ (x.load = false → (∃ a ∈ l, isVol a.loc = true) → exec .vectorRemoteAccessDone s = .next r.1))
    ∧ (step = .done → ∃ t, exec .vectorRemoteAccessDone s = .next t ∧ remoteWordLands s t x rest [])
    ∧ (∀ f, step = .ready → vmemPortChecks x.load l s = some f → exec .vectorRemoteAccessDone s = .next (fault f))
    ∧ (∀ f, step = .flt f → exec .vectorRemoteAccessDone s = .next (fault f))

/-- R238, R261, R284: vector words in flight land. -/
def Obligations.VectorWordsInFlightLand : Prop :=
  Sys2Proof.Statements.DueVectorWordLands
  ∧ Sys2Proof.Statements.RemoteVectorWordCompletes


/-! ### Generator words (R287 to R317) -/

namespace Sys2Proof.Statements

/-- The words that change a generator: token byte and IDLE, generator, whether they read it, and the change. -/
def genChange : Instr → Option (EHead × BitVec 3 × Bool × (Gen → Gen))
  | .gseed w => some (w.h, w.gd, false, fun g => { g with seed := halves w.sel g.seed w.imm })
  | .gparm w => some (w.h, w.gd, false, fun g => { g with parm := halves w.sel g.parm w.imm })
  | .gscope w => some (w.h, w.gd, false, fun g => { g with scope := w.imm })
  | .gkind w => some (w.h, w.gd, false, fun g => { g with kind := w.kind, tr := w.tr })
  | .gorig w => some (w.h, w.gd, false, fun g => if w.sel then { g with col0 := w.imm } else { g with row0 := w.imm })
  | .gdraw w => some (w.h, w.gd, false, fun g => { g with draw := w.imm })
  | .gskip w => some (w.h, w.gd, true, fun g => { g with draw := g.draw + w.imm })
  | .gclr w => some (w.h, w.gd, false, fun _ => {})
  | _ => none
where
  halves (hi : Bool) (v : W64) (x : W32) : W64 := if hi then x ++ v.extractLsb' 0 32 else v.extractLsb' 32 32 ++ x

/-- The memory words of queue G. -/
def genMemOf : Instr → Option (GMem × GS)
  | .gfreq w => some (.freq, w)
  | .gload w => some (.load, w)
  | .gsave w => some (.save, w)
  | _ => none

/-- The fill words: whether one row, and the word. -/
def fillOfWord : Instr → Option (Bool × GS)
  | .gfill w => some (false, w)
  | .gvec w => some (true, w)
  | _ => none

end Sys2Proof.Statements

/-- R304, R310: a word that changes a generator issues and makes its change one cycle later, at its landing, which
completes the word and leaves the other generators. -/
def Obligations.GeneratorWordsMakeTheirChange : Prop :=
  (∀ (s : State) (i : Instr) (h : EHead) (g : BitVec 3) (rd : Bool) (f : Gen → Gen) (w : QWord),
    genChange i = some (h, g, rd, f) →
    let t := genSettle s
    MayIssue 2 h t w → genHolds t g.toNat rd (some 1) = [] → (rd = true → (cc t).gen.bad.contains g.toNat = false) →
    let u := takeWord t 2 h w
    ∃ c : GUpd, (∀ x, genApply c x = f x)
      ∧ exec i s = .next (setGenUnit u.1 { (cc u.1).gen with
          fly := (cc u.1).gen.fly ++ [{ i := { u.2 with due := some (u.2.t + 1) }, upd := some (g.toNat, c) }] }))
  ∧ (∀ (s : State) (x : GIssued) (rest : List GIssued) (g d : Nat) (c : GUpd),
    (cc s).gen.fly = x :: rest → x.i.due = some d → d ≤ curCyc s → x.fill = none → x.acc = none → x.upd = some (g, c) →
    (∀ y ∈ rest, (∀ e, y.i.due = some e → curCyc s < e) ∧ y.acc = none) →
    ∃ u : GenUnit, exec .generatorWriteLanding s = .next (completeWord (setGenUnit s u) 2 x.i) ∧ u.fly = rest
      ∧ (tget {} u.g g = genApply c (tget {} (cc s).gen.g g)
          ∧ ∀ h, h ≠ g → tget {} u.g h = tget {} (cc s).gen.g h))

/-- R305, R306, R309, R310: a memory word of queue G whose accesses lie in the own scratchpad reads its table or image
and lands six cycles later, or stores its generator's image at once; one that reaches further is performed when its
accesses are, and what it read lands behind every earlier write of its generator. Its stores to another device follow
the checks made there, and it is over once they are acknowledged; a refusal there is its fault, with nothing stored. An
own fill's writes that it meets come first (the model's reading of R30 and R83, log entry 134). -/
def Obligations.GeneratorMemoryWordsMoveTablesAndImages : Prop :=
  (∀ (s : State) (i : Instr) (g : GMem) (w : GS) (qw : QWord) (s1 : State) (l : List VAcc),
    genMemOf i = some (g, w) →
    let t := genSettle s
    let m := snapOf qw w.ss
    let wr := gmemStores g
    MayIssue 2 w.h t qw → gmemBad g m = false → genHolds t w.gd.toNat wr (if wr then none else some 6) = [] → fillOrder t (gmemAccs g m {}) = [] →
    (wr = true → (cc t).gen.bad.contains w.gd.toNat = false) → imageAlign g m = none →
    walksAsked t 2 (gmemAccs g m (getGen (cc t) w.gd.toNat)) = none →
    genChecks wr (if g = .freq then 4 else 8) qw (gmemAccs g m (getGen (cc t) w.gd.toNat)) t = .ok (s1, l) →
    let u := takeWord s1 2 w.h qw
    let fly (s : State) (x : GIssued) : State := setGenUnit s { (cc s).gen with fly := (cc s).gen.fly ++ [x] }
    (ownAcc s1.cur l = false → exec i s = .next (fly u.1 { i := u.2, acc := some l }))
    ∧ (ownAcc s1.cur l = true → genPortChecks wr l s1 = none →
      (wr = true → exec i s = .next (fly (storeAll u.1.cur 2 qw true l (genNote true l u.1))
        { i := { u.2 with due := some (u.2.t + 1) } }))
      ∧ (wr = false → ∀ c, gmemRead g m l s1 = .ok c →
        exec i s = .next (fly (genNote false l u.1) { i := { u.2 with due := some (u.2.t + 6) }, upd := some (w.gd.toNat, c) }))))
  ∧ (∀ (s : State) (g : GMem) (w : GS) (x : GIssued) (rest : List GIssued) (l : List VAcc),
    genMemOf (decodeE .g x.i.w.bits) = some (g, w) → (cc s).gen.fly = x :: rest → (∀ y ∈ rest, genDue (curCyc s) y = false) →
    x.acc = some l → x.fill = none → x.i.faulted = false → x.i.due = none →
    let wr := gmemStores g
    let step := volStep s 2 (!wr) (lowVa l) (if wr then l else []) l
    let flies (u : State) (y : GIssued) (d : Nat) : State :=
      setGenUnit u { (cc u).gen with fly := rest ++ [{ y with i := { y.i with due := some d } }] }
    (step = .ready → genPortChecks wr l s = none →
      (wr = true →
        let u := storeOut 2 x.i.w l (genNote true l s)
        ((∀ a ∈ l, isVol a.loc = false) → exec .generatorWriteLanding s = .next (flies u x (curCyc u)))
        ∧ ((∃ a ∈ l, isVol a.loc = true) → exec .generatorWriteLanding s = .next u))
      ∧ (wr = false → ∀ c, gmemRead g (snapOf x.i.w w.ss) l s = .ok c →
        ∃ d, curCyc s ≤ d ∧ (∀ y ∈ rest, ∀ e c, y.upd = some (w.gd.toNat, c) → y.i.due = some e → e < d)
          ∧ exec .generatorWriteLanding s
              = .next (flies (genNote false l (clearAcks s 2)) { x with upd := some (w.gd.toNat, c) } d)))
    ∧ (step = .done → exec .generatorWriteLanding s = .next (flies (clearAcks s 2) x (curCyc s)))
    ∧ (∀ f, step = .flt f → exec .generatorWriteLanding s
        = .next (raise2 { clearAcks s 2 with fresh := s.fresh + 1 } s.cur 2 x.i.w f true 0)))

/-- R307 to R311: a fill word that gets the value pipeline issues and writes its elements, ρ in a cycle from the fourth
cycle on, and completes when they are written; a fill with no element completes at once. One that reaches outside the
own scratchpad writes its elements in one step, in stream order (of the orders that R310 allows the model's choice, log
entry 126), those of another device by requests. -/
def Obligations.FillWordsWriteTheirElements : Prop :=
  (∀ (s : State) (i : Instr) (row : Bool) (w : GS) (qw : QWord) (s1 : State) (l : List VAcc),
    fillOfWord i = some (row, w) →
    let t := genSettle s
    let f := fillOf (cc t) row w qw
    MayIssue 2 w.h t qw → fillBad w qw = false → genHolds t w.gd.toNat true none = [] →
    (f.count ≠ 0 → pipeHolds t (claimOf t 2 qw) (drawClaim t) = []) →
    (cc t).gen.bad.contains w.gd.toNat = false → genUsable f.g = true → walksAsked t 2 (fillSpots f) = none →
    genChecks true (strmBytes f.m) qw (fillSpots f) t = .ok (s1, l) → raceFlt s1 s1.cur true l = none →
    let u := takeWord s1 2 w.h qw
    let v := genIssueNote l u.1
    (f.count = 0 → exec i s = .next (completeWord u.1 2 u.2))
    ∧ (f.count ≠ 0 → ownAcc u.1.cur l = true → exec i s = .next (setGenUnit v { (cc v).gen with fly := (cc v).gen.fly ++
        [{ i := { u.2 with due := some (u.2.t + 5 + (f.count - 1) / genRate f.g) }, fill := some f }] }))
    ∧ (f.count ≠ 0 → ownAcc u.1.cur l = false → exec i s = .next (setGenUnit v { (cc v).gen with fly := (cc v).gen.fly ++
        [{ i := u.2, acc := some l, fill := some f }] })))
  ∧ (∀ (s : State) (x : GIssued) (f : Fill), theFill (cc s) = some (x, f) →
    (∀ d, x.acc = none → x.i.due = some d →
      let n := if curCyc s < x.i.t + 4 then 0 else Nat.min f.count ((curCyc s - x.i.t - 3) * genRate f.g)
      let v := ((List.range (n - f.next)).map (f.next + ·)).foldl (fun v e =>
        storeAt v (whoWord v.cur 2 x.i.w (fillVa f e)) (ownLoc v.cur (fillVa f e)) (fillData f e) true) s
      exec .fillElementWrite s
        = .next (setFill (healOver (fun v => (List.range n).map fun e => (ownLoc v.cur (fillVa f e), strmBytes f.m)) v) n))
    ∧ (∀ l, x.acc = some l → f.next < f.count → x.i.faulted = false →
      let l' := l.map fun a => { a with data := fillData f a.el }
      let step := volStep s 2 false (lowVa l') l' l'
      (step = .ready →
        let u := storeOut 2 x.i.w l' (sampleAll s.cur true l' s)
        ((∀ a ∈ l, isVol a.loc = false) → exec .fillElementWrite s = .next (setFill u f.count))
        ∧ ((∃ a ∈ l, isVol a.loc = true) → exec .fillElementWrite s = .next u))
      ∧ (step = .done → exec .fillElementWrite s = .next (setFill (clearAcks s 2) f.count))))
  ∧ (∀ (s : State) (x : GIssued) (rest : List GIssued) (f : Fill), (cc s).gen.fly = x :: rest → x.fill = some f →
    f.count ≤ f.next → (∀ d, x.i.due = some d → d ≤ curCyc s) →
    exec .fillComplete s = .next (completeWord (setGenUnit s { (cc s).gen with fly := rest }) 2 x.i))

/-! ### Matrix words (R318 to R343) -/

namespace Sys2Proof.Statements

/-- Token byte and IDLE of a matrix word, and what it does, with its snapshot. -/
def matPlan : Instr → Option (EHead × (QWord → MPlan))
  | .mldb w => some (w.h, op w (.load [w.b.toNat] w.bank.toNat 8) none)
  | .mldbG w => some (w.h, op w (.load [w.b.toNat] w.bank.toNat 1) (some w.g.toNat))
  | .mldbp w => some (w.h, op w (.load [0, 1] w.bank.toNat 4) none)
  | .mma w => some (w.h, op w (.mul [(w.b.toNat, w.t.toNat)] w.bank.toNat false) none)
  | .mmaG w => some (w.h, op w (.mul [(w.b.toNat, w.t.toNat)] w.bank.toNat false) (some w.g.toNat))
  | .mmap w => some (w.h, op w (.mul [(0, 0), (1, 1)] w.bank.toNat false) none)
  | .mmapG w => some (w.h, op w (.mul [(0, 0), (1, 1)] w.bank.toNat false) (some w.g.toNat))
  | .mmat w => some (w.h, op w (.mul [(w.b.toNat, w.t.toNat)] w.bank.toNat true) none)
  | .mmatG w => some (w.h, op w (.mul [(w.b.toNat, w.t.toNat)] w.bank.toNat true) (some w.g.toNat))
  | .mzero w => some (w.h, tile w .zero)
  | .manch w => some (w.h, tile w .anch)
  | .movclr w => some (w.h, tile w .ovclr)
  | .mtrap w => some (w.h, tile w .trap)
  | .mshift w => some (w.h, tile w .shift)
  | .madd w => some (w.h, tile w .add)
  | .mmov w => some (w.h, tile w .mov)
  | .mstat w => some (w.h, mem w (.stat w.t.toNat))
  | .mdrn w => some (w.h, mem w (.drain false w.t.toNat w.rm w.z))
  | .mdrnMx w => some (w.h, mem w (.drain true w.t.toNat 0 w.z))
  | .msave w => some (w.h, mem w (.save w.t.toNat))
  | .mrest w => some (w.h, mem w (.rest w.t.toNat w.z))
  | _ => none
where
  op (w : MS) (k : MKind) (g : Option Nat) (qw : QWord) : MPlan :=
    { kind := k, m := snapOf qw w.ss, k2 := w.k2.toNat, orow := if k matches .mul _ _ _ then w.orow.toNat else 0, gn := g }
  mem (w : MS) (k : MKind) (qw : QWord) : MPlan := { kind := k, m := snapOf qw w.ss, k2 := w.k2.toNat, orow := w.orow.toNat }
  tile (w : MT) (k : MtOp) (_ : QWord) : MPlan := { kind := .tile k w.td.toNat w.ts.toNat w.imm }


end Sys2Proof.Statements

/-- R323 to R336, R341: a matrix word whose tests pass issues, with its check points a period apart, the landing of R334 and
the writes of its issue cycle, its accesses noted for the race check; a word that reads from the own scratchpad keeps its
successor until its last check point. -/
def Sys2Proof.Statements.MatrixWordsIssue : Prop :=
  ∀ (s : State) (i : Instr) (h : EHead) (plan : QWord → MPlan) (w : QWord) (s1 : State) (l : List VAcc),
    matPlan i = some (h, plan) →
    let t := matSettle false (genSettle s)
    let p := plan w
    MayIssue 1 h t w → mBad p = false → mHolds t p = [] →
    (draws p = true → mShort (cc t) p = false ∧ pipeHolds t (claimOf t 1 w) (fillClaim t) = []) →
    preFlt (cc t) p = none → walksAsked t 1 ((allAccs p).map (·.1)) = none → mChecks p w t = .ok (s1, l) →
    let u := takeWord s1 1 h w
    let per := mPeriod (cc u.1) p (p.gn.map (getGen (cc t)))
    let own := ownAcc u.1.cur l
    let cps := match p.kind with
      | .stat _ => 1
      | _ => mPoints p
    let r := raceNote u.1.cur (mStores p.kind) l u.1
    let v := if mStores p.kind then noteAll u.1.cur false true false l r else r
    exec i s = .next (matSettle false (setMat v { (cc v).mat with
      fly := (cc v).mat.fly ++ [{
        i := { u.2 with due := if own then some (mDue (cc u.1) p per u.2.t) else none }, p := p
        gen := p.gn.map (getGen (cc t)), per := per, cps := cps
        locs := if own then none else some (l.map fun a => (a.va, a.loc)), ents := (l.filterMap (·.ent)).eraseDups }]
      free := if own && !mStores p.kind then u.2.t + (cps - 1) * per + 1 else u.2.t + 1 }))

/-- R320, R334, R336: a check point that is due reads its strip; a word that has passed its check points lands at its cycle,
notes its reads and completes; a word that stores writes the row due; a scrub error sets the bad bit of its row or bank. -/
def Sys2Proof.Statements.MatrixWordsReachTheirLanding : Prop :=
  (∀ (s : State) (x : MIssued) (l : List Nat), (cc s).mat.fly = [x] → x.locs = none → acksOf (cc s) 1 = [] →
    pointDue (pointLimit (cc s) (curCyc s)) x = true → pointRead s x x.next = .ok l →
    pointDue (pointLimit (cc s) (curCyc s)) { x with next := x.next + 1, buf := x.buf ++ [l] } = false →
    let v := samplePoint s x x.next
    exec .matrixCheckPoint s
      = .next (setMat v { (cc v).mat with fly := [{ x with next := x.next + 1, buf := x.buf ++ [l] }] }))
  ∧ (∀ (s : State) (x : MIssued), (cc s).mat.fly = [x] → mStores x.p.kind = false → landReady (cc s) (curCyc s) 0 x = true →
    let v := mLand x (noteReads s x)
    exec .matrixLanding s = .next (completeWord (setMat v { (cc v).mat with
      fly := (cc v).mat.fly.eraseIdx 0
      last := (mWrites x.p ++ mReads x.p).foldl (fun t o => tset t o (curCyc v + 1)) (cc v).mat.last }) 1 x.i))
  ∧ (∀ (s : State) (x : MIssued), (cc s).mat.fly = [x] → x.locs = none → acksOf (cc s) 1 = [] →
    rowDue (curCyc s) x = true → x.next + 1 < x.cps → curCyc s < x.i.t + 3 + x.next → (∀ t, x.p.kind ≠ .stat t) →
    let l := storeRow s x x.next
    exec .matrixLanding s = .next
      (let v := storeOut 1 x.i.w l (sampleAll s.cur true l s)
       putFly (healOver (fun v => rowLocs v x x.next) v) 0 { x with next := x.next + 1 }))
  ∧ (∀ (s : State) (t : Bool) (r : Nat), r < 128 → ∃ s', exec (.accumulatorScrubError (.row t r)) s = .next s'
    ∧ ∀ T, T = getTile (cc s) t.toNat →
      getTile (cc s') t.toNat = { T with bad := T.bad ||| (1#128 <<< r) })
  ∧ (∀ (s : State) (m b : Bool), ∃ s', exec (.accumulatorScrubError (.bank m b)) s = .next s'
    ∧ getBank (cc s') m.toNat b.toNat = { getBank (cc s) m.toNat b.toNat with bad := true })

/-- R318 to R343: matrix words issue, reach their check points and land. -/
def Obligations.MatrixWordsIssueAndReachTheirLanding : Prop :=
  Sys2Proof.Statements.MatrixWordsIssue
  ∧ Sys2Proof.Statements.MatrixWordsReachTheirLanding

/-- R126, R127, R326: a strip that overflows nowhere adds to each element of its row the sum of its products, each taken to
the tile's anchor; every other row, the overflow bits and the status bit stay. -/
def Sys2Proof.Statements.MultiplyAddsItsProductsAtTheAnchor : Prop :=
  ∀ (f : Fmt) (sgeo : BitVec 2) (K : Nat) (B : Bank) (i : Nat) (codes : List Nat) (T : Tile),
    i < 128 → T.ovf.getLsbD i = false →
    let bf := fmtD B.fmt
    let q (n : Nat) : List Int := (contribs K (if sgeo = 3 ∨ B.sgeo = 3 then 32 else 128) (prodFmt f || prodFmt bf)
      (fun k => realCode f (codes.getD k 0)) (fun k => realCode bf (bankCode B k n)) (scaleAt sgeo (codes.drop K))
      (fun k => bankScale B k n)).map fun v => toAnchor v T.anch.toInt
    (∀ n j, n < 128 → accMin ≤ tileEl T i n + ((q n).take j).sum ∧ tileEl T i n + ((q n).take j).sum ≤ accMax) →
    let U := mulStrip f sgeo K B i codes T
    (∀ n, n < 128 → tileEl U i n = tileEl T i n + (q n).sum)
    ∧ (∀ r n, r ≠ i → n < 128 → tileEl U r n = tileEl T r n)
    ∧ U.ovf = T.ovf ∧ U.st = T.st ∧ U.anch = T.anch

/-- R127: sat_add of an element keeps a held element; else it stores the sum where that is a W128 integer, and else the
nearer bound, with the row's overflow bit and the tile's status bit set. Every other element stays. -/
def Sys2Proof.Statements.SaturatingAdditionHoldsAndMarks : Prop :=
  ∀ (T : Tile) (i n : Nat) (q : Int), i < 128 → n < 128 →
    let x := tileEl T i n
    let U := satAddEl T i n q
    (T.ovf.getLsbD i = true → (x = accMin ∨ x = accMax) → U = T)
    ∧ (T.ovf.getLsbD i = false ∨ (x ≠ accMin ∧ x ≠ accMax) →
      (accMin ≤ x + q → x + q ≤ accMax → tileEl U i n = x + q ∧ U.ovf = T.ovf ∧ U.st = T.st)
      ∧ (x + q < accMin → tileEl U i n = accMin ∧ U.ovf = T.ovf ||| (1#128 <<< i) ∧ U.st = true)
      ∧ (accMax < x + q → tileEl U i n = accMax ∧ U.ovf = T.ovf ||| (1#128 <<< i) ∧ U.st = true))
    ∧ (∀ r m, m < 128 → (r ≠ i ∨ m ≠ n) → tileEl U r m = tileEl T r m)
    ∧ U.anch = T.anch ∧ U.te = T.te ∧ U.bad = T.bad

namespace Sys2Proof.Statements

/-- The element (i, n) of tile U takes the exact value v, or the nearer bound of a W128 integer, its row and tile then
marked. -/
def takesClamped (U : Tile) (i n : Nat) (v : Int) : Prop :=
  (accMin ≤ v → v ≤ accMax → tileEl U i n = v)
  ∧ (v < accMin → tileEl U i n = accMin ∧ U.ovf.getLsbD i = true ∧ U.st = true)
  ∧ (accMax < v → tileEl U i n = accMax ∧ U.ovf.getLsbD i = true ∧ U.st = true)

end Sys2Proof.Statements

open Sys2Proof.Statements in
/-- R127, R330: what mzero, manch, movclr, mtrap, mmov, mshift and madd leave in their tile. An element that is held
stays; every other one takes its new value, saturated, and saturation marks its row and its tile; without saturation no
mark changes. -/
def Sys2Proof.Statements.TileWordsActOnTheirTile : Prop :=
  ∀ (D S : Tile) (imm : BitVec 10),
    (∀ i n, tileEl (tileWord .zero D S imm) i n = 0)
    ∧ (let Z := tileWord .zero D S imm
       Z.ovf = 0 ∧ Z.st = false ∧ Z.bad = 0 ∧ Z.anch = D.anch ∧ Z.te = D.te)
    ∧ tileWord .anch D S imm = { D with anch := imm }
    ∧ tileWord .ovclr D S imm = { D with ovf := 0, st := false }
    ∧ tileWord .trap D S imm = { D with te := imm.getLsbD 0 }
    ∧ tileWord .mov D S imm = { S with te := D.te }
    ∧ (let U := tileWord .shift D S imm
       U.anch = imm ∧ U.te = D.te ∧ U.bad = D.bad
       ∧ (∀ i n, i < 128 → n < 128 →
          let x := tileEl D i n
          (x ≠ accMin → x ≠ accMax → takesClamped U i n (toAnchor ⟨x, D.anch.toInt⟩ imm.toInt))
          ∧ (D.ovf.getLsbD i = true → (x = accMin ∨ x = accMax) → tileEl U i n = x))
       ∧ (D.ovf = 0 →
          (∀ i n, accMin ≤ toAnchor ⟨tileEl D i n, D.anch.toInt⟩ imm.toInt ∧ toAnchor ⟨tileEl D i n, D.anch.toInt⟩ imm.toInt ≤ accMax) →
          (∀ i n, n < 128 → tileEl U i n = toAnchor ⟨tileEl D i n, D.anch.toInt⟩ imm.toInt) ∧ U.ovf = 0 ∧ U.st = D.st))
    ∧ (let U := tileWord .add D S imm
       let q (i n : Nat) : Int := toAnchor ⟨tileEl S i n, S.anch.toInt⟩ D.anch.toInt
       U.anch = D.anch ∧ U.te = D.te ∧ U.bad = D.bad
       ∧ (∀ i n, i < 128 → n < 128 →
          let x := tileEl D i n
          let c := if q i n < accMin then accMin else if accMax < q i n then accMax else q i n
          (x ≠ accMin → x ≠ accMax → takesClamped U i n (x + c))
          ∧ (D.ovf.getLsbD i = true → (x = accMin ∨ x = accMax) → tileEl U i n = x)
          ∧ (q i n < accMin ∨ accMax < q i n → U.ovf.getLsbD i = true ∧ U.st = true))
       ∧ (∀ i, D.ovf.getLsbD i = true ∨ S.ovf.getLsbD i = true → U.ovf.getLsbD i = true)
       ∧ ((∀ i n, accMin ≤ q i n ∧ q i n ≤ accMax ∧ accMin ≤ tileEl D i n + q i n ∧ tileEl D i n + q i n ≤ accMax) →
          U.ovf = D.ovf ||| S.ovf ∧ U.st = (D.st || S.st)))

/-- R126, R127, R326, R330: the accumulation of a tile, saturating addition, and the tile words. -/
def Obligations.MatrixTilesAccumulateExactly : Prop :=
  Sys2Proof.Statements.MultiplyAddsItsProductsAtTheAnchor
  ∧ Sys2Proof.Statements.SaturatingAdditionHoldsAndMarks
  ∧ Sys2Proof.Statements.TileWordsActOnTheirTile

/-! ### Copy words (R344 to R378) -/

/-- R351, R362, R370, R375: a copy word whose checks pass adds its bytes to its counted slot and becomes the word in
progress; one without elements, and xbar after its add, complete at once. xdec has read and checked its object's header
first. Tagged words of the own scratchpad wait until every condition holds. A record of the queue that a fault leaves
takes the number of the word's pieces. -/
def Obligations.CopyWordsIssue : Prop :=
  ∀ (s : State) (i : Instr) (k : XKind) (w : XC) (qw : QWord), xKindOf i = some (k, w) →
    let p := xPlan k w qw
    MayIssue 3 w.h s qw → xGood p = true → (cc s).cpy.run = none →
    (∀ op z a r b, k = .amo op z a r b → op = .fadd → (curTask s).det = false) →
    let runs (s1 : State) (head : List Nat) : State :=
      let u := takeWord s1 3 w.h qw
      xUpd (clearAcks u.1 3) fun c => { tab := c.tab, run := some u.2, seqAt := (getEng (cc u.1) 3).cseq, slot := p.cnt, left := xTotal p, head := head }
    let counted (t : State) : State :=
      if (getEng (cc t) 3).stop then issueProg (if (cc t).cpy.run.isNone then clearAcks t 3 else t) else t
    let overs (s1 : State) : State := completeWord (takeWord s1 3 w.h qw).1 3 (takeWord s1 3 w.h qw).2
    let faults (f : Flt) : State := raise2 { clearAcks s 3 with fresh := s.fresh + 1 } s.cur 3 qw f false 0
    (xEmpty p = true → ∀ s1, xAdd s p 0 = .ok s1 → exec i s = .next (counted (overs s1)))
    ∧ (k = .bar → ∀ s1, xAdd s p p.s.base.toInt = .ok s1 → exec i s = .next (counted (overs s1)))
    ∧ (∀ v, k = .bar → xAdd s p p.s.base.toInt = .error v → exec i s = .next (counted (faults { code := 0x0051, detail := v })))
    ∧ (∀ t c0 nc, k = .dec t c0 nc → xEmpty p = false → p.s.base.toNat % 4 = 0 → (tget {} (cc s).cpy.tab t).valid = true →
        (∀ s0 h s1, readHead s p c0 nc = .done s0 h → xAdd s0 p (xTotal p) = .ok s1 → exec i s = .next (counted (runs s1 h)))
        ∧ (∀ f, readHead s p c0 nc = .flt f → exec i s = .next (counted (faults f)))
        ∧ (∀ s0, readHead s p c0 nc = .far s0 → (cc s).timed = false → exec i s = .next (counted s0)))
    ∧ (((∃ t, k = .put t ∨ k = .take t) ∨ k = .tclr) → xEmpty p = false →
        walksAsked s 3 ((tagAccs (unitsFrom s p 0)).map (·.a)) = none →
        ∀ s0, (tagPlace s p = .ok (s0, false) → ∀ s1, xAdd s0 p (xTotal p) = .ok s1 → exec i s = .next (counted (runs s1 [])))
          ∧ (tagPlace s p = .ok (s0, true) →
              (∀ a, ownReady s0 p (unitsFrom s0 p 0) = some a → (cc s).timed = false →
                exec i s = .next (counted (noteWait s 3 qw [.flag 1 a.va])))
              ∧ (ownReady s0 p (unitsFrom s0 p 0) = none → ∀ s1, xAdd s0 p (xTotal p) = .ok s1 →
                let v := xUpd (runs s1 []) fun c => { c with own := true }
                exec i s = .next (counted (ownTurn v (takeWord s1 3 w.h qw).2 p)))))
    ∧ ((k matches .cpy | .conv _ | .fill | .gath | .scat | .tab _ | .amo _ _ _ _ _ | .cas _ _ | .get _ | .putv _ | .seq) = true →
        xEmpty p = false → ∀ s1, xAdd s p (xTotal p) = .ok s1 → exec i s = .next (counted (runs s1 [])))

/-- R352 to R355, R502: COPY_PIECE_PERFORMED reads every element of a plain piece, then writes them: here as one write,
to another device as one request for each line, whose acknowledgement ends the piece. -/
def Sys2Proof.Statements.PlainPiecesAreReadThenWritten : Prop :=
  ∀ (s : State) (i : Issued) (p : XPlan), copyRun (cc s) = some (i, p) →
    let c := (cc s).cpy
    let us := pieceAt s p c.elem
    c.elem < xCount p → (∀ t, p.kind ≠ .tab t) → p.kind ≠ .seq → c.own = false → needChunk c p = none →
    xMode us = .plain → (us.findIdx? fun u => u.act == .ask) = none →
    (c.begun = false → ∀ s1, xRead p c.next (us.flatMap (·.accs)) s = .done s1 →
      let vs := us.map (locUnit s1)
      let ws := vs.filterMap fun u => unitWrite u (unitVals s1 u)
      let v := clearAcks (xNote true (vs.flatMap (·.accs)) s1) 3
      ((∀ a ∈ ws, isVol a.loc = false) → exec .copyPiecePerformed s = .next (finishPiece (healOver (fun _ => hereLocs ws)
        (storeMany v (whoWord v.cur 3 i.w 0) (ws.map fun a => (a.loc, a.va, a.data)) false)) i p us.length ((vs.map (·.bytes)).sum)))
      ∧ ((∃ a ∈ ws, isVol a.loc = true) → exec .copyPiecePerformed s
          = .next (xUpd (xStore i ws v) fun c => { c with begun := true, len := us.length, bytes := (vs.map (·.bytes)).sum })))
    ∧ (c.begun = false → ∀ f, xRead p c.next (us.flatMap (·.accs)) s = .flt f → exec .copyPiecePerformed s = .next (xFault s i p f))
    ∧ (c.begun = true → volPending s 3 = false →
      let l := farWrites (us.flatMap fun u => (locUnit s u).accs)
      (xFarFlt s l = none → exec .copyPiecePerformed s = .next (finishPiece s i p c.len c.bytes))
      ∧ (∀ f, xFarFlt s l = some f → exec .copyPiecePerformed s = .next (xFault s i p f)))

/-- R363, R364, R370, R400: ATOMIC_AT_PORT performs the next atomic of a piece at its port on this device, takes its
target's bytes off the counted slot, and writes its result where the word asks for one; an element whose place is gone
since its piece began faults. -/
def Sys2Proof.Statements.AtomicsOfAPieceArePerformedOneByOne : Prop :=
  ∀ (s : State) (i : Issued) (p : XPlan) (u : XUnit), copyRun (cc s) = some (i, p) →
    let c := (cc s).cpy
    let us := pieceAt s p c.elem
    c.elem < xCount p → c.begun = true → xMode us = .atomic → us[c.part]? = some u → c.got = none → c.sent = none →
    (∀ f, reUnit s u = .error f → exec .atomicAtPort s = .next (xFault s i p f))
    ∧ (∀ v op, reUnit s u = .ok v → unitAmo v (c.vals.getD c.part []) = some op → isVol (accAt v 0).loc = false →
      let r := atomicHere s (whoWord s.cur 3 i.w (accAt v 0).va) (accAt v 0).loc op
      let t := xSub (xUpd (bumpRelease r.1 r.1.cur) fun c => { c with got := some (BitVec.ofNat 64 r.2), sent := none })
        i p (accAt v 0).len
      (cc t).cpy.run.all (·.faulted) = false →
      (resultAcc v = none → exec .atomicAtPort s = .next (opDone t i p (v.bytes - (accAt v 0).len) us.length us.length))
      ∧ (∀ a, resultAcc v = some a → isVol a.loc = false →
        let e := { a with data := leBytes a.len (BitVec.ofNat 64 r.2).toNat }
        exec .atomicAtPort s = .next (opDone (xStore i [e] (sampleAll t.cur true [e] t)) i p (v.bytes - (accAt v 0).len)
          us.length us.length)))

/-- R66, R67, R346, R366: a tagged operation that arrives at another core's bank port is performed where its condition
holds, held where it does not and the pending list has room, else refused, and leaves again 64 cycles later; one that a
park took from the list arrives behind those that stood before it. -/
def Sys2Proof.Statements.TaggedOperationsArriveInOrder : Prop :=
  (∀ (s : State) (i : Issued) (p : XPlan) (a : VAcc) (k : TagKind) (v : W64) (d o : Nat), copyRun (cc s) = some (i, p) →
    stillBehind s (cc s).task (cc s).cpy.behind = false → (cc s).cpy.sent = some .way → sentOp s p = some (a, k, v) →
    a.loc = .scr d o →
    let h : Held := { sender := .copy s.cur a.va, word := o / 8, kind := k, val := v }
    (tagCond k (tagFull s d (o / 8)) = true →
      ((tagReads k = true → uncorrectable s a.loc 8 = none) →
        let r := tagPerform s (heldWho s h) d (o / 8) k v false
        exec .taggedOpArrival s = .next (noneBehind (heldDone r.1 h r.2 (tagSetter s d (o / 8)))))
      ∧ (tagReads k = true → uncorrectable s a.loc 8 ≠ none → exec .taggedOpArrival s = .next (noneBehind (xFault s i p
          { code := 0x0020, addr := a.va, detail := BitVec.ofNat 64 (cc s).cpy.next }))))
    ∧ (tagCond k (tagFull s d (o / 8)) = false →
      (32 ≤ (getCore s d).held.length →
        exec .taggedOpArrival s = .next (xUpd s fun c => { c with sent := some (.refused (curCyc s + 64)) }))
      ∧ ((getCore s d).held.length < 32 → d ≠ s.cur →
        ∃ t, exec .taggedOpArrival s = .next t ∧ (cc t).cpy.sent = some .held
          ∧ (cc t).cpy.since = some ((cc s).cpy.since.getD (curCyc s)) ∧ (getCore t d).held = (getCore s d).held ++ [h])))
  ∧ (∀ (s : State) (i : Issued) (p : XPlan) (a : VAcc) (k : TagKind) (v : W64) (c d o : Nat), copyRun (cc s) = some (i, p) →
    (cc s).cpy.sent = some (.refused c) → c ≤ curCyc s → sentOp s p = some (a, k, v) → a.loc = .scr d o →
    exec .taggedResend s
      = .next (xUpd s fun c => { c with sent := some .way, to_ := some a.loc, ent := entOf s s.cur a.va }))
  ∧ (∀ s : State, stillBehind s (cc s).task (cc s).cpy.behind = true → exec .taggedOpArrival s = .next s)

/-- R354, R370, R376: the copy word in progress completes when every piece is performed and every request answered: the
bytes that have not left its counted slot leave it, and where the slot cannot take that the word faults with 0x0051. -/
def Sys2Proof.Statements.CopyWordCompletesWithItsSlot : Prop :=
  ∀ (s : State) (i : Issued) (p : XPlan), copyRun (cc s) = some (i, p) → xCount p ≤ (cc s).cpy.elem →
    ((cc s).cpy.own && (cc s).cpy.begun) = false → volPending s 3 = false →
    let gone (t : State) : State := completeWord (xUpd (clearAcks t 3) fun c => { tab := c.tab }) 3 i
    ((cc s).cpy.slot = none → exec .copyWordComplete s = .next (gone s))
    ∧ (∀ lvl sl, (cc s).cpy.slot = some (lvl, sl) →
      let t := xUpd s fun c => { c with left := c.left - (cc s).cpy.left }
      (∀ t1, slotAdd t t.cur lvl sl (-((cc s).cpy.left : Int)) = .ok t1 → copyRun (cc t1) ≠ none →
        exec .copyWordComplete s = .next (gone t1))
      ∧ (∀ v, slotAdd t t.cur lvl sl (-((cc s).cpy.left : Int)) = .error v →
        let t1 := xFault t i p { code := 0x0051, detail := v }
        copyRun (cc t1) = none → exec .copyWordComplete s = .next t1))

/-- R352 to R355, R363, R364, R366, R370, R376: the events of the copy word in progress: plain pieces, atomics, tagged
operations, and the completion of the word. -/
def Obligations.CopyWordsArePerformedPieceByPiece : Prop :=
  Sys2Proof.Statements.PlainPiecesAreReadThenWritten
  ∧ Sys2Proof.Statements.AtomicsOfAPieceArePerformedOneByOne
  ∧ Sys2Proof.Statements.TaggedOperationsArriveInOrder
  ∧ Sys2Proof.Statements.CopyWordCompletesWithItsSlot

/-! ### Packets (R99 to R102, R404 to R407, R411, R437, R475 to R477) -/

/-- R99 to R101, R403, R412, R475, R476: a doorbell or a poll asks for one read, a re-read is asked for 1 µs after a CRC
that failed, and clearing torn asks afresh. The fetcher serves one queue in a turn, round-robin, none while the tables
are full. Of the slot at head a packet whose sequence and CRC agree runs and head moves on, one whose CRC fails is to be
read again, and the sixteenth failure of a re-read stops the queue as torn with message 66. That a doorbell's own
failing read is not counted is the model's choice (log entry 107). -/
def Sys2Proof.Statements.FetcherReadsThePacketAtHead : Prop :=
  (∀ (s : State) (q : Nat), q < 64 →
    let v := getSq s q
    let asks (x : Sq) : State := if ringEn x.cfg && !x.stopped then setSq s q { x with owed := x.owed + 1 } else setSq s q x
    (ringEn v.cfg = true → v.stopped = false → exec (.sqDoorbell q) s = .next (asks v))
    ∧ (ringEn v.cfg = false ∨ v.stopped = true → exec (.sqDoorbell q) s = .next s)
    ∧ (pollDue s q = true → v.stopped = false → exec (.sqPoll q) s = .next (asks { v with polled := s.gtc }))
    ∧ (rereadReady s q = true → exec (.packetReread q) s = .next (setSq s q { v with rereadDue := false, reread := true }))
    ∧ (v.torn = true → exec (.tornClear q) s
        = .next (asks { v with torn := false, stopped := false, rereads := 0, rereadDue := false, reread := false })))
  ∧ (∀ s : State,
    (tablesFull s = true ∨ nextQueue s = none → fetchTurn s = s)
    ∧ ∀ q, nextQueue s = some q →
      (∃ e ∈ s.host.sq, e.1 = q ∧ q < 64 ∧ e.2.work = true)
      ∧ (∀ e ∈ s.host.sq, e.1 < 64 → e.2.work = true → (q + 127 - s.host.served) % 64 ≤ (e.1 + 127 - s.host.served) % 64)
      ∧ (tablesFull s = false →
        let u : State := { s with host := { s.host with served := q } }
        ((getSq s q).reread = true → fetchTurn s = fetchSlot (setSq u q { getSq s q with reread := false }) q true)
        ∧ ((getSq s q).reread = false →
          fetchTurn s = fetchSlot (setSq u q { getSq s q with owed := (getSq s q).owed - 1 }) q false)))
  ∧ (∀ (s : State) (q : Nat) (again : Bool),
    let v := { getSq s q with readAt := s.gtc }
    let w := { v with rereads := 0, rereadDue := false, reread := false }
    let u := if ringLoc v.cfg then awaken s (regionMap s (slotAddr v)) else s
    let b := readSlot u v
    (getN b 0 4 ≠ (v.head + 1).toNat → fetchSlot s q again = setSq u q w)
    ∧ (getN b 0 4 = (v.head + 1).toNat → slotCrcOk b = true → heldBack u b = false →
      fetchSlot s q again = runPacket (setSq u q { w with head := v.head + 1 }) q b)
    ∧ (getN b 0 4 = (v.head + 1).toNat → slotCrcOk b = true → heldBack u b = true →
      fetchSlot s q again = setSq u q { w with owed := v.owed + 1 })
    ∧ (getN b 0 4 = (v.head + 1).toNat → slotCrcOk b = false →
      let n := if again then v.rereads + 1 else v.rereads
      (n < 16 → fetchSlot s q again = setSq u q { v with rereads := n, rereadDue := true, reread := false })
      ∧ (16 ≤ n → (getSq (fetchSlot s q again) q).torn = true ∧ (getSq (fetchSlot s q again) q).stopped = true
          ∧ (getSq (fetchSlot s q again) q).head = (getSq u q).head ∧ (fetchSlot s q again).host.msgs = 66 :: u.host.msgs)))

/-- R161, R406, R407, R411, R412, R416, R437: what each packet does and which record it leaves; a cancel waits for its
place in the Referee's cycle. That an image which cannot be read has loader status 1, that a misaligned vbase is a bad
packet of status 11 and that a submission held back is read again are the model's choices (log entries 61, 62 and 63).
-/
def Sys2Proof.Statements.PacketsDoTheirWorkAndLeaveTheirRecord : Prop :=
  ∀ (s : State) (q : Nat) (tag : W64),
    exec (.nopPacket q) s = .next (packetRecord s q 0 10 none)
    ∧ (∀ (id addr size : Nat) (vbase : W64), id < 256 → size < 2 ^ 32 →
      (vbase.toNat % 65536 ≠ 0 → exec (.loadImage q id addr size vbase) s = .next (packetRecord s q 0 11 none))
      ∧ (vbase.toNat % 65536 = 0 → imageUsed s id = true →
        exec (.loadImage q id addr size vbase) s = .next (packetRecord s q 0 13 (some 0x0B)))
      ∧ (vbase.toNat % 65536 = 0 → imageUsed s id = false →
        let u := awakenSpan s addr size
        let b := if 0 < size ∧ spaReadable u addr size = true then readSpaLong u addr size else []
        (loaderStatus b addr size ≠ 0 →
          exec (.loadImage q id addr size vbase) s = .next (packetRecord u q 0 13 (some (loaderStatus b addr size))))
        ∧ (loaderStatus b addr size = 0 → exec (.loadImage q id addr size vbase) s = .next (packetRecord
            { u with ref := { u.ref with images := tset u.ref.images id (imageOfBytes b addr size vbase) } } q 0 13 (some 0)))))
    ∧ (∀ p : SubmitPkt, p.gflags < 8 → tablesFull s = false → nodesHeld s + p.nodes ≤ 16384 →
      (∀ r i, submitTests s p = .error (r, i) → exec (.submitGraph q p) s = .next (writeRecord s {
        tag := p.tag, kind := 2, status := 12, finish := s.gtc, queue := q, detail := some (BitVec.ofNat 64 (r + i * 65536)) }))
      ∧ (∀ ns, submitTests s p = .ok ns → exec (.submitGraph q p) s = .next (acceptGraph s q p ns)))
    ∧ (∀ node, node < 65536 → s.ref.cancels = [] → ∃ t, exec (.cancel q tag node) s = .next t
      ∧ t = { s with ref := { s.ref with cancels := [(q, tag, node)] } } ∧ takeCancels t = cancelPkt s q tag node)
    ∧ (graphsOf s tag = [] → ∀ node, cancelPkt s q tag node = packetRecord s q tag 10 (some 0))
    ∧ (∀ g node, graphsOf s tag = [g] → cancelPkt s q tag node = packetRecord (cancelGraph s g node).1 q tag 10
        (some ((cancelSet (getGraph s g) node).filter (cancels s g)).length))
    ∧ (∀ node lid off v, node < 65536 → lid < 65536 → off < 2 ^ 32 →
      (off % 8 ≠ 0 ∨ scrSize ≤ off ∨ wakeable s tag node = none →
        exec (.wake q tag node lid off v) s = .next (packetRecord s q tag 11 none))
      ∧ (∀ task t, off % 8 = 0 → off < scrSize → wakeable s tag node = some task → wakeTask s task lid off v = some t →
        exec (.wake q tag node lid off v) s = .next (packetRecord t q tag 10 none)))

/-- R99 to R101, R161, R404 to R412, R437, R475, R476: packets are fetched, done and recorded. -/
def Obligations.PacketsAreFetchedAndDone : Prop :=
  Sys2Proof.Statements.FetcherReadsThePacketAtHead
  ∧ Sys2Proof.Statements.PacketsDoTheirWorkAndLeaveTheirRecord

/-! ### Queues, rings and the host link (R472 to R483, R515) -/

/-- R475, R478 to R481: enabling a queue or ring starts it at entry 0, disabling it keeps its other fields, a tail write
lets a waiting record go to the entry at head, and a message held back is sent when its interval is over. -/
def Obligations.QueuesAndRingsFollowTheirEnables : Prop :=
  (∀ (s : State) (q : Nat) (v : W64), q < 64 →
    let x := getSq s q
    (ringEn x.cfg = true → exec (.queueEnable q v) s = .next s)
    ∧ (ringEn x.cfg = false → exec (.queueEnable q v) s
        = .next (setSq s q { base := x.base, cfg := (v ||| 1) &&& 0xFFFF003F, polled := s.gtc }))
    ∧ (ringEn x.cfg = true → ∃ t, exec (.queueDisable q v) s = .next t ∧ ringEn (getSq t q).cfg = false
        ∧ (getSq t q).head = x.head ∧ (getSq t q).base = x.base ∧ (getSq t q).torn = false)
    ∧ (ringEn x.cfg = false → ∃ t, exec (.queueDisable q v) s = .next t ∧ (getSq t q).cfg = v &&& 0xFFFF003E))
  ∧ (∀ (s : State) (r : RingId) (v : W64), ringOk r = true →
    let x := getRing s r
    (ringEn x.cfg = true → exec (.ringEnable r v) s = .next s)
    ∧ (ringEn x.cfg = false → exec (.ringEnable r v) s
        = .next (flushRing (setRing s r { x with cfg := (v ||| 1) &&& ringMask r, head := 0 }) r))
    ∧ (ringEn x.cfg = true → ∃ t, exec (.ringDisable r v) s = .next t ∧ ringEn (getRing t r).cfg = false
        ∧ (getRing t r).head = x.head ∧ (getRing t r).wait = x.wait)
    ∧ (exec (.ringTailWrite r v) s = .next (flushRing (setRing s r { x with tail := v.setWidth 32 }) r))
    ∧ (msgDue s r = true → ∃ t, exec (.msixCoalesceExpiry r) s = .next t ∧ t.host.msgs = ringVector r :: s.host.msgs
        ∧ getRing t r = { x with sentAt := s.gtc, heldMsg := false }))
  ∧ (∀ (s : State) (q : Nat) (b : List Byte),
    let g := getRing s (.cq q)
    g.wait = [b] → ringEn g.cfg = true → (g.head - g.tail).toNat < ringSlots g.cfg →
    flushRing s (.cq q) = ringMsg (setRing (ringPut s (ringLoc g.cfg)
      (g.base.toNat + 64 * (g.head.toNat % ringSlots g.cfg)) b) (.cq q) { g with head := g.head + 1, wait := [] }) (.cq q))

/-- R74, R472, R473, R482, R483: host accesses through a BAR, compatibility mode, page responses, invalidations and the
enables of configuration space. That a host read of a Volley window becomes one request whose bytes come later (log
entry 119), and that configuration space sets PRI together with its allocation, which stays when it is off (log entry
120), is the model's choice; so are page numbers as what an invalidation names (log entry 137). -/
def Sys2Proof.Statements.HostAccessesReachTheDevice : Prop :=
  (∀ (s : State) (a : BarAccess),
    let n := if a.write.isEmpty then a.read else a.write.length
    let l := barPieces s a.bar4 (n / 4096 + 2) a.off n
    (a.atomic = true → exec (.hostBarAccess a) s = .next { s with host := { s.host with rdata := [], unsupported := true } })
    ∧ (a.atomic = false → barInside s a n = false → exec (.hostBarAccess a) s
      = .next { s with host := { s.host with rdata := [], unsupported := a.write.isEmpty } })
    ∧ (a.atomic = false → barInside s a n = true → barBacked s l = false → exec (.hostBarAccess a) s
      = .next { s with host := { s.host with rdata := [], unsupported := a.write.isEmpty, apfail := s.host.apfail || a.bar4 } })
    ∧ (a.atomic = false → barInside s a n = true → barBacked s l = true → a.write ≠ [] →
      exec (.hostBarAccess a) s = .next (healOver
        (fun _ => (l.filter fun e => !isVol (.named e.1)).map fun e => (.named e.1, e.2)) (barWrite s l a.write)))
    ∧ (a.atomic = false → barInside s a n = true → barBacked s l = true → a.write = [] → s.mm.sr = 0 →
      (∀ e ∈ l, isVol (.named e.1) = false ∧ uncorrectable s (.named e.1) e.2 = none) →
      exec (.hostBarAccess a) s = .next { s with host := { s.host with
        rdata := l.flatMap fun e => readLoc s (.named e.1) e.2, unsupported := false } })
    ∧ (∀ pa m, a.atomic = false → barInside s a n = true → barBacked s l = true → a.write = [] → s.mm.sr = 0 →
      l = [(pa, m)] → isVol (.named pa) = true → 0 < m → m ≤ 8 - pa % 8 →
      exec (.hostBarAccess a) s = .next (let u := (sendReq s (.host (some (0, m))) pa (.load m) 1).1
        { u with host := { u.host with rdata := List.replicate m 0, unsupported := false } })))
  ∧ (∀ (s : State) (v : W64), s.host.tr.wait = [] → s.host.owed = [] → (∀ e ∈ s.cores, e.2.outRecs = []) →
    (v.getLsbD 0 = true → s.host.compatEn = false → s.host.pri = true → s.host.ats = true →
      exec (.compatEnable v) s = .next { s with host := { s.host with compatEn := true, compatFail := false } })
    ∧ (v.getLsbD 0 = true → s.host.pri = false ∨ s.host.ats = false → exec (.compatEnable v) s = .next s)
    ∧ (v.getLsbD 0 = false → exec (.compatEnable v) s = .next { s with host := { s.host with compatEn := false } })
    ∧ (∀ tag fail, s.host.tags.any (fun e => e.1 = tag) = true →
      exec (.prgResponse tag fail) s = .next { s with host := { s.host with
        tags := tdel s.host.tags tag, pageReqs := s.host.pageReqs.filter fun e => e.1 ≠ tag
        compatFail := s.host.compatFail || fail } }))
  ∧ (∀ (s : State) (page : Nat), exec (.atsInvalidation page) s
      = .next { s with host := { s.host with atc := s.host.atc.filter (·.1 ≠ page), atsGen := s.host.atsGen + 1 } })
  ∧ (∀ (s : State) (a t : Bool) (p : Option Nat),
    let u : State := { s with host := { s.host with
      atom := a, pri := p.isSome, ats := t, alloc := p.getD s.host.alloc % 2 ^ 32 } }
    (s.host.compatEn = false → exec (.configurationWrite a p t) s = .next u)
    ∧ (s.host.compatEn = true → exec (.configurationWrite a p t) s = .next (drainOut (trapFlush u))))
  ∧ (∀ (s : State) (b : List Byte) (rest : List (List Byte)) (t n : Nat), s.host.tr.wait = b :: rest →
    freeTag s.host.tags 0 256 = some t → s.host.compatFail = false →
    (s.host.alloc ≤ s.host.tags.length → pageFlush (n + 1) s = s)
    ∧ (s.host.tags.length < s.host.alloc → let u := { s with host := { s.host with
        tr := { s.host.tr with wait := rest }, tags := tset s.host.tags t (trapOfBytes b)
        pageReqs := s.host.pageReqs ++ [(t, (trapOfBytes b).addr &&& ~~~(0xFFF : W64))] } }
      pageFlush (n + 1) s = pageFlush n (sendMsix u 64)))

/-- R515, R518: a written register of the hub reads back in its defined bits; in recovery only the management block
answers. -/
def Sys2Proof.Statements.WrittenRegistersReadBack : Prop :=
  ∀ (s : State) (v : W64),
    (s.mg.recovery = false →
      ∀ e ∈ ([(0x101028, 0x1FFFFFFFFFF0000), (0x101030, 0xFFFFFFFF), (0x300050, 0xFFFFFFFFFFFC0), (0x300058, 0xFFFF),
          (0x300068, 0xFFFF), (0x401020, 0xFFFFFFFFFFFFF000), (0x401028, 0x7FFFFFFFF000), (0x401030, 0xFFFFC00000000),
          (0x500018, 0xFFFFFFFF), (0x500020, 0xFFFFFFFFFC000), (0x600000, 0xF), (0x600008, 0xFFFFFFFFFFFC0),
          (0x600010, 0xFFFF), (0x600028, 0xFFFFFFFF), (0x600030, 0xFFFFFFFF), (0x600040, 0xFFFFFFFFFFFC0),
          (0x600048, 0xFFFFF), (0x600060, 0xFFFFFFFFFFFFFFFF), (0x600070, 0xFFFFFFFFF3FFFF)] : List (Nat × W64)),
        ∃ t, exec (.registerWrite e.1 v) s = .next t ∧ hubRead t e.1 = v &&& e.2 ∧ t.cores = s.cores ∧ t.mem = s.mem)
    ∧ (s.mg.recovery = true → ∀ off, 0x100000 ≤ off → exec (.registerWrite off v) s = .next s ∧ (off < 0x1000000 → hubRead s off = 0))

/-- R74, R472, R473, R482, R483, R515, R518: host accesses and the registers of the hub. -/
def Obligations.HostAccessesAndRegistersAreServed : Prop :=
  Sys2Proof.Statements.HostAccessesReachTheDevice
  ∧ Sys2Proof.Statements.WrittenRegistersReadBack

/-! ### The Referee: launches, prologues, parks (R415 to R442, R461 to R465) -/

/-- R417 to R431: the first node in state Prologue takes the lowest free conductor, with its record's values in x10 to
x15; a prologue is limited to 4,096 instructions; a dispatched task starts strand 0 on its cores when their clocks stand
at its vstep; a clock that was moving runs at its new vstep; aging evaluates; a launch ends when its cores have
finished. -/
def Sys2Proof.Statements.LaunchesStartAndEnd : Prop :=
  (∀ (s : State) (p g i : Nat) (l : List (Nat × Nat)), freePro s = some p →
    ranked s (fun nd => nd.st == .prologue && nd.pro.isNone && decide (nd.task ≠ 0)) = (g, i) :: l →
    ∃ t, exec .prologueStart s = .next t ∧ (getCore t (3072 + p)).run = .on
      ∧ (getCore t (3072 + p)).task = (getNode (getGraph s g) i).task
      ∧ (let nd := getNode (getGraph s g) i
         let u := getStrand (getCore t (3072 + p)) 0
         u.run = .ready ∧ u.pc = nd.r.pro ∧ xget u 10 = nd.r.args ∧ xget u 11 = nd.r.ext0 ∧ xget u 12 = nd.r.ext1
         ∧ xget u 13 = nd.r.ext2 ∧ xget u 14 = nd.r.gran ∧ xget u 15 = nd.r.deadline))
  ∧ (∀ (s : State) (b : BitVec 2), (getCore s (3072 + b.toNat)).run = .on → (getStrand (getCore s (3072 + b.toNat)) 0).run = .ready →
    4096 ≤ (getStrand (getCore s (3072 + b.toNat)) 0).block →
    exec (.prologueLimit b) s = .next (raise1 s (3072 + b.toNat) 0 { code := 0x0108, detail := 4096 } 0))
  ∧ (∀ (s : State) (task : Nat), (getTask s task).st = .dispatched → (getTask s task).clusters ≠ [] →
    anyMoving s (getTask s task).clusters = false → (getTask s task).fabric = false →
    ∃ t, exec (.launchStart task) s = .next t ∧ (getTask t task).st = .running
      ∧ ∀ lid c, (getTask s task).lbase ≤ lid → lid < (getTask s task).lbase + 96 * (getTask s task).clusters.length →
        coreOfLid (getTask s task) lid = some c → (getTask s task).clusters.Nodup →
        (getCore t c).run = .on ∧ (getCore t c).task = task ∧ (getCore t c).lid = lid
        ∧ xget (getStrand (getCore t c) 0) 1 = BitVec.ofNat 64 lid)
  ∧ (∀ (s : State) (k v : Nat), (getCluster s k).moving = some v →
    exec (.vstepTransitionComplete k) s = .next (setCluster s k { getCluster s k with vstep := v, moving := none }))
  ∧ (∀ (s : State), agingDue s = true →
    exec .agingTick s = .next { s with ref := { s.ref with agedAt := s.gtc, agedWith := s.ref.age, again := true } })
  ∧ (∀ (s : State) (task : Nat), (getTask s task).st = .running → (getTask s task).stopped = false →
    ((getTask s task).ending = none → coresOf s task ≠ [] → 
        (∀ c ∈ coresOf s task, (getCore s c).run = .finished ∧ recordsOut (getCore s c) = true) →
      exec (.launchEnd task) s = .next (launchOver s task (endStatus (getTask s task)) none false))
    ∧ (∀ st d, (getTask s task).ending = some (st, d) → 
        (∀ c ∈ coresOf s task, ((getCore s c).run ≠ .ending ∨ holdQuiet (getCore s c) = true) ∧ recordsOut (getCore s c) = true) →
      exec (.launchEnd task) s = .next (launchOver s task st d false)))

/-- R416, R419, R420: exit in a prologue ends its strand and says its verdict, in x20, which the Referee takes in the cycle:
skip ends the node with status 3; launch and repeat make it Ready with its launch values and repetitions; a verdict or value
outside the rule raises 0x0109. -/
def Sys2Proof.Statements.PrologueExitGivesItsVerdict : Prop :=
  (∀ s : State, isPrologue s.cur = true → NotFault s → Free s (verdictUses (cst s)) →
    exec .exit s = .next (let t := setCC s (setStrand (cc s) 0 { cst s with run := .idle })
      { t with ref := { t.ref with said := t.ref.said ++ [s.cur - 3072] } }))
  ∧ (∀ (s : State) (p : Nat), s.ref.said = [p] → takeVerdicts s = prologueVerdict { s with ref := { s.ref with said := [] } } p)
  ∧ (∀ (s : State) (p : Nat),
    let t := getStrand (getCore s (3072 + p)) 0
    let v := xget t 20
    (2 < v.toNat ∨ (v = 2 ∧ 255 < (xget t 21).toNat) ∨ (v ≠ 1 ∧ xget t 14 = 0) → ∀ w, encode .exit = .cword w →
      prologueVerdict s p = raise1 s (3072 + p) 0 { code := 0x0109, detail := v } w)
    ∧ ∀ g i, (s.ref.pros.find? fun e => e.1 = p) = some (p, g, i) →
      let nd := getNode (getGraph s g) i
      (v = 1 → prologueVerdict s p = nodeDone s g i 3 none nd.task)
      ∧ (v = 0 ∨ (v = 2 ∧ (xget t 21).toNat ≤ 255) → xget t 14 ≠ 0 →
        prologueVerdict s p = evalSoon (setNode (dropPrologue s nd) g i { nd with
          st := .ready, pro := none, args := xget t 10, e0 := xget t 11, e1 := xget t 12, e2 := xget t 13, g0 := xget t 14
          repIndex := 0, repCount := if v = 2 then (xget t 21).toNat + 1 else 1 })))

/-- R55, R286, R346, R387, R442, R456, R461 to R465: what a frozen victim has in flight is performed, its walks end
first, then pending lists refuse and engines withdraw their tagged operations, and saving begins; nothing is saved while
a request of its cores is out (R462). The image is saved and the clusters freed; a resumed task runs from its image or
from what its yield kept; a halted one ends with its status; a record of code 0x0003 re-parks. -/
def Obligations.ParksResumeAndHaltsEnd : Prop :=
  (∀ (s : State) (c : Nat) (n : BitVec 2) (t : State),
    (∀ m : BitVec 2, m ≠ n → (getStrand (getCore s c) m.toNat).flight = none) →
    exec (.memoryAccessPerformed n) { s with cur := c } = .next t →
    (∀ m : BitVec 2, (getStrand (getCore t c) m.toNat).flight = none) →
    flushStrands s c = { t with cur := s.cur })
  ∧ (∀ (s : State) (c : Nat), (getCore s c).gen.fly.any genHolding = false → fillHolding (getCore s c) = false →
    (getCore s c).cpy.sent = none → pieceAcked (getCore s c) = false →
    ((holdingWord (getCore s c).vec.fly).isSome = false → flushEngines s c = s)
    ∧ ∀ t, (holdingWord (getCore s c).vec.fly).isSome = true → exec .vectorRemoteAccessDone { s with cur := c } = .next t →
      (getCore t c).gen = (getCore s c).gen → (getCore t c).cpy = (getCore s c).cpy → (getCore t c).acks = [] →
      flushEngines s c = { t with cur := s.cur })
  ∧ ∀ (s : State) (task : Nat),
    let cores := coresOf s task
    ((getTask s task).st = .freezing →
      let u := overCores (overCores (overCores (overCores s cores flushWalks) cores flushCopyWalk) cores flushStrands) cores flushEngines
      (cores.any (stillOut u) = true → exec (.freezeComplete task) s = .next u)
      ∧ (cores.any (stillOut u) = false →
        let w := overCores (overCores u cores refuseHeld) cores withdraw
        exec (.freezeComplete task) s = .next (setTask w task { getTask w task with st := .saving })))
    ∧ ((getTask s task).st ≠ .saving ∨ firstToSave s task = false ∨ noneFlying s cores = false →
      exec (.imageSaved task) s = .next s)
    ∧ ((getTask s task).st = .saving → firstToSave s task = true → noneFlying s (coresOf s task) = true →
      (getTask s task).repark = false → exec (.imageSaved task) s = .next (evalSoon (saveImage s task))
        ∧ (getTask (saveImage s task) task).st = .parked ∧ (getTask (saveImage s task) task).clusters = []
        ∧ (let f := fillRange s (getTask s task)
           (getTask (saveImage s task) task).saved
            = (coresOf f task).foldl (fun m c => tset m (getCore f c).lid (imageCore f (getTask s task) c)) []))
    ∧ ((getTask s task).st = .restoring → (getTask s task).clusters ≠ [] → anyMoving s (getTask s task).clusters = false →
      (∀ k ∈ (getTask s task).clusters, dieUsable s (k / 2) = true) →
      let t := getTask s task
      let s1 := setNode s t.graph t.node { getNode (getGraph s t.graph) t.node with st := .running, image := none }
      let s2 := { s1 with bur := { s1.bur with
        gradeAt := if s1.bur.releasing.contains task then some s1.gtc else s1.bur.gradeAt
        releasing := s1.bur.releasing.filter (· ≠ task) } }
      let placed := if t.ylds = [] then
          let s3 := t.saved.foldl (fun s e => placeCore s t e.1 e.2) (setTask s2 task { t with st := .running })
          (coresOf s3 task).foldl rearm s3
        else t.ylds.foldl (fun s e => placeYield s t e.1 e.2) (setTask s2 task { t with st := .running, ylds := [] })
      let s4 := heldArrivals (parkedDeliver placed task) task
      exec (.restoreComplete task) s = .next (evalSoon (allotRestore ((coresOf s4 task).foldl finishCheck s4))))
    ∧ (∀ st d, (getTask s task).st = .halting → (getTask s task).ending = some (st, d) →
      (∀ c ∈ coresOf s task, recordsOut (getCore s c) = true) →
      exec (.haltComplete task) s = .next (launchOver (shedAccesses s (coresOf s task)) task st d true))
    ∧ ((getTask s task).st = .running → (∃ c ∈ coresOf s task, ∃ p ∈ (getCore s c).pendRecs, p.trap.code = 0x0003) →
      ∃ t, exec (.featureAbsentRepark task) s = .next t ∧ (getTask t task).st = .freezing ∧ (getTask t task).repark = true)

/-- R433: an arrival message counts at the fabric slot of a running part, and is held for a part that is not on this
device or does not run yet, 64 for a group; an abort ends a part that is not dispatched with status 6 and the index of
the part that ended first. -/
def Sys2Proof.Statements.FabricMessagesReachTheirPart : Prop :=
  ∀ (s : State) (fg slot fidx : Nat), slot < 8 →
    (∀ g i c, groupNode s fg = some (g, i) → (getTask s (getNode (getGraph s g) i).task).st = .running →
      coreOfLid (getTask s (getNode (getGraph s g) i).task) (getTask s (getNode (getGraph s g) i).task).lbase = some c →
      let v := getSlot s c 4 slot
      exec (.fabricArrivalMessage fg slot) s = .next (slotCheck (setSlot s c 4 slot { v with arrived := v.arrived + 1 }) c 4 slot))
    ∧ (∀ g i, groupNode s fg = some (g, i) → (getTask s (getNode (getGraph s g) i).task).st ≠ .running →
      ((s.vol.held.filter fun e => e.1 = fg).length < 64 →
        exec (.fabricArrivalMessage fg slot) s = .next { s with vol := { s.vol with held := s.vol.held ++ [(fg, slot)] } })
      ∧ (64 ≤ (s.vol.held.filter fun e => e.1 = fg).length → exec (.fabricArrivalMessage fg slot) s = .next s))
    ∧ (groupNode s fg = none → (s.vol.held.filter fun e => e.1 = fg).length < 64 →
      exec (.fabricArrivalMessage fg slot) s = .next { s with vol := { s.vol with held := s.vol.held ++ [(fg, slot)] } })
    ∧ (groupNode s fg = none → 64 ≤ (s.vol.held.filter fun e => e.1 = fg).length → exec (.fabricArrivalMessage fg slot) s = .next s)
    ∧ (∀ g i, groupNode s fg = some (g, i) → notDispatched (getNode (getGraph s g) i) = true →
      exec (.fabricAbort fg fidx) s
        = .next (nodeDone (leaveEarly s g i).1 g i 6 (some (BitVec.ofNat 64 fidx)) (leaveEarly s g i).2))
    ∧ (∀ g i, groupNode s fg = some (g, i) → (getNode (getGraph s g) i).st = .running →
      exec (.fabricAbort fg fidx) s = .next (shedTask s (getNode (getGraph s g) i).task 6 (some (BitVec.ofNat 64 fidx))))

/-- R415 to R433: prologues, launches, their ends, and fabric messages. -/
def Obligations.LaunchesAndFabricMessagesReachTheirPart : Prop :=
  Sys2Proof.Statements.LaunchesStartAndEnd
  ∧ Sys2Proof.Statements.PrologueExitGivesItsVerdict
  ∧ Sys2Proof.Statements.FabricMessagesReachTheirPart

/-! ### The Bursar and the rails (R444 to R471, R526) -/

/-- R448 to R452: a write to bur.cin begins a decision where none is open and the Bursar is locked; a record that fails a
check only changes `last`; an accepted one takes its place at its vfrom; curves take over and expire at their times. -/
def Sys2Proof.Statements.CurvesAreDecidedActivatedAndExpire : Prop :=
  (∀ (s : State) (v : W64),
    (s.bur.deciding = none → s.bur.lock = true → ∃ t, exec (.curveSubmit v) s = .next t
      ∧ t.bur = { s.bur with deciding := some (v &&& 0xFFFFFFFFFFFF8) } ∧ t.mg.cinSrc = none)
    ∧ (s.bur.deciding ≠ none ∨ s.bur.lock = false → exec (.curveSubmit v) s = .next { s with bur := { s.bur with ovr := true } })
    ∧ (s.bur.lock = false → exec (.seqloWrite v) s = .next { s with bur := { s.bur with seqlo := v, seq := v } })
    ∧ (s.bur.lock = true → exec (.seqloWrite v) s = .next s)
    ∧ exec (.bursarLock v) s = .next { s with bur := { s.bur with lock := s.bur.lock || v.getLsbD 0 } })
  ∧ (∀ (s : State) (a : W64), s.bur.deciding = some a → s.mg.cinSrc = none →
    let b := readSpaLong s a.toNat 1216
    let r := curveReason s (inHub s a.toNat 1216) b
    ∃ t, exec .curveDecision s = .next t ∧ t.bur.deciding = none
      ∧ (r ≠ 0 → t.bur.last = BitVec.ofNat 3 r ∧ t.bur.active = s.bur.active ∧ t.bur.pendingC = s.bur.pendingC ∧ t.bur.seq = s.bur.seq)
      ∧ (r = 0 → Config.flashOk s.fresh = true → t.bur.last = 0 ∧ t.bur.seq = (curveOf b).seq
          ∧ (if (curveOf b).vfrom ≤ s.gtc then t.bur.active = some (curveOf b) ∧ t.bur.pendingC = none
             else t.bur.pendingC = some (curveOf b) ∧ t.bur.active = s.bur.active))
      ∧ (r = 0 → Config.flashOk s.fresh = false → t.bur.last = 7 ∧ t.bur.active = s.bur.active))
  ∧ (∀ (s : State) (c : Curve), s.bur.pendingC = some c → c.vfrom ≤ s.gtc → ∃ t, exec .curveActivate s = .next t
    ∧ t.bur.active = some c ∧ t.bur.pendingC = none ∧ t.bur.changed = some c.vfrom)
  ∧ (∀ (s : State) (a : Curve), s.bur.active = some a → a.vto ≤ s.gtc → s.bur.pendingC = none →
    ∃ t, exec .curveExpire s = .next t ∧ t.bur.active = none ∧ t.bur.changed = some a.vto)

/-- R446, R455, R468, R469, R524, R526: a sample at a grid instant takes the rails' sum; a wanted die begins to be
powered and a die is gated 200 µs apart; an ungated die is free; a failed die is gated at once; rails that are old are
reported. -/
def Sys2Proof.Statements.SamplesDiesAndRailsFollowTheirTimes : Prop :=
  (∀ s : State, sampleDue s = true →
    let u := raisePower (declareGrade (judgeBand (clampEvents (takeSample s))))
    exec .bursarSample s = .next (evalSoon { u with bur := { u.bur with budget := budgetB u } })
    ∧ (takeSample s).bur.p = (railSum s 0 23 :: s.bur.p).take 100 ∧ (takeSample s).bur.u = (railSum s 16 7 :: s.bur.u).take 10)
  ∧ (∀ (s : State) (d : Nat), spaced s = true → ungateNext s = some d → ∃ t, exec .gatingTurn s = .next t
    ∧ dieState t d = .ungating s.gtc ∧ t.bur.lastGate = some s.gtc ∧ ∀ e ∈ t.bur.wanted, e.1 ≠ d)
  ∧ (∀ (s : State) (d : Nat), spaced s = true → ungateNext s = none → gateNext s = some d → ∃ t, exec .gatingTurn s = .next t
    ∧ dieState t d = .gated s.gtc ∧ t.bur.lastGate = some s.gtc)
  ∧ (∀ s : State, spaced s = false → exec .gatingTurn s = .next s)
  ∧ (∀ (s : State) (d a : Nat), dieState s d = .ungating a →
    exec (.dieUngated d) s = .next (allotRestore (reportEvent
      { s with bur := { s.bur with dies := tset s.bur.dies d (.free s.gtc false) } } 8 0 0 (2 ^ d) d)))
  ∧ (∀ (s : State) (d : Nat), d < 16 → dieState s d ≠ .failed → (∀ e ∈ s.ref.tasks, e.2.st ≠ .ended → ∀ k ∈ e.2.clusters, k / 2 ≠ d) →
    exec (.dieFailure d) s = .next (reportMc3 (reportEvent (dropClusterTlbs
      { s with bur := { s.bur with
          dies := tset s.bur.dies d .failed, failures := tset s.bur.failures d (tget 0 s.bur.failures d + 1)
          lastGate := some s.gtc, wanted := s.bur.wanted.filter (·.1 ≠ d), parkDies := s.bur.parkDies.filter (· ≠ d) } } [2 * d, 2 * d + 1]) 12 0 0 (2 ^ d) d)))
  ∧ (∀ (s : State) (k mw mv : Nat), k < 23 → exec (.railReading k mw mv) s = .next { s with mg := { s.mg with
      rails := tset s.mg.rails k { mw := mw % 2 ^ 32, mv := mv % 2 ^ 16, at_ := s.gtc } } })
  ∧ (∀ (s : State) (k : Nat), railDue s k = true → ∃ t, exec (.railStale k) s = .next t
      ∧ (tget {} t.mg.rails k : Rail).stale = true ∧ (s.mg.recovery = false → t.host.msgs = 67 :: s.host.msgs))

/-- R446 to R452, R455, R468, R469, R524, R526: curves, samples, dies and rails. -/
def Obligations.PowerFollowsCurvesSamplesAndRails : Prop :=
  Sys2Proof.Statements.CurvesAreDecidedActivatedAndExpire
  ∧ Sys2Proof.Statements.SamplesDiesAndRailsFollowTheirTimes

/-! ### The memory manager (R383 to R401) -/

/-- R393 to R398: the commands of the region table and their refusals. -/
def Sys2Proof.Statements.RegionTableSwitchesAndRefuses : Prop :=
  ∀ s : State,
    let m := s.mm
    let refused (inval : Bool) (why : BitVec 4) (idx : Nat) : State := { s with mm := { m with
      rej := m.rej || !inval, inval := m.inval || inval, why := why, idx := BitVec.ofNat 6 idx } }
    (m.busy = true → exec .rtSwitch s = .next (refused false 2 0) ∧ exec .rtCopy s = .next (refused false 2 0))
    ∧ (m.busy = false →
      exec .rtCopy s = .next { s with mm := { m with shd := m.act, busy := true, copying := true } }
      ∧ (∀ i w, rtFault m.shd = some (i, w) → exec .rtSwitch s = .next (refused true w i))
      ∧ (rtFault m.shd = none → m.next ≠ m.mode → anyTask s = true → exec .rtSwitch s = .next (refused false 6 0))
      ∧ (rtFault m.shd = none → m.next = m.mode ∨ anyTask s = false → exec .rtSwitch s
          = .next { s with mm := { m with act := m.shd, gen := !m.gen, mode := m.next, busy := true, copying := false } }))
    ∧ (m.busy = true → m.copying = true ∨ oldGen s = false →
      exec .rtSwitchDrained s = .next { s with mm := { m with busy := false, copying := false, shd := m.act } })
    ∧ (m.busy = true → m.copying = false → oldGen s = true → exec .rtSwitchDrained s = .next s)
    ∧ (∀ e dw v, exec (.rtActiveWrite e dw v) s = .next (refused false 1 e))
    ∧ (∀ e dw v, e < 64 → dw < 4 →
      (m.busy = true → exec (.rtShadowWrite e dw v) s = .next (refused false 2 e))
      ∧ (m.busy = false → ∃ t, exec (.rtShadowWrite e dw v) s = .next t
        ∧ (dwOf (tget 0 t.mm.shd e) dw
            = v &&& (if dw = 0 then 0xFFFFFFFFFFFF else if dw = 2 then 0x1FFFFFFFFFFFFF else BitVec.allOnes 64)
          ∧ (∀ j, j < 4 → j ≠ dw → dwOf (tget 0 t.mm.shd e) j = dwOf (tget 0 m.shd e) j)
          ∧ ∀ i, i ≠ e → tget 0 t.mm.shd i = tget 0 m.shd i)))
    ∧ (∀ v : W64, ((v.extractLsb' 0 4).toNat ∈ [1, 2, 4, 8] →
        exec (.partNextWrite v) s = .next { s with mm := { m with next := (v.extractLsb' 0 4).toNat } })
      ∧ ((v.extractLsb' 0 4).toNat ∉ [1, 2, 4, 8] → exec (.partNextWrite v) s = .next (refused false 4 0)))

/-- R97, R383, R386, R388, R389, R392, R400, R401: shootdowns drop their entries and end when no access is left, walks fill
the cluster TLB, folds enter the table, channels retire, stacks sleep while every die is gated, samples are replaced. -/
def Sys2Proof.Statements.TranslationsAreFilledAndShotDown : Prop :=
  (∀ (s : State) (asn : Nat),
    let n := s.mm.invn.toNat % 2 ^ 32
    let at_ := invRange s
    let drops (s : State) (kind asn : Nat) (e : TlbE → Bool) : State :=
      let t := dropTlbs s e
      { t with mm := { t.mm with
        invBusy := true, inv := BitVec.ofNat 64 (kind + asn % 4096 * 65536), invAt := at_ } }
    let refused : State := { s with mm := { s.mm with invErr := true } }
    (s.mm.invBusy = true → exec .shootdownAll s = .next refused ∧ exec (.shootdownAsn asn) s = .next refused
      ∧ exec (.shootdownRange asn) s = .next refused)
    ∧ (s.mm.invBusy = false →
      exec .shootdownAll s = .next (drops s 0 0 fun _ => true)
      ∧ exec (.shootdownAsn asn) s = .next (drops s 1 asn fun e => decide (e.asn = asn))
      ∧ (n = 0 → exec (.shootdownRange asn) s = .next refused)
      ∧ (n ≠ 0 → exec (.shootdownRange asn) s = .next (drops s 2 asn (invHits (some asn) (some at_))))))
  ∧ (∀ s : State, s.mm.invBusy = true →
    (invWaits s = false → exec .shootdownComplete s = .next { s with mm := { s.mm with invBusy := false } })
    ∧ (invWaits s = true → exec .shootdownComplete s = .next s))
  ∧ (∀ s : State, s.mm.walking ≠ [] → exec .walkComplete s = .next (startWalks ((List.range s.mm.mode).foldl poolOver s)))
  ∧ (∀ (s : State) (p : Nat),
    let u : State := { s with fresh := s.fresh + 1 }
    ((∀ w ∈ s.mm.walking, poolOf s w.cluster ≠ p) → poolOver s p = u)
    ∧ ((∃ w ∈ s.mm.walking, poolOf s w.cluster = p) → ∃ w ∈ s.mm.walking, poolOf s w.cluster = p ∧ poolOver s p = walkOver u w))
  ∧ (∀ (s s1 : State) (w : WalkReq) (leaf : W64) (lvl : Nat), s.mm.late = [] →
    hubWalk { s with mm := { s.mm with walking := s.mm.walking.erase w } } w.asn w.root w.va = (s1, .ok (leaf, lvl)) →
    walkOver s w = w.waiters.foldl wakeWalk
      ((walkClusters w.waiters).foldl (fun s c => ctlbFill s c (mkTlbE w.asn w.va leaf lvl)) s1))
  ∧ (∀ s : State, let busy (s : State) (p : Nat) : Nat := (s.mm.walking.filter fun v => poolOf s v.cluster = p).length
    (∀ p, busy s p ≤ 128 / s.mm.mode) → ∀ q p, busy (startWalk s q) p ≤ 128 / s.mm.mode)
  ∧ (∀ (s : State) (n : Nat) (va : W64),
    let t := getTask s (cc s).task
    (∀ w ∈ s.mm.walks ++ s.mm.walking, (w.ofCluster (clusterOf s.cur) && w.serves t.asn va) = false) →
    64 ≤ outstanding s (clusterOf s.cur) →
    (requestWalk s n va).mm.walks = s.mm.walks ∧ (requestWalk s n va).mm.walking = s.mm.walking
      ∧ (s.cur, n) ∈ (requestWalk s n va).mm.late)
  ∧ (∀ (s : State) (f : Fold) (r : List Fold), s.pro.folds = f :: r → s.pro.stbusy = false →
    exec .foldDelivered s = .next (sendSaturated (foldApply { s with pro := { s.pro with folds := r } } f)))
  ∧ (∀ (s : State) (f : Fold) (i : Nat), stFind s (fun w p => w.getLsbD 0 && decide ((w.extractLsb' 2 2).toNat = f.size)
        && decide ((w.extractLsb' 16 12).toNat = f.asn) && p == f.page) 0 s.pro.stsize = none →
    let head : Nat := 1 + (if f.lost then 2 else 0) + f.size * 4 + f.asn * 65536
    let u := awakenSpan s (stAddr s 0) (64 * s.pro.stsize)
    stFree u 0 u.pro.stsize = [i] →
    foldApply s f = stPut { u with fresh := u.fresh + 1 } i
      [(BitVec.ofNat 64 head).toNat, f.page.toNat, f.rd, f.wr, f.rem, 0, 0, 0])
  ∧ (∀ (s : State) (k c : Nat), k < 8 → c < 512 →
    let retired : State := { s with mm := { s.mm with ret := tset s.mm.ret (512 * k + c) () } }
    exec (.hbmRetire k c) s = .next retired ∧ exec (.pseudoChannelFailure k c) s = .next retired)
  ∧ (∀ (s : State) (k : Nat), k < 8 →
    (allGated s = true → ∃ t, exec (.selfRefreshEnter k) s = .next t ∧ t.mm.sr.getLsbD k = true)
    ∧ (allGated s = false → exec (.selfRefreshEnter k) s = .next s)
    ∧ (∃ t, exec (.selfRefreshExit k) s = .next t ∧ t.mm.sr.getLsbD k = false))
  ∧ (∀ (s : State) (target old new : Nat), 12 < target → exec (.raceSampleReplace target old new) s = .next s)
  ∧ (∀ (s : State) (target old new : Nat), target ≤ 12 → paTarget (old * 64) = target → paTarget (new * 64) = target → old ≠ new →
    ((tdel s.samp old).filter fun e => paTarget (e.1 * 64) = target).length < 1024 →
    ∃ t, exec (.raceSampleReplace target old new) s = .next t ∧ t.samp.any (fun e => e.1 = new) = true
      ∧ t.samp.any (fun e => e.1 = old) = false)

/-- R97, R383 to R401: the region table, translations, folds, channels and samples. -/
def Obligations.RegionsAndTranslationsChangeAsCommanded : Prop :=
  Sys2Proof.Statements.RegionTableSwitchesAndRefuses
  ∧ Sys2Proof.Statements.TranslationsAreFilledAndShotDown

/-! ### Volley (R484 to R495) -/

/-- R485 to R487: a request of another device is performed once and answered; one that no entry exports, or whose entry
refuses it, is answered with its error in the class of the request, and one seen before is answered as before; one that
names an earlier request of its core and class waits for that; an acknowledgement completes the access that waits for
it. -/
def Sys2Proof.Statements.RemoteRequestsAreAnsweredOnce : Prop :=
  ∀ (s : State),
    (∀ (r : RemoteReq) (n : Nat), r.op = .withdraw n → exec (.volleyRequest r) s = .next (withdrawReq s r.src n))
    ∧ (∀ (r : RemoteReq) (m : VolMsg), (∀ n, r.op ≠ .withdraw n) → seenBefore s r = some m →
      exec (.volleyRequest r) s = .next { s with vol := { s.vol with out := s.vol.out ++ [m] } })
    ∧ (∀ r : RemoteReq, (∀ n, r.op ≠ .withdraw n) → seenBefore s r = none → heldBefore s r = true ∨ tooEarly s r = true →
      exec (.volleyRequest r) s = .next s)
    ∧ (∀ r : RemoteReq, (∀ n, r.op ≠ .withdraw n) → seenBefore s r = none → heldBefore s r = false → tooEarly s r = false →
      let m (err : BitVec 2) (v : W64) : VolMsg := .ack r.src r.seq err v r.cls
      let ack (err : BitVec 2) (v : W64) : State := { s with vol := { s.vol with
        seen := (r.src, r.seq, m err v) :: s.vol.seen, out := s.vol.out ++ [m err v] } }
      (expFind s r.off (remoteLen r.op) = none → exec (.volleyRequest r) s = .next (ack 1 0))
      ∧ (∀ e, expFind s r.off (remoteLen r.op) = some e →
        (remoteNeed (e.getLsbD 1) r.op &&& ~~~(expPerm e) ≠ 0 → exec (.volleyRequest r) s = .next (ack 2 ((expPerm e).setWidth 64)))
        ∧ (remoteNeed false r.op &&& ~~~(expPerm e) = 0 → e.getLsbD 1 = false →
          let pa := regionMap s (expBase e + (r.off - expOff e))
          (backed s pa = false ∨ 14 ≤ paTarget pa → exec (.volleyRequest r) s = .next (ack 1 0))
          ∧ (backed s pa = true → paTarget pa = 13 → remoteHostNo s r.op = true →
            exec (.volleyRequest r) s = .next (ack 2 ((expPerm e).setWidth 64)))
          ∧ (backed s pa = true → paTarget pa < 13 → s.mm.sr = 0 →
            (∀ n, r.op = .load n → uncorrectable s (.named pa) n = none →
              exec (.volleyRequest r) s = .next (ack 0 (BitVec.ofNat 64 (readNat s (.named pa) n))))
            ∧ (∀ b, r.op = .store b → exec (.volleyRequest r) s
                = .next (respond (storeAt s { agent := 0xFE, core := 0, dev := r.src } (.named pa) b false) r 0 0))))
        ∧ (remoteNeed true r.op &&& ~~~(expPerm e) = 0 → e.getLsbD 1 = true → exec (.volleyRequest r) s = .next (requestScr s r e))))
    ∧ (∀ (id : Nat) (err : BitVec 3) (v : W64) (r : VolReq),
      s.vol.fly.find? (fun r => decide (r.id = id) && !notFirst s r) = some r →
      let t : State := { s with vol := { s.vol with fly := s.vol.fly.filter fun x => x.id ≠ id } }
      (∀ c n, r.origin = .strand c n →
        exec (.volleyAck id err v) s = .next { ackToStrand { t with cur := c } n id (err.setWidth 2) v with cur := s.cur })
      ∧ (∀ c n, r.origin = .fetch c n →
        exec (.volleyAck id err v) s = .next { ackToFetch { t with cur := c } n (err.setWidth 2) v with cur := s.cur })
      ∧ (∀ o, r.origin = .host o → exec (.volleyAck id err v) s = .next (ackToHost t o (err.setWidth 2) v))
      ∧ (∀ c q va, r.origin = .engine c q va →
        (err.toNat < 4 → ∃ u, exec (.volleyAck id err v) s = .next u
          ∧ (getCore u c).acks = (getCore s c).acks ++ [(q, va, err.setWidth 2, v)]
          ∧ u.vol.fly = s.vol.fly.filter (fun x => x.id ≠ id))
        ∧ (err = 4 → ∃ u, exec (.volleyAck id err v) s = .next u
          ∧ (getCore u c).cpy.sent = some (.refused (cycOf s c + 64)) ∧ (getCore u c).acks = (getCore s c).acks)))
    ∧ (∀ (id : Nat) (err : BitVec 3) (v : W64), (∀ r ∈ s.vol.fly, r.id = id → notFirst s r = true) →
      exec (.volleyAck id err v) s = .next s)

/-- R490 to R495: the time master sends on every port that is up, a device asks for the link's delay, slews toward the
master and forwards; firmware may step the counter forward before the first dispatch; the second's edge; links and
routes; what the management plane writes. That the lock is an offset of at most 4 ns, that silence is reported once, and
that an edge is seen whatever the mastership, is the model's choice (log entry 74); so are the timers that move along
with a step (log entry 139). -/
def Sys2Proof.Statements.TimeAndLinksFollowTheFabric : Prop :=
  ∀ s : State,
    let ups := (List.range 16).filter fun p => s.vol.up.getLsbD p
    (s.vol.tmaster = true → s.vol.discAt + 1000000 ≤ s.gtc → exec .disciplineSend s = .next { s with vol := { s.vol with
      discAt := s.gtc, out := s.vol.out ++ ups.map fun p => .discipline p (BitVec.ofNat 64 s.gtc) } })
    ∧ (∀ p o, s.vol.tmaster = true → exec (.disciplineReceive p o) s = .next s)
    ∧ (∀ p (o : Int), s.vol.tmaster = false → exec (.disciplineReceive p o) s = .next { s with vol := { s.vol with
        discAt := s.gtc
        out := s.vol.out ++ [.delay p (BitVec.ofNat 64 s.gtc)]
          ++ (ups.filter (· ≠ p)).map fun p => .discipline p (BitVec.ofNat 64 s.gtc)
        slew := o, synced := decide (-4 ≤ o ∧ o ≤ 4), late := false } })
    ∧ (s.vol.tmaster = false → s.vol.late = false → s.vol.discAt + 10000000 ≤ s.gtc →
      ∃ t, exec .disciplineTimeout s = .next t ∧ t.vol = { s.vol with synced := false, late := true }
        ∧ t.host.msgs = if s.mg.recovery then s.host.msgs else 67 :: s.host.msgs)
    ∧ (s.vol.tmaster = true ∨ s.vol.late = true ∨ s.gtc < s.vol.discAt + 10000000 → exec .disciplineTimeout s = .next s)
    ∧ (∀ v, (s.ref.nextTask = 1 → s.gtc ≤ v → s.mg.recovery = false →
          let t := stepGtc s v
          t.gtc = v ∧ t.vol.discAt + s.gtc = s.vol.discAt + v ∧ t.vol.slew = s.vol.slew ∧ t.cores = s.cores ∧ t.mem = s.mem)
        ∧ (s.ref.nextTask ≠ 1 ∨ v < s.gtc ∨ s.mg.recovery = true → stepGtc s v = s))
    ∧ (∃ t, exec .ppsEdge s = .next t ∧ t.vol.ppsSeen = true ∧ t.vol.edgeAt = s.gtc
        ∧ (s.vol.tmaster = true → s.vol.pps = true → ((s.gtc : Int) + t.vol.slew - s.vol.ppsoff.toInt) % 1000000000 = 0
            ∧ -500000000 ≤ t.vol.slew ∧ t.vol.slew ≤ 500000000)
        ∧ (s.vol.tmaster = false ∨ s.vol.pps = false → t.vol.slew = s.vol.slew))
    ∧ (s.vol.ppsSeen = true → s.vol.edgeAt + 2000000000 ≤ s.gtc →
      exec .ppsTimeout s = .next { s with vol := { s.vol with ppsSeen := false } })
    ∧ (∀ v : W64, exec (.volleyLock v) s = .next { s with vol := { s.vol with
        tmaster := v.getLsbD 0, pps := v.getLsbD 1, lock := s.vol.lock || v.getLsbD 2 } })
    ∧ (∀ p, p < 16 → ∃ t u, exec (.linkDown p) s = .next t ∧ exec (.linkUp p) s = .next u
        ∧ t.vol.up.getLsbD p = false ∧ u.vol.up.getLsbD p = true
        ∧ ∀ j, j ≠ p → t.vol.up.getLsbD j = s.vol.up.getLsbD j ∧ u.vol.up.getLsbD j = s.vol.up.getLsbD j)
    ∧ (∀ p, 16 ≤ p ∨ s.vol.up.getLsbD p = true → exec (.reroute p) s = .next s)
    ∧ (∀ p, p < 16 → s.vol.up.getLsbD p = false → ∃ t, exec (.reroute p) s = .next t
        ∧ t.vol.out = s.vol.out ++ (s.vol.fly.filter fun r => (routeOf s r.dev).1 = p).map fun r => .req r.id r.dev r.off r.op r.cls)
    ∧ (∀ d, (∃ p, (p = (routeOf s d).1 ∨ p = (routeOf s d).2) ∧ (s.vol.up.getLsbD p = true
          ∨ s.gtc < tget 0 s.vol.downAt p + s.vol.tmo * 1000000)) → exec (.destinationUnreachable d) s = .next s)
    ∧ (∀ d, (∀ p, p = (routeOf s d).1 ∨ p = (routeOf s d).2 → s.vol.up.getLsbD p = false
          ∧ tget 0 s.vol.downAt p + s.vol.tmo * 1000000 ≤ s.gtc) →
      exec (.destinationUnreachable d) s
        = .next ((tasksTo s d).foldl (fun s t => shedRun s 6 t)
            (if s.mg.recovery then s else { s with host := { s.host with msgs := 67 :: s.host.msgs } })))
    ∧ (∀ task, let t := getTask s task
      (t.nclus ≠ 0 → shedRun s 6 task = shedTask s task 6 none)
      ∧ (t.nclus = 0 → (getNode (getGraph s t.graph) t.node).pro ≠ none → (getNode (getGraph s t.graph) t.node).image = none →
        (getNode (getGraph s t.graph) t.node).st = .prologue →
        shedRun s 6 task = nodeDone s t.graph t.node 6 none (getNode (getGraph s t.graph) t.node).task))
    ∧ (∀ i dw v, i < 8 → dw < 4 → ∃ t, exec (.managementMessage (some (i, dw, v)) none) s = .next t
        ∧ dwOf (expEntry t i) dw = v &&& (if dw = 0 then 0xFFFFFFFFFFFF003F else if dw = 1 then 0x1FFFF0000
            else if dw = 2 then 0x1FFFFFFFF else 0xFFFFFFFFFFFFF)
        ∧ ∀ j, j ≠ i → expEntry t j = expEntry s j)
    ∧ (∀ d b, d < 16384 → exec (.managementMessage none (some (d, b))) s = .next (writeSpa s (s.vol.rtbase.toNat + d) [b]))

/-- R485 to R495: requests of other devices, time and links. -/
def Obligations.VolleyAnswersOnceAndKeepsTime : Prop :=
  Sys2Proof.Statements.RemoteRequestsAreAnsweredOnce
  ∧ Sys2Proof.Statements.TimeAndLinksFollowTheFabric

/-! ### The Proctor (R496 to R512) -/

/-- R499, R505 to R511: stops, resumes, debug accesses, open waits and the clear of the side table. -/
def Obligations.ProctorStopsAndReads : Prop :=
  (∀ (s : State) (task lid : Nat),
    (stopRefused s task lid = true → exec (.stopNow task lid) s = .next (setErr s true)
      ∧ exec (.stopAtCycle task lid) s = .next (setErr s true) ∧ exec (.stopResume task lid) s = .next (setErr s true))
    ∧ (stopRefused s task lid = false →
      ((getTask s task).stopped = false → exec (.stopNow task lid) s = .next (stopTask (setErr s false) task lid false)
        ∧ exec (.stopResume task lid) s = .next (setErr s true))
      ∧ (s.pro.stopcyc.toNat < lidCyc s task lid ∨ (s.pro.stopcyc.toNat = lidCyc s task lid ∧ lidIssued s task lid = true) →
        ((getTask s task).stopped = false → exec (.stopAtCycle task lid) s = .next (stopTask (setErr s false) task lid true))
        ∧ ((getTask s task).stopped = true →
          exec (.stopAtCycle task lid) s = .next { s with pro := { s.pro with err := false, late := true } }))
      ∧ (lidCyc s task lid < s.pro.stopcyc.toNat ∨ (s.pro.stopcyc.toNat = lidCyc s task lid ∧ lidIssued s task lid = false) →
        exec (.stopAtCycle task lid) s = .next { s with pro := { s.pro with
          err := false, armed := true, late := false, task := task, lid := lid } })
      ∧ ((getTask s task).stopped = true → ∃ t, exec (.stopResume task lid) s = .next t ∧ t.pro.stopped = false
          ∧ t.pro.err = false ∧ (getTask t task).stopped = false
          ∧ ∀ c ∈ coresOf s task, (getCore s c).run = .frozen → (getCore t c).run = (getCore s c).was)))
  ∧ (∀ s : State, stopDue s = true → exec .stopCycleReached s = .next (stopTask s s.pro.task s.pro.lid s.pro.late))
  ∧ (∀ (s : State) (task lid : Nat), s.pro.freeze = some (task, lid) →
    let t : State := { s with pro := { s.pro with freeze := none } }
    (stopRefused t task lid = true → exec .watchStopFreeze s = .next t)
    ∧ (stopRefused t task lid = false → (getTask s task).stopped = false →
      exec .watchStopFreeze s = .next (stopTask t task lid false)))
  ∧ (∀ (s : State) (task lid : Nat) (late : Bool), ∀ c ∈ coresOf s task,
      (getCore (stopTask s task lid late) c).run = .frozen
      ∧ (getCore (stopTask s task lid late) c).strands = (getCore s c).strands)
  ∧ (∀ s : State,
    (debugSel s = none → exec .debugRead s = .next (setDerr s true) ∧ ∀ v, exec (.debugWrite v) s = .next (setDerr s true))
    ∧ (∀ c n cls i v, debugSel s = some (c, n, cls, i) →
      let k := getCore s c
      let t := getStrand k n
      let lane (u : State) (j : Nat) : W32 := (tget 0 (getCore u c).vec.v (j / 64)).extractLsb' (32 * (j % 64)) 32
      let shows (x : W64) : Prop := ∃ u, exec .debugRead s = .next u ∧ u.pro.ddat = x ∧ u.pro.derr = false
        ∧ u.cores = s.cores ∧ u.mem = s.mem
      let takes (f : State → Prop) : Prop := debugPending s c n cls i = false →
        ∃ u, exec (.debugWrite v) s = .next u ∧ u.pro.derr = false ∧ f u
      (cls = 0 → i < 32 → shows (xget t i) ∧ takes fun u => getStrand (getCore u c) n = xset t i v)
      ∧ (cls = 0 → i = 32 → shows t.pc ∧ takes fun u => getStrand (getCore u c) n = { t with pc := v })
      ∧ (cls = 1 → (∀ x, readCreg s c n i = some x → shows x) ∧ (readCreg s c n i = none → exec .debugRead s = .next (setDerr s true)))
      ∧ (cls = 2 → i < 2048 → shows ((lane s i).setWidth 64)
        ∧ takes fun u => ∀ j, j < 2048 → lane u j = if j = i then v.setWidth 32 else lane s j)
      ∧ (cls = 3 → 8 * i < scrSize →
        (uncorrectable s (.scr c (8 * i)) 8 = none → shows (BitVec.ofNat 64 (readNat s (.scr c (8 * i)) 8)))
        ∧ takes fun u => readNat u (.scr c (8 * i)) 8 = v.toNat ∧ u.mem = s.mem)
      ∧ (cls = 4 → 8 * i < scrSize → shows (if tagFull s c i then 1 else 0)
        ∧ (k.held = [] → takes fun u => tagFull u c i = v.getLsbD 0))
      ∧ (cls = 1 ∨ 4 < cls ∨ (cls = 0 ∧ 32 < i) ∨ (cls = 2 ∧ 2048 ≤ i) ∨ ((cls = 3 ∨ cls = 4) ∧ scrSize ≤ 8 * i)
          ∨ debugPending s c n cls i = true → exec (.debugWrite v) s = .next (setDerr s true))
      ∧ (4 < cls ∨ (cls = 0 ∧ 32 < i) ∨ (cls = 2 ∧ 2048 ≤ i) ∨ ((cls = 3 ∨ cls = 4) ∧ scrSize ≤ 8 * i) →
        exec .debugRead s = .next (setDerr s true))))
  ∧ (∀ (s : State) (who : Nat) (sub : Nat) (obj : W64) (c0 : Nat) (pc : W64) (eseq : W32) (tmpl : W16), who < 8 →
    agentWait (cc s) who = some (sub, obj, c0, pc, eseq, tmpl) → openDue s s.cur who = true →
    exec (.waitOpenThreshold who) s = .next (traceAdd (setCC s { cc s with opened := who :: (cc s).opened }) {
      task := (cc s).task, lid := (cc s).lid, kind := 2, who := who, object := obj
      cycles := s.pro.open_.toNat, sub := sub, pc := pc, eseq := eseq, tmpl := tmpl }))
  ∧ (∀ s : State, exec .sideTableClear s = .next { s with pro := { s.pro with stbusy := true } }
    ∧ (s.pro.stbusy = true → exec .sideTableClearDone s
        = .next (let t := (List.range s.pro.stsize).foldl clearValid s; { t with pro := { t.pro with stbusy := false } })))

/-! ### The management block (R513 to R527) -/

/-- R518, R519, R523 to R527: every cause of a device reset boots with its code; a trial that runs out or a commit ends
it, and a reset during a trial goes back to the other slot with the trial slot marked bad; writing a slot's flash clears
its bad bit; a die that is gated or failed goes through its self-test. That a committed recovery image is what `next`
names, that the cause of its reset is free, and that GTC is 0 after every reset, is the model's choice (log entry 89).
-/
def Sys2Proof.Statements.ResetsBootWithTheirCause : Prop :=
  (∀ s : State, exec .powerOn s = .next (boot s 0) ∧ exec .resetPin s = .next (boot s 1) ∧ exec .deviceReset s = .next (boot s 2)
    ∧ (∀ m, exec (.coreWatchdog m) s = .next (boot s 4)) ∧ exec .thermalTrip s = .next (boot s 5)
    ∧ (s.mg.trial = true → s.mg.trialAt + 60000000000 ≤ s.gtc → exec .trialExpiry s = .next (boot s 3))
    ∧ (s.mg.trial = true → s.gtc < s.mg.trialAt + 60000000000 → ∃ t, exec .firmwareCommit s = .next t ∧ t.mg.trial = false
        ∧ t.mg.floor = BitVec.ofNat 16 (Nat.max (floorOf s) (slotRollback s (slotNo s.mg.act))))
    ∧ (s.mg.recovery = true → ∃ u cause, exec .recoveryCommit s = .next (boot u cause)
        ∧ u.mg.next = false ∧ u.mg.act = false ∧ u.mg.bad.getLsbD 0 = false)
    ∧ (∀ (k : Bool) (o : Nat) (b : List Byte), s.mg.recovery = false →
      (o + b.length ≤ slotBytes →
        (updateSlot s k o b).mg.bad.getLsbD (slotNo k) = false
        ∧ (updateSlot s k o b).mg.bad.getLsbD (slotNo !k) = s.mg.bad.getLsbD (slotNo !k)
        ∧ flashGet (updateSlot s k o b) (slotNo k * slotBytes + o) b.length = b)
      ∧ (slotBytes < o + b.length → updateSlot s k o b = s))
    ∧ (∀ k o b, s.mg.recovery = true → updateSlot s k o b = s))
  ∧ (∀ (s : State) (cause : BitVec 3), s.mg.trial = false →
    let t := boot s cause
    t.mg.cause = cause ∧ t.mg.flash = s.mg.flash ∧ t.ref = {} ∧ t.cores = [] ∧ t.gtc = 0
    ∧ (s.mg.bad.getLsbD (slotNo s.mg.next) = false → slotOk (blank s) (slotNo s.mg.next) = true →
        t.mg.act = s.mg.next ∧ t.mg.recovery = false ∧ t.mg.trial = (s.mg.next != s.mg.act))
    ∧ ((∀ k, slotOk (blank s) k = false) → t.mg.recovery = true ∧ t.mg.bad = 3))
  ∧ (∀ (s : State) (cause : BitVec 3), s.mg.trial = true →
    let t := boot s cause
    let was := s.mg.act
    t.mg.cause = cause ∧ t.mg.trial = false ∧ t.mg.next = !was ∧ t.mg.bad.getLsbD (slotNo was) = true
    ∧ (s.mg.bad.getLsbD (slotNo !was) = false → slotOk (blank s) (slotNo !was) = true →
        t.mg.act = !was ∧ t.mg.recovery = false ∧ t.mg.bad.getLsbD (slotNo !was) = false)
    ∧ (s.mg.bad.getLsbD (slotNo !was) = true ∨ slotOk (blank s) (slotNo !was) = false →
        t.mg.recovery = true ∧ t.mg.bad = 3))
  ∧ (∀ (s : State) (dies : W16), ∃ t, exec (.dieReset dies) s = .next t
    ∧ (∀ d, d < 16 → t.mg.busy.getLsbD d = (s.mg.busy.getLsbD d || (dies.getLsbD d && mayReset s d)))
    ∧ (dies ≠ 0 → t.mg.err = (List.range 16).any fun d => dies.getLsbD d && !mayReset s d))
  ∧ (∀ (s : State) (d : Nat) (b : Bool), s.gtc < tget 0 s.mg.dieAt d + 20000000 → exec (.dieSelfTestDone d b) s = .next s)
  ∧ (∀ (s : State) (d : Nat), d < 16 → s.mg.busy.getLsbD d = true → tget 0 s.mg.dieAt d + 20000000 ≤ s.gtc →
    ∃ t u, exec (.dieSelfTestDone d true) s = .next t ∧ exec (.dieSelfTestDone d false) s = .next u
      ∧ u.mg.busy.getLsbD d = false ∧ dieState u d = .failed
      ∧ (2 ≤ tget 0 s.bur.failures d → dieState t d = .failed)
      ∧ (tget 0 s.bur.failures d < 2 → ∃ a, dieState t d = .gated a))

/-- R514, R521, R522: mailboxes hold 32 messages of 64 bytes; an attestation request is answered with a report at its
buffer; datagrams of the management Ethernet bring curves and requests. That a datagram's curve is held until its
decision (log entry 84) and that an empty body stands for the receiver taking one message (log entry 88) is the model's
choice. -/
def Sys2Proof.Statements.MessagesAndReportsAreServed : Prop :=
  (∀ (s : State) (a b : Nat) (m : List Byte), a < 8 → b < 8 →
    let q : List (Nat × List Byte) := tget [] s.mg.mbox b
    let box (l : List (Nat × List Byte)) : State := { s with mg := { s.mg with mbox := tput [] s.mg.mbox b l } }
    (m.length = 64 → q.length < 32 → exec (.mailboxMessage a b m) s = .next (box (q ++ [(a, m)])))
    ∧ (m.length = 64 → 32 ≤ q.length → exec (.mailboxMessage a b m) s = .next s)
    ∧ (m = [] → exec (.mailboxMessage a b m) s = .next (box q.tail)))
  ∧ (∀ (s : State) (v : W64), exec (.attestRequest v) s = .next { s with mg := { s.mg with att := some (v &&& 0xFFFFFFFFFFFC0) } })
  ∧ (∀ (s : State) (a : W64), s.mg.att = some a →
    let u : State := { s with mg := { s.mg with att := none } }
    (inHub u a.toNat 384 = true →
      let w := writeSpa u (a.toNat + 64) (attestBytes u (readSpa u a.toNat 32))
      exec .attestReport s = .next { w with mg := { w.mg with attDone := true } })
    ∧ (inHub u a.toNat 384 = false → exec .attestReport s = .next { u with mg := { u.mg with attErr := true } }))
  ∧ (∀ (s : State) (src : Nat) (b : List Byte), s.mg.recovery = false →
    (b.length = 1216 → s.bur.deciding = none → s.bur.lock = true → ∃ t, exec (.ethernetDatagram src (datagram 1 b)) s = .next t
      ∧ if Config.formM then t.bur.deciding = some 0 ∧ t.mg.cinSrc = some (src, b) else t = s)
    ∧ (b.length = 32 → ∃ t, exec (.ethernetDatagram src (datagram 3 b)) s = .next t
      ∧ if Config.formM then t.mg.sent = s.mg.sent ++ [(src, datagram 4 (attestBytes s b))] else t = s)
    ∧ (b.length < 2 ^ 32 → ∀ ty, ty < 256 → ty ≠ 1 → ty ≠ 3 → exec (.ethernetDatagram src (datagram ty b)) s = .next s))

/-- R513 to R527: resets, boots, die self-tests, mailboxes, attestation and datagrams. -/
def Obligations.ManagementResetsAndReports : Prop :=
  Sys2Proof.Statements.ResetsBootWithTheirCause
  ∧ Sys2Proof.Statements.MessagesAndReportsAreServed

/-! ### Frames -/

namespace Sys2Proof.Statements

/-- Completing an instruction writes no trace record: the strand ends no flag wait, or tracing is off (R496, R499). -/
def Untraced (s : State) : Prop := (cst s).flag = none ∨ s.pro.ctl.getLsbD 0 = false

/-- A core but for its strands and the bookkeeping of an issue. -/
def issueFree (k : Core) : Core := { k with strands := [], slotAt := 0, opened := [] }

/-- Everything of the device but the current strand and the bookkeeping of its issue stays: memory, the hub, every other
core and strand, and of the current core its scratchpad, tags, queues, links, engines, stream and special registers and
fault records. -/
def OnlyTheStrand (s t : State) : Prop :=
  ({ t with cores := [] } : State) = { s with cores := [] } ∧ (∀ c, c ≠ s.cur → getCore t c = getCore s c)
  ∧ (∀ n, n ≠ (cc s).cs → sn t n = sn s n) ∧ issueFree (cc t) = issueFree (cc s)

/-- A strand with the run state, pc and bookkeeping of another. -/
def issuedAs (t u : Strand) : Strand :=
  { t with
    run := u.run, wait := u.wait, flag := u.flag, pc := u.pc, flight := u.flight, fetched := u.fetched, noWatch := u.noWatch
    block := u.block }

/-- Of the current strand only registers r, and its pc, may differ. -/
def OnlyRegisters (s t : State) (r : List Nat) : Prop :=
  cst t = { issuedAs (cst s) (cst t) with x := (cst t).x } ∧ ∀ j, j ∉ r → xget (cst t) j = xget (cst s) j

/-- The micro-TLB of the current core has a free entry, and no access counter stands where one more line would fold it into
memory (R385, R392). -/
def TlbQuiet (s : State) : Prop :=
  (cc s).utlb.length < 64 ∧ ∀ e ∈ (cc s).utlb, e.rd < 65535 ∧ e.wr < 65535 ∧ e.rem < 65535

/-- A core but for what an access of memory may change besides its bytes: order and release counts, race records, TLB. -/
def accessFree (k : Core) : Core :=
  { issueFree k with ord := 0, relCount := 0, race := [], utlb := [], scr := [], bad := [] }

/-- The memory manager but for what a walk may change: the walk caches, and stacks that it wakes from self-refresh. -/
def mmFree (m : Mm) : Mm := { m with wc := [], sr := 0 }

/-- Everything of the device stays but memory, its samples and race records, TLBs, walk caches, the host pages that have
been translated, and the current strand. -/
def OnlyTheAccess (s t : State) : Prop :=
  (∀ n, n ≠ (cc s).cs → sn t n = sn s n) ∧ accessFree (cc t) = accessFree (cc s)
  ∧ (∀ c, c ≠ s.cur → accessFree (getCore t c) = accessFree (getCore s c) ∧ (getCore t c).strands = (getCore s c).strands)
  ∧ t.gtc = s.gtc ∧ mmFree t.mm = mmFree s.mm ∧ t.bur = s.bur ∧ t.vol = s.vol ∧ t.mg = s.mg
  ∧ ({ t.host with mem := [], atc := [] } : HostLink) = { s.host with mem := [], atc := [] }

/-- The place of byte i from a location: 0 for named memory, 1 for the host's memory with its bus address (R74, R483), c
+ 2 for the scratchpad of core c; and the address there. -/
def byteAt (s : State) (l : Loc) (i : Nat) : Nat × Nat :=
  match l with
  | .scr c o => (c + 2, o + i)
  | .named pa => if paTarget pa = 13 then (1, busOf s (paOff pa + i)) else (0, pa + i)

/-- No byte changes but the n bytes stored from a location. -/
def OnlyBytes (s t : State) (l : Loc) (n : Nat) : Prop :=
  ∀ b, (∀ i, i < n → byteAt s l i ≠ byteAt s b 0) → readLoc t b 1 = readLoc s b 1

/-- A core but for its queues, token links and vector unit, and the agents that ended its strands' waits. -/
def engineFree (k : Core) : Core :=
  { k with
    eng := [], links := [], resv := [], opened := [], lastDone := 0, vec := {}
    strands := k.strands.map fun e => (e.1, { e.2 with by_ := (0xFF, 0) }) }

end Sys2Proof.Statements

/-- R163, R164, R167, R184 to R186, R192, R195, R201: the frame of register instructions, multiplies, branches, jumps,
predicates, composition and stream registers: beyond the strand (and a stream register) nothing changes; of the strand, pass
ends aside, only the destination and the pc. -/
def Obligations.FrameOfRegisterInstructions : Prop :=
  (∀ (s t : State) (i : Instr) (d : Reg) (us : List Reg) (v : W64),
    aluResult s i = some (d, us, v) → Free s (d.toNat :: us.map BitVec.toNat) → Untraced s → exec i s = .next t →
    OnlyTheStrand s t ∧ (endsPass (cst s) (nextPc s) = false →
      OnlyRegisters s t [d.toNat] ∧ (cst t).pc = nextPc s ∧ xget (cst t) d.toNat = (if d = 0 then 0 else v)))
  ∧ (∀ (s t : State) (i : Instr) (d a b : Reg) (lat : Nat) (v : W64),
    lateResult s i = some (d, a, b, lat, v) → Free s [d.toNat, a.toNat, b.toNat] → Untraced s → exec i s = .next t →
    OnlyTheStrand s t ∧ (endsPass (cst s) (nextPc s) = false →
      cst t = { issuedAs (cst s) (cst t) with pend := (cst t).pend } ∧ (d = 0 → (cst t).pend = (cst s).pend)))
  ∧ (∀ (s t : State) (i : Instr) (x y : Reg) (o : W16) (c : Bool), branchTaken s i = some (x, y, o, c) →
    let dest := if c then (cst s).pc + o.signExtend 64 * 4 else nextPc s
    Free s [x.toNat, y.toNat] → Untraced s → (c = true → leavesLoop (cst s) dest = false) → exec i s = .next t →
    OnlyTheStrand s t ∧ (endsPass (cst s) dest = false → OnlyRegisters s t []))
  ∧ (∀ (s t : State) (o : BitVec 26), let dest := (cst s).pc + o.signExtend 64 * 4
    Free s [23] → Untraced s → leavesLoop (cst s) dest = false → exec (.jal o) s = .next t →
    OnlyTheStrand s t ∧ (endsPass (cst s) dest = false → OnlyRegisters s t [23]))
  ∧ (∀ (s t : State) (d a : Reg) (o : BitVec 15), let dest := rx s a + o.signExtend 64
    Free s [d.toNat, a.toNat] → Untraced s → dest.toNat % 4 = 0 → leavesLoop (cst s) dest = false →
    exec (.jalr d a o) s = .next t →
    OnlyTheStrand s t ∧ (endsPass (cst s) dest = false → OnlyRegisters s t [d.toNat]))
  ∧ (∀ (s t : State) (i : Instr) (p : PReg) (us : List Reg) (b : Bool),
    predValue s i = some (p, us, b) → Free s (us.map BitVec.toNat) → Untraced s → exec i s = .next t →
    OnlyTheStrand s t ∧ (endsPass (cst s) (nextPc s) = false →
      cst t = { issuedAs (cst s) (cst t) with p := (cst t).p }
      ∧ ∀ j, j < 8 → j ≠ p.toNat → pget (cst t) j = pget (cst s) j))
  ∧ (∀ (s t : State) (i : Instr) (us : List Nat) (s' : State), composeEffect s i = some (us, s') → Free s us → OnCore s →
    Untraced s → exec i s = .next t →
    OnlyTheStrand { s with cores := s'.cores } t
    ∧ issueFree { cc t with sreg := [] } = issueFree { cc s with sreg := [] }
    ∧ (endsPass (cst s) (nextPc s) = false → cst t = { issuedAs (cst s) (cst t) with x := (cst t).x, w := (cst t).w }
      ∧ (∀ wd a q l, i = .wins wd a q l → (∀ j, xget (cst t) j = xget (cst s) j) ∧ ∀ n, n ≠ wd.toNat → wget (cst t) n = wget (cst s) n)
      ∧ (∀ d wa, i = .wrd d wa → (∀ n, wget (cst t) n = wget (cst s) n) ∧ ∀ j, j ≠ d.toNat → xget (cst t) j = xget (cst s) j))
    ∧ (∀ sd a f, i = .sset sd a f → ∀ m, m ≠ sd → strmOf t m = strmOf s m))

/-- R170, R171, R177, R181, R182: the frame of loads, stores, atomics and cas at a quiet TLB that no watch and no trace
meets: a load changes no byte of memory, the others none outside the bytes stored at their place; only the destination
register changes, and no other strand, core, queue, engine or special register. -/
def Obligations.FrameOfLoadsAndStores : Prop :=
  (∀ (s t : State) (i : Instr) (d a : Reg) (z : LWidth) (acq plain : Bool) (va : W64) (s1 s2 : State) (loc : Loc),
    loadOf s i = some (d, a, z, acq, plain, va) → Free s [d.toNat, a.toNat] → Untraced s → TlbQuiet s →
    Reaches s (loadReq d z acq plain va) s1 loc →
    raceStep (takeOrd s1) ((loadReq d z acq plain va).flight s1 0 loc) = .ok s2 → uncorrectable s1 loc (loadBytes z) = none →
    exec i s = .next t →
    (∀ l n, readLoc t l n = readLoc s l n) ∧ OnlyTheAccess s t
    ∧ (endsPass (cst s) (nextPc s) = false → OnlyRegisters s t [d.toNat]))
  ∧ (∀ (s t : State) (i : Instr) (x a : Reg) (n : Nat) (rel plain : Bool) (va : W64) (s1 s2 : State) (loc : Loc),
    storeOf s i = some (x, a, n, rel, plain, va) → Free s [x.toNat, a.toNat] → OnCore s → Untraced s → TlbQuiet s →
    s.pro.watches = [] → Reaches s (storeReq n (rx s x) rel plain va) s1 loc →
    raceStep (takeOrd s1) ((storeReq n (rx s x) rel plain va).flight s1 0 loc) = .ok s2 → exec i s = .next t →
    OnlyBytes s t loc n ∧ readLoc t loc n = leBytes n (rx s x).toNat ∧ OnlyTheAccess s t
    ∧ (endsPass (cst s) (nextPc s) = false → OnlyRegisters s t []))
  ∧ (∀ (s t : State) (i : Instr) (op : AmoOp) (z : ASize) (o : AOrder) (d a b : Reg) (s1 : State) (loc : Loc),
    atomicOf i = some (op, z, o, d, a, b) → Free s [d.toNat, a.toNat, b.toNat] → OnCore s → Untraced s → TlbQuiet s →
    s.pro.watches = [] → Reaches s (amoReq s op z o d a b) s1 loc → uncorrectable s1 loc (asizeBytes z) = none →
    exec i s = .next t →
    OnlyBytes s t loc (asizeBytes z) ∧ OnlyTheAccess s t
    ∧ (endsPass (cst s) (nextPc s) = false → OnlyRegisters s t [d.toNat]))
  ∧ (∀ (s t : State) (z : ASize) (o : AOrder) (sc : Scope) (d a b : Reg) (s1 : State) (loc : Loc),
    Free s [d.toNat, a.toNat, b.toNat] → OnCore s → Untraced s → TlbQuiet s →
    s.pro.watches = [] → Reaches s (casReq s z o d a b) s1 loc → uncorrectable s1 loc (asizeBytes z) = none →
    exec (.cas d a b z o sc) s = .next t →
    OnlyBytes s t loc (asizeBytes z) ∧ OnlyTheAccess s t
    ∧ (endsPass (cst s) (nextPc s) = false → OnlyRegisters s t [d.toNat]))
  ∧ (∀ (s t : State) (i : Instr) (k : TagKind) (d a b : Reg) (s1 : State) (c o : Nat),
    tagOf i = some (k, d, a, b) → Free s [d.toNat, a.toNat, b.toNat] → OnCore s → Untraced s → TlbQuiet s →
    s.pro.watches = [] → (getCore s c).held = [] → Reaches s (tagReq s k d a b) s1 (.scr c o) →
    tagCond k (tagFull s1 c (o / 8)) = true → (tagReads k = true → uncorrectable s1 (.scr c o) 8 = none) →
    exec i s = .next t →
    (tagWrites k = false → ∀ l n, readLoc t l n = readLoc s l n) ∧ (tagWrites k = true → OnlyBytes s t (.scr c (8 * (o / 8))) 8)
    ∧ (∀ c' w, c' ≠ c ∨ w ≠ o / 8 → tagFull t c' w = tagFull s c' w)
    ∧ (endsPass (cst s) (nextPc s) = false → ∀ j, j ∉ (if tagReads k then [d.toNat] else []) → xget (cst t) j = xget (cst s) j))

/-- R230, R238: the frame of the vector words that touch no memory: at issue nothing changes but queue V, token links
and the words in flight; at landing, besides, only the destination and the flags. -/
def Obligations.FrameOfVectorWords : Prop :=
  (∀ (s t : State) (i : Instr) (e : VecEffect) (w : QWord),
    floatWord i = some e ∨ intWord i = some e ∨ moveWord i = some e ∨ convertWord i = some e ∨ complexWord i = some e
      ∨ reduceWord i = some e →
    let u := vecSettle s
    MayIssue 0 e.h u w → vecHolds u e.uses = [] → badReg (cc u) e.uses = none →
    (getEng (cc s) 0).wait = none ∨ s.pro.ctl.getLsbD 0 = false → exec i s = .next t →
    ({ t with cores := [] } : State) = { s with cores := [] } ∧ (∀ c, c ≠ s.cur → getCore t c = getCore s c)
    ∧ engineFree (cc t) = engineFree (cc s) ∧ (∀ p, p ≠ 0 → getEng (cc t) p = getEng (cc s) p)
    ∧ (cc t).vec.v = (cc u).vec.v ∧ (cc t).vec.m = (cc u).vec.m ∧ (cc t).vec.vx = (cc u).vec.vx)
  ∧ (∀ (s t : State) (x : VIssued) (rest : List VIssued) (d : Nat), (cc s).vec.fly = x :: rest → x.i.due = some d →
    d ≤ curCyc s → (∀ y ∈ rest, ∀ e, y.i.due = some e → curCyc s < e) → exec .vectorWordCompletion s = .next t →
    ({ t with cores := [] } : State) = { s with cores := [] } ∧ (∀ c, c ≠ s.cur → getCore t c = getCore s c)
    ∧ engineFree (cc t) = engineFree (cc s) ∧ (∀ p, p ≠ 0 → getEng (cc t) p = getEng (cc s) p)
    ∧ (∀ r, (∀ v m, x.dest ≠ .reg r v m) → tget 0 (cc t).vec.v r = tget 0 (cc s).vec.v r)
    ∧ (∀ r, (∀ v m, x.dest ≠ .mask r v m) → tget 0 (cc t).vec.m r = tget 0 (cc s).vec.m r))

/-! ### Encodings (R137 to R146) -/

/-- R137, R142 to R145: words written out from the opcode maps decode to their instructions, and a reserved word of each
kind to its illegal word. -/
def Obligations.WordsDecodeAsTheMapsSay : Prop :=
  decodeC 0x04430800 = .add 2 3 1
  ∧ decodeC 0x10A1FFFD = .addi 5 1 (-3)
  ∧ decodeC 0x43076000 = .ldD 24 7 0
  ∧ decodeC 0x74C7FFFD = .bne 6 7 (-3)
  ∧ decodeC 0x88000064 = .jal 100
  ∧ decodeC 0xE0148068 = .crw 0x068 20
  ∧ decodeC 0xD8002800 = .bar .cluster 2
  ∧ (∃ w, decodeC 0 = .illegalCWord w)
  ∧ (decodeE .v 0x01B000000000000C = .vnop { pop := some .m, push := some .v, idle := 12 })
  ∧ (decodeE .x 0x0180000000000001 = .xnop { pop := some .v, push := none, idle := 1 })
  ∧ (decodeE .m 0x011C000000000003 = .mnop { pop := none, push := some .x, idle := 3 })
  ∧ (∃ w, decodeE .v 0x0140000000000000 = .illegalEWord .v w)

/-- R137, R138: decoding the word of a well-formed conductor instruction gives the instruction back, every operand at every
value. -/
def Obligations.ConductorWordsDecodeToTheirInstruction : Prop :=
  ∀ (i : Instr) (w : W32), encode i = .cword w → i.isIllegal = false → i.wf = true → decodeC w = i

/-- R142 to R146: decoding the word of a well-formed engine word in its queue gives the word back, every field at every
value. -/
def Obligations.EngineWordsDecodeToTheirInstruction : Prop :=
  ∀ (i : Instr) (q : Queue) (w : W64), encode i = .eword q w → i.isIllegal = false → i.wf = true → decodeE q w = i

/-! ### The step -/

/-- R19, R20, R187, R386: when a ready conductor takes its turn, the word at its strand's pc is fetched and the
instruction that it decodes to runs; when an engine takes its turn, the word at the head of its queue. The agenda, its
turns, among them those of the host's memory, the sensors and firmware, and the default schedule with no agenda, are the
model's own (log entries 1 and 11): they choose one of the orders that R529 leaves open. -/
def Sys2Proof.Statements.StepRunsTheDecodedInstruction : Prop :=
  (∀ (s : State) (rest : List Turn) (c n : Nat) (d : Bool) (s' : State) (w : W32), s.agenda = .issue c d :: rest → c < 3076 →
    let s0 : State := { s with agenda := rest }
    s.pro.freeze = none → stopDue s0 = false → issueReady s0 c = true → pickStrand s0 c = some n →
    let t := prepIssue s0 c d n
    (isPrologue c = false ∨ (cst t).block < 4096) → asksWalk t c (cst t).pc = false → (cst t).flight = none →
    (∀ x, fetchedWord (cst t) = some x → step s = exec (decodeC x) t)
    ∧ (fetchedWord (cst t) = none → farFetch t c (cst t).pc = none →
      fetchAt t c (cst t).pc = (s', .ok w) → step s = exec (decodeC w) s'))
  ∧ (∀ (s : State) (rest : List Turn) (c : Nat) (q : Queue) (w : QWord) (ws : List QWord), 
    s.agenda = .engine c q :: rest ∨ s.agenda = .engineLate c q :: rest → c < 3072 →
    let s0 : State := { s with agenda := rest }
    s.pro.freeze = none → stopDue s0 = false → engineReady s0 c q.code.toNat = true → queued (getCore s c) q.code.toNat = w :: ws →
    ((getCore s c).timed = false ∨ headReads (getCore s c) q = false) →
    (s.agenda = .engine c q :: rest → step s = exec (decodeE q w.bits) { s0 with cur := c, defer := false })
    ∧ (s.agenda = .engineLate c q :: rest → step s = exec (decodeE q w.bits) { s0 with cur := c, defer := true }))
  ∧ (∀ (s : State) (rest : List Turn) (c : Nat) (i : Instr), c < 3076 →
    (coreEvent i = true → (getCore s c).run ≠ .frozen) → (blockWrite i = true ∨ firmwareAct i = true → s.mg.recovery = false) →
    (s.agenda = .event c i :: rest → step s = exec i { s with agenda := rest, cur := c, defer := false })
    ∧ (s.agenda = .eventLate c i :: rest → step s = exec i { s with agenda := rest, cur := c, defer := true }))
  ∧ (∀ (s : State) (rest : List Turn),
    (∀ a b, s.agenda = .hostMem a b :: rest →
      step s = .next { s with agenda := rest, host := { s.host with mem := tputs 0 s.host.mem a b } })
    ∧ (∀ d h, s.agenda = .temps d h :: rest → step s = .next { s with agenda := rest, mg := { s.mg with tempDie := d, tempHub := h } })
    ∧ (∀ v, s.agenda = .gtcStep v :: rest → step s = .next (stepGtc { s with agenda := rest } v))
    ∧ (∀ k o b, s.agenda = .flashWrite k o b :: rest → step s = .next (updateSlot { s with agenda := rest } k o b)))
  ∧ (∀ s : State, s.agenda = [] → step s = defaultTurn s)

/-- R518: in recovery a write to another block is ignored and no firmware acts. That a frozen core takes no event of its
own is the model's choice of what an agenda means (log entry 1). -/
def Sys2Proof.Statements.FrozenCoresAndRecoveryIgnoreEvents : Prop :=
  ∀ (s : State) (rest : List Turn) (c : Nat) (i : Instr), s.agenda = .event c i :: rest → c < 3076 →
    (coreEvent i = true ∧ (getCore s c).run = .frozen)
      ∨ ((blockWrite i = true ∨ firmwareAct i = true) ∧ s.mg.recovery = true) →
    step s = .next { s with agenda := rest, defer := false }

/-- R19, R20, R187, R518, R529: a step runs what its turn names; frozen cores and recovery ignore events. -/
def Obligations.StepRunsItsTurn : Prop :=
  Sys2Proof.Statements.StepRunsTheDecodedInstruction
  ∧ Sys2Proof.Statements.FrozenCoresAndRecoveryIgnoreEvents

/-- Every step keeps the canonical form of named memory, host memory and board flash: addresses rise strictly and no
byte listed is the one that an unlisted address reads as. The form is the model's own, as is the zero that an unlisted
byte reads as (log entry 3). -/
def Obligations.StepKeepsMemoryCanonical : Prop :=
  ∀ s t : State, memWf s = true → step s = .next t → memWf t = true

/-- What reset leaves: the values that the register maps of the spec state and no task. That nothing is listed in named
memory, host memory and board flash, that every register of a core and its scratchpad hold zero, that every core is off
and that GTC is 0, are the model's choices (log entries 3 to 7). -/
def Obligations.ResetLeavesTheStatedValues : Prop :=
  State.reset.mem = [] ∧ State.reset.host.mem = [] ∧ State.reset.mg.flash = [] ∧ memWf State.reset = true ∧ State.reset.gtc = 0 ∧ State.reset.ref.graphs = [] ∧ State.reset.ref.tasks = []
  ∧ (∀ c, getCore State.reset c = {}) ∧ ({} : Core).run = .off
  ∧ (∀ e ∈ ([(0x100000, 0), (0x101008, 0), (0x101010, 1), (0x101018, 1), (0x101028, 0), (0x101030, 0), (0x101038, 0),
      (0x100800, 0), (0x101040, 0), (0x101260, 0),
      (0x200000, 10000), (0x200008, 0), (0x300008, 0), (0x300030, 0), (0x300038, 0), (0x300040, 0), (0x300010, 0), (0x300018, 0), (0x300020, 0), (0x300050, 0), (0x300058, 0),
      (0x300060, 0), (0x300068, 0), (0x300070, 0), (0x400000, 0), (0x400008, 0), (0x400018, 0), (0x401000, 0), (0x401008, 0),
      (0x401010, 0), (0x401018, 0), (0x401020, 0), (0x401028, 0), (0x401030, 0), (0x401038, 0), (0x401040, 0), (0x401048, 0),
      (0x500000, 0x3FFF), (0x500008, 0), (0x500010, 0), (0x500018, 0), (0x500020, 0), (0x500028, 1000), (0x500100, 0),
      (0x600000, 0), (0x600008, 0), (0x600010, 0), (0x600018, 0), (0x600020, 0), (0x600028, 1024), (0x600030, 16777216),
      (0x600038, 0), (0x600040, 0), (0x600048, 0), (0x600060, 0), (0x600068, 0), (0x600070, 0), (0x600078, 0)] : List (Nat × W64)),
      hubRead State.reset e.1 = e.2)
end

