-- ==== Sys2Proof/Laws/Table.lean ====
section
/-! SUPPORT. What reading and writing a sparse table does, and that the canonical form is kept. -/

namespace Sys2Proof.Machine

variable {α : Type}

@[simp] theorem tget_nil (d : α) (a : Nat) : tget d [] a = d := rfl

/-- Reading back the key just written. -/
@[simp] theorem tget_tset_self (d : α) (t : Tbl α) (a : Nat) (v : α) : tget d (tset t a v) a = v := by
  induction t with
  | nil => simp [tset, tget]
  | cons e t ih =>
    obtain ⟨k, w⟩ := e
    simp only [tset]
    split
    · simp [tget]
    · split <;> rename_i h'
      · simp [tget]
      · simp [tget, h', ih]

/-- Another key keeps its value. -/
theorem tget_tset_ne (d : α) (t : Tbl α) {a b : Nat} (v : α) (h : b ≠ a) : tget d (tset t a v) b = tget d t b := by
  induction t with
  | nil => simp [tset, tget, h]
  | cons e t ih =>
    obtain ⟨k, w⟩ := e
    simp only [tset]
    split
    · simp [tget, h]
    · split <;> rename_i h2
      · subst h2; simp [tget, h]
      · simp only [tget]; rw [ih]

theorem tget_tset (d : α) (t : Tbl α) (a b : Nat) (v : α) :
    tget d (tset t a v) b = if b = a then v else tget d t b := by
  split
  · next h => subst h; exact tget_tset_self ..
  · next h => exact tget_tset_ne _ _ _ h

theorem tget_tdel (d : α) (t : Tbl α) (a b : Nat) : tget d (tdel t a) b = if b = a then d else tget d t b := by
  induction t with
  | nil => simp [tdel]
  | cons e t ih =>
    obtain ⟨k, w⟩ := e
    by_cases h : a = k
    · subst h
      by_cases h1 : b = a
      · subst h1; simpa [tdel] using ih
      · simp [tdel, tget, h1, ih]
    · by_cases h1 : b = k
      · subst h1; simp [tdel, tget, h, Ne.symm h]
      · simp [tdel, tget, h, h1, ih]

variable [DecidableEq α]

theorem twfFrom_mono {d : α} {lo lo' : Nat} {t : Tbl α} (h : twfFrom d lo t = true) (hl : lo' ≤ lo) :
    twfFrom d lo' t = true := by
  cases t with
  | nil => rfl
  | cons e t =>
    simp only [twfFrom, Bool.and_eq_true, decide_eq_true_eq] at *
    exact ⟨⟨by omega, h.1.2⟩, h.2⟩

/-- A key below every key of a canonical table reads the default. -/
theorem tget_below {d : α} {lo a : Nat} {t : Tbl α} (h : twfFrom d lo t = true) (ha : a < lo) : tget d t a = d := by
  induction t generalizing lo with
  | nil => rfl
  | cons e t ih =>
    simp only [twfFrom, Bool.and_eq_true, decide_eq_true_eq] at h
    simp [tget, show a ≠ e.1 by omega, ih h.2 (by omega)]

theorem twfFrom_tset {d : α} {lo a : Nat} {t : Tbl α} {v : α} (h : twfFrom d lo t = true) (ha : lo ≤ a) (hv : v ≠ d) :
    twfFrom d lo (tset t a v) = true := by
  induction t generalizing lo with
  | nil => simp [tset, twfFrom, ha, hv]
  | cons e t ih =>
    obtain ⟨k, w⟩ := e
    simp only [twfFrom, Bool.and_eq_true, decide_eq_true_eq] at h
    simp only [tset]
    split
    · next h1 => simp [twfFrom, ha, hv, h.1.2, h.2]; omega
    · split
      · next h2 => subst h2; simp [twfFrom, hv, h.2, ha]
      · next h1 h2 => simp [twfFrom, h.1, ih h.2 (by omega)]

theorem twfFrom_tdel {d : α} {lo a : Nat} {t : Tbl α} (h : twfFrom d lo t = true) : twfFrom d lo (tdel t a) = true := by
  induction t generalizing lo with
  | nil => rfl
  | cons e t ih =>
    obtain ⟨k, w⟩ := e
    have h' := h
    simp only [twfFrom, Bool.and_eq_true, decide_eq_true_eq] at h'
    simp only [tdel]
    split
    · exact twfFrom_mono (ih h'.2) (by omega)
    · simp [twfFrom, h'.1, ih h'.2]

/-- Writing keeps the canonical form. -/
theorem twf_tput {d : α} {t : Tbl α} (a : Nat) (v : α) (h : twf d t = true) : twf d (tput d t a v) = true := by
  unfold tput
  split
  · exact twfFrom_tdel h
  · next hv => exact twfFrom_tset h (Nat.zero_le _) hv

theorem twf_tputs {d : α} (l : List α) : ∀ {t : Tbl α} (a : Nat), twf d t = true → twf d (tputs d t a l) = true := by
  induction l with
  | nil => intro t a h; exact h
  | cons v vs ih => intro t a h; exact ih (a + 1) (twf_tput a v h)

/-- Reading after writing: the value at the key written, the old value elsewhere. -/
theorem tget_tput (d : α) (t : Tbl α) (a b : Nat) (v : α) :
    tget d (tput d t a v) b = if b = a then v else tget d t b := by
  unfold tput
  split
  · next hv => subst hv; exact tget_tdel ..
  · exact tget_tset ..

/-- Reading after writing a run of values from `a`. -/
theorem tget_tputs {d : α} (l : List α) : ∀ (t : Tbl α) (a b : Nat),
    tget d (tputs d t a l) b = if a ≤ b ∧ b < a + l.length then l[b - a]?.getD d else tget d t b := by
  induction l with
  | nil => intro t a b; simp only [tputs, List.length_nil]; rw [if_neg (by omega)]
  | cons v vs ih =>
    intro t a b
    simp only [tputs, List.length_cons]
    rw [ih, tget_tput]
    by_cases h1 : b = a
    · subst h1; simp <;> omega
    · by_cases h2 : a + 1 ≤ b ∧ b < a + 1 + vs.length
      · rw [if_pos h2, if_pos (by omega)]
        have : b - a = (b - (a + 1)) + 1 := by omega
        simp [this]
      · rw [if_neg h2, if_neg h1, if_neg (by omega)]

end Sys2Proof.Machine
end

