-- ==== Sys2Proof/Laws/State.lean ====
section
/-! SUPPORT. What each named update of the state, of a core and of a strand changes: one lemma per field per update, and
reading back what was written. -/

namespace Sys2Proof.Machine

/-! ### The device -/

@[simp] theorem setCore_cur (s : State) (c : Nat) (k : Core) : (setCore s c k).cur = s.cur := rfl
@[simp] theorem setCore_defer (s : State) (c : Nat) (k : Core) : (setCore s c k).defer = s.defer := rfl
@[simp] theorem setCore_clusters (s : State) (c : Nat) (k : Core) : (setCore s c k).clusters = s.clusters := rfl
@[simp] theorem setCore_mem (s : State) (c : Nat) (k : Core) : (setCore s c k).mem = s.mem := rfl
@[simp] theorem setCore_bad (s : State) (c : Nat) (k : Core) : (setCore s c k).bad = s.bad := rfl
@[simp] theorem setCore_samp (s : State) (c : Nat) (k : Core) : (setCore s c k).samp = s.samp := rfl
@[simp] theorem setCore_gtc (s : State) (c : Nat) (k : Core) : (setCore s c k).gtc = s.gtc := rfl
@[simp] theorem setCore_mm (s : State) (c : Nat) (k : Core) : (setCore s c k).mm = s.mm := rfl
@[simp] theorem setCore_ref (s : State) (c : Nat) (k : Core) : (setCore s c k).ref = s.ref := rfl
@[simp] theorem setCore_bur (s : State) (c : Nat) (k : Core) : (setCore s c k).bur = s.bur := rfl
@[simp] theorem setCore_host (s : State) (c : Nat) (k : Core) : (setCore s c k).host = s.host := rfl
@[simp] theorem setCore_vol (s : State) (c : Nat) (k : Core) : (setCore s c k).vol = s.vol := rfl
@[simp] theorem setCore_pro (s : State) (c : Nat) (k : Core) : (setCore s c k).pro = s.pro := rfl
@[simp] theorem setCore_mg (s : State) (c : Nat) (k : Core) : (setCore s c k).mg = s.mg := rfl
@[simp] theorem setCore_agenda (s : State) (c : Nat) (k : Core) : (setCore s c k).agenda = s.agenda := rfl
@[simp] theorem setCore_fresh (s : State) (c : Nat) (k : Core) : (setCore s c k).fresh = s.fresh := rfl

@[simp] theorem setCluster_cur (s : State) (j : Nat) (c : Cluster) : (setCluster s j c).cur = s.cur := rfl
@[simp] theorem setCluster_defer (s : State) (j : Nat) (c : Cluster) : (setCluster s j c).defer = s.defer := rfl
@[simp] theorem setCluster_cores (s : State) (j : Nat) (c : Cluster) : (setCluster s j c).cores = s.cores := rfl
@[simp] theorem setCluster_mem (s : State) (j : Nat) (c : Cluster) : (setCluster s j c).mem = s.mem := rfl
@[simp] theorem setCluster_bad (s : State) (j : Nat) (c : Cluster) : (setCluster s j c).bad = s.bad := rfl
@[simp] theorem setCluster_samp (s : State) (j : Nat) (c : Cluster) : (setCluster s j c).samp = s.samp := rfl
@[simp] theorem setCluster_gtc (s : State) (j : Nat) (c : Cluster) : (setCluster s j c).gtc = s.gtc := rfl
@[simp] theorem setCluster_mm (s : State) (j : Nat) (c : Cluster) : (setCluster s j c).mm = s.mm := rfl
@[simp] theorem setCluster_ref (s : State) (j : Nat) (c : Cluster) : (setCluster s j c).ref = s.ref := rfl
@[simp] theorem setCluster_bur (s : State) (j : Nat) (c : Cluster) : (setCluster s j c).bur = s.bur := rfl
@[simp] theorem setCluster_host (s : State) (j : Nat) (c : Cluster) : (setCluster s j c).host = s.host := rfl
@[simp] theorem setCluster_vol (s : State) (j : Nat) (c : Cluster) : (setCluster s j c).vol = s.vol := rfl
@[simp] theorem setCluster_pro (s : State) (j : Nat) (c : Cluster) : (setCluster s j c).pro = s.pro := rfl
@[simp] theorem setCluster_mg (s : State) (j : Nat) (c : Cluster) : (setCluster s j c).mg = s.mg := rfl
@[simp] theorem setCluster_agenda (s : State) (j : Nat) (c : Cluster) : (setCluster s j c).agenda = s.agenda := rfl
@[simp] theorem setCluster_fresh (s : State) (j : Nat) (c : Cluster) : (setCluster s j c).fresh = s.fresh := rfl

@[simp] theorem setTask_cur (s : State) (t : Nat) (v : Task) : (setTask s t v).cur = s.cur := rfl
@[simp] theorem setTask_defer (s : State) (t : Nat) (v : Task) : (setTask s t v).defer = s.defer := rfl
@[simp] theorem setTask_cores (s : State) (t : Nat) (v : Task) : (setTask s t v).cores = s.cores := rfl
@[simp] theorem setTask_clusters (s : State) (t : Nat) (v : Task) : (setTask s t v).clusters = s.clusters := rfl
@[simp] theorem setTask_mem (s : State) (t : Nat) (v : Task) : (setTask s t v).mem = s.mem := rfl
@[simp] theorem setTask_bad (s : State) (t : Nat) (v : Task) : (setTask s t v).bad = s.bad := rfl
@[simp] theorem setTask_samp (s : State) (t : Nat) (v : Task) : (setTask s t v).samp = s.samp := rfl
@[simp] theorem setTask_gtc (s : State) (t : Nat) (v : Task) : (setTask s t v).gtc = s.gtc := rfl
@[simp] theorem setTask_mm (s : State) (t : Nat) (v : Task) : (setTask s t v).mm = s.mm := rfl
@[simp] theorem setTask_bur (s : State) (t : Nat) (v : Task) : (setTask s t v).bur = s.bur := rfl
@[simp] theorem setTask_host (s : State) (t : Nat) (v : Task) : (setTask s t v).host = s.host := rfl
@[simp] theorem setTask_vol (s : State) (t : Nat) (v : Task) : (setTask s t v).vol = s.vol := rfl
@[simp] theorem setTask_pro (s : State) (t : Nat) (v : Task) : (setTask s t v).pro = s.pro := rfl
@[simp] theorem setTask_mg (s : State) (t : Nat) (v : Task) : (setTask s t v).mg = s.mg := rfl
@[simp] theorem setTask_agenda (s : State) (t : Nat) (v : Task) : (setTask s t v).agenda = s.agenda := rfl
@[simp] theorem setTask_fresh (s : State) (t : Nat) (v : Task) : (setTask s t v).fresh = s.fresh := rfl

@[simp] theorem setCC_cur (s : State) (k : Core) : (setCC s k).cur = s.cur := rfl
@[simp] theorem setCC_defer (s : State) (k : Core) : (setCC s k).defer = s.defer := rfl
@[simp] theorem setCC_clusters (s : State) (k : Core) : (setCC s k).clusters = s.clusters := rfl
@[simp] theorem setCC_mem (s : State) (k : Core) : (setCC s k).mem = s.mem := rfl
@[simp] theorem setCC_bad (s : State) (k : Core) : (setCC s k).bad = s.bad := rfl
@[simp] theorem setCC_samp (s : State) (k : Core) : (setCC s k).samp = s.samp := rfl
@[simp] theorem setCC_gtc (s : State) (k : Core) : (setCC s k).gtc = s.gtc := rfl
@[simp] theorem setCC_mm (s : State) (k : Core) : (setCC s k).mm = s.mm := rfl
@[simp] theorem setCC_ref (s : State) (k : Core) : (setCC s k).ref = s.ref := rfl
@[simp] theorem setCC_bur (s : State) (k : Core) : (setCC s k).bur = s.bur := rfl
@[simp] theorem setCC_host (s : State) (k : Core) : (setCC s k).host = s.host := rfl
@[simp] theorem setCC_vol (s : State) (k : Core) : (setCC s k).vol = s.vol := rfl
@[simp] theorem setCC_pro (s : State) (k : Core) : (setCC s k).pro = s.pro := rfl
@[simp] theorem setCC_mg (s : State) (k : Core) : (setCC s k).mg = s.mg := rfl
@[simp] theorem setCC_agenda (s : State) (k : Core) : (setCC s k).agenda = s.agenda := rfl
@[simp] theorem setCC_fresh (s : State) (k : Core) : (setCC s k).fresh = s.fresh := rfl

@[simp] theorem setCst_cur (s : State) (t : Strand) : (setCst s t).cur = s.cur := rfl
@[simp] theorem setCst_defer (s : State) (t : Strand) : (setCst s t).defer = s.defer := rfl
@[simp] theorem setCst_clusters (s : State) (t : Strand) : (setCst s t).clusters = s.clusters := rfl
@[simp] theorem setCst_mem (s : State) (t : Strand) : (setCst s t).mem = s.mem := rfl
@[simp] theorem setCst_bad (s : State) (t : Strand) : (setCst s t).bad = s.bad := rfl
@[simp] theorem setCst_samp (s : State) (t : Strand) : (setCst s t).samp = s.samp := rfl
@[simp] theorem setCst_gtc (s : State) (t : Strand) : (setCst s t).gtc = s.gtc := rfl
@[simp] theorem setCst_mm (s : State) (t : Strand) : (setCst s t).mm = s.mm := rfl
@[simp] theorem setCst_ref (s : State) (t : Strand) : (setCst s t).ref = s.ref := rfl
@[simp] theorem setCst_bur (s : State) (t : Strand) : (setCst s t).bur = s.bur := rfl
@[simp] theorem setCst_host (s : State) (t : Strand) : (setCst s t).host = s.host := rfl
@[simp] theorem setCst_vol (s : State) (t : Strand) : (setCst s t).vol = s.vol := rfl
@[simp] theorem setCst_pro (s : State) (t : Strand) : (setCst s t).pro = s.pro := rfl
@[simp] theorem setCst_mg (s : State) (t : Strand) : (setCst s t).mg = s.mg := rfl
@[simp] theorem setCst_agenda (s : State) (t : Strand) : (setCst s t).agenda = s.agenda := rfl
@[simp] theorem setCst_fresh (s : State) (t : Strand) : (setCst s t).fresh = s.fresh := rfl

@[simp] theorem setSn_cur (s : State) (n : Nat) (t : Strand) : (setSn s n t).cur = s.cur := rfl
@[simp] theorem setSn_defer (s : State) (n : Nat) (t : Strand) : (setSn s n t).defer = s.defer := rfl
@[simp] theorem setSn_clusters (s : State) (n : Nat) (t : Strand) : (setSn s n t).clusters = s.clusters := rfl
@[simp] theorem setSn_mem (s : State) (n : Nat) (t : Strand) : (setSn s n t).mem = s.mem := rfl
@[simp] theorem setSn_bad (s : State) (n : Nat) (t : Strand) : (setSn s n t).bad = s.bad := rfl
@[simp] theorem setSn_samp (s : State) (n : Nat) (t : Strand) : (setSn s n t).samp = s.samp := rfl
@[simp] theorem setSn_gtc (s : State) (n : Nat) (t : Strand) : (setSn s n t).gtc = s.gtc := rfl
@[simp] theorem setSn_mm (s : State) (n : Nat) (t : Strand) : (setSn s n t).mm = s.mm := rfl
@[simp] theorem setSn_ref (s : State) (n : Nat) (t : Strand) : (setSn s n t).ref = s.ref := rfl
@[simp] theorem setSn_bur (s : State) (n : Nat) (t : Strand) : (setSn s n t).bur = s.bur := rfl
@[simp] theorem setSn_host (s : State) (n : Nat) (t : Strand) : (setSn s n t).host = s.host := rfl
@[simp] theorem setSn_vol (s : State) (n : Nat) (t : Strand) : (setSn s n t).vol = s.vol := rfl
@[simp] theorem setSn_pro (s : State) (n : Nat) (t : Strand) : (setSn s n t).pro = s.pro := rfl
@[simp] theorem setSn_mg (s : State) (n : Nat) (t : Strand) : (setSn s n t).mg = s.mg := rfl
@[simp] theorem setSn_agenda (s : State) (n : Nat) (t : Strand) : (setSn s n t).agenda = s.agenda := rfl
@[simp] theorem setSn_fresh (s : State) (n : Nat) (t : Strand) : (setSn s n t).fresh = s.fresh := rfl

@[simp] theorem wx_cur (s : State) (r : Reg) (v : W64) : (wx s r v).cur = s.cur := rfl
@[simp] theorem wx_defer (s : State) (r : Reg) (v : W64) : (wx s r v).defer = s.defer := rfl
@[simp] theorem wx_clusters (s : State) (r : Reg) (v : W64) : (wx s r v).clusters = s.clusters := rfl
@[simp] theorem wx_mem (s : State) (r : Reg) (v : W64) : (wx s r v).mem = s.mem := rfl
@[simp] theorem wx_bad (s : State) (r : Reg) (v : W64) : (wx s r v).bad = s.bad := rfl
@[simp] theorem wx_samp (s : State) (r : Reg) (v : W64) : (wx s r v).samp = s.samp := rfl
@[simp] theorem wx_gtc (s : State) (r : Reg) (v : W64) : (wx s r v).gtc = s.gtc := rfl
@[simp] theorem wx_mm (s : State) (r : Reg) (v : W64) : (wx s r v).mm = s.mm := rfl
@[simp] theorem wx_ref (s : State) (r : Reg) (v : W64) : (wx s r v).ref = s.ref := rfl
@[simp] theorem wx_bur (s : State) (r : Reg) (v : W64) : (wx s r v).bur = s.bur := rfl
@[simp] theorem wx_host (s : State) (r : Reg) (v : W64) : (wx s r v).host = s.host := rfl
@[simp] theorem wx_vol (s : State) (r : Reg) (v : W64) : (wx s r v).vol = s.vol := rfl
@[simp] theorem wx_pro (s : State) (r : Reg) (v : W64) : (wx s r v).pro = s.pro := rfl
@[simp] theorem wx_mg (s : State) (r : Reg) (v : W64) : (wx s r v).mg = s.mg := rfl
@[simp] theorem wx_agenda (s : State) (r : Reg) (v : W64) : (wx s r v).agenda = s.agenda := rfl
@[simp] theorem wx_fresh (s : State) (r : Reg) (v : W64) : (wx s r v).fresh = s.fresh := rfl

@[simp] theorem setReg_cur (s : State) (n r : Nat) (v : W64) : (setReg s n r v).cur = s.cur := rfl
@[simp] theorem setReg_defer (s : State) (n r : Nat) (v : W64) : (setReg s n r v).defer = s.defer := rfl
@[simp] theorem setReg_clusters (s : State) (n r : Nat) (v : W64) : (setReg s n r v).clusters = s.clusters := rfl
@[simp] theorem setReg_mem (s : State) (n r : Nat) (v : W64) : (setReg s n r v).mem = s.mem := rfl
@[simp] theorem setReg_bad (s : State) (n r : Nat) (v : W64) : (setReg s n r v).bad = s.bad := rfl
@[simp] theorem setReg_samp (s : State) (n r : Nat) (v : W64) : (setReg s n r v).samp = s.samp := rfl
@[simp] theorem setReg_gtc (s : State) (n r : Nat) (v : W64) : (setReg s n r v).gtc = s.gtc := rfl
@[simp] theorem setReg_mm (s : State) (n r : Nat) (v : W64) : (setReg s n r v).mm = s.mm := rfl
@[simp] theorem setReg_ref (s : State) (n r : Nat) (v : W64) : (setReg s n r v).ref = s.ref := rfl
@[simp] theorem setReg_bur (s : State) (n r : Nat) (v : W64) : (setReg s n r v).bur = s.bur := rfl
@[simp] theorem setReg_host (s : State) (n r : Nat) (v : W64) : (setReg s n r v).host = s.host := rfl
@[simp] theorem setReg_vol (s : State) (n r : Nat) (v : W64) : (setReg s n r v).vol = s.vol := rfl
@[simp] theorem setReg_pro (s : State) (n r : Nat) (v : W64) : (setReg s n r v).pro = s.pro := rfl
@[simp] theorem setReg_mg (s : State) (n r : Nat) (v : W64) : (setReg s n r v).mg = s.mg := rfl
@[simp] theorem setReg_agenda (s : State) (n r : Nat) (v : W64) : (setReg s n r v).agenda = s.agenda := rfl
@[simp] theorem setReg_fresh (s : State) (n r : Nat) (v : W64) : (setReg s n r v).fresh = s.fresh := rfl

@[simp] theorem takeOrd_cur (s : State) : (takeOrd s).cur = s.cur := rfl
@[simp] theorem takeOrd_defer (s : State) : (takeOrd s).defer = s.defer := rfl
@[simp] theorem takeOrd_clusters (s : State) : (takeOrd s).clusters = s.clusters := rfl
@[simp] theorem takeOrd_mem (s : State) : (takeOrd s).mem = s.mem := rfl
@[simp] theorem takeOrd_bad (s : State) : (takeOrd s).bad = s.bad := rfl
@[simp] theorem takeOrd_samp (s : State) : (takeOrd s).samp = s.samp := rfl
@[simp] theorem takeOrd_gtc (s : State) : (takeOrd s).gtc = s.gtc := rfl
@[simp] theorem takeOrd_mm (s : State) : (takeOrd s).mm = s.mm := rfl
@[simp] theorem takeOrd_ref (s : State) : (takeOrd s).ref = s.ref := rfl
@[simp] theorem takeOrd_bur (s : State) : (takeOrd s).bur = s.bur := rfl
@[simp] theorem takeOrd_host (s : State) : (takeOrd s).host = s.host := rfl
@[simp] theorem takeOrd_vol (s : State) : (takeOrd s).vol = s.vol := rfl
@[simp] theorem takeOrd_pro (s : State) : (takeOrd s).pro = s.pro := rfl
@[simp] theorem takeOrd_mg (s : State) : (takeOrd s).mg = s.mg := rfl
@[simp] theorem takeOrd_agenda (s : State) : (takeOrd s).agenda = s.agenda := rfl
@[simp] theorem takeOrd_fresh (s : State) : (takeOrd s).fresh = s.fresh := rfl

@[simp] theorem bumpRelease_cur (s : State) (c : Nat) : (bumpRelease s c).cur = s.cur := rfl
@[simp] theorem bumpRelease_defer (s : State) (c : Nat) : (bumpRelease s c).defer = s.defer := rfl
@[simp] theorem bumpRelease_clusters (s : State) (c : Nat) : (bumpRelease s c).clusters = s.clusters := rfl
@[simp] theorem bumpRelease_mem (s : State) (c : Nat) : (bumpRelease s c).mem = s.mem := rfl
@[simp] theorem bumpRelease_bad (s : State) (c : Nat) : (bumpRelease s c).bad = s.bad := rfl
@[simp] theorem bumpRelease_samp (s : State) (c : Nat) : (bumpRelease s c).samp = s.samp := rfl
@[simp] theorem bumpRelease_gtc (s : State) (c : Nat) : (bumpRelease s c).gtc = s.gtc := rfl
@[simp] theorem bumpRelease_mm (s : State) (c : Nat) : (bumpRelease s c).mm = s.mm := rfl
@[simp] theorem bumpRelease_ref (s : State) (c : Nat) : (bumpRelease s c).ref = s.ref := rfl
@[simp] theorem bumpRelease_bur (s : State) (c : Nat) : (bumpRelease s c).bur = s.bur := rfl
@[simp] theorem bumpRelease_host (s : State) (c : Nat) : (bumpRelease s c).host = s.host := rfl
@[simp] theorem bumpRelease_vol (s : State) (c : Nat) : (bumpRelease s c).vol = s.vol := rfl
@[simp] theorem bumpRelease_pro (s : State) (c : Nat) : (bumpRelease s c).pro = s.pro := rfl
@[simp] theorem bumpRelease_mg (s : State) (c : Nat) : (bumpRelease s c).mg = s.mg := rfl
@[simp] theorem bumpRelease_agenda (s : State) (c : Nat) : (bumpRelease s c).agenda = s.agenda := rfl
@[simp] theorem bumpRelease_fresh (s : State) (c : Nat) : (bumpRelease s c).fresh = s.fresh := rfl

/-! ### Reading back a core, a strand, an engine -/

@[simp] theorem getCore_setCore_self (s : State) (c : Nat) (k : Core) : getCore (setCore s c k) c = k := tget_tset_self ..
theorem getCore_setCore_ne (s : State) {c d : Nat} (k : Core) (h : d ≠ c) : getCore (setCore s c k) d = getCore s d :=
  tget_tset_ne _ _ _ h
theorem getCore_setCore (s : State) (c d : Nat) (k : Core) :
    getCore (setCore s c k) d = if d = c then k else getCore s d := tget_tset ..
@[simp] theorem cc_setCC (s : State) (k : Core) : cc (setCC s k) = k := tget_tset_self ..
@[simp] theorem getCore_setCC_cur (s : State) (k : Core) : getCore (setCC s k) s.cur = k := tget_tset_self ..
theorem getCore_setCC_ne (s : State) {d : Nat} (k : Core) (h : d ≠ s.cur) : getCore (setCC s k) d = getCore s d :=
  tget_tset_ne _ _ _ h
@[simp] theorem getTask_setTask_self (s : State) (t : Nat) (v : Task) : getTask (setTask s t v) t = v := tget_tset_self ..
@[simp] theorem getTask_setCore (s : State) (c t : Nat) (k : Core) : getTask (setCore s c k) t = getTask s t := rfl
@[simp] theorem getTask_setCC (s : State) (t : Nat) (k : Core) : getTask (setCC s k) t = getTask s t := rfl
@[simp] theorem getCluster_setCore (s : State) (c j : Nat) (k : Core) : getCluster (setCore s c k) j = getCluster s j := rfl
@[simp] theorem getCluster_setCC (s : State) (j : Nat) (k : Core) : getCluster (setCC s k) j = getCluster s j := rfl
@[simp] theorem getCore_setTask (s : State) (c t : Nat) (v : Task) : getCore (setTask s t v) c = getCore s c := rfl
@[simp] theorem getCore_setCluster (s : State) (c j : Nat) (v : Cluster) : getCore (setCluster s j v) c = getCore s c := rfl
@[simp] theorem getCluster_setCluster_self (s : State) (j : Nat) (v : Cluster) : getCluster (setCluster s j v) j = v :=
  tget_tset_self ..

@[simp] theorem getStrand_setStrand_self (k : Core) (n : Nat) (t : Strand) : getStrand (setStrand k n t) n = t :=
  tget_tset_self ..
theorem getStrand_setStrand_ne (k : Core) {n m : Nat} (t : Strand) (h : m ≠ n) :
    getStrand (setStrand k n t) m = getStrand k m := tget_tset_ne _ _ _ h
theorem getStrand_setStrand (k : Core) (n m : Nat) (t : Strand) :
    getStrand (setStrand k n t) m = if m = n then t else getStrand k m := tget_tset ..
@[simp] theorem getEng_setEng_self (k : Core) (q : Nat) (e : Eng) : getEng (setEng k q e) q = e := tget_tset_self ..
theorem getEng_setEng_ne (k : Core) {q p : Nat} (e : Eng) (h : p ≠ q) : getEng (setEng k q e) p = getEng k p :=
  tget_tset_ne _ _ _ h
@[simp] theorem getEng_setStrand (k : Core) (n q : Nat) (t : Strand) : getEng (setStrand k n t) q = getEng k q := rfl
@[simp] theorem getStrand_setEng (k : Core) (n q : Nat) (e : Eng) : getStrand (setEng k q e) n = getStrand k n := rfl

@[simp] theorem sn_setSn_self (s : State) (n : Nat) (t : Strand) : sn (setSn s n t) n = t := by simp [sn, setSn]
theorem sn_setSn_ne (s : State) {n m : Nat} (t : Strand) (h : m ≠ n) : sn (setSn s n t) m = sn s m := by
  simp [sn, setSn, getStrand_setStrand_ne _ _ h]
@[simp] theorem cst_eq_sn (s : State) : sn s (cc s).cs = cst s := rfl

/-! ### Fields of a core that the update of a strand or of an engine leaves -/

@[simp] theorem setStrand_run (k : Core) (n : Nat) (t : Strand) : (setStrand k n t).run = k.run := rfl
@[simp] theorem setStrand_was (k : Core) (n : Nat) (t : Strand) : (setStrand k n t).was = k.was := rfl
@[simp] theorem setStrand_off (k : Core) (n : Nat) (t : Strand) : (setStrand k n t).off = k.off := rfl
@[simp] theorem setStrand_task (k : Core) (n : Nat) (t : Strand) : (setStrand k n t).task = k.task := rfl
@[simp] theorem setStrand_lid (k : Core) (n : Nat) (t : Strand) : (setStrand k n t).lid = k.lid := rfl
@[simp] theorem setStrand_ncores (k : Core) (n : Nat) (t : Strand) : (setStrand k n t).ncores = k.ncores := rfl
@[simp] theorem setStrand_opIndex (k : Core) (n : Nat) (t : Strand) : (setStrand k n t).opIndex = k.opIndex := rfl
@[simp] theorem setStrand_dom (k : Core) (n : Nat) (t : Strand) : (setStrand k n t).dom = k.dom := rfl
@[simp] theorem setStrand_cs (k : Core) (n : Nat) (t : Strand) : (setStrand k n t).cs = k.cs := rfl
@[simp] theorem setStrand_slotAt (k : Core) (n : Nat) (t : Strand) : (setStrand k n t).slotAt = k.slotAt := rfl
@[simp] theorem setStrand_sreg (k : Core) (n : Nat) (t : Strand) : (setStrand k n t).sreg = k.sreg := rfl
@[simp] theorem setStrand_eng (k : Core) (n : Nat) (t : Strand) : (setStrand k n t).eng = k.eng := rfl
@[simp] theorem setStrand_links (k : Core) (n : Nat) (t : Strand) : (setStrand k n t).links = k.links := rfl
@[simp] theorem setStrand_resv (k : Core) (n : Nat) (t : Strand) : (setStrand k n t).resv = k.resv := rfl
@[simp] theorem setStrand_timed (k : Core) (n : Nat) (t : Strand) : (setStrand k n t).timed = k.timed := rfl
@[simp] theorem setStrand_switching (k : Core) (n : Nat) (t : Strand) : (setStrand k n t).switching = k.switching := rfl
@[simp] theorem setStrand_bars (k : Core) (n : Nat) (t : Strand) : (setStrand k n t).bars = k.bars := rfl
@[simp] theorem setStrand_arrivals (k : Core) (n : Nat) (t : Strand) : (setStrand k n t).arrivals = k.arrivals := rfl
@[simp] theorem setStrand_hold (k : Core) (n : Nat) (t : Strand) : (setStrand k n t).hold = k.hold := rfl
@[simp] theorem setStrand_holdAt (k : Core) (n : Nat) (t : Strand) : (setStrand k n t).holdAt = k.holdAt := rfl
@[simp] theorem setStrand_lastDone (k : Core) (n : Nat) (t : Strand) : (setStrand k n t).lastDone = k.lastDone := rfl
@[simp] theorem setStrand_handling (k : Core) (n : Nat) (t : Strand) : (setStrand k n t).handling = k.handling := rfl
@[simp] theorem setStrand_pendRecs (k : Core) (n : Nat) (t : Strand) : (setStrand k n t).pendRecs = k.pendRecs := rfl
@[simp] theorem setStrand_verdicts (k : Core) (n : Nat) (t : Strand) : (setStrand k n t).verdicts = k.verdicts := rfl
@[simp] theorem setStrand_recSeq (k : Core) (n : Nat) (t : Strand) : (setStrand k n t).recSeq = k.recSeq := rfl
@[simp] theorem setStrand_outRecs (k : Core) (n : Nat) (t : Strand) : (setStrand k n t).outRecs = k.outRecs := rfl
@[simp] theorem setStrand_ended (k : Core) (n : Nat) (t : Strand) : (setStrand k n t).ended = k.ended := rfl
@[simp] theorem setStrand_endAt (k : Core) (n : Nat) (t : Strand) : (setStrand k n t).endAt = k.endAt := rfl
@[simp] theorem setStrand_newRecs (k : Core) (n : Nat) (t : Strand) : (setStrand k n t).newRecs = k.newRecs := rfl
@[simp] theorem setStrand_fltWord (k : Core) (n : Nat) (t : Strand) : (setStrand k n t).fltWord = k.fltWord := rfl
@[simp] theorem setStrand_fltPc (k : Core) (n : Nat) (t : Strand) : (setStrand k n t).fltPc = k.fltPc := rfl
@[simp] theorem setStrand_yldSaved (k : Core) (n : Nat) (t : Strand) : (setStrand k n t).yldSaved = k.yldSaved := rfl
@[simp] theorem setStrand_ord (k : Core) (n : Nat) (t : Strand) : (setStrand k n t).ord = k.ord := rfl
@[simp] theorem setStrand_relCount (k : Core) (n : Nat) (t : Strand) : (setStrand k n t).relCount = k.relCount := rfl
@[simp] theorem setStrand_scr (k : Core) (n : Nat) (t : Strand) : (setStrand k n t).scr = k.scr := rfl
@[simp] theorem setStrand_full (k : Core) (n : Nat) (t : Strand) : (setStrand k n t).full = k.full := rfl
@[simp] theorem setStrand_race (k : Core) (n : Nat) (t : Strand) : (setStrand k n t).race = k.race := rfl
@[simp] theorem setStrand_bad (k : Core) (n : Nat) (t : Strand) : (setStrand k n t).bad = k.bad := rfl
@[simp] theorem setStrand_held (k : Core) (n : Nat) (t : Strand) : (setStrand k n t).held = k.held := rfl
@[simp] theorem setStrand_tagBy (k : Core) (n : Nat) (t : Strand) : (setStrand k n t).tagBy = k.tagBy := rfl
@[simp] theorem setStrand_popBy (k : Core) (n : Nat) (t : Strand) : (setStrand k n t).popBy = k.popBy := rfl
@[simp] theorem setStrand_opened (k : Core) (n : Nat) (t : Strand) : (setStrand k n t).opened = k.opened := rfl
@[simp] theorem setStrand_utlb (k : Core) (n : Nat) (t : Strand) : (setStrand k n t).utlb = k.utlb := rfl
@[simp] theorem setStrand_acks (k : Core) (n : Nat) (t : Strand) : (setStrand k n t).acks = k.acks := rfl
@[simp] theorem setStrand_vec (k : Core) (n : Nat) (t : Strand) : (setStrand k n t).vec = k.vec := rfl
@[simp] theorem setStrand_gen (k : Core) (n : Nat) (t : Strand) : (setStrand k n t).gen = k.gen := rfl
@[simp] theorem setStrand_mat (k : Core) (n : Nat) (t : Strand) : (setStrand k n t).mat = k.mat := rfl
@[simp] theorem setStrand_cpy (k : Core) (n : Nat) (t : Strand) : (setStrand k n t).cpy = k.cpy := rfl
@[simp] theorem setStrand_wpAdr (k : Core) (n : Nat) (t : Strand) : (setStrand k n t).wpAdr = k.wpAdr := rfl
@[simp] theorem setStrand_wpCtl (k : Core) (n : Nat) (t : Strand) : (setStrand k n t).wpCtl = k.wpCtl := rfl
@[simp] theorem setStrand_wpStat (k : Core) (n : Nat) (t : Strand) : (setStrand k n t).wpStat = k.wpStat := rfl
@[simp] theorem setStrand_wpLoc (k : Core) (n : Nat) (t : Strand) : (setStrand k n t).wpLoc = k.wpLoc := rfl

@[simp] theorem setEng_run (k : Core) (q : Nat) (e : Eng) : (setEng k q e).run = k.run := rfl
@[simp] theorem setEng_was (k : Core) (q : Nat) (e : Eng) : (setEng k q e).was = k.was := rfl
@[simp] theorem setEng_off (k : Core) (q : Nat) (e : Eng) : (setEng k q e).off = k.off := rfl
@[simp] theorem setEng_task (k : Core) (q : Nat) (e : Eng) : (setEng k q e).task = k.task := rfl
@[simp] theorem setEng_lid (k : Core) (q : Nat) (e : Eng) : (setEng k q e).lid = k.lid := rfl
@[simp] theorem setEng_ncores (k : Core) (q : Nat) (e : Eng) : (setEng k q e).ncores = k.ncores := rfl
@[simp] theorem setEng_opIndex (k : Core) (q : Nat) (e : Eng) : (setEng k q e).opIndex = k.opIndex := rfl
@[simp] theorem setEng_dom (k : Core) (q : Nat) (e : Eng) : (setEng k q e).dom = k.dom := rfl
@[simp] theorem setEng_strands (k : Core) (q : Nat) (e : Eng) : (setEng k q e).strands = k.strands := rfl
@[simp] theorem setEng_cs (k : Core) (q : Nat) (e : Eng) : (setEng k q e).cs = k.cs := rfl
@[simp] theorem setEng_slotAt (k : Core) (q : Nat) (e : Eng) : (setEng k q e).slotAt = k.slotAt := rfl
@[simp] theorem setEng_sreg (k : Core) (q : Nat) (e : Eng) : (setEng k q e).sreg = k.sreg := rfl
@[simp] theorem setEng_links (k : Core) (q : Nat) (e : Eng) : (setEng k q e).links = k.links := rfl
@[simp] theorem setEng_resv (k : Core) (q : Nat) (e : Eng) : (setEng k q e).resv = k.resv := rfl
@[simp] theorem setEng_timed (k : Core) (q : Nat) (e : Eng) : (setEng k q e).timed = k.timed := rfl
@[simp] theorem setEng_switching (k : Core) (q : Nat) (e : Eng) : (setEng k q e).switching = k.switching := rfl
@[simp] theorem setEng_bars (k : Core) (q : Nat) (e : Eng) : (setEng k q e).bars = k.bars := rfl
@[simp] theorem setEng_arrivals (k : Core) (q : Nat) (e : Eng) : (setEng k q e).arrivals = k.arrivals := rfl
@[simp] theorem setEng_hold (k : Core) (q : Nat) (e : Eng) : (setEng k q e).hold = k.hold := rfl
@[simp] theorem setEng_holdAt (k : Core) (q : Nat) (e : Eng) : (setEng k q e).holdAt = k.holdAt := rfl
@[simp] theorem setEng_lastDone (k : Core) (q : Nat) (e : Eng) : (setEng k q e).lastDone = k.lastDone := rfl
@[simp] theorem setEng_handling (k : Core) (q : Nat) (e : Eng) : (setEng k q e).handling = k.handling := rfl
@[simp] theorem setEng_pendRecs (k : Core) (q : Nat) (e : Eng) : (setEng k q e).pendRecs = k.pendRecs := rfl
@[simp] theorem setEng_verdicts (k : Core) (q : Nat) (e : Eng) : (setEng k q e).verdicts = k.verdicts := rfl
@[simp] theorem setEng_recSeq (k : Core) (q : Nat) (e : Eng) : (setEng k q e).recSeq = k.recSeq := rfl
@[simp] theorem setEng_outRecs (k : Core) (q : Nat) (e : Eng) : (setEng k q e).outRecs = k.outRecs := rfl
@[simp] theorem setEng_ended (k : Core) (q : Nat) (e : Eng) : (setEng k q e).ended = k.ended := rfl
@[simp] theorem setEng_endAt (k : Core) (q : Nat) (e : Eng) : (setEng k q e).endAt = k.endAt := rfl
@[simp] theorem setEng_newRecs (k : Core) (q : Nat) (e : Eng) : (setEng k q e).newRecs = k.newRecs := rfl
@[simp] theorem setEng_fltWord (k : Core) (q : Nat) (e : Eng) : (setEng k q e).fltWord = k.fltWord := rfl
@[simp] theorem setEng_fltPc (k : Core) (q : Nat) (e : Eng) : (setEng k q e).fltPc = k.fltPc := rfl
@[simp] theorem setEng_yldSaved (k : Core) (q : Nat) (e : Eng) : (setEng k q e).yldSaved = k.yldSaved := rfl
@[simp] theorem setEng_ord (k : Core) (q : Nat) (e : Eng) : (setEng k q e).ord = k.ord := rfl
@[simp] theorem setEng_relCount (k : Core) (q : Nat) (e : Eng) : (setEng k q e).relCount = k.relCount := rfl
@[simp] theorem setEng_scr (k : Core) (q : Nat) (e : Eng) : (setEng k q e).scr = k.scr := rfl
@[simp] theorem setEng_full (k : Core) (q : Nat) (e : Eng) : (setEng k q e).full = k.full := rfl
@[simp] theorem setEng_race (k : Core) (q : Nat) (e : Eng) : (setEng k q e).race = k.race := rfl
@[simp] theorem setEng_bad (k : Core) (q : Nat) (e : Eng) : (setEng k q e).bad = k.bad := rfl
@[simp] theorem setEng_held (k : Core) (q : Nat) (e : Eng) : (setEng k q e).held = k.held := rfl
@[simp] theorem setEng_tagBy (k : Core) (q : Nat) (e : Eng) : (setEng k q e).tagBy = k.tagBy := rfl
@[simp] theorem setEng_popBy (k : Core) (q : Nat) (e : Eng) : (setEng k q e).popBy = k.popBy := rfl
@[simp] theorem setEng_opened (k : Core) (q : Nat) (e : Eng) : (setEng k q e).opened = k.opened := rfl
@[simp] theorem setEng_utlb (k : Core) (q : Nat) (e : Eng) : (setEng k q e).utlb = k.utlb := rfl
@[simp] theorem setEng_acks (k : Core) (q : Nat) (e : Eng) : (setEng k q e).acks = k.acks := rfl
@[simp] theorem setEng_vec (k : Core) (q : Nat) (e : Eng) : (setEng k q e).vec = k.vec := rfl
@[simp] theorem setEng_gen (k : Core) (q : Nat) (e : Eng) : (setEng k q e).gen = k.gen := rfl
@[simp] theorem setEng_mat (k : Core) (q : Nat) (e : Eng) : (setEng k q e).mat = k.mat := rfl
@[simp] theorem setEng_cpy (k : Core) (q : Nat) (e : Eng) : (setEng k q e).cpy = k.cpy := rfl
@[simp] theorem setEng_wpAdr (k : Core) (q : Nat) (e : Eng) : (setEng k q e).wpAdr = k.wpAdr := rfl
@[simp] theorem setEng_wpCtl (k : Core) (q : Nat) (e : Eng) : (setEng k q e).wpCtl = k.wpCtl := rfl
@[simp] theorem setEng_wpStat (k : Core) (q : Nat) (e : Eng) : (setEng k q e).wpStat = k.wpStat := rfl
@[simp] theorem setEng_wpLoc (k : Core) (q : Nat) (e : Eng) : (setEng k q e).wpLoc = k.wpLoc := rfl

@[simp] theorem unopen_run (k : Core) (a : Nat) : (unopen k a).run = k.run := rfl
@[simp] theorem unopen_was (k : Core) (a : Nat) : (unopen k a).was = k.was := rfl
@[simp] theorem unopen_off (k : Core) (a : Nat) : (unopen k a).off = k.off := rfl
@[simp] theorem unopen_task (k : Core) (a : Nat) : (unopen k a).task = k.task := rfl
@[simp] theorem unopen_lid (k : Core) (a : Nat) : (unopen k a).lid = k.lid := rfl
@[simp] theorem unopen_ncores (k : Core) (a : Nat) : (unopen k a).ncores = k.ncores := rfl
@[simp] theorem unopen_opIndex (k : Core) (a : Nat) : (unopen k a).opIndex = k.opIndex := rfl
@[simp] theorem unopen_dom (k : Core) (a : Nat) : (unopen k a).dom = k.dom := rfl
@[simp] theorem unopen_strands (k : Core) (a : Nat) : (unopen k a).strands = k.strands := rfl
@[simp] theorem unopen_cs (k : Core) (a : Nat) : (unopen k a).cs = k.cs := rfl
@[simp] theorem unopen_slotAt (k : Core) (a : Nat) : (unopen k a).slotAt = k.slotAt := rfl
@[simp] theorem unopen_sreg (k : Core) (a : Nat) : (unopen k a).sreg = k.sreg := rfl
@[simp] theorem unopen_eng (k : Core) (a : Nat) : (unopen k a).eng = k.eng := rfl
@[simp] theorem unopen_links (k : Core) (a : Nat) : (unopen k a).links = k.links := rfl
@[simp] theorem unopen_resv (k : Core) (a : Nat) : (unopen k a).resv = k.resv := rfl
@[simp] theorem unopen_timed (k : Core) (a : Nat) : (unopen k a).timed = k.timed := rfl
@[simp] theorem unopen_switching (k : Core) (a : Nat) : (unopen k a).switching = k.switching := rfl
@[simp] theorem unopen_bars (k : Core) (a : Nat) : (unopen k a).bars = k.bars := rfl
@[simp] theorem unopen_arrivals (k : Core) (a : Nat) : (unopen k a).arrivals = k.arrivals := rfl
@[simp] theorem unopen_hold (k : Core) (a : Nat) : (unopen k a).hold = k.hold := rfl
@[simp] theorem unopen_holdAt (k : Core) (a : Nat) : (unopen k a).holdAt = k.holdAt := rfl
@[simp] theorem unopen_lastDone (k : Core) (a : Nat) : (unopen k a).lastDone = k.lastDone := rfl
@[simp] theorem unopen_handling (k : Core) (a : Nat) : (unopen k a).handling = k.handling := rfl
@[simp] theorem unopen_pendRecs (k : Core) (a : Nat) : (unopen k a).pendRecs = k.pendRecs := rfl
@[simp] theorem unopen_verdicts (k : Core) (a : Nat) : (unopen k a).verdicts = k.verdicts := rfl
@[simp] theorem unopen_recSeq (k : Core) (a : Nat) : (unopen k a).recSeq = k.recSeq := rfl
@[simp] theorem unopen_outRecs (k : Core) (a : Nat) : (unopen k a).outRecs = k.outRecs := rfl
@[simp] theorem unopen_ended (k : Core) (a : Nat) : (unopen k a).ended = k.ended := rfl
@[simp] theorem unopen_endAt (k : Core) (a : Nat) : (unopen k a).endAt = k.endAt := rfl
@[simp] theorem unopen_newRecs (k : Core) (a : Nat) : (unopen k a).newRecs = k.newRecs := rfl
@[simp] theorem unopen_fltWord (k : Core) (a : Nat) : (unopen k a).fltWord = k.fltWord := rfl
@[simp] theorem unopen_fltPc (k : Core) (a : Nat) : (unopen k a).fltPc = k.fltPc := rfl
@[simp] theorem unopen_yldSaved (k : Core) (a : Nat) : (unopen k a).yldSaved = k.yldSaved := rfl
@[simp] theorem unopen_ord (k : Core) (a : Nat) : (unopen k a).ord = k.ord := rfl
@[simp] theorem unopen_relCount (k : Core) (a : Nat) : (unopen k a).relCount = k.relCount := rfl
@[simp] theorem unopen_scr (k : Core) (a : Nat) : (unopen k a).scr = k.scr := rfl
@[simp] theorem unopen_full (k : Core) (a : Nat) : (unopen k a).full = k.full := rfl
@[simp] theorem unopen_race (k : Core) (a : Nat) : (unopen k a).race = k.race := rfl
@[simp] theorem unopen_bad (k : Core) (a : Nat) : (unopen k a).bad = k.bad := rfl
@[simp] theorem unopen_held (k : Core) (a : Nat) : (unopen k a).held = k.held := rfl
@[simp] theorem unopen_tagBy (k : Core) (a : Nat) : (unopen k a).tagBy = k.tagBy := rfl
@[simp] theorem unopen_popBy (k : Core) (a : Nat) : (unopen k a).popBy = k.popBy := rfl
@[simp] theorem unopen_utlb (k : Core) (a : Nat) : (unopen k a).utlb = k.utlb := rfl
@[simp] theorem unopen_acks (k : Core) (a : Nat) : (unopen k a).acks = k.acks := rfl
@[simp] theorem unopen_vec (k : Core) (a : Nat) : (unopen k a).vec = k.vec := rfl
@[simp] theorem unopen_gen (k : Core) (a : Nat) : (unopen k a).gen = k.gen := rfl
@[simp] theorem unopen_mat (k : Core) (a : Nat) : (unopen k a).mat = k.mat := rfl
@[simp] theorem unopen_cpy (k : Core) (a : Nat) : (unopen k a).cpy = k.cpy := rfl
@[simp] theorem unopen_wpAdr (k : Core) (a : Nat) : (unopen k a).wpAdr = k.wpAdr := rfl
@[simp] theorem unopen_wpCtl (k : Core) (a : Nat) : (unopen k a).wpCtl = k.wpCtl := rfl
@[simp] theorem unopen_wpStat (k : Core) (a : Nat) : (unopen k a).wpStat = k.wpStat := rfl
@[simp] theorem unopen_wpLoc (k : Core) (a : Nat) : (unopen k a).wpLoc = k.wpLoc := rfl
@[simp] theorem getStrand_unopen (k : Core) (a n : Nat) : getStrand (unopen k a) n = getStrand k n := rfl
@[simp] theorem getEng_unopen (k : Core) (a q : Nat) : getEng (unopen k a) q = getEng k q := rfl

/-! ### Registers of a strand (R162) -/

@[simp] theorem xget_zero (t : Strand) : xget t 0 = 0 := rfl
@[simp] theorem xset_zero (t : Strand) (v : W64) : xset t 0 v = t := rfl
@[simp] theorem pget_zero (t : Strand) : pget t 0 = true := rfl

/-- Reading back a register, in a file that holds its canonical form. -/
theorem xget_xset (t : Strand) (r q : Nat) (v : W64) :
    xget (xset t r v) q = if q = r ∧ r ≠ 0 then v else xget t q := by
  unfold xset
  split
  · next h0 => subst h0; simp
  · next h0 =>
    unfold xget
    split
    · next hq => subst hq; rw [if_neg (by omega)]
    · next hq =>
      rw [tget_tput]
      by_cases hr : q = r <;> simp [hr, h0]

theorem twf_xset (t : Strand) (r : Nat) (v : W64) (h : twf 0 t.x = true) : twf 0 (xset t r v).x = true := by
  unfold xset
  split
  · exact h
  · exact twf_tput _ _ h

@[simp] theorem xset_run (t : Strand) (r : Nat) (v : W64) : (xset t r v).run = t.run := by unfold xset; split <;> rfl
@[simp] theorem xset_wait (t : Strand) (r : Nat) (v : W64) : (xset t r v).wait = t.wait := by unfold xset; split <;> rfl
@[simp] theorem xset_flag (t : Strand) (r : Nat) (v : W64) : (xset t r v).flag = t.flag := by unfold xset; split <;> rfl
@[simp] theorem xset_by_ (t : Strand) (r : Nat) (v : W64) : (xset t r v).by_ = t.by_ := by unfold xset; split <;> rfl
@[simp] theorem xset_pc (t : Strand) (r : Nat) (v : W64) : (xset t r v).pc = t.pc := by unfold xset; split <;> rfl
@[simp] theorem xset_p (t : Strand) (r : Nat) (v : W64) : (xset t r v).p = t.p := by unfold xset; split <;> rfl
@[simp] theorem xset_lc (t : Strand) (r : Nat) (v : W64) : (xset t r v).lc = t.lc := by unfold xset; split <;> rfl
@[simp] theorem xset_loop (t : Strand) (r : Nat) (v : W64) : (xset t r v).loop = t.loop := by unfold xset; split <;> rfl
@[simp] theorem xset_w (t : Strand) (r : Nat) (v : W64) : (xset t r v).w = t.w := by unfold xset; split <;> rfl
@[simp] theorem xset_eseq (t : Strand) (r : Nat) (v : W64) : (xset t r v).eseq = t.eseq := by unfold xset; split <;> rfl
@[simp] theorem xset_pend (t : Strand) (r : Nat) (v : W64) : (xset t r v).pend = t.pend := by unfold xset; split <;> rfl
@[simp] theorem xset_flight (t : Strand) (r : Nat) (v : W64) : (xset t r v).flight = t.flight := by unfold xset; split <;> rfl
@[simp] theorem xset_fetched (t : Strand) (r : Nat) (v : W64) : (xset t r v).fetched = t.fetched := by unfold xset; split <;> rfl
@[simp] theorem xset_noWatch (t : Strand) (r : Nat) (v : W64) : (xset t r v).noWatch = t.noWatch := by unfold xset; split <;> rfl
@[simp] theorem xset_barOn (t : Strand) (r : Nat) (v : W64) : (xset t r v).barOn = t.barOn := by unfold xset; split <;> rfl
@[simp] theorem xset_block (t : Strand) (r : Nat) (v : W64) : (xset t r v).block = t.block := by unfold xset; split <;> rfl
@[simp] theorem pset_run (t : Strand) (r : Nat) (b : Bool) : (pset t r b).run = t.run := rfl
@[simp] theorem pset_wait (t : Strand) (r : Nat) (b : Bool) : (pset t r b).wait = t.wait := rfl
@[simp] theorem pset_flag (t : Strand) (r : Nat) (b : Bool) : (pset t r b).flag = t.flag := rfl
@[simp] theorem pset_by_ (t : Strand) (r : Nat) (b : Bool) : (pset t r b).by_ = t.by_ := rfl
@[simp] theorem pset_pc (t : Strand) (r : Nat) (b : Bool) : (pset t r b).pc = t.pc := rfl
@[simp] theorem pset_x (t : Strand) (r : Nat) (b : Bool) : (pset t r b).x = t.x := rfl
@[simp] theorem pset_lc (t : Strand) (r : Nat) (b : Bool) : (pset t r b).lc = t.lc := rfl
@[simp] theorem pset_loop (t : Strand) (r : Nat) (b : Bool) : (pset t r b).loop = t.loop := rfl
@[simp] theorem pset_w (t : Strand) (r : Nat) (b : Bool) : (pset t r b).w = t.w := rfl
@[simp] theorem pset_eseq (t : Strand) (r : Nat) (b : Bool) : (pset t r b).eseq = t.eseq := rfl
@[simp] theorem pset_pend (t : Strand) (r : Nat) (b : Bool) : (pset t r b).pend = t.pend := rfl
@[simp] theorem pset_flight (t : Strand) (r : Nat) (b : Bool) : (pset t r b).flight = t.flight := rfl
@[simp] theorem pset_fetched (t : Strand) (r : Nat) (b : Bool) : (pset t r b).fetched = t.fetched := rfl
@[simp] theorem pset_noWatch (t : Strand) (r : Nat) (b : Bool) : (pset t r b).noWatch = t.noWatch := rfl
@[simp] theorem pset_barOn (t : Strand) (r : Nat) (b : Bool) : (pset t r b).barOn = t.barOn := rfl
@[simp] theorem pset_block (t : Strand) (r : Nat) (b : Bool) : (pset t r b).block = t.block := rfl
@[simp] theorem wset_run (t : Strand) (n : Nat) (v : WComp) : (wset t n v).run = t.run := rfl
@[simp] theorem wset_wait (t : Strand) (n : Nat) (v : WComp) : (wset t n v).wait = t.wait := rfl
@[simp] theorem wset_flag (t : Strand) (n : Nat) (v : WComp) : (wset t n v).flag = t.flag := rfl
@[simp] theorem wset_by_ (t : Strand) (n : Nat) (v : WComp) : (wset t n v).by_ = t.by_ := rfl
@[simp] theorem wset_pc (t : Strand) (n : Nat) (v : WComp) : (wset t n v).pc = t.pc := rfl
@[simp] theorem wset_x (t : Strand) (n : Nat) (v : WComp) : (wset t n v).x = t.x := rfl
@[simp] theorem wset_p (t : Strand) (n : Nat) (v : WComp) : (wset t n v).p = t.p := rfl
@[simp] theorem wset_lc (t : Strand) (n : Nat) (v : WComp) : (wset t n v).lc = t.lc := rfl
@[simp] theorem wset_loop (t : Strand) (n : Nat) (v : WComp) : (wset t n v).loop = t.loop := rfl
@[simp] theorem wset_eseq (t : Strand) (n : Nat) (v : WComp) : (wset t n v).eseq = t.eseq := rfl
@[simp] theorem wset_pend (t : Strand) (n : Nat) (v : WComp) : (wset t n v).pend = t.pend := rfl
@[simp] theorem wset_flight (t : Strand) (n : Nat) (v : WComp) : (wset t n v).flight = t.flight := rfl
@[simp] theorem wset_fetched (t : Strand) (n : Nat) (v : WComp) : (wset t n v).fetched = t.fetched := rfl
@[simp] theorem wset_noWatch (t : Strand) (n : Nat) (v : WComp) : (wset t n v).noWatch = t.noWatch := rfl
@[simp] theorem wset_barOn (t : Strand) (n : Nat) (v : WComp) : (wset t n v).barOn = t.barOn := rfl
@[simp] theorem wset_block (t : Strand) (n : Nat) (v : WComp) : (wset t n v).block = t.block := rfl

end Sys2Proof.Machine
end

