-- ==== Sys2Proof/Laws/Conduct.lean ====
section
/-! SUPPORT. What a conductor instruction does, case by case, and what a strand's completion, wait and fault change. -/

namespace Sys2Proof.Machine

/-- Past the checks that every instruction makes, an instruction does what its meaning says. -/
theorem conduct_eq {pro fs : Bool} {w : W32} {uses : List Nat} {f : State → Eff} {s : State}
    (hp : pro = true ∨ OnCore s) (hf : fs = false ∨ NotFault s) (hu : Free s uses) :
    conduct pro fs w uses f s = .next (match f s with
      | .goto s' t => goTo s s' t
      | .jump s' t => if leavesLoop (cst s) t then faults s { code := 0x0102, addr := t, detail := w.setWidth 64 } w else goTo s s' t
      | .set s' => s'
      | .wait s' v => waits s s' v
      | .flt s' g => faultIssue s' (cc s).cs g w) := by
  have h1 : (isPrologue s.cur && !pro) = false := by rcases hp with rfl | h <;> simp_all
  have h2 : (fs && isFaultStrand s (cc s) (cc s).cs) = false := by rcases hf with rfl | h <;> simp_all
  unfold conduct conductState
  simp only [h1, h2, hu]
  cases f s <;> rfl

theorem conduct_goto {pro fs : Bool} {w : W32} {uses : List Nat} {f : State → Eff} {s s' : State} {t : W64}
    (hp : pro = true ∨ OnCore s) (hf : fs = false ∨ NotFault s) (hu : Free s uses) (h : f s = .goto s' t) :
    conduct pro fs w uses f s = .next (goTo s s' t) := by rw [conduct_eq hp hf hu, h]

theorem conduct_jump {pro fs : Bool} {w : W32} {uses : List Nat} {f : State → Eff} {s s' : State} {t : W64}
    (hp : pro = true ∨ OnCore s) (hf : fs = false ∨ NotFault s) (hu : Free s uses) (h : f s = .jump s' t)
    (hl : leavesLoop (cst s) t = false) :
    conduct pro fs w uses f s = .next (goTo s s' t) := by rw [conduct_eq hp hf hu, h]; simp [hl]

theorem conduct_wait {pro fs : Bool} {w : W32} {uses : List Nat} {f : State → Eff} {s s' : State} {v : Wait}
    (hp : pro = true ∨ OnCore s) (hf : fs = false ∨ NotFault s) (hu : Free s uses) (h : f s = .wait s' v) :
    conduct pro fs w uses f s = .next (waits s s' v) := by rw [conduct_eq hp hf hu, h]

theorem conduct_flt {pro fs : Bool} {w : W32} {uses : List Nat} {f : State → Eff} {s : State} {g : Flt}
    (hp : pro = true ∨ OnCore s) (hf : fs = false ∨ NotFault s) (hu : Free s uses) (h : f s = .flt s g) :
    conduct pro fs w uses f s = .next (faults s g w) := by rw [conduct_eq hp hf hu, h]; rfl

theorem conduct_set {pro fs : Bool} {w : W32} {uses : List Nat} {f : State → Eff} {s s' : State}
    (hp : pro = true ∨ OnCore s) (hf : fs = false ∨ NotFault s) (hu : Free s uses) (h : f s = .set s') :
    conduct pro fs w uses f s = .next s' := by rw [conduct_eq hp hf hu, h]

/-- An instruction that a prologue may not execute faults there. -/
theorem conduct_prologue {fs : Bool} {w : W32} {uses : List Nat} {f : State → Eff} {s : State} (h : isPrologue s.cur = true) :
    conduct false fs w uses f s = .next (faults s { code := 0x0107, detail := w.setWidth 64 } w) := by
  simp [conduct, conductState, h, faults]

/-- One that the fault strand may not execute faults there. -/
theorem conduct_faultStrand {pro : Bool} {w : W32} {uses : List Nat} {f : State → Eff} {s : State}
    (hp : pro = true ∨ OnCore s) (h : isFaultStrand s (cc s) (cc s).cs = true) :
    conduct pro true w uses f s = .next (faults s { code := 0x0105, detail := w.setWidth 64 } w) := by
  have h1 : (isPrologue s.cur && !pro) = false := by rcases hp with rfl | h <;> simp_all
  simp [conduct, conductState, h1, h, faults]

/-- A register still awaited keeps the instruction from doing anything (R164). -/
theorem conduct_held {pro fs : Bool} {w : W32} {uses : List Nat} {f : State → Eff} {s : State}
    (hp : pro = true ∨ OnCore s) (hf : fs = false ∨ NotFault s) (hu : mustWait (cst s) uses = true) :
    conduct pro fs w uses f s = .next (waits s s (.result uses)) := by
  have h1 : (isPrologue s.cur && !pro) = false := by rcases hp with rfl | h <;> simp_all
  have h2 : (fs && isFaultStrand s (cc s) (cc s).cs) = false := by rcases hf with rfl | h <;> simp_all
  simp [conduct, conductState, h1, h2, hu, waits]

/-! ### Completion -/

/-- With no flag wait to close, completion changes nothing but its strand, the core's reported waits and its issue slot. -/
theorem closeWait_none {s : State} {n : Nat} (h : (sn s n).flag = none) : closeWait s n = s := by
  unfold closeWait; simp [h]

/-- The strand after a completion that ends no pass. -/
def completed (t : Strand) (next : W64) (slot : Bool) : Strand :=
  { t with run := .ready, wait := none, flag := none, noWatch := false, flight := none, fetched := none
           block := if slot then t.block + 1 else t.block, pc := next }

theorem finishIssue_eq {s : State} {n : Nat} {next : W64} (slot : Bool) (hw : (sn s n).flag = none)
    (he : endsPass (sn s n) next = false) :
    finishIssue s n next slot =
      setCC s (if slot then { unopen (setStrand (cc s) n (completed (sn s n) next slot)) n with slotAt := curCyc s + 1 }
               else unopen (setStrand (cc s) n (completed (sn s n) next slot)) n) := by
  unfold finishIssue
  rw [closeWait_none hw]
  simp only [endsPass] at he
  simp only [completed, he]
  rfl

/-- A completion changes no memory where no flag wait ends with it. -/
theorem finishIssue_mem {s : State} {n : Nat} (next : W64) (slot : Bool) (hw : (sn s n).flag = none) :
    (finishIssue s n next slot).mem = s.mem := by
  unfold finishIssue; rw [closeWait_none hw]; rfl

/-- A wait that ends no other flag wait changes its strand, the core's reported waits and its issue slot, and nothing else. -/
theorem waitFor_cores {s : State} {n : Nat} {w : Wait} (h : keepsFlag (sn s n) w = true) :
    (waitFor s n w).mem = s.mem ∧ (waitFor s n w).ref = s.ref ∧ (waitFor s n w).host = s.host
      ∧ (waitFor s n w).clusters = s.clusters := by
  simp [waitFor, beginWait, h, setCC]

end Sys2Proof.Machine
end

