-- ==== Sys2Proof/Laws/Reach.lean ====
section
/-! SUPPORT. Reading and writing at locations (canonical form, read after write), and what a translation changes: TLBs,
access counters that fold into the side table, the address translation cache; no register, no queue. -/

namespace Sys2Proof.Machine

/-! ### Memory at a location -/

@[simp] theorem writeLoc_named_cores (s : State) (pa : Nat) (b : List Byte) : (writeLoc s (.named pa) b).cores = s.cores := by
  unfold writeLoc; dsimp only; split <;> rfl

/-- Host memory stays canonical. -/
theorem hostPuts_twf {s : State} (o : Nat) (b : List Byte) (hh : twf 0 s.host.mem = true) : twf 0 (hostPuts s o b) = true := by
  unfold hostPuts
  split
  · generalize b.zipIdx = l
    generalize s.host.mem = m at hh
    induction l generalizing m with
    | nil => exact hh
    | cons e l ih => exact ih _ (twf_tput _ _ hh)
  · exact twf_tputs _ _ hh

/-- Named and host memory stay canonical. -/
theorem writeLoc_twf {s : State} (l : Loc) (b : List Byte) (hm : twf 0 s.mem = true) (hh : twf 0 s.host.mem = true) :
    twf 0 (writeLoc s l b).mem = true ∧ twf 0 (writeLoc s l b).host.mem = true := by
  cases l with
  | scr c o => exact ⟨hm, hh⟩
  | named pa =>
    simp only [writeLoc]
    split
    · exact ⟨hm, hostPuts_twf _ _ hh⟩
    · exact ⟨twf_tputs _ _ hm, hh⟩

/-- A stack that leaves self-refresh changes its bit, and nothing else. -/
theorem awaken_eq (s : State) (pa : Nat) : ∃ r, awaken s pa = { s with mm := { s.mm with sr := r } } := by
  unfold awaken
  split
  · exact ⟨_, rfl⟩
  · exact ⟨s.mm.sr, rfl⟩

theorem writeSpa_twf {s : State} (a : Nat) (b : List Byte) (hm : twf 0 s.mem = true) (hh : twf 0 s.host.mem = true) :
    twf 0 (writeSpa s a b).mem = true ∧ twf 0 (writeSpa s a b).host.mem = true := by
  unfold writeSpa
  obtain ⟨r, hr⟩ := awaken_eq s (regionMap s a)
  rw [hr]
  exact writeLoc_twf _ _ hm hh

@[simp] theorem writeSpa_cores (s : State) (a : Nat) (b : List Byte) : (writeSpa s a b).cores = s.cores := by
  unfold writeSpa
  obtain ⟨r, hr⟩ := awaken_eq s (regionMap s a)
  rw [hr, writeLoc_named_cores]

/-- The values read from a run of keys. -/
theorem tgets_getElem {α : Type} (d : α) (t : Tbl α) (n : Nat) : ∀ a i, i < n → (tgets d t a n)[i]? = some (tget d t (a + i)) := by
  induction n with
  | zero => intro a i h; omega
  | succ n ih =>
    intro a i h
    cases i with
    | zero => simp [tgets]
    | succ i => simp only [tgets, List.getElem?_cons_succ]; rw [ih (a + 1) i (by omega)]; congr 2; omega

theorem tgets_length {α : Type} (d : α) (t : Tbl α) (n : Nat) : ∀ a, (tgets d t a n).length = n := by
  induction n with
  | zero => intro a; rfl
  | succ n ih => intro a; simp [tgets, ih]

/-- Reading back the run just written. -/
theorem tgets_tputs {α : Type} [DecidableEq α] (d : α) (t : Tbl α) (a : Nat) (l : List α) :
    tgets d (tputs d t a l) a l.length = l := by
  apply List.ext_getElem?
  intro i
  by_cases hi : i < l.length
  · rw [tgets_getElem _ _ _ _ _ hi, tget_tputs l, if_pos (by omega)]
    simp [hi]
  · rw [List.getElem?_eq_none (by rw [tgets_length]; omega), List.getElem?_eq_none (by omega)]

/-- A run outside the one written keeps its values. -/
theorem tgets_tputs_outside {α : Type} [DecidableEq α] (d : α) (t : Tbl α) (a b n : Nat) (l : List α)
    (ho : b + n ≤ a ∨ a + l.length ≤ b) : tgets d (tputs d t a l) b n = tgets d t b n := by
  apply List.ext_getElem?
  intro i
  by_cases hi : i < n
  · rw [tgets_getElem _ _ _ _ _ hi, tgets_getElem _ _ _ _ _ hi, tget_tputs l, if_neg (by omega)]
  · rw [List.getElem?_eq_none (by rw [tgets_length]; omega), List.getElem?_eq_none (by rw [tgets_length]; omega)]

/-- A scratchpad reads back what was written to it. -/
theorem readLoc_writeLoc_scr {s : State} {c o : Nat} (b : List Byte) :
    readLoc (writeLoc s (.scr c o) b) (.scr c o) b.length = b := by
  simp only [readLoc, writeLoc, getCore_setCore_self]
  exact tgets_tputs _ _ _ _

/-- Bytes of a scratchpad outside those written keep their values. -/
theorem readLoc_writeLoc_scr_outside {s : State} {c d o p n : Nat} (b : List Byte)
    (ho : d ≠ c ∨ p + n ≤ o ∨ o + b.length ≤ p) :
    readLoc (writeLoc s (.scr c o) b) (.scr d p) n = readLoc s (.scr d p) n := by
  simp only [readLoc, writeLoc]
  by_cases hd : d = c
  · subst hd
    rw [getCore_setCore_self]
    exact tgets_tputs_outside _ _ _ _ _ _ (by omega)
  · rw [getCore_setCore_ne _ _ hd]

/-! ### What a change of TLBs leaves -/

/-- The two states differ in TLBs and walk caches, in the stacks in self-refresh, in named and host memory (folds), in the side
table's bookkeeping, in the host's translations and in the counter of free values only. -/
structure SameBut (s t : State) : Prop where
  cur : t.cur = s.cur
  defer : t.defer = s.defer
  gtc : t.gtc = s.gtc
  ref : t.ref = s.ref
  bur : t.bur = s.bur
  mm : ∃ w r, t.mm = { s.mm with wc := w, sr := r }
  vol : t.vol = s.vol
  mg : t.mg = s.mg
  samp : t.samp = s.samp
  agenda : t.agenda = s.agenda
  core : ∀ c, ∃ l, getCore t c = { getCore s c with utlb := l }
  cluster : ∀ k, ∃ l, getCluster t k = { getCluster s k with tlb := l }

theorem SameBut.refl (s : State) : SameBut s s :=
  ⟨rfl, rfl, rfl, rfl, rfl, ⟨_, _, rfl⟩, rfl, rfl, rfl, rfl, fun c => ⟨(getCore s c).utlb, rfl⟩, fun k => ⟨(getCluster s k).tlb, rfl⟩⟩

theorem SameBut.trans {s t u : State} (h : SameBut s t) (g : SameBut t u) : SameBut s u where
  cur := g.cur.trans h.cur
  defer := g.defer.trans h.defer
  gtc := g.gtc.trans h.gtc
  ref := g.ref.trans h.ref
  bur := g.bur.trans h.bur
  mm := by
    obtain ⟨w, r, h⟩ := h.mm
    obtain ⟨v, q, g⟩ := g.mm
    exact ⟨v, q, by rw [g, h]⟩
  vol := g.vol.trans h.vol
  mg := g.mg.trans h.mg
  samp := g.samp.trans h.samp
  agenda := g.agenda.trans h.agenda
  core c := by
    obtain ⟨l, hl⟩ := h.core c
    obtain ⟨m, hm⟩ := g.core c
    exact ⟨m, by rw [hm, hl]⟩
  cluster k := by
    obtain ⟨l, hl⟩ := h.cluster k
    obtain ⟨m, hm⟩ := g.cluster k
    exact ⟨m, by rw [hm, hl]⟩

theorem sameBut_writeSpa (s : State) (a : Nat) (b : List Byte) : SameBut s (writeSpa s a b) := by
  unfold writeSpa
  obtain ⟨r, hr⟩ := awaken_eq s (regionMap s a)
  rw [hr]
  refine ⟨?_, ?_, ?_, ?_, ?_, ⟨s.mm.wc, r, ?_⟩, ?_, ?_, ?_, ?_, fun c => ⟨(getCore s c).utlb, ?_⟩,
    fun k => ⟨(getCluster s k).tlb, ?_⟩⟩ <;>
  · simp only [writeLoc]
    split <;> rfl

theorem sameBut_of_eq {s t : State} (h : t = { s with pro := t.pro, fresh := t.fresh }) : SameBut s t := by
  rw [h]
  exact ⟨rfl, rfl, rfl, rfl, rfl, ⟨_, _, rfl⟩, rfl, rfl, rfl, rfl, fun c => ⟨(getCore s c).utlb, rfl⟩, fun k => ⟨(getCluster s k).tlb, rfl⟩⟩

theorem sameBut_setMm (s : State) (w : List TlbE) (r : BitVec 8) : SameBut s { s with mm := { s.mm with wc := w, sr := r } } :=
  ⟨rfl, rfl, rfl, rfl, rfl, ⟨w, r, rfl⟩, rfl, rfl, rfl, rfl, fun c => ⟨(getCore s c).utlb, rfl⟩, fun k => ⟨(getCluster s k).tlb, rfl⟩⟩

theorem sameBut_awaken (s : State) (pa : Nat) : SameBut s (awaken s pa) := by
  obtain ⟨r, hr⟩ := awaken_eq s pa
  rw [hr]
  exact sameBut_setMm s s.mm.wc r

theorem sameBut_foldl {α : Type} (f : State → α → State) (hf : ∀ s a, SameBut s (f s a)) (l : List α) :
    ∀ s, SameBut s (l.foldl f s) := by
  induction l with
  | nil => exact SameBut.refl
  | cons a l ih => exact fun s => (hf s a).trans (ih _)

theorem sameBut_awakenSpan (s : State) (a n : Nat) : SameBut s (awakenSpan s a n) := by
  unfold awakenSpan
  split
  · exact SameBut.refl s
  · exact sameBut_foldl _ (fun s _ => sameBut_awaken s _) _ s

theorem sameBut_stPut (s : State) (i : Nat) (l : List Nat) : SameBut s (stPut s i l) :=
  sameBut_foldl _ (fun s _ => sameBut_writeSpa s _ _) _ s

theorem sameBut_foldApply (s : State) (f : Fold) : SameBut s (foldApply s f) := by
  unfold foldApply
  dsimp only
  generalize stFind s _ _ _ = o
  refine SameBut.trans (sameBut_awakenSpan s (stAddr s 0) (64 * ((o.map (· + 1)).getD s.pro.stsize))) ?_
  generalize awakenSpan s _ _ = u
  split
  · exact sameBut_stPut ..
  · split
    · exact sameBut_of_eq rfl
    · exact SameBut.trans (t := { u with fresh := u.fresh + 1 }) (sameBut_of_eq rfl) (sameBut_stPut ..)

theorem sameBut_foldSend (s : State) (f : Fold) : SameBut s (foldSend s f) := by
  unfold foldSend
  split
  · exact sameBut_of_eq rfl
  · exact sameBut_foldApply s f

theorem sameBut_foldAll (l : List TlbE) : ∀ s, SameBut s (foldAll s l) := by
  induction l with
  | nil => exact SameBut.refl
  | cons e l ih =>
    intro s
    refine SameBut.trans ?_ (ih _)
    unfold foldOut
    split
    · exact sameBut_foldSend _ _
    · exact SameBut.refl s

theorem sameBut_setUtlb (s : State) (c : Nat) (l : List TlbE) : SameBut s (setCore s c { getCore s c with utlb := l }) := by
  refine ⟨rfl, rfl, rfl, rfl, rfl, ⟨_, _, rfl⟩, rfl, rfl, rfl, rfl, fun d => ?_, fun k => ⟨(getCluster s k).tlb, rfl⟩⟩
  by_cases h : d = c
  · subst h; exact ⟨l, by simp⟩
  · exact ⟨(getCore s d).utlb, by rw [getCore_setCore_ne _ _ h]⟩

theorem sameBut_utlbFill (s : State) (c : Nat) (e : TlbE) : SameBut s (utlbFill s c e) :=
  (sameBut_setUtlb ..).trans (sameBut_foldAll ..)

theorem sameBut_ctlbFill (s : State) (k : Nat) (e : TlbE) : SameBut s (ctlbFill s k e) := by
  refine ⟨rfl, rfl, rfl, rfl, rfl, ⟨_, _, rfl⟩, rfl, rfl, rfl, rfl, fun c => ⟨(getCore s c).utlb, rfl⟩, fun j => ?_⟩
  by_cases h : j = k
  · subst h; exact ⟨_, by simp [ctlbFill]; rfl⟩
  · exact ⟨(getCluster s j).tlb, by simp only [ctlbFill, getCluster, setCluster, tget_tset_ne _ _ _ h]⟩

/-- A walk fills the walk caches. -/
theorem sameBut_hubWalk (s : State) (asn : Nat) (root va : W64) : SameBut s (hubWalk s asn root va).1 := by
  unfold hubWalk
  dsimp only
  have h : ∀ l : List (Nat × W64 × Nat), SameBut s (l.foldl (fun s (e : Nat × W64 × Nat) => awaken s e.1) s) :=
    fun l => sameBut_foldl _ (fun s (e : Nat × W64 × Nat) => sameBut_awaken s e.1) l s
  split
  · exact h _
  · exact (h _).trans (sameBut_setMm _ _ _)

theorem sameBut_leafOf (s : State) (c : Nat) (va : W64) : SameBut s (leafOf s c va).1 := by
  unfold leafOf
  dsimp only
  split
  · exact SameBut.refl s
  · split
    · exact sameBut_utlbFill ..
    · split
      · next s' d heq => have h := sameBut_hubWalk s (getTask s (getCore s c).task).asn (getTask s (getCore s c).task).root va; rw [heq] at h; exact h
      · next s' leaf lvl heq =>
        have h := sameBut_hubWalk s (getTask s (getCore s c).task).asn (getTask s (getCore s c).task).root va
        rw [heq] at h
        dsimp only
        refine SameBut.trans ?_ (sameBut_utlbFill ..)
        split
        · exact h
        · exact h.trans (sameBut_ctlbFill ..)

theorem sameBut_atcNote (s : State) (pa : Nat) : SameBut s (atcNote s pa) := by
  unfold atcNote
  refine (sameBut_awaken s pa).trans ?_
  generalize awaken s pa = u
  dsimp only
  split
  · exact ⟨rfl, rfl, rfl, rfl, rfl, ⟨_, _, rfl⟩, rfl, rfl, rfl, rfl, fun c => ⟨(getCore u c).utlb, rfl⟩, fun k => ⟨(getCluster u k).tlb, rfl⟩⟩
  · exact SameBut.refl u

/-- What `reach` changes. -/
theorem sameBut_reach (s : State) (c : Nat) (va : W64) (len : Nat) (need : Perm) (rt hn : Bool) :
    SameBut s (reach s c va len need rt hn).1 := by
  unfold reach
  split
  · exact SameBut.refl s
  · split
    · dsimp only
      split
      · exact SameBut.refl s
      · split <;> exact SameBut.refl s
    · have h := sameBut_leafOf s c va
      split
      · next s' d heq => rw [heq] at h; exact h
      · next s' leaf lvl heq =>
        rw [heq] at h
        dsimp only at h ⊢
        repeat' split
        all_goals first
          | exact h
          | exact h.trans (sameBut_atcNote ..)

/-- In the local window nothing changes (R59). -/
theorem reach_local {s : State} {c : Nat} {va : W64} {len : Nat} {need : Perm} {rt hn : Bool} (hc : canonical va = true)
    (hl : inLocal va = true) (hp : isPrologue c = false) (hn' : need &&& ~~~(pR ||| pW ||| pA ||| pT) = 0)
    (ho : (va.extractLsb' 0 21).toNat + len ≤ scrSize) :
    reach s c va len need rt hn = (s, .ok (.scr c (va.extractLsb' 0 21).toNat) (pR ||| pW ||| pA ||| pT)) := by
  unfold reach
  rw [if_neg (by simp only [hc]; decide), if_pos hl]
  dsimp only
  rw [if_neg (by simp only [hp, Bool.false_or, decide_eq_true_eq]; omega), if_neg (by rw [hn']; decide)]

end Sys2Proof.Machine
end

