-- ==== Sys2Proof/Laws/Access.lean ====
section
/-! SUPPORT. What counting, sampling and race records change, and what a memory instruction does once its request has
reached its place. -/

namespace Sys2Proof.Machine

/-- The strands of every core, its current strand and its queues are the same. -/
structure SameStrands (s t : State) : Prop where
  cur : t.cur = s.cur
  strands : ∀ c, (getCore t c).strands = (getCore s c).strands
  cs : ∀ c, (getCore t c).cs = (getCore s c).cs

theorem SameStrands.refl (s : State) : SameStrands s s := ⟨rfl, fun _ => rfl, fun _ => rfl⟩
theorem SameStrands.trans {s t u : State} (h : SameStrands s t) (g : SameStrands t u) : SameStrands s u :=
  ⟨g.cur.trans h.cur, fun c => (g.strands c).trans (h.strands c), fun c => (g.cs c).trans (h.cs c)⟩

theorem SameBut.sameStrands {s t : State} (h : SameBut s t) : SameStrands s t :=
  ⟨h.cur, fun c => by obtain ⟨l, hl⟩ := h.core c; simp only [hl], fun c => by obtain ⟨l, hl⟩ := h.core c; simp only [hl]⟩

theorem SameStrands.sn {s t : State} (h : SameStrands s t) (n : Nat) : sn t n = sn s n := by
  simp only [Machine.sn, getStrand, cc, h.cur, h.strands]
theorem SameStrands.ccs {s t : State} (h : SameStrands s t) : (cc t).cs = (cc s).cs := by
  simp only [cc, h.cur, h.cs]
theorem SameStrands.cst {s t : State} (h : SameStrands s t) : cst t = cst s := by
  rw [← cst_eq_sn, ← cst_eq_sn, h.ccs, h.sn]

/-- An update of one core that keeps its strands and its current strand. -/
theorem sameStrands_setCore {s : State} {c : Nat} {k : Core} (h1 : k.strands = (getCore s c).strands)
    (h2 : k.cs = (getCore s c).cs) : SameStrands s (setCore s c k) := by
  refine ⟨rfl, fun d => ?_, fun d => ?_⟩ <;> by_cases h : d = c
  · subst h; simp [h1]
  · rw [getCore_setCore_ne _ _ h]
  · subst h; simp [h2]
  · rw [getCore_setCore_ne _ _ h]

theorem sameStrands_takeOrd (s : State) : SameStrands s (takeOrd s) := sameStrands_setCore rfl rfl
theorem sameStrands_bumpRelease (s : State) (c : Nat) : SameStrands s (bumpRelease s c) := sameStrands_setCore rfl rfl

theorem raceMark_eq (lid : Nat) (w : Bool) (l : List Nat) : ∀ k : Core, ∃ r, raceMark k lid w l = { k with race := r } := by
  induction l with
  | nil => intro k; exact ⟨k.race, rfl⟩
  | cons a l ih =>
    intro k
    simp only [raceMark]
    split
    · obtain ⟨r, hr⟩ := ih { k with race := tput {} k.race a _ }
      exact ⟨r, by rw [hr]⟩
    · exact ih k

/-- A race check that passes records the access and changes nothing else. -/
theorem raceStep_ok {s t : State} {fl : Flight} (h : raceStep s fl = .ok t) :
    t = s ∨ ∃ c r, t = setCore s c { getCore s c with race := r } := by
  unfold raceStep at h
  split at h
  · cases h; exact .inl rfl
  · next c o _ =>
    split at h
    · cases h
    · cases h
      obtain ⟨r, hr⟩ := raceMark_eq (cc s).lid fl.write (linesOf o fl.len) (getCore s c)
      exact .inr ⟨c, r, by rw [hr]⟩

theorem sameStrands_raceStep {s t : State} {fl : Flight} (h : raceStep s fl = .ok t) : SameStrands s t := by
  rcases raceStep_ok h with rfl | ⟨c, r, rfl⟩
  · exact SameStrands.refl _
  · exact sameStrands_setCore rfl rfl

theorem sameBut_countLine (s : State) (c : Nat) (e : Option TlbE) (va : W64) (l : Loc) (rd wr : Bool) :
    SameBut s (countLine s c e va l rd wr) := by
  unfold countLine
  split
  · exact SameBut.refl s
  · split
    · dsimp only
      split
      · exact sameBut_foldSend ..
      · refine SameBut.trans ?_ (sameBut_setUtlb ..)
        unfold countEntry
        dsimp only
        repeat' split
        all_goals first
          | exact sameBut_foldSend ..
          | exact SameBut.refl s
    · exact SameBut.refl s

/-- A sampled access changes samples and race registers only. -/
theorem sampleLine_cores (s : State) (c line : Nat) (m : W64) (w : Bool) :
    (sampleLine s c line m w).cores = s.cores ∧ (sampleLine s c line m w).cur = s.cur
      ∧ (sampleLine s c line m w).mem = s.mem ∧ (sampleLine s c line m w).host = s.host := by
  unfold sampleLine
  split
  · exact ⟨rfl, rfl, rfl, rfl⟩
  · dsimp only
    split
    · exact ⟨rfl, rfl, rfl, rfl⟩
    · repeat' split
      all_goals exact ⟨rfl, rfl, rfl, rfl⟩

theorem sampleAccess_cores (s : State) (c : Nat) (l : Loc) (n : Nat) (w : Bool) :
    (sampleAccess s c l n w).cores = s.cores ∧ (sampleAccess s c l n w).cur = s.cur
      ∧ (sampleAccess s c l n w).mem = s.mem ∧ (sampleAccess s c l n w).host = s.host := by
  unfold sampleAccess
  split
  · exact ⟨rfl, rfl, rfl, rfl⟩
  · next pa =>
    split
    · exact ⟨rfl, rfl, rfl, rfl⟩
    · generalize lineParts pa n = ls
      induction ls generalizing s with
      | nil => exact ⟨rfl, rfl, rfl, rfl⟩
      | cons a l ih =>
        simp only [List.foldl_cons]
        obtain ⟨h1, h2, h3, h4⟩ := ih (sampleLine s c a.1 a.2 w)
        obtain ⟨g1, g2, g3, g4⟩ := sampleLine_cores s c a.1 a.2 w
        exact ⟨h1.trans g1, h2.trans g2, h3.trans g3, h4.trans g4⟩

theorem sameStrands_noteAccess (s : State) (fl : Flight) (rd wr : Bool) : SameStrands s (noteAccess s fl rd wr) := by
  unfold noteAccess
  dsimp only
  have h := (sameBut_countLine s s.cur fl.ent fl.va fl.loc rd wr).sameStrands
  split
  · refine h.trans ?_
    generalize countLine s s.cur fl.ent fl.va fl.loc rd wr = u
    obtain ⟨h1, h2, _, _⟩ := sampleAccess_cores u u.cur fl.loc fl.len fl.write
    exact ⟨h2, fun c => by simp only [getCore, h1], fun c => by simp only [getCore, h1]⟩
  · exact h

/-! ### Reading a location -/

/-- Reading depends on the memories only. -/
theorem readLoc_congr {s t : State} (hm : t.mem = s.mem) (hh : t.host = s.host)
    (hc : ∀ c, (getCore t c).scr = (getCore s c).scr) (l : Loc) (n : Nat) : readLoc t l n = readLoc s l n := by
  cases l with
  | scr c o => simp only [readLoc, hc]
  | named pa => simp only [readLoc, hostGets, busOf, atsPage, hm, hh]

theorem readLoc_takeOrd (s : State) (l : Loc) (n : Nat) : readLoc (takeOrd s) l n = readLoc s l n := by
  refine readLoc_congr (takeOrd_mem s) (takeOrd_host s) (fun c => ?_) l n
  simp only [takeOrd, setCC, getCore_setCore]
  split
  · next h => subst h; rfl
  · rfl

theorem uncorrectable_takeOrd (s : State) (l : Loc) (n : Nat) : uncorrectable (takeOrd s) l n = uncorrectable s l n := by
  cases l with
  | scr c o =>
    simp only [uncorrectable, takeOrd, setCC, getCore_setCore]
    split
    · next h => subst h; rfl
    · rfl
  | named pa => rfl

/-! ### A request that has reached its place -/

/-- Past its checks a request is sent to its location. -/
theorem sendMem_reaches {s s1 : State} {r : Req} {loc : Loc} (w : W32) (h : Reaches s r s1 loc) :
    sendMem w r s = sendAt s1 (r.flight s1 w loc) := by
  obtain ⟨ha, hk, _, _, _, ⟨p, hr⟩, hw, _⟩ := h
  unfold sendMem
  rw [if_neg (by
    cases h0 : r.align
    · simp
    · simp [ha h0])]
  rw [hk, if_neg (by decide), hr]
  dsimp only
  cases hwd : r.watched
  · rfl
  · rcases hw hwd with h1 | h1
    · simp [h1]
    · rw [h1]; split <;> simp_all

end Sys2Proof.Machine
end

