-- ==== Sys2Proof/Laws/Issue.lean ====
section
/-! SUPPORT. What a queued word does at issue once it may issue: it leaves its queue and its engine does what its checks
decided; and what a wait's trace record leaves alone. -/

namespace Sys2Proof.Machine

/-- A trace record changes memory and the trace port only. -/
theorem sameBut_traceAdd (s : State) (t : Trace) : SameBut s (traceAdd s t) := by
  unfold traceAdd
  dsimp only
  split
  · split
    · exact (sameBut_writeSpa ..).trans (sameBut_of_eq rfl)
    · exact sameBut_of_eq rfl
  · exact SameBut.refl s

theorem traceAdd_cores (s : State) (t : Trace) : (traceAdd s t).cores = s.cores := by
  unfold traceAdd
  dsimp only
  split
  · split
    · exact writeSpa_cores ..
    · rfl
  · rfl

theorem closeEngWait_cores (s : State) (q : Nat) (w : QWord) : (closeEngWait s q w).cores = s.cores := by
  unfold closeEngWait
  dsimp only
  split
  · rfl
  · split
    · exact traceAdd_cores ..
    · rfl

theorem sameBut_closeEngWait (s : State) (q : Nat) (w : QWord) : SameBut s (closeEngWait s q w) := by
  unfold closeEngWait
  dsimp only
  split
  · exact SameBut.refl s
  · split
    · exact sameBut_traceAdd ..
    · exact SameBut.refl s

/-- The cycle of a core depends on its offset and its cluster's count. -/
theorem SameBut.cycOf {s t : State} (h : SameBut s t) (c : Nat) : cycOf t c = cycOf s c := by
  obtain ⟨l, hl⟩ := h.core c
  obtain ⟨m, hm⟩ := h.cluster (clusterOf c)
  unfold Machine.cycOf schedCyc
  simp only [hl, hm, h.ref]

theorem SameBut.curCyc {s t : State} (h : SameBut s t) : curCyc t = curCyc s := by
  unfold Machine.curCyc
  rw [h.cur, h.cycOf]

/-- A word issues in the present cycle. -/
theorem takeWord_t (s : State) (q : Nat) (h : EHead) (w : QWord) : (takeWord s q h w).2.t = curCyc s :=
  (sameBut_closeEngWait s q w).curCyc

/-- Past its head's checks a word does what the checks of its engine decide. -/
theorem issueState_go {q : Nat} {h : EHead} {bad : QWord → Bool} {holds : State → QWord → List Hold} {act : State → QWord → Act}
    {s s' : State} {w : QWord} {f : State → Issued → State} (hm : MayIssue q h s w) (hb : bad w = false)
    (hh : holds s w = []) (ha : act s w = .go s' f) :
    issueState q h bad holds act s = f (takeWord s' q h w).1 (takeWord s' q h w).2 := by
  obtain ⟨h1, h2, h3, hq, h4, h5, h6⟩ := hm
  unfold issueState
  simp only [h1, h2, h3, hq, hb, h5, h6, hh, ha]
  cases ht : (cc s).timed
  · simp only [ht] at h4
    rw [if_neg (by simpa using h4), if_neg (by simp), if_neg (by simp), if_neg (by simp)]
    rfl
  · simp only [ht, if_true] at h4
    rw [if_neg (by simp [h4.1]), if_neg (by simp), if_neg (by simpa using h4.2), if_neg (by simp [h4.1])]
    rfl

/-- A word that its engine's checks hold waits, in an interlocked section. -/
theorem issueState_wait {q : Nat} {h : EHead} {bad : QWord → Bool} {holds : State → QWord → List Hold} {act : State → QWord → Act}
    {s : State} {w : QWord} {hs : List Hold} (hm : MayIssue q h s w) (hb : bad w = false)
    (hh : holds s w = []) (ha : act s w = .wait hs) : issueState q h bad holds act s = holdWord s q w hs := by
  obtain ⟨h1, h2, h3, hq, h4, h5, h6⟩ := hm
  unfold issueState
  simp only [h1, h2, h3, hq, hb, h5, h6, hh, ha]
  cases ht : (cc s).timed
  · simp only [ht] at h4
    rw [if_neg (by simpa using h4), if_neg (by simp), if_neg (by simp), if_neg (by simp)]
    rfl
  · simp only [ht, if_true] at h4
    rw [if_neg (by simp [h4.1]), if_neg (by simp), if_neg (by simpa using h4.2), if_neg (by simp [h4.1])]
    rfl

/-- A word whose checks fault raises its fault. -/
theorem issueState_flt {q : Nat} {h : EHead} {bad : QWord → Bool} {holds : State → QWord → List Hold} {act : State → QWord → Act}
    {s : State} {w : QWord} {f : Flt} (hm : MayIssue q h s w) (hb : bad w = false)
    (hh : holds s w = []) (ha : act s w = .flt f) :
    issueState q h bad holds act s = raise2 { clearAcks s q with fresh := s.fresh + 1 } s.cur q w f false 0 := by
  obtain ⟨h1, h2, h3, hq, h4, h5, h6⟩ := hm
  unfold issueState
  simp only [h1, h2, h3, hq, hb, h5, h6, hh, ha]
  cases ht : (cc s).timed
  · simp only [ht] at h4
    rw [if_neg (by simpa using h4), if_neg (by simp), if_neg (by simp), if_neg (by simp)]
    rfl
  · simp only [ht, if_true] at h4
    rw [if_neg (by simp [h4.1]), if_neg (by simp), if_neg (by simpa using h4.2), if_neg (by simp [h4.1])]
    rfl

/-- A word of an illegal encoding raises 0x0002. -/
theorem issueState_bad {q : Nat} {h : EHead} {bad : QWord → Bool} {holds : State → QWord → List Hold} {act : State → QWord → Act}
    {s : State} {w : QWord} (hm : MayIssue q h s w) (hb : bad w = true) :
    issueState q h bad holds act s = raise2 s s.cur q w { code := 0x0002, detail := w.bits } false 0 := by
  obtain ⟨h1, h2, h3, hq, h4, h5, h6⟩ := hm
  unfold issueState
  simp only [h1, h2, h3, hq, hb, Bool.true_or, if_true]
  cases ht : (cc s).timed
  · simp only [ht] at h4
    rw [if_neg (by simpa using h4), if_neg (by simp)]
  · simp only [ht, if_true] at h4
    rw [if_neg (by simp [h4.1]), if_neg (by simp)]

/-- A vector word that touches no memory issues and stands in flight until its latency has passed. -/
theorem vecWord_go {h : EHead} {u : VUses} {run : Core → VDest × Nat} {s : State} {w : QWord}
    (hm : MayIssue 0 h (vecSettle s) w) (hh : vecHolds (vecSettle s) u = []) (hb : badReg (cc (vecSettle s)) u = none) :
    vecWord h u run s = .next (vecStart (takeWord (vecSettle s) 0 h w).1
      { i := { (takeWord (vecSettle s) 0 h w).2 with due := some (curCyc (vecSettle s) + u.lat) }
        dest := (run (cc (vecSettle s))).1, flags := BitVec.ofNat 320 (run (cc (vecSettle s))).2, acc := none } u.classC) := by
  unfold vecWord
  rw [issueState_go (s' := vecSettle s) (f := fun s' i => vecStart s' 
        { i := { i with due := some (i.t + u.lat) }, dest := (run (cc (vecSettle s))).1
          flags := BitVec.ofNat 320 (run (cc (vecSettle s))).2
          acc := none } u.classC) hm rfl hh (by simp only [hb])]
  simp only [takeWord_t]

end Sys2Proof.Machine
end

