-- ==== Sys2Proof/Machine/SkasText.lean ====
section
/-! DEFINITION. The text of skas, the assembler (R147 to R149): tokens of a source line, numbers, expressions over unbounded
integers, register names. -/

namespace Sys2Proof.Skas

/-- A token: a name (a symbol, a mnemonic, a register, a directive), a number, an operator or a mark. -/
inductive Tok where
  | name (s : String)
  | num (n : Nat)
  | op (s : String)
  deriving DecidableEq, Repr

/-! ### Tokens (R147, R148) -/

def symStart (c : Char) : Bool := c.isAlpha || c == '_'
def symChar (c : Char) : Bool := symStart c || c.isDigit || c == '.'

def hexVal (c : Char) : Option Nat :=
  if c.isDigit then some (c.toNat - 48)
  else if 97 ≤ c.toNat ∧ c.toNat ≤ 102 then some (c.toNat - 87)
  else if 65 ≤ c.toNat ∧ c.toNat ≤ 70 then some (c.toNat - 55)
  else none

/-- Hexadecimal digits; underscores stand between digits only. `d` says that the last character was a digit. -/
def hexNum : List Char → Nat → Bool → Option Nat
  | [], a, d => if d then some a else none
  | c :: cs, a, d =>
    if c == '_' then (if d then hexNum cs a false else none)
    else match hexVal c with
      | some h => hexNum cs (16 * a + h) true
      | none => none

def decNum : List Char → Nat → Option Nat
  | [], a => some a
  | c :: cs, a => if c.isDigit then decNum cs (10 * a + (c.toNat - 48)) else none

def numOf : List Char → Option Nat
  | '0' :: 'x' :: cs => hexNum cs 0 false
  | cs => decNum cs 0

def marks : List Char := ['+', '-', '*', '/', '%', '&', '^', '|', '~', '(', ')', ',', ':']

/-- The tokens of a line, its comment left out; the first argument bounds their number. -/
def lexFrom : Nat → List Char → Option (List Tok)
  | 0, _ => none
  | _ + 1, [] => some []
  | n + 1, c :: cs =>
    if c == ' ' || c == '\t' then lexFrom n cs
    else if c == ';' || (c == '/' && cs.head? == some '/') then some []
    else if symStart c || c == '.' then
      (lexFrom n (cs.dropWhile symChar)).map (Tok.name (String.ofList (c :: cs.takeWhile symChar)) :: ·)
    else if c.isDigit then
      match numOf (c :: cs.takeWhile symChar), lexFrom n (cs.dropWhile symChar) with
      | some v, some l => some (Tok.num v :: l)
      | _, _ => none
    else if (c == '<' || c == '>') && cs.head? == some c then
      (lexFrom n (cs.drop 1)).map (Tok.op (String.ofList [c, c]) :: ·)
    else if marks.contains c then (lexFrom n cs).map (Tok.op (String.ofList [c]) :: ·)
    else none

def lex (s : String) : Option (List Tok) := lexFrom (s.toList.length + 1) s.toList

/-- A list of tokens cut at its commas. -/
def splitCommas : List Tok → List (List Tok)
  | [] => [[]]
  | t :: ts =>
    if t = .op "," then [] :: splitCommas ts
    else match splitCommas ts with
      | a :: l => (t :: a) :: l
      | [] => [[t]]

/-- The operands of a statement; a statement without operands has none. -/
def operands (ts : List Tok) : List (List Tok) := if ts.isEmpty then [] else splitCommas ts

/-! ### Registers (R149) -/

/-- The number in a name `c0` to `c(n-1)`. -/
def regNo (c : Char) (n : Nat) (s : String) : Option Nat :=
  match s.toList with
  | d :: '0' :: [] => if d == c && decide (0 < n) then some 0 else none
  | d :: e :: ds =>
    if d == c && e != '0' then
      match decNum (e :: ds) 0 with
      | some v => if v < n then some v else none
      | none => none
    else none
  | _ => none

/-- The register files: letter and count. -/
def files : List (Char × Nat) :=
  [('x', 32), ('p', 8), ('w', 16), ('s', 16), ('v', 32), ('m', 8), ('a', 2), ('b', 2), ('g', 8)]

def isReg (s : String) : Bool := files.any fun f => (regNo f.1 f.2 s).isSome

/-! ### Symbols and expressions (R148) -/

/-- A symbol's value: a constant, or a place in the code section or in the data section. -/
inductive Sym where
  | const (v : Int)
  | label (v : Int)
  | data (off : Nat)
  deriving DecidableEq, Repr

/-- What a statement is assembled with: symbols, the statement's own offset from the start of the code section, and the
engine codes of its kernel's templates. -/
structure Env where
  syms : List (String × Sym) := []
  pc : Int := 0
  pool : List Nat := []
  deriving DecidableEq, Repr

def symOf (e : Env) (s : String) : Option Sym := (e.syms.find? fun p => p.1 == s).map (·.2)

/-- The value of a symbol; a place in the data section has one once the sections are laid out. -/
def symVal (e : Env) (s : String) : Option Int :=
  match symOf e s with
  | some (.const v) | some (.label v) => some v
  | _ => none

/-- A bitwise operation on integers of unbounded width. -/
def wide (f : (w : Nat) → BitVec w → BitVec w → BitVec w) (a b : Int) : Int :=
  let w := Nat.max a.natAbs.log2 b.natAbs.log2 + 2
  (f w (BitVec.ofInt w a) (BitVec.ofInt w b)).toInt

/-- An operator of a precedence level, 2 the highest: the quotient truncates toward zero, and `>>` is arithmetic. A shift by a
negative count has no value there: it is refused (DESIGN CHOICE, log entry 128). -/
def binop (lvl : Nat) (o : String) (a b : Int) : Option (Option Int) :=
  match lvl, o with
  | 2, "*" => some (some (a * b))
  | 2, "/" => some (if b = 0 then none else some (a.tdiv b))
  | 2, "%" => some (if b = 0 then none else some (a.tmod b))
  | 3, "+" => some (some (a + b))
  | 3, "-" => some (some (a - b))
  | 4, "<<" => some (if b < 0 then none else some (a * 2 ^ b.toNat))
  | 4, ">>" => some (if b < 0 then none else some (a.fdiv (2 ^ b.toNat)))
  | 5, "&" => some (some (wide (fun _ x y => x &&& y) a b))
  | 6, "^" => some (some (wide (fun _ x y => x ^^^ y) a b))
  | 7, "|" => some (some (wide (fun _ x y => x ||| y) a b))
  | _, _ => none

/-- Read an expression of a level: with `none` a first operand of it, with `some a` what follows the value `a`. Within a
level, operators group left to right. -/
def exprAt (e : Env) : Nat → Nat → Option Int → List Tok → Option (Int × List Tok)
  | 0, _, _, _ => none
  | n + 1, lvl, none, ts =>
    if lvl ≤ 1 then
      match ts with
      | .op "-" :: r => (exprAt e n 1 none r).map fun p => (-p.1, p.2)
      | .op "~" :: r => (exprAt e n 1 none r).map fun p => (-p.1 - 1, p.2)
      | .op "(" :: r =>
        match exprAt e n 7 none r with
        | some (v, .op ")" :: r) => some (v, r)
        | _ => none
      | .num v :: r => some (v, r)
      | .name s :: r => (symVal e s).map fun v => (v, r)
      | _ => none
    else
      match exprAt e n (lvl - 1) none ts with
      | some (a, r) => exprAt e n lvl (some a) r
      | none => none
  | n + 1, lvl, some a, ts =>
    match ts with
    | .op o :: r =>
      if (binop lvl o 0 1).isSome then
        match exprAt e n (lvl - 1) none r with
        | some (b, r) =>
          match binop lvl o a b with
          | some (some v) => exprAt e n lvl (some v) r
          | _ => none
        | none => none
      else some (a, ts)
    | _ => some (a, ts)

/-- The value of a whole operand. -/
def valueOf (e : Env) (ts : List Tok) : Option Int :=
  match exprAt e (16 * (ts.length + 1)) 7 none ts with
  | some (v, []) => some v
  | _ => none

/-- An operand names a label. -/
def namesLabel (e : Env) (ts : List Tok) : Bool :=
  ts.any fun t => match t with
    | .name s => match symOf e s with
      | some (.label _) => true
      | _ => false
    | _ => false

end Sys2Proof.Skas
end

