-- ==== Sys2Proof/Machine/SkasTable.lean ====
section
/-! DEFINITION. The statements of skas: for each written form its word, its suffixes, its operands and its keyword operands
(R137, R142 to R145, R149, R150, R235 and the forms of the instruction chapters). -/

namespace Sys2Proof.Skas

/-- A written operand and the field it fills. -/
inductive Slot where
  /-- A register `c lo` to `c (n-1)`, at a bit. -/
  | reg (c : Char) (lo n at_ : Nat)
  /-- A value from `min` to `max`; the field, `w` bits wide, holds the value less `bias`. -/
  | num (at_ w : Nat) (min max : Int) (bias : Int)
  /-- A label, or a signed count of words (R149). -/
  | lab (w : Nat)
  /-- The end of a loop body (R188). -/
  | bodyEnd
  /-- `offset(rs1)` (R149, R170). -/
  | mem
  /-- `(rs1)`. -/
  | memPlain
  /-- A name from a list. -/
  | pick (at_ : Nat) (l : List (String × Nat))
  /-- A stream register and a field of it (R204). -/
  | sfield (at_ : Nat)
  /-- Queues by letter, at least one, each at most once: all operands that are left (R207). -/
  | queues
  /-- A template of the pool; `some q` where its engine is fixed (R154). -/
  | tmpl (q : Option Nat)
  deriving DecidableEq, Repr

/-- A keyword operand: what follows the colon, if anything, and the field it fills. -/
inductive Kw where
  | flag (bits : Nat)
  | val (s : Slot)
  /-- `level.slot` (R350). -/
  | cnt
  /-- A result stream (R350). -/
  | ret
  deriving DecidableEq, Repr

/-- A written form: a mnemonic is the key and one of the suffixes, which adds its bits to the word. -/
structure Row where
  key : String
  base : Nat
  sfx : List (String × Nat) := [("", 0)]
  slots : List Slot := []
  kws : List (String × Kw) := []
  deriving DecidableEq, Repr

/-- Names with their positions, shifted to a bit. -/
def numbered (l : List String) (at_ : Nat) : List (String × Nat) := l.zipIdx.map fun p => (p.1, p.2 * 2 ^ at_)

/-! ### Names -/

def scopeNames : List String := ["core", "cluster", "partition", "device", "fabric"]
def queueNames : List String := ["v", "m", "g", "x"]
def fieldNames : List String := ["base", "fmt", "ext0", "ext1", "ext2", "str0", "str1", "str2", "sgeo", "sbase", "sstr"]

/-- The control registers (R25, R98, R163, R214, R344, R421, R500). -/
def cregNames : List (String × Nat) :=
  [("gtc", 0x000), ("sched.cyc", 0x001), ("lid", 0x002), ("ncores", 0x003), ("op.index", 0x004), ("strand", 0x005),
   ("task.id", 0x006), ("emit.seq", 0x007), ("sect", 0x008), ("yld.req", 0x009), ("rep.index", 0x00A), ("rep.count", 0x00B),
   ("node.dl", 0x00C), ("cseq.v", 0x010), ("cseq.m", 0x011), ("cseq.g", 0x012), ("cseq.x", 0x013)]
  ++ [("dom.core", 0x040), ("dom.cluster", 0x041), ("dom.part", 0x042), ("dom.device", 0x043), ("dom.fabric", 0x044),
   ("race.stat", 0x048), ("race.addr", 0x049), ("race.lids", 0x04A), ("loop.st", 0x050), ("loop.beg", 0x051),
   ("loop.end", 0x052), ("flt.word", 0x068), ("flt.pc", 0x069), ("xprog", 0x070), ("wp.stat", 0x090)]
  ++ (["flt.rec0", "flt.rec1", "flt.rec2", "flt.rec3", "flt.rec4", "flt.rec5", "flt.rec6", "flt.rec7"].zipIdx.map
    fun p => (p.1, 0x060 + p.2))
  ++ (["wp.adr0", "wp.adr1", "wp.adr2", "wp.adr3", "wp.adr4", "wp.adr5", "wp.adr6", "wp.adr7"].zipIdx.map
    fun p => (p.1, 0x080 + 2 * p.2))
  ++ (["wp.ctl0", "wp.ctl1", "wp.ctl2", "wp.ctl3", "wp.ctl4", "wp.ctl5", "wp.ctl6", "wp.ctl7"].zipIdx.map
    fun p => (p.1, 0x081 + 2 * p.2))

/-! ### Suffixes -/

def widths (at_ : Nat) : List (String × Nat) := numbered [".b", ".h", ".w", ".d", ".bu", ".hu", ".wu"] at_
def swidths (at_ : Nat) : List (String × Nat) := numbered [".b", ".h", ".w", ".d"] at_
def queueSfx (at_ : Nat) : List (String × Nat) := numbered [".v", ".m", ".g", ".x"] at_

/-- `[.order].size` (R181, R350). -/
def ordSize (ord size : Nat) : List (String × Nat) :=
  (numbered ["", ".acq", ".rel", ".ar"] ord).flatMap fun o => [(o.1 ++ ".w", o.2), (o.1 ++ ".d", o.2 + 2 ^ size)]
/-- `[.order].d`: amo.qadd has 64 bits (R181). -/
def ordD (ord size : Nat) : List (String × Nat) :=
  (numbered ["", ".acq", ".rel", ".ar"] ord).map fun o => (o.1 ++ ".d", o.2 + 2 ^ size)

/-- Element types (R231). -/
def fpTypes : List (String × Nat) := [("f32", 0), ("f16", 1), ("bf16", 2)]
def signedTypes : List (String × Nat) := [("i8", 4), ("i16", 5), ("i32", 6), ("i64", 7)]
def intTypes : List (String × Nat) := signedTypes ++ [("n8", 8), ("n16", 9), ("n32", 10), ("n64", 11)]
def tySfx (l : List (String × Nat)) : List (String × Nat) := l.map fun p => ("." ++ p.1, p.2 * 2 ^ 18)
def fp := tySfx fpTypes
def ints := tySfx intTypes
def fpInts := fp ++ ints

/-! ### Conductor statements (R137) -/

def x (at_ : Nat) : Slot := .reg 'x' 0 32 at_
def p (at_ : Nat) : Slot := .reg 'p' 0 8 at_
def w (at_ : Nat) : Slot := .reg 'w' 0 16 at_
def s (at_ : Nat) : Slot := .reg 's' 0 16 at_
def immS : Slot := .num 0 16 (-32768) 32767 0
def immZ : Slot := .num 0 16 0 65535 0
def scopeAt (at_ : Nat) : Slot := .pick at_ (numbered scopeNames 0)

def mj (m : Nat) : Nat := m * 2 ^ 26

/-- Statements of one shape whose codes follow in order. -/
def family (names : List String) (base at_ : Nat) (slots : List Slot) : List Row :=
  (numbered names at_).map fun n => { key := n.1, base := base + n.2, slots := slots }

def integerRows : List Row :=
  family ["add", "sub", "and", "or", "xor", "sll", "srl", "sra", "slt", "sltu", "min", "max", "minu", "maxu"] (mj 0x01) 0 [x 21, x 16, x 11]
  ++ family ["mul", "mulh", "mulhu", "mulhsu", "div", "divu", "rem", "remu"] (mj 0x02) 0 [x 21, x 16, x 11]
  ++ family ["clz", "ctz", "popc", "bswap"] (mj 0x03) 0 [x 21, x 16]
  ++ family ["slli", "srli", "srai"] (mj 0x08) 6 [x 21, x 16, .num 0 6 0 63 0]
  ++ family ["slti", "sltiu"] (mj 0x09) 26 [x 21, x 16, immS]
  ++ family ["andi", "ori", "xori"] (mj 0x05) 26 [x 21, x 16, immZ]
  ++ [{ key := "addi", base := mj 0x04, slots := [x 21, x 16, immS] }, { key := "lui", base := mj 0x0B, slots := [x 21, immS] },
      { key := "lsi", base := mj 0x0C, slots := [x 21, x 16, immZ] }, { key := "lpc", base := mj 0x0D, slots := [x 21, .lab 16] }]

def memoryRows : List Row :=
  [{ key := "ld", base := mj 0x10, sfx := widths 13, slots := [x 21, .mem] },
   { key := "st", base := mj 0x11, sfx := swidths 13, slots := [x 21, .mem] },
   { key := "ld.s", base := mj 0x12, sfx := widths 13, slots := [x 21, .memPlain, scopeAt 10] },
   { key := "ld.acq", base := mj 0x12 + 0x100, sfx := widths 13, slots := [x 21, .memPlain, scopeAt 10] },
   { key := "st.s", base := mj 0x13, sfx := swidths 13, slots := [x 21, .memPlain, scopeAt 10] },
   { key := "st.rel", base := mj 0x13 + 0x100, sfx := swidths 13, slots := [x 21, .memPlain, scopeAt 10] }]
  ++ family ["ldf", "ldt"] (mj 0x14) 0 [x 21, .memPlain] ++ family ["ste", "stf"] (mj 0x14 + 2) 0 [x 11, .memPlain]
  ++ [{ key := "tclr", base := mj 0x14 + 4, slots := [.memPlain] }, { key := "tagrd", base := mj 0x14 + 5, slots := [x 21, .memPlain] }]
  ++ family ["fence.acq", "fence.rel", "fence.full"] (mj 0x15 + 0x100) 8 [scopeAt 10]
  ++ ((numbered ["add", "qadd", "smin", "smax", "umin", "umax", "and", "or", "xor", "swap"] 7).map fun n =>
    { key := "amo." ++ n.1, base := mj 0x18 + n.2, sfx := if n.1 == "qadd" then ordD 4 6 else ordSize 4 6
      slots := [x 21, .memPlain, x 11, scopeAt 1] })
  ++ [{ key := "cas", base := mj 0x19, sfx := ordSize 4 6, slots := [x 21, .memPlain, x 11, scopeAt 1] }]

def controlRows : List Row :=
  family ["beq", "bne", "blt", "bge", "bltu", "bgeu"] (mj 0x1C) 26 [x 21, x 16, .lab 16]
  ++ [{ key := "jal", base := mj 0x22, slots := [.lab 26] },
      { key := "jalr", base := mj 0x23, slots := [x 21, x 16, .num 0 15 (-16384) 16383 0] },
      { key := "jtab", base := mj 0x23 + 0x8000, slots := [x 21, x 16, .num 9 6 1 64 1, .lab 9] },
      { key := "loop", base := mj 0x24, slots := [x 16, .num 23 3 1 8 1, .bodyEnd] }]
  ++ family ["rot", "lbrk"] (mj 0x25) 0 []
  ++ [{ key := "lcrd", base := mj 0x25 + 2, slots := [x 21] }, { key := "lcwr", base := mj 0x25 + 3, slots := [x 16] }]
  ++ family ["pset.eq", "pset.ne", "pset.lt", "pset.ge", "pset.ltu", "pset.geu"] (mj 0x26) 0 [p 21, x 16, x 11]
  ++ family ["pand", "por", "pxor", "pandn"] (mj 0x27) 0 [p 21, p 16, p 11]
  ++ [{ key := "pmov", base := mj 0x27 + 4, slots := [p 21, p 16] }]

def emitRows : List Row :=
  [{ key := "wins", base := mj 0x28, slots := [w 21, x 16, .num 10 6 0 63 0, .num 4 6 1 64 1] },
   { key := "wmov", base := mj 0x29, slots := [w 21, x 16] }, { key := "wrd", base := mj 0x29 + 1, slots := [x 16, w 21] },
   { key := "wcpy", base := mj 0x29 + 2, slots := [w 21, w 16] }, { key := "wtmpl", base := mj 0x2A, slots := [w 21, .tmpl none] },
   { key := "emit", base := mj 0x2B, sfx := queueSfx 24, slots := [w 17] },
   { key := "emit", base := mj 0x2B, sfx := queueSfx 24, slots := [w 17, p 21] }]
  ++ ((numbered queueNames 0).flatMap fun q =>
    [{ key := "emitt." ++ q.1, base := mj 0x2C + q.2 * 2 ^ 24, slots := [.tmpl (some q.2)] },
     { key := "emitt." ++ q.1, base := mj 0x2C + q.2 * 2 ^ 24, slots := [.tmpl (some q.2), p 21] }])
  ++ [{ key := "qstat", base := mj 0x2D, slots := [x 21, .pick 16 (numbered queueNames 0)] },
      { key := "tkpush", base := mj 0x2E, slots := [.pick 24 (numbered queueNames 0)] },
      { key := "tkpop", base := mj 0x2F, slots := [.pick 24 (numbered queueNames 0)] },
      { key := "sset", base := mj 0x30, slots := [.sfield 21, x 16] }, { key := "sget", base := mj 0x31, slots := [x 21, .sfield 16] },
      { key := "scpy", base := mj 0x32, slots := [s 21, s 16] }, { key := "sclr", base := mj 0x33, slots := [s 21] },
      { key := "mark", base := mj 0x34, slots := [.queues] }, { key := "join", base := mj 0x35, slots := [.queues] }]

def systemRows : List Row :=
  [{ key := "bar", base := mj 0x36, slots := [scopeAt 13, .num 10 3 0 7 0] },
   { key := "wait.cyc", base := mj 0x37, slots := [x 16] }, { key := "wait.gtc", base := mj 0x37 + 1, slots := [x 16] },
   { key := "crr", base := mj 0x38, slots := [x 21, .pick 0 cregNames] },
   { key := "crw", base := mj 0x38 + 0x8000, slots := [.pick 0 cregNames, x 16] },
   { key := "spawn", base := mj 0x39, slots := [.num 21 2 0 3 0, x 16] }]
  ++ family ["exit", "yield", "nop"] (mj 0x39 + 1) 0 []
  ++ [{ key := "start", base := mj 0x3A, slots := [x 16] }, { key := "ilock", base := mj 0x3A + 1 },
      { key := "fret", base := mj 0x3B, slots := [.pick 0 (numbered ["resume", "skip", "retry", "abort"] 0)] }]

def conductorRows : List Row := integerRows ++ memoryRows ++ controlRows ++ emitRows ++ systemRows

/-! ### Vector statements (R142, R235, R236, R267, R273, R276) -/

def op (c : Nat) : Nat := c * 2 ^ 56
def v (at_ : Nat) : Slot := .reg 'v' 0 32 at_
def m (at_ : Nat) : Slot := .reg 'm' 0 8 at_
/-- `w` bits of fn from bit `lo` of it, up to a limit. -/
def fnNum (lo w max : Nat) : Slot := .num (10 + lo) w 0 max 0
def fnBit (n : Nat) : Nat := 2 ^ (10 + n)

def mk : List (String × Kw) := [("mk", .val (.reg 'm' 1 8 27))]
def mm : List (String × Kw) := mk ++ [("mz", .flag (2 ^ 26))]
def rmAt (at_ : Nat) : List (String × Kw) := [("rm", .val (.pick at_ (numbered ["rne", "rtz", "rup", "rdn", "rna"] 0)))]
def nf : List (String × Kw) := [("nf", .flag (2 ^ 22))]
def sat (n : Nat) : List (String × Kw) := [("sat", .flag (fnBit n))]
def cb : List (String × Kw) := [("cb", .flag (fnBit 0))]
def rmNf : List (String × Kw) := rmAt 23 ++ nf

/-- Vector words of one shape whose opcodes follow in order. -/
def vecs (names : List String) (c : Nat) (sfx : List (String × Nat)) (slots : List Slot) (kws : List (String × Kw)) (bits : Nat := 0) :
    List Row :=
  names.zipIdx.map fun n => { key := n.1, base := op (c + n.2) + bits, sfx := sfx, slots := slots, kws := kws }

def none_ : List (String × Nat) := [("", 0)]

def moveRows : List Row :=
  vecs ["vnop"] 0x01 none_ [] [] ++ vecs ["vmov"] 0x02 none_ [v 45, v 40] mm ++ vecs ["vmov.vm"] 0x02 none_ [m 45, v 40] mm (fnBit 0)
  ++ vecs ["vmov.mv"] 0x02 none_ [v 45, m 40] mm (fnBit 1)
  ++ [{ key := "vsplat.w", base := op 0x03, slots := [v 45, .num 10 32 (-2147483648) 4294967295 0] },
      { key := "vsplat.d", base := op 0x03 + 2 ^ 43, slots := [v 45, .num 10 32 (-2147483648) 2147483647 0] },
      { key := "vsplat.h", base := op 0x03 + 2 ^ 44, slots := [v 45, .num 10 16 (-32768) 65535 0] },
      { key := "vsplat.b", base := op 0x03 + 2 ^ 44 + 2 ^ 43, slots := [v 45, .num 10 8 (-128) 255 0] }]
  ++ vecs ["vxrd"] 0x04 none_ [v 45] [] ++ vecs ["vxclr"] 0x05 none_ [] mk

def floatRows : List Row :=
  vecs ["vfadd", "vfsub", "vfmul"] 0x10 fp [v 45, v 40, v 35] (mm ++ rmNf)
  ++ vecs ["vfma", "vfms", "vfnma"] 0x13 fp [v 45, v 40, v 35, v 30] (mm ++ rmNf)
  ++ vecs ["vfdiv"] 0x16 fp [v 45, v 40, v 35] (mm ++ rmNf) ++ vecs ["vfsqrt"] 0x17 fp [v 45, v 40] (mm ++ rmNf)
  ++ vecs ["vfmin", "vfmax"] 0x18 fp [v 45, v 40, v 35] (mm ++ nf) ++ vecs ["vfabs", "vfneg"] 0x1A fp [v 45, v 40] mm
  ++ vecs ["vfexp2", "vflog2", "vfrsqrt", "vfrcp"] 0x1C fp [v 45, v 40] (mm ++ rmNf)

def integerVecRows : List Row :=
  vecs ["vadd", "vsub", "vmul"] 0x20 ints [v 45, v 40, v 35] (mm ++ sat 0) ++ vecs ["vmulh"] 0x23 ints [v 45, v 40, v 35] mm
  ++ vecs ["vmad"] 0x24 ints [v 45, v 40, v 35, v 30] (mm ++ sat 0) ++ vecs ["vmin", "vmax"] 0x25 ints [v 45, v 40, v 35] mm
  ++ vecs ["vabs"] 0x27 (tySfx signedTypes) [v 45, v 40] (mm ++ sat 0) ++ vecs ["vand", "vor", "vxor"] 0x28 ints [v 45, v 40, v 35] mm
  ++ vecs ["vsll", "vsrl", "vsra"] 0x2B ints [v 45, v 40, v 35] mm ++ vecs ["vsll", "vsrl", "vsra"] 0x2B ints [v 45, v 40, fnNum 1 6 63] mm (fnBit 0)
  ++ vecs ["vpopc"] 0x2E ints [v 45, v 40] mm

/-- Compare words of a condition: to a vector register, and to a mask. -/
def compares (name : String) (c : Nat) (sfx : List (String × Nat)) (conds : List String) (kws : List (String × Kw)) : List Row :=
  (numbered conds 10).flatMap fun n =>
    [{ key := name ++ "." ++ n.1, base := op c + n.2, sfx := sfx, slots := [v 45, v 40, v 35], kws := kws },
     { key := name ++ "." ++ n.1, base := op c + n.2 + fnBit 3, sfx := sfx, slots := [m 45, v 40, v 35], kws := kws }]

def selectRows : List Row :=
  compares "vfcmp" 0x30 fp ["eq", "ne", "lt", "le", "gt", "ge", "un"] (mm ++ nf)
  ++ compares "vcmp" 0x31 ints ["eq", "ne", "lt", "le", "gt", "ge"] mm
  ++ vecs ["vsel"] 0x32 fpInts [v 45, v 40, v 35, v 30] mm ++ vecs ["vclass"] 0x33 fp [v 45, v 40] mm
  ++ vecs ["vmand", "vmor", "vmxor"] 0x34 none_ [m 45, m 40, m 35] [] ++ vecs ["vmnot"] 0x37 none_ [m 45, m 40] []
  ++ vecs ["vmpopc"] 0x38 none_ [v 45, m 40] []

def convertRows : List Row :=
  vecs ["vcvt"] 0x40 fp [v 45, v 40, .pick 10 fpTypes, fnNum 4 3 7] (mm ++ rmNf)
  ++ vecs ["vcvt"] 0x40 ints [v 45, v 40, .pick 10 intTypes, fnNum 4 3 7] (mm ++ sat 7)
  ++ vecs ["vcvti"] 0x41 fp [v 45, v 40, .pick 10 intTypes, fnNum 4 3 7] (mm ++ rmNf)
  ++ vecs ["vcvtf"] 0x42 ints [v 45, v 40, .pick 10 fpTypes, fnNum 4 3 7] (mm ++ rmNf)
  ++ vecs ["vpack", "vunpk"] 0x43 none_ [v 45, v 40, fnNum 0 5 31, fnNum 5 3 7] (mm ++ rmNf)

def permuteRows : List Row :=
  vecs ["vperm"] 0x50 fpInts [v 45, v 40, v 35] mm ++ vecs ["vrot"] 0x51 fpInts [v 45, v 40, fnNum 0 8 255] mm
  ++ vecs ["vslide"] 0x52 fpInts [v 45, v 40, v 35, fnNum 0 8 255] mm ++ vecs ["vzip", "vunzip"] 0x53 fpInts [v 45, v 40, v 35, fnNum 0 1 1] mm
  ++ vecs ["vbcast"] 0x55 fpInts [v 45, v 40, fnNum 0 8 255] mm

def complexRows : List Row :=
  let k := mm ++ rmNf
  vecs ["vcmul"] 0x60 none_ [v 45, v 40, v 35] (k ++ cb) ++ vecs ["vcmac"] 0x61 none_ [v 45, v 40, v 35, v 30] (k ++ cb)
  ++ vecs ["vconj"] 0x62 none_ [v 45, v 40] mm ++ vecs ["vbfly2"] 0x63 none_ [v 45, v 40, v 35, fnNum 0 3 4] k
  ++ vecs ["vbfly2.x"] 0x63 none_ [v 45, v 40, v 35, v 30, fnNum 4 1 1] k (fnBit 3)
  ++ vecs ["vbfly4"] 0x64 [("", 0), (".inv", fnBit 2)] [v 45, v 40, fnNum 0 2 3] k
  ++ vecs ["vtwid"] 0x65 [("", 0), (".inv", fnBit 5)] [v 45, v 40, .num 10 5 1 16 0] mm
  ++ vecs ["vtwid.st"] 0x65 [("", 0), (".inv", fnBit 5)] [v 45, .num 10 5 1 16 0, .num 40 5 0 31 0] mm (fnBit 6)
  ++ vecs ["vrevb"] 0x66 fpInts [v 45, v 40, .num 10 4 1 15 0] mm

def reduceRows : List Row :=
  vecs ["vfsum"] 0x70 fp [v 45, v 40, fnNum 0 4 15] (mk ++ rmNf) ++ vecs ["vfrmax", "vfrmin"] 0x71 fp [v 45, v 40, fnNum 0 4 15] (mk ++ nf)
  ++ vecs ["vfdot"] 0x73 fp [v 45, v 40, v 35, fnNum 0 4 15] (mk ++ rmNf) ++ vecs ["vrsum"] 0x74 ints [v 45, v 40, fnNum 0 4 15] (mk ++ sat 4)
  ++ vecs ["vrmax", "vrmin"] 0x75 ints [v 45, v 40, fnNum 0 4 15] mk

/-- The indices k1 and k2 of a vector memory word; they may be left out together. -/
def withIndices (r : Row) : List Row := [{ r with slots := r.slots ++ [fnNum 0 8 255, .num 30 5 0 31 0] }, r]

def vecMemoryRows : List Row :=
  (vecs ["vld"] 0x80 none_ [v 45, s 40] mm ++ vecs ["vst"] 0x81 none_ [v 45, s 40] mk ++ vecs ["vldf", "vldt"] 0x82 none_ [v 45, s 40] mm
    ++ vecs ["vste", "vstf"] 0x84 none_ [v 45, s 40] mk ++ vecs ["vldm", "vstm"] 0x88 none_ [m 45, s 40] []).flatMap withIndices
  ++ vecs ["vgath"] 0x86 none_ [v 45, s 40, v 35] mm ++ vecs ["vscat"] 0x87 none_ [v 45, s 40, v 35] mk

def vectorRows : List Row :=
  moveRows ++ floatRows ++ integerVecRows ++ selectRows ++ convertRows ++ permuteRows ++ complexRows ++ reduceRows ++ vecMemoryRows

/-! ### Matrix statements (R143, R321, R322) -/

def tile (at_ : Nat) : Slot := .reg 'a' 0 2 at_
def macro_ (at_ : Nat) : Slot := .reg 'b' 0 2 at_
def g (at_ : Nat) : Slot := .reg 'g' 0 8 at_
def bank : List (String × Kw) := [("bank", .val (.num 47 1 0 1 0))]
def k2 : List (String × Kw) := [("k2", .val (.num 38 5 0 31 0))]
def orow : List (String × Kw) := [("orow", .val (.num 28 7 0 127 0))]

def matrixRows : List Row :=
  let load := bank ++ k2
  let mult := bank ++ k2 ++ orow
  [{ key := "mnop", base := op 0x01 }, { key := "mldb", base := op 0x10, slots := [macro_ 48, s 43], kws := load },
   { key := "mldb.g", base := op 0x11, slots := [macro_ 48, s 43, g 35], kws := load },
   { key := "mldbp", base := op 0x12, slots := [s 43], kws := load },
   { key := "mma", base := op 0x20, slots := [tile 49, macro_ 48, s 43], kws := mult },
   { key := "mma.g", base := op 0x21, slots := [tile 49, macro_ 48, s 43, g 35], kws := mult },
   { key := "mmap", base := op 0x22, slots := [s 43], kws := mult }, { key := "mmap.g", base := op 0x23, slots := [s 43, g 35], kws := mult },
   { key := "mmat", base := op 0x24, slots := [tile 49, macro_ 48, s 43], kws := mult },
   { key := "mmat.g", base := op 0x25, slots := [tile 49, macro_ 48, s 43, g 35], kws := mult }]
  ++ [{ key := "mzero", base := op 0x30, slots := [tile 49] }, { key := "manch", base := op 0x31, slots := [tile 49, .num 38 10 (-512) 511 0] },
   { key := "movclr", base := op 0x32, slots := [tile 49] }, { key := "mtrap", base := op 0x33, slots := [tile 49, .num 38 10 0 1 0] },
   { key := "mstat", base := op 0x34, slots := [tile 49, s 43] }, { key := "mshift", base := op 0x35, slots := [tile 49, .num 38 10 (-512) 511 0] },
   { key := "mdrn", base := op 0x40, slots := [tile 49, s 43], kws := k2 ++ orow ++ rmAt 25 ++ [("zero", .flag (2 ^ 24))] },
   { key := "mdrn.mx", base := op 0x41, slots := [tile 49, s 43], kws := k2 ++ orow ++ [("zero", .flag (2 ^ 24))] },
   { key := "madd", base := op 0x42, slots := [tile 49, tile 48] }, { key := "msave", base := op 0x43, slots := [tile 49, s 43], kws := k2 ++ orow },
   { key := "mrest", base := op 0x44, slots := [tile 49, s 43], kws := k2 ++ orow ++ [("acc", .flag (2 ^ 24))] },
   { key := "mmov", base := op 0x45, slots := [tile 49, tile 48] }]

/-! ### Generator statements (R144, R301 to R303) -/

def imm32 : Slot := .num 10 32 (-2147483648) 4294967295 0
def kinds : Slot := .pick 44 (numbered ["none", "sign", "unif", "gauss", "phase", "bern", "smask"] 0)

def generatorRows : List Row :=
  [{ key := "gnop", base := op 0x01 }, { key := "gseed", base := op 0x10, sfx := [(".lo", 0), (".hi", 2 ^ 46)], slots := [g 47, imm32] },
   { key := "gscope", base := op 0x11, slots := [g 47, imm32] }, { key := "gkind", base := op 0x12, slots := [g 47, kinds] },
   { key := "gkind", base := op 0x12, slots := [g 47, kinds, .pick 43 [("tr", 1)]] },
   { key := "gorig", base := op 0x13, sfx := [(".row", 0), (".col", 2 ^ 46)], slots := [g 47, imm32] },
   { key := "gfreq", base := op 0x14, slots := [g 47, s 40] },
   { key := "gparm", base := op 0x15, sfx := [(".lo", 0), (".hi", 2 ^ 46)], slots := [g 47, imm32] },
   { key := "gload", base := op 0x16, slots := [g 47, s 40] }, { key := "gsave", base := op 0x17, slots := [g 47, s 40] },
   { key := "gfill", base := op 0x20, slots := [g 47, s 40] }, { key := "gvec", base := op 0x21, slots := [g 47, s 40] },
   { key := "gvec", base := op 0x21, slots := [g 47, s 40, .num 32 8 0 255 0, .num 27 5 0 31 0] },
   { key := "gdraw", base := op 0x22, slots := [g 47, imm32] }, { key := "gskip", base := op 0x23, slots := [g 47, imm32] },
   { key := "gclr", base := op 0x24, slots := [g 47] }]

/-! ### Copy statements (R145, R348 to R350) -/

def cnt : List (String × Kw) := [("cnt", .cnt)]

def copyRows : List Row :=
  let two : List Slot := [s 46, s 42]
  [{ key := "xnop", base := op 0x01 }, { key := "xcpy", base := op 0x10, slots := two, kws := cnt },
   { key := "xcpyc", base := op 0x11, slots := two, kws := cnt ++ rmAt 32 }, { key := "xfill", base := op 0x12, slots := two, kws := cnt },
   { key := "xgath", base := op 0x13, slots := two ++ [s 31], kws := cnt }, { key := "xscat", base := op 0x14, slots := two ++ [s 31], kws := cnt },
   { key := "xtab", base := op 0x20, slots := [.num 10 1 0 1 0, s 42] },
   { key := "xdec", base := op 0x21, slots := two ++ [.num 10 1 0 1 0, .num 15 20 0 1048575 0, .num 11 4 1 16 1], kws := cnt }]
  ++ ((numbered ["add", "qadd", "smin", "smax", "umin", "umax", "and", "or", "xor", "swap", "fadd"] 31).map fun n =>
    { key := "xamo." ++ n.1, base := op 0x30 + n.2, sfx := ordSize 28 30, slots := two ++ [scopeAt 25]
      kws := cnt ++ [("ret", .ret), ("anch", .val (.num 10 10 (-512) 511 0))] })
  ++ [{ key := "xcas", base := op 0x31, sfx := ordSize 28 30, slots := two ++ [s 31, s 20, scopeAt 25], kws := cnt },
   { key := "xste", base := op 0x32, slots := two, kws := cnt }, { key := "xstf", base := op 0x33, slots := two, kws := cnt },
   { key := "xldf", base := op 0x34, sfx := [("", 0), (".tk", 2 ^ 34)], slots := two, kws := cnt },
   { key := "xtclr", base := op 0x35, slots := [s 46] }, { key := "xget", base := op 0x40, slots := two, kws := cnt },
   { key := "xput", base := op 0x41, slots := two, kws := cnt }, { key := "xgetc", base := op 0x42, slots := two ++ [s 31], kws := cnt },
   { key := "xputc", base := op 0x43, slots := two ++ [s 31], kws := cnt }, { key := "xbar", base := op 0x50, slots := [s 42], kws := cnt },
   { key := "xseq", base := op 0x51, slots := [s 46, scopeAt 25], kws := cnt }]

/-- The statements of an engine, by its code. -/
def engineRows (q : Nat) : List Row :=
  match q with
  | 0 => vectorRows
  | 1 => matrixRows
  | 2 => generatorRows
  | _ => copyRows

/-- The engine of a statement, by its first letter (R150). -/
def engineOf (name : String) : Option Nat :=
  match name.toList with
  | 'v' :: _ => some 0
  | 'm' :: _ => some 1
  | 'g' :: _ => some 2
  | 'x' :: _ => some 3
  | _ => none

end Sys2Proof.Skas
end

