-- ==== Sys2Proof/Machine/Skas.lean ====
section
/-! DEFINITION. skas, the assembler: statements to words (R149 to R151), directives (R152, R154), and the generator image
(R157 to R160). Whether a word is one of the opcode maps is asked through `Legal`, which `skas` takes from the decoder. -/

namespace Sys2Proof.Skas

/-- Whether a C-word, and an E-word of an engine, is one that the opcode maps define. -/
structure Legal where
  c : W32 → Bool
  e : Nat → W64 → Bool

/-! ### Operands -/

/-- The characters after a key that a name begins with. -/
def afterKey : List Char → List Char → Option (List Char)
  | [], l => some l
  | c :: cs, d :: ds => if c == d then afterKey cs ds else none
  | _ :: _, [] => none

/-- The two parts of a name on either side of its first dot. -/
def atDot (n : String) : String × String :=
  (String.ofList (n.toList.takeWhile (· != '.')), String.ofList ((n.toList.dropWhile (· != '.')).drop 1))

def position (n : String) (l : List String) : Option Nat := l.findIdx? (· == n)

/-- A field of `w` bits at a bit, if its value lies in a range. -/
def field (v lo hi : Int) (w bit : Nat) : Option Nat := if lo ≤ v ∧ v ≤ hi then some ((v % 2 ^ w).toNat * 2 ^ bit) else none

/-- The bits of one operand. -/
def slotBits (e : Env) (sl : Slot) (ts : List Tok) : Option Nat :=
  match sl, ts with
  | .reg c lo n bit, [.name r] => (regNo c n r).bind fun v => if lo ≤ v then some (v * 2 ^ bit) else none
  | .num bit w lo hi bias, _ => (valueOf e ts).bind fun v => if lo ≤ v ∧ v ≤ hi then field (v - bias) (v - bias) (v - bias) w bit else none
  | .lab w, _ => (valueOf e ts).bind fun v =>
    if namesLabel e ts then (if (v - e.pc) % 4 = 0 then field ((v - e.pc) / 4) (-2 ^ (w - 1)) (2 ^ (w - 1) - 1) w 0 else none)
    else field v (-2 ^ (w - 1)) (2 ^ (w - 1) - 1) w 0
  | .bodyEnd, _ => (valueOf e ts).bind fun v =>
    if namesLabel e ts ∧ (v - e.pc) % 4 = 0 then field ((v - e.pc - 4) / 4) 1 65535 16 0 else none
  | .mem, _ =>
    match ts.reverse with
    | .op ")" :: .name r :: .op "(" :: off =>
      match regNo 'x' 32 r, valueOf e off.reverse with
      | some n, some v => (field v (-4096) 4095 13 0).map (· + n * 2 ^ 16)
      | _, _ => none
    | _ => none
  | .memPlain, [.op "(", .name r, .op ")"] => (regNo 'x' 32 r).map (· * 2 ^ 16)
  | .pick bit l, [.name n] => ((l.find? fun p => p.1 == n).map fun p => p.2 * 2 ^ bit)
  | .sfield bit, [.name n] =>
    match regNo 's' 16 (atDot n).1, position (atDot n).2 fieldNames with
    | some r, some f => some (r * 2 ^ bit + f * 2 ^ 11)
    | _, _ => none
  | .tmpl q, _ => (valueOf e ts).bind fun v =>
    if 0 ≤ v then
      match e.pool[v.toNat]? with
      | some g => if q.all (· == g) then some v.toNat else none
      | none => none
    else none
  | _, _ => none

/-- The mask of a list of queues, each at most once (R207). -/
def queueMask : List (List Tok) → List Nat → Option Nat
  | [], seen => if seen.isEmpty then none else some 0
  | [.name n] :: ops, seen =>
    match position n queueNames with
    | some q => if seen.contains q then none else (queueMask ops (q :: seen)).map (· + 2 ^ (22 + q))
    | none => none
  | _ :: _, _ => none

/-- The bits of a statement's own operands, and the operands after them. -/
def slotsBits (e : Env) : List Slot → List (List Tok) → Option (Nat × List (List Tok))
  | [], ops => some (0, ops)
  | .queues :: _, ops => (queueMask ops []).map fun b => (b, [])
  | sl :: sls, o :: ops =>
    match slotBits e sl o, slotsBits e sls ops with
    | some b, some (c, l) => some (b + c, l)
    | _, _ => none
  | _ :: _, [] => none

/-- The bits of the partner letter of a token flag: `c` is the word's own engine code (R150). -/
def partner (q : Nat) (n : String) : Option Nat :=
  if n == "c" then some q
  else match position n queueNames with
    | some k => if k = q then none else some k
    | none => none

/-- The bits of a trailing or keyword operand of an engine word (R150, R235, R322, R350). -/
def keyBits (e : Env) (q : Nat) (kws : List (String × Kw)) (k : String) (ts : List Tok) : Option Nat :=
  match k, ts with
  | "pop", [.op ":", .name n] => (partner q n).map fun c => 2 ^ 55 + c * 2 ^ 53
  | "push", [.op ":", .name n] => (partner q n).map fun c => 2 ^ 52 + c * 2 ^ 50
  | "idle", .op ":" :: r => (valueOf e r).bind fun v => field v 0 1023 10 0
  | _, _ =>
    match ((kws.find? fun p => p.1 == k).map Prod.snd : Option Kw), ts with
    | some (.flag b), [] => some b
    | some (.val sl), .op ":" :: r => slotBits e sl r
    | some .cnt, [.op ":", .name n] =>
      match position (atDot n).1 scopeNames, numOf (atDot n).2.toList with
      | some l, some i => if i < 8 ∧ (atDot n).2.length = 1 then some (2 ^ 41 + l * 2 ^ 38 + i * 2 ^ 35) else none
      | _, _ => none
    | some .ret, [.op ":", .name n] => (regNo 's' 16 n).map fun r => 2 ^ 24 + r * 2 ^ 20
    | _, _ => none

/-- The bits of the operands after a statement's own, each at most once. -/
def keysBits (e : Env) (q : Nat) (kws : List (String × Kw)) : List (List Tok) → List String → Option Nat
  | [], _ => some 0
  | (.name k :: ts) :: ops, seen =>
    if seen.contains k then none
    else match keyBits e q kws k ts, keysBits e q kws ops (k :: seen) with
      | some b, some c => some (b + c)
      | _, _ => none
  | _ :: _, _ => none

/-- A row whose mnemonic is a name: its bits, the suffix among them. -/
def rowOf (n : String) (r : Row) : Option Nat :=
  (afterKey r.key.toList n.toList).bind fun rest => (r.sfx.find? fun p => p.1.toList == rest).map fun p => r.base + p.2

/-- The C-word of a conductor statement. -/
def wordC (lg : Legal) (e : Env) (n : String) (ops : List (List Tok)) : Option W32 :=
  conductorRows.findSome? fun r => (rowOf n r).bind fun b =>
    match slotsBits e r.slots ops with
    | some (c, []) => let w := BitVec.ofNat 32 (b + c); if lg.c w then some w else none
    | _ => none

/-- The E-word of a statement of an engine (R150). -/
def wordE (lg : Legal) (e : Env) (n : String) (ops : List (List Tok)) : Option (Nat × W64) :=
  (engineOf n).bind fun q => (engineRows q).findSome? fun r => (rowOf n r).bind fun b =>
    match slotsBits e r.slots ops with
    | some (c, l) => (keysBits e q r.kws l []).bind fun k =>
      let w := BitVec.ofNat 64 (b + c + k)
      if lg.e q w then some (q, w) else none
    | none => none

/-! ### Names that no symbol may have (R147) -/

def pseudoNames : List String := ["j", "mv", "call", "ret", "li"]

/-- The name is a mnemonic: with its suffixes, or that of an engine word without its type. A bare name that no statement
writes, such as vsplat, vfcmp, vcmp or xamo, is none (DEDUCED, log entry 112). -/
def isMnemonic (n : String) : Bool :=
  pseudoNames.contains n || conductorRows.any (fun r => (rowOf n r).isSome)
  || match engineOf n with
    | some q => (engineRows q).any fun r => (rowOf n r).isSome || r.key == n
    | none => false

/-- A name of the shape of a symbol that a symbol may have. -/
def symbolOk (n : String) : Bool :=
  (match n.toList with | c :: _ => symStart c | [] => false) && !isReg n && !isMnemonic n

/-! ### Statements of the code section (R149, R151) -/

/-- The words of `li` (R151). -/
def liWords (rd : Nat) (v : Int) : Option (List Nat) :=
  let at_ (maj rs imm : Nat) : Nat := maj * 2 ^ 26 + rd * 2 ^ 21 + rs * 2 ^ 16 + imm % 2 ^ 16
  let u := (v % 2 ^ 64).toNat
  if -2 ^ 15 ≤ v ∧ v < 2 ^ 15 then some [at_ 0x04 0 u]
  else if -2 ^ 31 ≤ v ∧ v < 2 ^ 31 then some [at_ 0x0B 0 (u / 2 ^ 16), at_ 0x06 rd u]
  else if -2 ^ 63 ≤ v ∧ v < 2 ^ 64 then
    some [at_ 0x04 0 (u / 2 ^ 48), at_ 0x0C rd (u / 2 ^ 32), at_ 0x0C rd (u / 2 ^ 16), at_ 0x0C rd u]
  else none

/-- The words of a statement of the code section: an instruction, or what a pseudo-instruction expands to. -/
def wordsC (lg : Legal) (e : Env) (n : String) (ops : List (List Tok)) : Option (List W32) :=
  match n, ops with
  | "j", [l] => (wordC lg e "beq" [[.name "x0"], [.name "x0"], l]).map ([·])
  | "mv", [d, r] => (wordC lg e "addi" [d, r, [.num 0]]).map ([·])
  | "call", [l] => (wordC lg e "jal" [l]).map ([·])
  | "ret", [] => (wordC lg e "jalr" [[.name "x0"], [.name "x23"], [.num 0]]).map ([·])
  | "li", [[.name d], v] =>
    match regNo 'x' 32 d, valueOf e v with
    | some rd, some v => (liWords rd v).map (·.map (BitVec.ofNat 32))
    | _, _ => none
  | _, _ => (wordC lg e n ops).map ([·])

/-! ### The source, line by line (R147, R152, R154) -/

/-- Where a line assembles to. -/
inductive Place where
  | code
  | pool
  | data
  deriving DecidableEq, Repr

/-- What the directives of an open kernel say. -/
structure Decl where
  name : String := ""
  entry : Option Nat := none
  poolBase : Nat := 0
  engs : List Nat := []
  queues : Option (List Nat) := none
  feature : Option Nat := none
  ops : List Machine.OpEntry := []
  discs : List (Nat × Nat) := []
  foots : List Machine.FootEntry := []
  onfault : Option Nat := none
  timed : Bool := false
  deriving DecidableEq, Repr

/-- What has been assembled of a source. -/
structure Out where
  syms : List (String × Sym) := []
  code : List Byte := []
  pool : List W64 := []
  data : List Byte := []
  place : Place := .code
  kern : Option Decl := none
  done : List Decl := []
  deriving DecidableEq, Repr

/-- The distance of the data section from the code section: each section takes whole multiples of 65,536 bytes (R157). -/
def sectionRoom (n : Nat) : Nat := Nat.max 1 ((n + 65535) / 65536) * 65536
def poolDist (o : Out) : Nat := sectionRoom o.code.length
def dataDist (o : Out) : Nat := poolDist o + sectionRoom (8 * o.pool.length)

/-- What a line is assembled against: the symbols, the pools and the place of the data section of the whole source. In a
sizing pass, which only finds them, no operand is refused. -/
structure Ctx where
  lg : Legal
  whole : Out
  sizing : Bool

/-- The symbols and the pool at a place of the source. -/
def envAt (cx : Ctx) (o : Out) : Env :=
  { syms := cx.whole.syms, pc := o.code.length
    pool := match o.kern with | some _ => ((cx.whole.done[o.done.length]?).map (·.engs)).getD [] | none => [] }

/-- The value of an expression; a sizing pass takes 0 for one it cannot evaluate yet. -/
def exprVal (cx : Ctx) (o : Out) (ts : List Tok) : Option Int :=
  match valueOf (envAt cx o) ts with
  | some v => some v
  | none => if cx.sizing then some 0 else none

/-- A value from a range. -/
def ranged (cx : Ctx) (o : Out) (lo hi : Int) (ts : List Tok) : Option Int :=
  (exprVal cx o ts).bind fun v => if lo ≤ v ∧ v ≤ hi then some v else if cx.sizing then some lo else none

def rangedNat (cx : Ctx) (o : Out) (lo hi : Nat) (ts : List Tok) : Option Nat := (ranged cx o lo hi ts).map (·.toNat)

/-- A new symbol; no symbol is defined twice. -/
def define (o : Out) (n : String) (v : Sym) : Option Out :=
  if symbolOk n && !(o.syms.any fun p => p.1 == n) then some { o with syms := o.syms ++ [(n, v)] } else none

/-- A label: its byte offset from the start of the code section (R158). No label stands in a pool. -/
def defineLabel (cx : Ctx) (o : Out) (n : String) : Option Out :=
  match o.place with
  | .code => define o n (.label o.code.length)
  | .data => define o n (.label (dataDist cx.whole + o.data.length))
  | .pool => none

/-- Bytes at the current position. -/
def put (o : Out) (b : List Byte) : Option Out :=
  match o.place with
  | .code => some { o with code := o.code ++ b }
  | .data => some { o with data := o.data ++ b }
  | .pool => none

def here (o : Out) : Nat := match o.place with | .data => o.data.length | _ => o.code.length

def leInt (n : Nat) (v : Int) : List Byte := Machine.leBytes n (v % 2 ^ (8 * n)).toNat

/-- A statement of the code section; the first after `.kernel` is the kernel's entry. -/
def codeLine (cx : Ctx) (o : Out) (n : String) (ops : List (List Tok)) : Option Out :=
  if o.place = .code ∧ o.code.length % 4 = 0 then
    let o' := { o with kern := o.kern.map fun k => { k with entry := k.entry.or (some o.code.length) } }
    match wordsC cx.lg (envAt cx o) n ops with
    | some ws => put o' (ws.flatMap fun w => Machine.leBytes 4 w.toNat)
    | none =>
      if !cx.sizing then none
      else match n, ops with
        | "li", [_, v] => (exprVal cx o v).bind fun v => put o' (List.replicate (4 * ((liWords 0 v).getD [0]).length) 0)
        | _, _ => put o' (List.replicate 4 0)
  else none

/-- `.word` and `.half`: values of `n` bytes. -/
def values (cx : Ctx) (n : Nat) : Out → List (List Tok) → Option Out
  | o, [] => some o
  | o, v :: vs => (ranged cx o (-2 ^ (8 * n - 1)) (2 ^ (8 * n) - 1) v).bind fun x => (put o (leInt n x)).bind fun o => values cx n o vs

/-- `.tmpl`: an E-word into the kernel's pool, its name the index (R154). -/
def template (cx : Ctx) (o : Out) (k : Decl) (n : String) (st : String) (ops : List (List Tok)) : Option Out :=
  if 4096 ≤ k.engs.length then none
  else
    let add (q : Nat) (w : W64) : Option Out :=
      (define o n (.const k.engs.length)).map fun o => { o with pool := o.pool ++ [w], kern := some { k with engs := k.engs ++ [q] } }
    match wordE cx.lg (envAt cx o) st ops with
    | some (q, w) => if k.timed && w.setWidth 10 == 0 then none else add q w
    | none => if cx.sizing then add ((engineOf st).getD 0) 0 else none

def apart (d : Nat × Nat) (l : List (Nat × Nat)) : Bool := l.all fun c => decide (d.1 + d.2 ≤ c.1) || decide (c.1 + c.2 ≤ d.1)

/-- The directives of an open kernel (R152). The data section lasts until the next `.kernel`: no pool opens in it; a template
stands in a pool that is open (DEDUCED, log entry 102). -/
def kernelLine (cx : Ctx) (o : Out) (k : Decl) (d : String) (ops : List (List Tok)) : Option Out :=
  let keep (k : Decl) : Option Out := some { o with kern := some k }
  match d, ops with
  | ".pool", [] => if o.place = .data then none else some { o with place := .pool }
  | ".end", [] =>
    if k.queues.isSome ∧ k.ops ≠ [] ∧ k.entry.isSome then
      some { o with kern := none, done := o.done ++ [k], place := if o.place = .pool then .code else o.place }
    else none
  | ".section", [[.name n]] =>
    if n == "timed" then keep { k with timed := true } else if n == "interlocked" then keep { k with timed := false } else none
  | ".queues", [v, m, g, x] =>
    match k.queues, rangedNat cx o 0 64 v, rangedNat cx o 0 32 m, rangedNat cx o 0 32 g, rangedNat cx o 0 64 x with
    | none, some v, some m, some g, some x => keep { k with queues := some [v, m, g, x] }
    | _, _, _, _, _ => none
  | ".feature", [m] =>
    match k.feature, rangedNat cx o 0 (2 ^ 32 - 1) m with
    | none, some m => keep { k with feature := some m }
    | _, _ => none
  | ".discard", [a, n] =>
    match rangedNat cx o 0 Machine.scrSize a, rangedNat cx o 64 Machine.scrSize n with
    | some a, some n =>
      if k.discs.length < 16 ∧ (cx.sizing ∨ (Machine.discOk (a, n) ∧ apart (a, n) k.discs)) then keep { k with discs := k.discs ++ [(a, n)] } else none
    | _, _ => none
  | ".footprint", [[.name kind], sl, off, n] =>
    match position kind ["read", "write", "rw"], rangedNat cx o 0 63 sl, ranged cx o (-2 ^ 63) (2 ^ 63 - 1) off, rangedNat cx o 1 (2 ^ 32 - 1) n with
    | some kd, some sl, some off, some n =>
      if k.foots.length < 16 then keep { k with foots := k.foots ++ [{ kind := kd + 1, slot := sl, size := n, off := off }] } else none
    | _, _, _, _ => none
  | ".ops", [st, f, c, w, u] =>
    match rangedNat cx o 0 11 st, rangedNat cx o 0 255 f, rangedNat cx o 1 32 c, rangedNat cx o 0 (2 ^ 32 - 1) w, rangedNat cx o 0 (2 ^ 32 - 1) u with
    | some st, some f, some c, some w, some u =>
      if k.ops.length < 8 ∧ (cx.sizing ∨ Machine.opFmtOk f) then
        keep { k with ops := k.ops ++ [{ vstep := st, fmt := f, clusters := c, watts := w, micros := u }] }
      else none
    | _, _, _, _, _ => none
  | ".onfault", [l] =>
    match k.onfault, exprVal cx o l with
    | none, some v =>
      if cx.sizing ∨ (namesLabel (envAt cx o) l ∧ 0 ≤ v ∧ v < cx.whole.code.length ∧ v % 4 = 0) then keep { k with onfault := some v.toNat } else none
    | _, _ => none
  | ".tmpl", (.name n :: []) :: (.name st :: r) :: l =>
    if o.place ≠ .pool then none else template cx o k n st (match operands r with | [] => if l.isEmpty then [] else [] :: l | os => os ++ l)
  | _, _ => none

/-- A directive (R152). In a pool stand `.tmpl`, `.section` and `.equ`, until `.end` or `.data`. -/
def directive (cx : Ctx) (o : Out) (d : String) (ops : List (List Tok)) : Option Out :=
  if o.place = .pool ∧ !([".tmpl", ".section", ".equ", ".end", ".data"].contains d) then none
  else match d, ops with
    | ".kernel", [[.name n]] =>
      if o.kern.isNone && (match n.toList with | c :: _ => symStart c | [] => false) then
        some { o with kern := some { name := n, poolBase := o.pool.length }, place := .code }
      else none
    | ".data", [] => some { o with place := .data }
    | ".equ", [[.name n], v] => (exprVal cx o v).bind fun v => define o n (.const v)
    | ".word", _ :: _ => values cx 4 o ops
    | ".half", _ :: _ => values cx 2 o ops
    | ".align", [n] => (rangedNat cx o 0 16 n).bind fun n => put o (List.replicate ((2 ^ n - here o % 2 ^ n) % 2 ^ n) 0)
    | _, _ => o.kern.bind fun k => kernelLine cx o k d ops

/-- One source line: a label, a statement and a comment, each of them optional (R147). -/
def sourceLine (cx : Ctx) (o : Out) (l : String) : Option Out :=
  let stmt (o : Out) : List Tok → Option Out
    | [] => some o
    | .name n :: r => if n.toList.head? = some '.' then directive cx o n (operands r) else codeLine cx o n (operands r)
    | _ :: _ => none
  match lex l with
  | some (.name n :: .op ":" :: r) => (defineLabel cx o n).bind fun o => stmt o r
  | some ts => stmt o ts
  | none => none

/-- One pass over a source. Every kernel it opens is closed. -/
def pass (cx : Ctx) (src : List String) : Option Out :=
  match src.foldl (fun o l => o.bind fun o => sourceLine cx o l) (some {}) with
  | some o => if o.kern.isNone then some o else none
  | none => none

/-- Sizing passes until the symbols, the pools and the sizes settle. -/
def settle (lg : Legal) (src : List String) : Nat → Out → Option Out
  | 0, _ => none
  | n + 1, o => (pass { lg := lg, whole := o, sizing := true } src).bind fun r => if r = o then some o else settle lg src n r

/-- The sections and the kernels of a source, against the symbols that it defines itself. -/
def assembleOut (lg : Legal) (src : List String) : Option Out :=
  (settle lg src 16 {}).bind fun o => (pass { lg := lg, whole := o, sizing := false } src).bind fun r =>
    if r.syms = o.syms then some r else none

/-! ### The image (R157 to R160) -/

def utf8 (s : String) : List Byte := s.toList.map fun c => BitVec.ofNat 8 c.toNat

def opBytes (e : Machine.OpEntry) : List Byte := leInt 1 e.vstep ++ leInt 1 e.fmt ++ leInt 2 e.clusters ++ leInt 4 e.watts ++ leInt 8 e.micros
def discBytes (d : Nat × Nat) : List Byte := leInt 4 d.1 ++ leInt 4 d.2
def footBytes (f : Machine.FootEntry) : List Byte := leInt 1 f.kind ++ leInt 3 f.slot ++ leInt 4 f.size ++ leInt 8 f.off

/-- The tables of a kernel: operating points, discards and footprints. -/
def tableBytes (k : Decl) : List Byte := k.ops.flatMap opBytes ++ k.discs.flatMap discBytes ++ k.foots.flatMap footBytes

/-- A kernel descriptor: its name in the string table, and its tables from an offset on (R159). -/
def descBytes (k : Decl) (nameOff tab : Nat) : List Byte :=
  leInt 4 nameOff ++ leInt 4 (k.entry.getD 0) ++ leInt 2 k.poolBase ++ leInt 2 k.engs.length
  ++ (k.queues.getD []).flatMap (Machine.leBytes 1) ++ leInt 4 (k.feature.getD 0)
  ++ leInt 4 (if k.onfault.isSome then 1 else 0) ++ leInt 4 (k.onfault.getD 0)
  ++ leInt 1 k.ops.length ++ leInt 1 k.discs.length ++ leInt 2 k.foots.length
  ++ leInt 4 tab ++ leInt 4 (tab + 16 * k.ops.length) ++ leInt 4 (tab + 16 * k.ops.length + 8 * k.discs.length) ++ leInt 20 0

def descs : List Decl → Nat → Nat → List Byte
  | [], _, _ => []
  | k :: ks, n, t => descBytes k n t ++ descs ks (n + (utf8 k.name).length + 1) (t + (tableBytes k).length)

def pad (l : List Byte) (n : Nat) : List Byte := l ++ List.replicate (n - l.length) 0

/-- The bytes of an image. -/
def imageBytes (o : Out) : Option (List Byte) :=
  let n := o.done.length
  let code := pad o.code ((o.code.length + 3) / 4 * 4)
  let tables := o.done.flatMap tableBytes
  let names := o.done.flatMap fun k => utf8 k.name ++ [0]
  let strOff := 64 + 64 * n + tables.length
  let codeOff := sectionRoom (strOff + names.length)
  let body := pad (pad (descs o.done 0 (64 + 64 * n) ++ tables ++ names) (codeOff - 64) ++ code) (codeOff - 64 + poolDist o)
    ++ pad (o.pool.flatMap fun w => Machine.leBytes 8 w.toNat) (dataDist o - poolDist o) ++ o.data
  let rest := leInt 4 (64 + body.length) ++ leInt 4 codeOff ++ leInt 4 code.length
    ++ leInt 4 (codeOff + poolDist o) ++ leInt 4 o.pool.length ++ leInt 4 (codeOff + dataDist o) ++ leInt 4 o.data.length
    ++ leInt 4 64 ++ leInt 4 strOff ++ leInt 4 names.length ++ leInt 12 0 ++ body
  if 1 ≤ n ∧ n ≤ 256 ∧ 64 + body.length < 2 ^ 32 ∧ o.done.all (fun k => decide (k.poolBase < 2 ^ 16)) then
    some (leInt 4 0x0149475A ++ leInt 2 1 ++ leInt 2 n ++ Machine.leBytes 4 (Machine.crc32c rest).toNat ++ rest)
  else none

/-- The opcode maps, as the decoder reads them. -/
noncomputable def legal : Legal :=
  { c := fun w => (decodeLegalC w).isSome
    e := fun q w => (decodeLegalE (match q with | 0 => .v | 1 => .m | 2 => .g | _ => .x) w).isSome }

/-- skas: the generator image of a source, or none where skas refuses it. -/
noncomputable def skas (src : List String) : Option (List Byte) := (assembleOut legal src).bind imageBytes

end Sys2Proof.Skas
end

