-- ==== Sys2Proof/Laws/Skas.lean ====
section
/-! SUPPORT. What the assembler does: the words it writes are words of the opcode maps, and no symbol has the name of a
register or of a mnemonic. -/

namespace Sys2Proof.Skas

theorem wordC_legal {lg : Legal} {e : Env} {n : String} {ops : List (List Tok)} {w : W32} (h : wordC lg e n ops = some w) :
    lg.c w = true := by
  obtain ⟨r, -, hr⟩ := List.exists_of_findSome?_eq_some h
  obtain ⟨b, -, hb⟩ := Option.bind_eq_some_iff.1 hr
  split at hb
  · simp only [Option.ite_none_right_eq_some, Option.some.injEq] at hb
    exact hb.2 ▸ hb.1
  · cases hb

theorem wordE_legal {lg : Legal} {e : Env} {n : String} {ops : List (List Tok)} {q : Nat} {w : W64}
    (h : wordE lg e n ops = some (q, w)) : engineOf n = some q ∧ lg.e q w = true := by
  obtain ⟨p, hp, h⟩ := Option.bind_eq_some_iff.1 h
  obtain ⟨r, -, hr⟩ := List.exists_of_findSome?_eq_some h
  obtain ⟨b, -, hb⟩ := Option.bind_eq_some_iff.1 hr
  split at hb
  · obtain ⟨k, -, hk⟩ := Option.bind_eq_some_iff.1 hb
    simp only [Option.ite_none_right_eq_some, Option.some.injEq, Prod.mk.injEq] at hk
    obtain ⟨hl, rfl, rfl⟩ := hk
    exact ⟨hp, hl⟩
  · cases hb

/-- Every C-word that skas writes for one instruction is one that the decoder reads. -/
theorem wordC_decodes {e : Env} {n : String} {ops : List (List Tok)} {w : W32} (h : wordC legal e n ops = some w) :
    (decodeLegalC w).isSome = true := wordC_legal h

theorem define_name {o o' : Out} {n : String} {v : Sym} (h : define o n v = some o') :
    isReg n = false ∧ isMnemonic n = false := by
  simp only [define, symbolOk, Option.ite_none_right_eq_some, Bool.and_eq_true, Bool.not_eq_true'] at h
  exact ⟨h.1.1.1.2, h.1.1.2⟩

end Sys2Proof.Skas
end

