-- ==== Sys2Proof/Tests/Slice0.lean ====
section
/-! SUPPORT. Tests: words of the spec decode, ill-formed terms are refused, single steps on small states, and for every
statement states and operands that meet its hypotheses. -/

namespace Sys2Proof.Tests

open Sys2Proof Sys2Proof.Machine Sys2Proof.Statements

-- One theorem at a time: many evaluated at once take more threads than the check allows.
set_option Elab.async false

/-! ### Small states -/

/-- The next state of an outcome. -/
def after (o : Host.Outcome State Fault Refusal) : State :=
  match o with
  | .next t => t
  | .fault _ | .refused _ => State.reset

/-- Whether an outcome is a next state. -/
def goes (o : Host.Outcome State Fault Refusal) : Bool :=
  match o with
  | .next _ => true
  | .fault _ | .refused _ => false

/-- Virtual address of byte o of the local window (R59). -/
def loc (o : Nat) : W64 := 0xFFFFFFFFFFE00000 + BitVec.ofNat 64 o

/-- Strand 0 at the start of the local window with registers x. -/
def strand (x : Tbl W64) : Strand := { run := .ready, pc := loc 0, x := x }

/-- Core 0 runs strand 0. -/
def core (x : Tbl W64) : Core := { run := .on, strands := [(0, strand x)] }
def dev (k : Core) : State := { cores := [(0, k)] }
def cpu (x : Tbl W64) : State := dev (core x)

/-- Core 0 with a word at the head of queue q. -/
def eng (q : Nat) (w : QWord) (k : Core) : State := dev { k with run := .on, eng := [(q, { q := [.word w] })] }

/-- The outcome is the next state t. -/
def isNext (o : Host.Outcome State Fault Refusal) (t : State) : Bool :=
  match o with
  | .next u => decide (u = t)
  | .fault _ | .refused _ => false

/-! ### Conductor instructions -/

theorem test_addi_wraps : xget (cst (after (exec (.addi 5 1 (-3)) (cpu [(1, 1)])))) 5 = -2 := by decide +kernel
theorem test_x0_discards : xget (cst (after (exec (.addi 0 1 7) (cpu [(1, 1)])))) 0 = 0 := by decide +kernel
theorem test_sra_copies_sign :
    xget (cst (after (exec (.sra 3 1 2) (cpu [(1, 0x8000000000000000), (2, 127)])))) 3 = -1 := by decide +kernel
theorem test_slt_is_signed : xget (cst (after (exec (.slt 3 1 2) (cpu [(1, -1), (2, 0)])))) 3 = 1 := by decide +kernel
theorem test_sltu_is_unsigned : xget (cst (after (exec (.sltu 3 1 2) (cpu [(1, -1), (2, 0)])))) 3 = 0 := by decide +kernel
theorem test_bswap : xget (cst (after (exec (.bswap 3 1) (cpu [(1, 0x0102030405060708)])))) 3 = 0x0807060504030201 := by
  decide +kernel
theorem test_clz_of_zero : xget (cst (after (exec (.clz 3 1) (cpu [])))) 3 = 64 := by decide +kernel
theorem test_lsi : xget (cst (after (exec (.lsi 3 1 0xFFFF) (cpu [(1, 1)])))) 3 = 0x1FFFF := by decide +kernel
theorem test_lpc : xget (cst (after (exec (.lpc 3 (-1)) (cpu [])))) 3 = loc 0 - 4 := by decide +kernel

theorem witness_RegisterResult : aluResult (cpu [(1, 5)]) (.addi 5 1 (-3)) = some (5, [1], 2) ∧ Free (cpu [(1, 5)]) [5, 1] := by
  decide +kernel
theorem witness_RegisterResult_x0 : aluResult (cpu [(1, 5)]) (.add 0 1 1) = some (0, [1, 1], 10) ∧ Free (cpu [(1, 5)]) [0, 1, 1] := by
  decide +kernel

theorem witness_LateResult : lateResult (cpu [(1, 6), (2, 7)]) (.mul 3 1 2) = some (3, 1, 2, 4, 42)
    ∧ lateResult (cpu [(1, 6)]) (.div 0 1 2) = some (0, 1, 2, 36, -1) ∧ Free (cpu [(1, 6), (2, 7)]) [3, 1, 2] := by decide +kernel
theorem test_mulhsu : lateResult (cpu [(1, -1), (2, -1)]) (.mulhsu 3 1 2) = some (3, 1, 2, 4, -1) := by decide +kernel
theorem test_mul_waits_for_its_result :
    (cst (after (exec (.add 4 3 0) (after (exec (.mul 3 1 2) (cpu [(1, 6), (2, 7)])))))).run = .waiting := by decide +kernel
theorem test_divS_truncates : divS (-7) 2 = -3 ∧ remS (-7) 2 = -1 ∧ divS 7 (-2) = -3 ∧ remS 7 (-2) = 1 := by decide +kernel

theorem witness_Branch : branchTaken (cpu [(6, 1)]) (.bne 6 7 (-3)) = some (6, 7, -3, true)
    ∧ branchTaken (cpu []) (.bne 6 7 (-3)) = some (6, 7, -3, false) ∧ Free (cpu [(6, 1)]) [6, 7]
    ∧ leavesLoop (cst (cpu [(6, 1)])) (loc 0 - 12) = false ∧ encode (.bne 6 7 (-3)) = .cword 0x74C7FFFD := by decide +kernel
/-- Strand 0 in the body of an active loop of two words at the start of the local window. -/
def looping (x : Tbl W64) (lc : W64) (ec : BitVec 3) : State :=
  dev { core x with strands := [(0, { strand x with
    lc := lc, loop := { act := true, stm := 1, ec := ec, q := true, beg := loc 0, fin := loc 8 } })] }
theorem witness_Branch_leaves_loop : branchTaken (looping [] 0 0) (.beq 1 2 8) = some (1, 2, 8, true)
    ∧ Free (looping [] 0 0) [1, 2] ∧ leavesLoop (cst (looping [] 0 0)) (loc 32) = true := by decide +kernel
theorem test_bge_at_equality : (cst (after (exec (.bge 1 2 4) (cpu [])))).pc = loc 16 := by decide +kernel

theorem witness_Jump : ((jumpTarget (cpu []) (.jal 100)).map fun e => (e.1, e.2.2)) = some ([23], loc 400) ∧ Free (cpu []) [23]
    ∧ ((jumpTarget (cpu [(5, loc 8)]) (.jalr 5 5 4)).map fun e => (e.1, e.2.2)) = some ([5, 5], loc 12)
    ∧ ((jumpTarget (cpu [(3, 5)]) (.jtab 2 3 4 6)).map fun e => (e.1, e.2.2)) = some ([2, 3], loc 24)
    ∧ jumpTarget (cpu [(3, 4)]) (.jtab 2 3 4 6) = none ∧ leavesLoop (cst (cpu [])) (loc 400) = false := by decide +kernel
theorem test_jalr_reads_before_it_links :
    let t := cst (after (exec (.jalr 5 5 4) (cpu [(5, loc 8)])))
    t.pc = loc 12 ∧ xget t 5 = loc 4 := by decide +kernel
theorem witness_TableJump : let s := dev { core [(2, loc 16), (3, 1)] with scr := [(20, 5)] }
    Free s [2, 3] ∧ (rx s 3).toNat ≤ (4 : BitVec 6).toNat ∧ encode (.jtab 2 3 4 6) = .cword (0x8C438806 : W32)
    ∧ uncorrectable s (.scr 0 20) 4 = none ∧ leavesLoop (cst s) (loc 20) = false := by decide +kernel
theorem witness_TableJump_leaves : let s := looping [(2, loc 16)] 0 0
    Free s [2, 0] ∧ leavesLoop (cst { s with cores := [(0, { cc s with scr := [(16, 3)] })] }) (loc 12) = true
    ∧ leavesLoop (cst s) (loc 8) = false := by decide +kernel
theorem test_jtab_goes_by_its_entry :
    (cst (after (exec (.jtab 2 3 4 6) (dev { core [(2, loc 16), (3, 1)] with scr := [(20, 5)] })))).pc = loc 20 := by decide +kernel
theorem witness_MisalignedJump : Free (cpu [(5, loc 2)]) [0, 5] ∧ encode (.jalr 0 5 0) = .cword (0x8C050000 : W32)
    ∧ (rx (cpu [(5, loc 2)]) 5 + (0 : BitVec 15).signExtend 64).toNat % 4 ≠ 0 := by decide +kernel

theorem witness_Loop : (loopEffect (cpu [(4, 3)]) (.loop 4 1 4)).isSome = true ∧ (loopEffect (cpu []) .rot).isSome = true
    ∧ (loopEffect (looping [] 5 0) .lbrk).isSome = true ∧ (loopEffect (cpu []) (.lcrd 3)).isSome = true
    ∧ (loopEffect (cpu []) (.lcwr 3)).isSome = true ∧ Free (cpu [(4, 3)]) [4] := by decide +kernel
theorem witness_Loop_corners : rx (cpu []) 4 = 0 ∧ (cst (cpu [])).loop.act = false ∧ (cst (looping [] 0 0)).loop.act = true
    ∧ encode (.loop 4 1 4) = .cword 0x90840004 ∧ Free (cpu []) [4] := by decide +kernel
theorem witness_PassEnd : (cst (looping [(31, 9)] 2 1)).lc ≠ 0 ∧ (cst (looping [] 0 1)).loop.ec ≠ 0
    ∧ (cst (looping [] 0 0)).loop.ec = 0 ∧ 1 ≤ (cst (looping [] 0 0)).loop.stm.toNat := by decide +kernel
theorem test_pass_end_of_the_worked_loop :
    let t := passEnd (cst (looping [(24, 5)] 2 1))
    xget t 25 = 5 ∧ pget t 1 = true ∧ t.lc = 1 ∧ t.loop.ec = 1 ∧ t.loop.q = true ∧ t.pc = loc 0 := by decide +kernel

theorem witness_Predicate : predValue (cpu [(1, -1)]) (.psetLt 3 1 2) = some (3, [1, 2], true) ∧ Free (cpu [(1, -1)]) [1, 2]
    ∧ predValue (cpu []) (.pandn 7 0 1) = some (7, [], true) := by decide +kernel

/-! ### Memory -/

theorem witness_Misaligned : alignOf (cpu [(7, loc 2)]) (.ldW 24 7 0) = some ([24, 7], loc 2, 4) ∧ OnCore (cpu [])
    ∧ Free (cpu [(7, loc 2)]) [24, 7] ∧ (loc 2).toNat % 4 ≠ 0 ∧ encode (.ldW 24 7 0) = .cword 0x43074000
    ∧ alignOf (cpu [(7, loc 4)]) (.ldf 24 7) = some ([24, 7, 0], loc 4, 8) ∧ (loc 4).toNat % 8 ≠ 0 := by decide +kernel

/-- A request of core 0 reaches its place in the scratchpad. -/
def reaches (s : State) (r : Req) (o : Nat) : Bool :=
  (!r.align || decide (r.va.toNat % r.len = 0)) && !s.defer && !asksWalk s s.cur r.va
  && decide (reach s s.cur r.va r.len r.need false r.hostNo = (s, .ok (.scr 0 o) 27)) && mayPerform s (r.flight s 0 (.scr 0 o))
theorem reaches_spec {s : State} {r : Req} {o : Nat} (h : reaches s r o = true)
    (hw : r.watched = true → preciseHit s s.cur (.scr 0 o) r.len = none) : Reaches s r s (.scr 0 o) := by
  simp only [reaches, Bool.and_eq_true, Bool.or_eq_true, Bool.not_eq_true', decide_eq_true_eq] at h
  obtain ⟨⟨⟨⟨h1, h2⟩, h0⟩, h3⟩, h4⟩ := h
  exact ⟨fun ha => h1.resolve_left (by simp [ha]), h0, h2, h2, by simp [locTarget], ⟨_, h3⟩, fun g => .inr (hw g), h4⟩

theorem witness_Load : loadOf (cpu [(7, loc 8)]) (.ldB 24 7 0) = some (24, 7, .b, false, true, loc 8)
    ∧ Reaches (cpu [(7, loc 8)]) (loadReq 24 .b false true (loc 8)) (cpu [(7, loc 8)]) (.scr 0 8)
    ∧ uncorrectable (cpu [(7, loc 8)]) (.scr 0 8) 1 = none ∧ Free (cpu [(7, loc 8)]) [24, 7] :=
  ⟨by decide +kernel, reaches_spec (by decide +kernel) (by decide +kernel), by decide +kernel, by decide +kernel⟩
theorem test_load_extends : xget (cst (after (exec (.ldB 3 7 0) (dev { core [(7, loc 8)] with scr := [(8, 0x80)] })))) 3 = -128
    ∧ xget (cst (after (exec (.ldBu 3 7 0) (dev { core [(7, loc 8)] with scr := [(8, 0x80)] })))) 3 = 128 := by decide +kernel
theorem witness_Store : storeOf (cpu [(7, loc 8), (3, 0x1234)]) (.stH 3 7 2) = some (3, 7, 2, false, true, loc 10)
    ∧ Reaches (cpu [(7, loc 8), (3, 0x1234)]) (storeReq 2 0x1234 false true (loc 10)) (cpu [(7, loc 8), (3, 0x1234)]) (.scr 0 10)
    ∧ OnCore (cpu []) ∧ Free (cpu [(7, loc 8), (3, 0x1234)]) [3, 7] :=
  ⟨by decide +kernel, reaches_spec (by decide +kernel) (by decide +kernel), by decide +kernel, by decide +kernel⟩
theorem test_store_is_little_endian :
    (cc (after (exec (.stH 3 7 2) (cpu [(7, loc 8), (3, 0x1234)])))).scr = [(10, 0x34), (11, 0x12)] := by decide +kernel
theorem witness_Races : (match raceStep (takeOrd (cpu [])) ((loadReq 24 .b false true (loc 8)).flight (cpu []) 0 (.scr 0 8)) with
    | .ok _ => true
    | .error _ => false) = true := by decide +kernel

/-- A scratchpad whose word 1 holds 7, its tag full or empty. -/
def tagged (f : Tbl Unit) (x : Tbl W64) : State := dev { core x with scr := [(8, 7)], full := f }
theorem witness_Tagged : tagOf (.ldt 3 7) = some (.take, 3, 7, 0) ∧ tagCond .take (tagFull (tagged [(1, ())] []) 0 1) = true
    ∧ tagCond .take (tagFull (tagged [] []) 0 1) = false ∧ tagCond .put (tagFull (tagged [] []) 0 1) = true
    ∧ Reaches (tagged [] [(7, loc 8)]) (tagReq (tagged [] [(7, loc 8)]) .take 3 7 0) (tagged [] [(7, loc 8)]) (.scr 0 8)
    ∧ uncorrectable (tagged [] [(7, loc 8)]) (.scr 0 8) 8 = none ∧ Free (tagged [] [(7, loc 8)]) [3, 7, 0] :=
  ⟨by decide +kernel, by decide +kernel, by decide +kernel, by decide +kernel,
   reaches_spec (by decide +kernel) (by decide +kernel), by decide +kernel, by decide +kernel⟩
theorem test_take_empties : let s := after (exec (.ldt 3 7) (tagged [(1, ())] [(7, loc 8)]))
    xget (cst s) 3 = 7 ∧ tagFull s 0 1 = false := by decide +kernel
theorem test_take_of_an_empty_word_waits :
    (cst (after (exec (.ldt 3 7) (tagged [] [(7, loc 8)])))).flag = some (.tag 0 1 1024 (loc 8), 0) := by decide +kernel
theorem witness_Tagrd :
    Reaches (tagged [] [(7, loc 8)]) { op := .tagrd 3, va := loc 8, len := 8, need := pT ||| pR, plain := false }
      (tagged [] [(7, loc 8)]) (.scr 0 8) := reaches_spec (by decide +kernel) (by decide +kernel)
/-- Strand 0 has waited on the tag of word 1 until its limit. -/
def waitedTag : State := dev { core [] with strands := [(0, { strand [] with run := .waiting, wait := some (.tag 0 1 0 (loc 8)) })] }
theorem witness_TagTimeout : (sn waitedTag 0).run = .waiting ∧ (sn waitedTag 0).wait = some (.tag 0 1 0 (loc 8)) ∧ (sn waitedTag 0).flight = none
    ∧ 0 ≤ curCyc waitedTag := by decide +kernel

theorem witness_Atomic : atomicOf (.amoAdd 3 7 4 .w .none .core) = some (.add, .w, .none, 3, 7, 4)
    ∧ Reaches (tagged [] [(7, loc 8)]) (amoReq (tagged [] [(7, loc 8)]) .add .w .none 3 7 4) (tagged [] [(7, loc 8)]) (.scr 0 8)
    ∧ Reaches (tagged [] [(7, loc 8)]) (casReq (tagged [] [(7, loc 8)]) .d .none 3 7 4) (tagged [] [(7, loc 8)]) (.scr 0 8)
    ∧ uncorrectable (tagged [] [(7, loc 8)]) (.scr 0 8) 4 = none :=
  ⟨by decide +kernel, reaches_spec (by decide +kernel) (by decide +kernel), reaches_spec (by decide +kernel) (by decide +kernel),
   by decide +kernel⟩
theorem test_amo_smin : let s := after (exec (.amoSmin 3 7 4 .w .none .core) (tagged [] [(7, loc 8), (4, 0xFFFFFFFF)]))
    xget (cst s) 3 = 7 ∧ readLoc s (.scr 0 8) 5 = [0xFF, 0xFF, 0xFF, 0xFF, 0] := by decide +kernel
theorem test_cas : let s := after (exec (.cas 3 7 4 .d .none .core) (tagged [] [(7, loc 8), (3, 7), (4, 9)]))
    xget (cst s) 3 = 7 ∧ (cc s).scr = [(8, 9)] := by decide +kernel
theorem test_cas_fails : let s := after (exec (.cas 3 7 4 .d .none .core) (tagged [] [(7, loc 8), (3, 6), (4, 9)]))
    xget (cst s) 3 = 7 ∧ (cc s).scr = [(8, 7)] := by decide +kernel

theorem witness_Fence : fenceOf (.fenceRel .device) = some (false, true) ∧ Free (cpu []) [] ∧ OnCore (cpu [])
    ∧ flightsBefore (cc (cpu [])) (cc (cpu [])).ord = [] := by decide +kernel
/-- A load of word 1 in flight. -/
def flown : State :=
  let fl : Flight := { op := .load .d 3, word := 0, ord := 0, loc := .scr 0 8, va := loc 8, len := 8, write := false
                       rel := false, acq := false, plain := true, gen := false }
  dev { core [] with scr := [(8, 7)], strands := [(0, { strand [] with run := .waiting, flight := some fl })] }
theorem witness_Flight : ((sn flown 0).flight.map fun fl => (fl.op, fl.req.isNone, mayPerform flown fl, badRead flown fl))
    = some (.load .d 3, true, true, none) := by decide +kernel
theorem test_flight_lands : xget (cst (after (exec (.memoryAccessPerformed 0) flown))) 3 = 7 := by decide +kernel

/-! ### Composition, emission, tokens, markers -/

theorem witness_Compose : (composeEffect (cpu [(5, 0xAB)]) (.wins 3 5 8 7)).isSome = true
    ∧ (composeEffect (cpu []) (.sset 1 5 0)).isSome = true ∧ (composeEffect (cpu []) (.qstat 5 .v)).isSome = true
    ∧ Free (cpu [(5, 0xAB)]) [5] ∧ OnCore (cpu []) := by decide +kernel
theorem test_wins : (wval (after (exec (.wins 3 5 8 7) (cpu [(5, 0x1AB)]))) 3).val = 0xAB00 := by decide +kernel
theorem test_stream_stride_is_signed : let s := after (exec (.sset 1 5 5) (cpu [(5, 0xFFFFFFFF)]))
    strmGet (strmOf s 1) 5 = -1 := by decide +kernel

/-- A core whose task has a pool of one template. -/
def pooled (k : Core) : State := { dev { k with task := 1 } with
  ref := { tasks := [(1, { kernel := { poolCount := 1 }, poolVa := loc 64 })] } }
theorem witness_Template : Free (pooled (core [])) [] ∧ OnCore (pooled (core [])) ∧ (curTask (pooled (core []))).kernel.poolCount ≤ 1
    ∧ 0 < (curTask (pooled (core []))).kernel.poolCount ∧ encode (.wtmpl 3 1) = .cword 0xA8600001 := by decide +kernel
theorem witness_Template_reaches :
    Reaches (pooled (core [])) (templateReq (pooled (core [])) (.wtmpl 3 0) 0) (pooled (core [])) (.scr 0 64) :=
  reaches_spec (by decide +kernel) (by decide +kernel)
theorem test_wtmpl_keeps_the_origin :
    wval (after (exec (.wtmpl 3 0) (pooled { core [] with scr := [(64, 5)] }))) 3 = { val := 5, origin := 0 } := by decide +kernel

/-- Queue X holds n words. -/
def filled (n : Nat) (k : Core) : Core := { k with eng := [(3, { q := List.replicate n (.word { strand := 1 }) })] }
theorem witness_Emission : pget (cst (cpu [])) 0 = true ∧ pget (cst (cpu [])) 1 = false ∧ NotFault (cpu []) ∧ Free (cpu []) []
    ∧ (cc (cpu [])).switching = [] ∧ mayTake (core []) 3 0 = true ∧ mayTake (filled 64 (core [])) 3 0 = false
    ∧ mayTake (filled 63 (core [])) 3 0 = true := by decide +kernel
theorem test_emission_appends : ((queued (cc (after (exec (.emit .x 0 3) (cpu [])))) 3).map fun w => (w.pc, w.eseq, w.tmpl))
    = [(loc 0, 1, 0xFFFF)] := by decide +kernel
theorem test_emission_waits_for_an_entry :
    (cst (after (exec (.emit .x 0 3) (dev (filled 64 (core [])))))).wait = some (.entry 8) := by decide +kernel
theorem witness_Emitt : (0 : W16).toNat < (curTask (pooled (core []))).kernel.poolCount ∧ mayTake (cc (pooled (core []))) 3 0 = true
    ∧ Reaches (pooled (core [])) (templateReq (pooled (core [])) (.emitt 3 0) 0) (pooled (core [])) (.scr 0 64) :=
  ⟨by decide +kernel, by decide +kernel, reaches_spec (by decide +kernel) (by decide +kernel)⟩

theorem witness_Emitt_waits : let s := pooled (filled 64 (core []))
    (0 : W16).toNat < (curTask s).kernel.poolCount ∧ mayTake (cc s) 3 0 = false ∧ (cc s).switching = []
    ∧ (cc (pooled { core [] with switching := [1] })).switching ≠ [] ∧ Free s [] ∧ NotFault s
    ∧ (curTask s).kernel.poolCount ≤ (1 : W16).toNat ∧ encode (.emitt .x 0 1) = .cword (0xB3000001 : W32) := by decide +kernel
theorem test_emitt_waits_for_an_entry :
    (cst (after (exec (.emitt .x 0 0) (pooled (filled 64 (core [])))))).wait = some (.entry 8) := by decide +kernel

/-- A link with n tokens. -/
def linked (l n : Nat) : State := dev { core [] with links := [(l, List.replicate n { strand := 0, eseq := 0 })] }
theorem witness_Tokens : linkFree (cc (linked 20 15)) (linkCE 0) ≠ 0 ∧ linkFree (cc (linked 20 16)) (linkCE 0) = 0
    ∧ flightsBefore (cc (linked 20 15)) (cc (linked 20 15)).ord = [] ∧ tokens (cc (linked 25 1)) (linkEC 0) = [{ strand := 0, eseq := 0 }]
    ∧ tokens (cc (cpu [])) (linkEC 0) = [] ∧ Free (linked 20 15) [] ∧ NotFault (linked 20 15) := by decide +kernel
theorem test_tkpush : (tokens (cc (after (exec (.tkpush .v) (linked 20 15)))) (linkCE 0)).length = 16 := by decide +kernel
theorem test_tkpop_waits : (cst (after (exec (.tkpop .v) (cpu [])))).wait = some (.token 0) := by decide +kernel
theorem witness_Markers : (∀ q ∈ queuesOf 9, mayTake (cc (cpu [])) q 0 = true)
    ∧ (∃ q ∈ queuesOf 9, mayTake (filled 64 (core [])) q 0 = false)
    ∧ (∀ q ∈ queuesOf 9, hasMarker (cc (cpu [])) q 0 = false)
    ∧ (∃ q ∈ queuesOf 8, hasMarker (cc (after (exec (.mark 8) (dev (filled 1 (core [])))))) q 0 = true) := by decide +kernel

/-! ### Barriers, waits, strands, sections, control registers -/

/-- A task of one core. -/
def alone (x : Tbl W64) : State := { dev { core x with task := 1, ncores := 1, dom := [(0, 0x1000000000000)] } with
  ref := { tasks := [(1, { n := 1, st := .running, kernel := { onfault := some 64 } })] } }
theorem witness_Barrier : let s := alone []
    Free s [] ∧ OnCore s ∧ NotFault s ∧ (cst s).barOn = none
    ∧ (getSlot (tryArrive (setBarOn s 0 (some (0, 7, 0))) 0 7 0) 0 0 7).phase.toNat ≠ 0 := by decide +kernel
/-- A second strand is live. -/
def pair (x : Tbl W64) : State := let s := alone x
  { s with cores := [(0, { core x with task := 1, ncores := 1, dom := [(0, 0x1000000000000)], strands := [(0, strand x), (1, strand [])] })] }
theorem witness_Barrier_waits : let s := pair []
    Free s [] ∧ (cst s).barOn = none ∧ (getSlot (tryArrive (setBarOn s 0 (some (0, 7, 0))) 0 7 0) 0 0 7).phase.toNat = 0 := by
  decide +kernel
theorem test_lone_core_passes_its_barrier : (cst (after (exec (.bar .core 7) (alone [])))).pc = loc 4 := by decide +kernel
theorem test_barrier_waits_for_the_other_strand : (cst (after (exec (.bar .core 7) (pair [])))).run = .waiting := by decide +kernel
theorem witness_CountedBytes : (getSlot (alone []) 0 0 7).pending.toNat + (-1 : Int) < 0
    ∧ (getSlot (alone []) 0 0 7).pending.toNat + ((2 ^ 64 - 1 : Nat) : Int) < 2 ^ 64 := by decide +kernel
theorem test_counted_bytes_borrow : (match slotAdd (alone []) 0 0 7 (-1) with | .error v => decide (v = 0) | .ok _ => false) = true := by
  decide +kernel

theorem witness_TimedWait : (rx (cpu []) 5).toNat ≤ schedCyc (cpu []) 0 ∧ schedCyc (cpu [(5, 1)]) 0 < (rx (cpu [(5, 1)]) 5).toNat
    ∧ (rx (cpu []) 5).toNat ≤ (cpu []).gtc ∧ (cpu [(5, 1)]).gtc < (rx (cpu [(5, 1)]) 5).toNat ∧ Free (cpu [(5, 1)]) [5] := by
  decide +kernel
theorem test_wait_cyc : (cst (after (exec (.waitCyc 5) (cpu [(5, 1)])))).wait = some (.cyc 1)
    ∧ (cst (after (exec (.waitCyc 5) (cpu [])))).pc = loc 4 := by decide +kernel
/-- Strand 0 waits. -/
def waiting (w : Wait) : State := dev { core [] with strands := [(0, { strand [] with run := .waiting, wait := some w })] }
theorem witness_Reached : (sn (waiting (.cyc 0)) 0).run = .waiting ∧ (sn (waiting (.cyc 0)) 0).wait = some (.cyc 0)
    ∧ (0 : W64).toNat ≤ schedCyc (waiting (.cyc 0)) 0 ∧ (sn (waiting (.gtc 0)) 0).wait = some (.gtc 0)
    ∧ (0 : W64).toNat ≤ (waiting (.gtc 0)).gtc := by decide +kernel

theorem witness_Spawn : encode (.spawn 2 5) = .cword 0xE4450000 ∧ Free (alone [(5, loc 8)]) (5 :: (List.range 10).map (· + 1))
    ∧ liveStrand (alone []) (core []) 2 = false ∧ isFaultStrand (alone []) (cc (alone [])) 2 = false
    ∧ isFaultStrand (alone []) (cc (alone [])) 3 = true ∧ liveStrand (pair []) (cc (pair [])) 1 = true
    ∧ (rx (alone [(5, loc 8)]) 5).toNat % 4 = 0 ∧ (rx (alone [(5, loc 2)]) 5).toNat % 4 ≠ 0 := by decide +kernel
theorem test_spawn : let t := sn (after (exec (.spawn 2 5) (alone [(5, loc 8), (10, 3), (11, 4)]))) 2
    t.pc = loc 8 ∧ xget t 10 = 3 ∧ xget t 11 = 0 ∧ t.run = .ready := by decide +kernel
theorem witness_Exit : drainedOf (cc (cpu [])) 0 = true ∧ (cst (cpu [])).flag = none
    ∧ drainedOf { core [] with eng := [(3, { q := [.word {}] })] } 0 = false := by decide +kernel
theorem test_exit : (cst (after (exec .exit (alone [])))).run = .idle ∧ (cc (after (exec .exit (alone [])))).run = .finished := by
  decide +kernel

/-- An interlocked core whose task has a yield request pending or none. -/
def yielding (r : Bool) (k : Core) : State := { dev { k with task := 1 } with ref := { tasks := [(1, { yldReq := r })] } }
theorem witness_Yield : Free (yielding true (core [])) [] ∧ NotFault (yielding true (core [])) ∧ encode .yield = .cword 0xE4000002
    ∧ (cc (yielding true (core []))).cs = 0 ∧ liveStrands (yielding true (core [])) (cc (yielding true (core []))) = [0]
    ∧ faultRunning (cc (yielding true (core []))) = false ∧ (cst (yielding true (core []))).loop.act = false
    ∧ drained (core []) = true ∧ anyToken (core []) = false ∧ (curTask (yielding true (core []))).yldReq = true
    ∧ (curTask (yielding false (core []))).yldReq = false ∧ anyToken (cc (linked 25 1)) = true
    ∧ drained (filled 1 (core [])) = false ∧ liveStrands (pair []) (cc (pair [])) ≠ [0] := by decide +kernel
theorem test_yield_without_request : isNext (exec .yield (yielding false (core []))) (goOn (yielding false (core [])) (yielding false (core [])))
    = true := by decide +kernel
theorem test_yield_on_request : (cc (after (exec .yield (yielding true (core []))))).run = .yielded := by decide +kernel

theorem witness_Section : (cc (cpu [(5, 40)])).switching = [] ∧ sectionDrained (cc (cpu [(5, 40)])) = true ∧ NotFault (cpu [])
    ∧ sectionDrained (filled 1 (core [])) = false ∧ Free (dev (filled 1 (core []))) [5] := by decide +kernel
theorem test_start : let k := cc (after (exec (.start 5) (cpu [(5, 40)])))
    k.timed = true ∧ (getEng k 2).base = some 40 := by decide +kernel

theorem witness_Creg : Free (cpu []) [5] ∧ (encode (.crr 5 0x091)) = .cword 0xE0A00091 ∧ readCreg (cpu []) 0 0 0x091 = none
    ∧ readCreg (cpu []) 0 0 0x000 = some 0 ∧ isPrologue 3072 = true := by decide +kernel
/-- A prologue conductor runs. -/
def prologue (x : Tbl W64) : State :=
  { cur := 3072, cores := [(3072, { core x with task := 1 })],
    ref := { pros := [(0, 0, 0)], graphs := [(0, { nodes := [{ st := .prologue, task := 1 }] })] } }
theorem test_prologue_reads_no_lid : (cst (after (exec (.crr 5 0x002) (prologue [])))).run ≠ .waiting
    ∧ xget (cst (after (exec (.crr 5 0x006) (prologue [])))) 5 = 1 := by decide +kernel
theorem witness_Crw : writableCreg 0x002 = false ∧ wpEn (core []) 7 = false ∧ (0x08E : BitVec 12).toNat = 0x080 + 2 * 7
    ∧ (0x08F : BitVec 12).toNat = 0x081 + 2 * 7 ∧ (rx (cpu [(5, 0x10001)]) 5).getLsbD 16 = true
    ∧ (rx (cpu []) 5).getLsbD 16 = false ∧ wpEn { core [] with wpCtl := [(0, 0x10000)] } 0 = true
    ∧ encode (.crw 0x068 20) = .cword 0xE0148068 ∧ Free (cpu []) [20] := by decide +kernel
theorem witness_Watch : let s := dev { core [] with wpAdr := [(7, loc 16)] }
    reach s s.cur (tget 0 (cc s).wpAdr 7) 16 0 false false = (s, .ok (.scr 0 16) 27) ∧ s.defer = false
    ∧ flightsBefore (cc s) (cc s).ord = [] ∧ Free s [] ∧ OnCore s := by decide +kernel
theorem witness_Watch_faults : let s := dev { core [] with wpAdr := [(7, 0x0200000000000000)] }
    reach s s.cur (tget 0 (cc s).wpAdr 7) 16 0 false false
      = (s, .flt { code := 0x0010, addr := 0x0200000000000000, detail := 0 }) := by decide +kernel
theorem test_watch_arm : let s := after (exec (.watchArm 7 0x0F0F) (dev { core [] with wpAdr := [(7, loc 16)] }))
    tget 0 (cc s).wpCtl 7 = 0x10F0F ∧ (s.pro.watches.map fun w => (w.n, w.loc)) = [(7, .scr 0 16)] := by decide +kernel
theorem test_precise_watch_faults :
    let s := after (exec (.watchArm 0 0x0F0F) (dev { core [(7, loc 16)] with wpAdr := [(0, loc 16)] }))
    (cst (after (exec (.stW 0 7 0) s))).run = .faulted ∧ (cst (after (exec (.stW 0 7 4) s))).run = .ready := by decide +kernel
/-- A watch in flight. -/
def sentWatch : State :=
  let fl : Flight := { op := .watch 7 0x10001, word := 0, ord := 0, loc := .scr 0 16, va := loc 16, len := 16, write := false
                       rel := false, acq := false, plain := false, gen := false }
  dev { core [] with strands := [(0, { strand [] with run := .waiting, flight := some fl })] }
theorem witness_SentWatch : ((sn sentWatch 0).flight.map fun fl => (fl.op, mayPerform sentWatch fl))
    = some (.watch 7 0x10001, true) := by decide +kernel

/-! ### Faults -/

theorem witness_LevelOne : trapRoom (alone []) = true ∧ hasFaultStrand (alone []) (cc (alone [])) = true
    ∧ isFaultStrand (alone []) (cc (alone [])) 0 = false ∧ isPrologue 0 = false := by decide +kernel
theorem test_reserved_word_faults : let s := after (exec (.illegalCWord 0) (alone []))
    (cst s).run = .faulted ∧ ((cc s).pendRecs.map fun p => (p.trap.code, p.trap.pc)) = [(1, loc 0)] := by decide +kernel
theorem test_trap_record_bytes : (trapBytes
    { gtc := 1, task := 2, seq := 3, lid := 4, strand := 5, level := 1, code := 0x0101, engine := 0xFF
      pc := 6, position := 7, eseq := 8, tmpl := 0xFFFF, addr := 9, detail := 10 }).map (·.toNat)
    = [1,0,0,0,0,0,0,0, 2,0,0,0, 3,0,0,0, 4,0, 5, 1, 1,1, 0xFF, 0, 6,0,0,0,0,0,0,0, 7,0,0,0,0,0,0,0, 8,0,0,0, 0xFF,0xFF, 0,0,
       9,0,0,0,0,0,0,0, 10,0,0,0,0,0,0,0] := by decide +kernel
/-- A record waits for the fault strand. -/
def recorded : State := after (exec (.illegalCWord 0x1234) (alone []))
theorem witness_FaultStart : (cc recorded).run = .on ∧ (cc recorded).handling = none ∧ hasFaultStrand recorded (cc recorded) = true
    ∧ (cc recorded).hold = false ∧ (nextRecord (cc recorded).pendRecs).isSome = true := by decide +kernel
/-- The fault strand runs. -/
def handling : State := let s := after (exec .faultStrandStart recorded)
  setCC s { cc s with cs := 3 }
theorem witness_FaultReturn : isFaultStrand handling (cc handling) (cc handling).cs = true ∧ (cc handling).handling.isSome = true
    ∧ (cc handling).cpy.slot = none ∧ encode (.fret 2) = .cword 0xEC000002 ∧ Free handling [] ∧ NotFault (alone []) := by
  decide +kernel
/-- A record of the copy word in progress. -/
def copyRecord : Pending :=
  { trap := { gtc := 0, task := 1, seq := 0, lid := 0, strand := 0, level := 2, code := 0x0020, engine := 3, pc := 0, position := 0
              eseq := 1, tmpl := 0xFFFF, addr := 0, detail := 0 }
    word := 0, prog := 0, issued := true }
/-- The fault strand handles a record of an issued copy word with a counted slot and 8 bytes not performed. -/
def copyStopped : State :=
  let s := setCC handling { cc handling with cpy := { (cc handling).cpy with slot := some (0, 3), left := 8 } }
  setSlot s 0 0 3 { pending := 8 }
theorem witness_StoppedCopy : let p := copyRecord
    (p.issued = true ∧ p.trap.level = 2 ∧ p.trap.engine = 3) ∧ (cc copyStopped).cpy.slot = some (0, 3)
    ∧ (match slotAdd (setCC copyStopped { cc copyStopped with cpy := { (cc copyStopped).cpy with left := 0 } }) 0 0 3 (-8) with
      | .ok _ => true
      | .error _ => false) = true := by decide +kernel
theorem test_a_stopped_copy_word_leaves_its_slot :
    (getSlot (copyUncount copyStopped copyRecord) 0 0 3).pending = 0 := by
  decide +kernel
theorem test_fault_strand_runs_at_its_entry : (cst handling).pc = 64 ∧ (cc handling).fltWord = 0x1234 := by decide +kernel
theorem test_skip_resumes_after_the_instruction : (sn (after (exec (.fret 1) handling)) 0).pc = loc 4
    ∧ (sn (after (exec (.fret 1) handling)) 0).run = .ready := by decide +kernel
theorem test_retry_resumes_at_the_instruction : (sn (after (exec (.fret 0) handling)) 0).pc = loc 0 := by decide +kernel

theorem witness_FetchFault : (match fetchAt (dev { core [] with strands := [(0, { strand [] with pc := 2 })] }) 0 2 with
    | (_, .error f) => some f.code
    | (_, .ok _) => none) ≠ none := by decide +kernel
theorem witness_BlockEnd : let s := pair []
    let s := setCst s { cst s with block := 1024 }
    OnCore s ∧ 1024 ≤ (cst s).block ∧ strandReady s s.cur 1 = true ∧ strandReady s s.cur 2 = false := by decide +kernel
theorem witness_Forbidden : encode (.tkpush .v) = .cword 0xB8000000 ∧ notInPrologue (.tkpush .v) = true
    ∧ notInFaultStrand (.tkpush .v) = true ∧ isPrologue (prologue []).cur = true
    ∧ isFaultStrand handling (cc handling) (cc handling).cs = true ∧ OnCore handling := by decide +kernel

/-! ### Engine words -/

def head : EHead := { pop := none, push := none, idle := 1 }
/-- The queued word of an instruction, emitted by strand 0. -/
def wordFor (i : Instr) : QWord :=
  match encode i with
  | .eword _ w => { bits := w, pc := loc 0, eseq := 1 }
  | .cword _ | .event => {}
def qwordOn (m : Strm) (r : Nat) (i : Instr) : QWord := { wordFor i with snaps := [(r, m)] }

theorem witness_NullWord : let w := wordFor (.vnop { head with pop := some .v })
    MayIssue 0 { head with pop := some .v } (eng 0 w { core [] with links := [(20, [{ strand := 0, eseq := 0 }])] }) w
    ∧ MayIssue 3 head (eng 3 (wordFor (.xnop head)) (core [])) (wordFor (.xnop head)) := by decide +kernel
theorem test_null_word_pops_and_counts : let w := wordFor (.vnop { head with pop := some .v })
    let k := cc (after (exec (.vnop { head with pop := some .v }) (eng 0 w { core [] with links := [(20, [{ strand := 0, eseq := 0 }])] })))
    tokens k 20 = [] ∧ (getEng k 0).cseq = 1 ∧ (getEng k 0).q = [] := by decide +kernel
theorem test_word_waits_for_its_token : let w := wordFor (.vnop { head with pop := some .v })
    (getEng (cc (after (exec (.vnop { head with pop := some .v }) (eng 0 w (core []))))) 0).wait = some (2, 4, 0) := by decide +kernel
theorem witness_TakeWord : (wordFor (.xnop head)).held = false
    ∧ (getEng (cc (eng 3 (wordFor (.xnop head)) (core []))) 3).wait = none := by decide +kernel
/-- A timed section in cycle 5. -/
def timedAt (q : Nat) (w : QWord) : State :=
  { eng q w { core [] with timed := true } with clusters := [(0, { cyc := 5 })] }
theorem witness_ScheduleMiss : let w := wordFor (.vnop head)
    (wordsOf (getEng (cc (timedAt 0 w)) 0).q).head? = some w ∧ headOf w.bits = some head ∧ wordIdle w.bits ≠ 0
    ∧ wordDue (cc (timedAt 0 w)) (getEng (cc (timedAt 0 w)) 0) (wordIdle w.bits) < curCyc (timedAt 0 w) := by decide +kernel
theorem test_late_word_misses : let s := after (exec (.scheduleMiss .v) (timedAt 0 (wordFor (.vnop head))))
    (cc s).hold = true ∧ (getEng (cc s) 0).stop = true := by decide +kernel
theorem witness_ScheduleMiss_token : let w := wordFor (.vnop { head with pop := some .m, idle := 5 })
    wordDue (cc (timedAt 0 w)) (getEng (cc (timedAt 0 w)) 0) (wordIdle w.bits) = curCyc (timedAt 0 w)
    ∧ tokenHolds (cc (timedAt 0 w)) 0 { head with pop := some .m, idle := 5 } w ≠ [] := by decide +kernel
theorem witness_ReservedWord : MayIssue 0 { pop := none, push := none, idle := 0 } (eng 0 { bits := 0x0140000000000000 } (core []))
    { bits := 0x0140000000000000 } := by decide +kernel

/-! ### Vector words -/

def vw : VWord := { h := head, vd := 1, va := 2, vb := 3, vc := 4, m := 0, mz := false, rm := 0, nf := false, ty := 6, fn := 0 }
/-- Core 0 with a word of queue V and vector registers. -/
def vdev (i : Instr) (v : Tbl (BitVec 2048)) : State := eng 0 (wordFor i) { core [] with vec := { v := v } }
/-- Every hypothesis of an issue holds, and the word issues as its statement says. -/
def issues (i : Instr) (e : Option VecEffect) (s : State) : Bool :=
  match e with
  | none => false
  | some e =>
    let t := vecSettle s
    let w := wordFor i
    let u := takeWord t 0 e.h w
    decide (MayIssue 0 e.h t w) && decide (vecHolds t e.uses = []) && decide (badReg (cc t) e.uses = none)
    && isNext (exec i s) (vecStart u.1
      { i := { u.2 with due := some (curCyc t + e.uses.lat) }, dest := (e.run (cc t)).1
        flags := BitVec.ofNat 320 (e.run (cc t)).2, acc := none } e.uses.classC)

theorem witness_FloatWords : issues (.vfadd { vw with ty := 0 }) (floatWord (.vfadd { vw with ty := 0 }))
    (vdev (.vfadd { vw with ty := 0 }) [(2, 0x3F800000), (3, 0x40000000)]) = true
    ∧ issues (.vfdiv { vw with ty := 1, m := 1, mz := true }) (floatWord (.vfdiv { vw with ty := 1, m := 1, mz := true }))
      (vdev (.vfdiv { vw with ty := 1, m := 1, mz := true }) [(2, 0x3C00), (3, 0)]) = true := by decide +kernel
theorem witness_IntWords : issues (.vadd vw) (intWord (.vadd vw)) (vdev (.vadd vw) [(2, 5), (3, 7)]) = true
    ∧ issues (.vsra { vw with ty := 4, fn := 15 }) (intWord (.vsra { vw with ty := 4, fn := 15 }))
      (vdev (.vsra { vw with ty := 4, fn := 15 }) [(2, 0x80)]) = true := by decide +kernel
theorem witness_MoveWords : issues (.vmov { vw with fn := 1 }) (moveWord (.vmov { vw with fn := 1 })) (vdev (.vmov { vw with fn := 1 }) [(2, 9)])
      = true
    ∧ issues (.vmand { vw with vd := 1, va := 2, vb := 0 }) (moveWord (.vmand { vw with vd := 1, va := 2, vb := 0 }))
      (vdev (.vmand { vw with vd := 1, va := 2, vb := 0 }) []) = true := by decide +kernel
theorem witness_ConversionWords : issues (.vcvtf { vw with ty := 6, fn := 0 }) (convertWord (.vcvtf { vw with ty := 6, fn := 0 }))
    (vdev (.vcvtf { vw with ty := 6, fn := 0 }) [(2, 3)]) = true := by decide +kernel
theorem witness_ComplexWords : issues (.vcmul { vw with ty := 0 }) (complexWord (.vcmul { vw with ty := 0 }))
    (vdev (.vcmul { vw with ty := 0 }) [(2, 0x3F8000003F800000), (3, 0x40000000)]) = true := by decide +kernel
theorem witness_ReduceWords : issues (.vrsum { vw with ty := 10 }) (reduceWord (.vrsum { vw with ty := 10 }))
    (vdev (.vrsum { vw with ty := 10 }) [(2, 0x300000004)]) = true := by decide +kernel
/-- The register a word writes when it lands. -/
def landed (r : Nat) (i : Instr) (v : Tbl (BitVec 2048)) (lat : Nat) : BitVec 2048 :=
  let s := after (exec i (vdev i v))
  tget 0 (cc (after (exec .vectorWordCompletion { s with clusters := [(0, { cyc := lat })] }))).vec.v r
theorem test_vfadd : landed 1 (.vfadd { vw with ty := 0 }) [(2, 0x3F800000), (3, 0x40000000)] 4 = 0x40400000 := by decide +kernel
theorem test_vadd_saturates : landed 1 (.vadd { vw with ty := 4, fn := 1 }) [(2, 0x7F80), (3, 0x01FF)] 2 = 0x7F80 := by decide +kernel
theorem test_vmulh : landed 1 (.vmulh { vw with ty := 8 }) [(2, 0xFF), (3, 0xFF)] 4 = 0xFE := by decide +kernel
theorem test_vrsum_lands_in_element_0 : landed 1 (.vrsum { vw with ty := 10, fn := 1 }) [(2, 0x300000004)] 64 = 7 := by decide +kernel
theorem witness_Disabled : (32 : Nat) = 8 ∨ (32 : Nat) = 16 ∨ (32 : Nat) = 32 ∨ (32 : Nat) = 64 := by decide
theorem test_disabled_elements_keep : elemOf (landed 1 (.vadd { vw with m := 1 }) [(1, 9), (2, 5), (3, 7)] 2) 32 0 = 9 := by decide +kernel

/-- A stream of n 32-bit integers at the start of the scratchpad. -/
def strm (n : Nat) : Strm := { base := loc 64, fmt := 0x06, ext0 := BitVec.ofNat 32 n, ext1 := 1, ext2 := 1, str0 := 1 }
/-- A row word on stream 2. -/
def vm : VWord := { vw with vb := 0, vc := 0 }
theorem witness_VectorMemory : let i := Instr.vld vm
    let qw := qwordOn (strm 4) 2 i
    let s := eng 0 qw { core [] with scr := [(64, 5), (68, 6)] }
    let u := vmemUses (.row none) true vm
    MayIssue 0 head (vecSettle s) qw ∧ vecHolds (vecSettle s) u = [] ∧ badReg (cc (vecSettle s)) u = none
    ∧ vmemBad (.row none) vm (strm 4) = false
    ∧ (match vmemChecks (.row none) true qw (strm 4) (vmemAccs (.row none) vm (strm 4) (cc (vecSettle s))) (vecSettle s) with
        | .ok (s1, l) => decide (s1 = vecSettle s) && ownAcc s1.cur l && decide (vmemPortChecks true l s1 = none)
        | .error _ => false) = true := by decide +kernel
theorem test_vld : let i := Instr.vld vm
    let s := after (exec i (eng 0 (qwordOn (strm 4) 2 i) { core [] with scr := [(64, 5), (68, 6)] }))
    tget 0 (cc (after (exec .vectorWordCompletion { s with clusters := [(0, { cyc := 6 })] }))).vec.v 1 = 0x600000005 := by decide +kernel
theorem test_vst : let i := Instr.vst vm
    (cc (after (exec i (eng 0 (qwordOn (strm 2) 2 i) { core [] with vec := { v := [(1, 0x600000005)] } })))).scr = [(64, 5), (68, 6)] := by
  decide +kernel

theorem witness_TaggedVector : let i := Instr.vldt vm
    let qw := qwordOn { strm 2 with fmt := 0x03 } 2 i
    let u := vmemUses (.row (some .take)) true vm
    let go (f : Tbl Unit) : Bool :=
      let s := vecSettle (eng 0 qw { core [] with full := f })
      match vmemChecks (.row (some .take)) true qw (snapOf qw 2) (vmemAccs (.row (some .take)) vm (snapOf qw 2) (cc s)) s with
      | .ok (s1, l) => decide (s1 = s) && ownAcc s1.cur l && decide (readFlt s1 0 (lowVa l) l = none) && decide (tagFail .take (cc s1).full l = none)
      | .error _ => false
    MayIssue 0 head (vecSettle (eng 0 qw (core []))) qw ∧ vecHolds (vecSettle (eng 0 qw (core []))) u = []
    ∧ vmemBad (.row (some .take)) vm (snapOf qw 2) = false ∧ go [(8, ()), (9, ())] = true ∧ go [(8, ())] = false := by decide +kernel
theorem test_tagged_vector_takes_all_or_none : let i := Instr.vldt vm
    let s (f : Tbl Unit) := eng 0 (qwordOn { strm 2 with fmt := 0x03 } 2 i) { core [] with full := f }
    (cc (after (exec i (s [(8, ()), (9, ())])))).full = [] ∧ (cc (after (exec i (s [(8, ())])))).full = [(8, ())]
    ∧ (getEng (cc (after (exec i (s [(8, ())])))) 0).wait = some (1, loc 72, 0) := by decide +kernel
/-- A word in flight that lands in register 1, in cycle d. -/
def landing (d : Nat) : State :=
  dev { core [] with vec := { fly := [{ i := { w := {}, t := 0, due := some d, push := none }, dest := .reg 1 7 15, flags := 1, acc := none }] } }
theorem witness_VectorLands : ((cc (landing 0)).vec.fly.map fun x => (x.i.due, x.dest)) = [(some 0, .reg 1 7 15)]
    ∧ 0 ≤ curCyc (landing 0) := by decide +kernel
theorem test_vector_lands : let v := (cc (after (exec .vectorWordCompletion (landing 0)))).vec
    v.v = [(1, 7)] ∧ v.vx = 1 ∧ v.fly = [] := by decide +kernel
/-- A load of named memory holds queue V. -/
def holding : State :=
  let a : VAcc := { el := 0, va := 0x1000, len := 4, loc := .named 0x1000, pos := 0, data := [] }
  { dev { core [] with vec := { fly := [{ i := { w := {}, t := 0, due := none, push := none }, dest := .reg 1 0 0xFFFFFFFF, flags := 0
                                          acc := some [a], load := true }] } } with mem := [(0x1000, 9)] }
theorem witness_RemoteVector : (match holdingWord (cc holding).vec.fly with
    | some (x, l, rest) => decide (vmemPortChecks x.load l holding = none) && decide (retiredFlt holding l = none) && (match volStep holding 0 x.load (lowVa l) (if x.load then [] else l) l with | .ready => true | _ => false)
        && rest.isEmpty
    | none => false) = true := by decide +kernel
theorem test_remote_vector_load : tget 0 (cc (after (exec .vectorWordCompletion (after (exec .vectorRemoteAccessDone holding))))).vec.v 1 = 9 := by decide +kernel

/-! ### Generator words -/

def gdev (i : Instr) (g : Tbl Gen) (m : Strm) : State := eng 2 (qwordOn m 2 i) { core [] with gen := { g := g } }
theorem witness_GeneratorWords : let i := Instr.gseed { h := head, gd := 3, sel := true, imm := 5 }
    (genChange i).isSome = true ∧ MayIssue 2 head (genSettle (gdev i [] {})) (qwordOn {} 2 i)
    ∧ genHolds (genSettle (gdev i [] {})) 3 true (some 1) = []
    ∧ (cc (genSettle (gdev i [] {}))).gen.bad.contains 3 = false := by decide +kernel
/-- Issue and land. -/
def generated (i : Instr) (g : Tbl Gen) : Tbl Gen :=
  (cc (after (exec .generatorWriteLanding { after (exec i (gdev i g {})) with clusters := [(0, { cyc := 1 })] }))).gen.g
theorem test_gseed_hi : generated (.gseed { h := head, gd := 3, sel := true, imm := 5 }) [(3, { seed := 7 })] = [(3, { seed := 0x500000007 })] := by
  decide +kernel
theorem test_gskip_wraps : generated (.gskip { h := head, gd := 3, sel := false, imm := 2 }) [(3, { draw := 0xFFFFFFFF })] = [(3, { draw := 1 })] := by
  decide +kernel
/-- A change of generator 3 in flight. -/
def changing : State :=
  dev { core [] with gen := { fly := [{ i := { w := {}, t := 0, due := some 0, push := none }, upd := some (3, .draw 9) }] } }
theorem witness_GeneratorLands : ((cc changing).gen.fly.map fun x => (x.i.due, x.fill.isNone, x.acc.isNone, x.upd))
    = [(some 0, true, true, some (3, .draw 9))] := by decide +kernel
theorem witness_GeneratorMemory : let i := Instr.gsave { h := head, gd := 3, ss := 2, k1 := 0, k2 := 0 }
    let m : Strm := { strm 8 with fmt := 0x03 }
    let s := genSettle (gdev i [(3, { seed := 7 })] m)
    MayIssue 2 head s (qwordOn m 2 i) ∧ gmemBad .save m = false ∧ genHolds s 3 true none = [] ∧ imageAlign .save m = none
    ∧ fillOrder s (gmemAccs .save m {}) = [] ∧ walksAsked s 2 (gmemAccs .save m (getGen (cc s) 3)) = none
    ∧ (match genChecks true 8 (qwordOn m 2 i) (gmemAccs .save m (getGen (cc s) 3)) s with
      | .ok (s1, l) => decide (s1 = s) && ownAcc s1.cur l && decide (genPortChecks true l s1 = none)
      | .error _ => false) = true := by decide +kernel
theorem test_gsave : let i := Instr.gsave { h := head, gd := 3, ss := 2, k1 := 0, k2 := 0 }
    (readNat (after (exec i (gdev i [(3, { seed := 7 })] { strm 8 with fmt := 0x03 }))) (.scr 0 64) 8) = 7 := by decide +kernel
theorem witness_GeneratorRemote : let w := wordFor (.gsave { h := head, gd := 3, ss := 2, k1 := 0, k2 := 0 })
    let a : VAcc := { el := 0, va := 0x1000, len := 8, loc := .named 0x1000, pos := 0, data := [1] }
    let x : GIssued := { i := { w := w, t := 0, due := none, push := none }, acc := some [a] }
    let s := dev { core [] with gen := { fly := [x] } }
    genMemOf (decodeE .g w.bits) = some (.save, { h := head, gd := 3, ss := 2, k1 := 0, k2 := 0 }) ∧ (cc s).gen.fly = [x]
    ∧ retiredFlt s [a] = none ∧ genPortChecks true [a] s = none ∧ (match volStep s 2 false (lowVa [a]) [a] [a] with | .ready => true | _ => false) = true := by decide +kernel
/-- A generator, and a stream of n FP32 elements. -/
def sign : Gen := { kind := 1, parm := 0x3F800000 }
def fp (n : Nat) : Strm := { strm n with fmt := 0x0A }
def gfw : GS := { h := head, gd := 0, ss := 2, k1 := 0, k2 := 0 }
/-- A fill of n elements of 32 bits. -/
def filling (n : Nat) : State := gdev (.gfill gfw) [(0, sign)] (fp n)
theorem witness_Fill : let qw := qwordOn (fp 3) 2 (.gfill gfw)
    let s := genSettle (filling 3)
    let f := fillOf (cc s) false gfw qw
    MayIssue 2 head s qw ∧ fillBad gfw qw = false ∧ genHolds s 0 true none = [] ∧ f.count = 3
    ∧ pipeHolds s (claimOf s 2 qw) (drawClaim s) = [] ∧ genUsable f.g = true
    ∧ (match genChecks true (strmBytes f.m) qw (fillSpots f) s with
      | .ok (s1, l) => decide (raceFlt s1 s1.cur true l = none) && ownAcc s1.cur l
      | .error _ => false) = true := by decide +kernel
theorem witness_Fill_empty : (fillOf (cc (filling 0)) false gfw (qwordOn (fp 0) 2 (.gfill gfw))).count = 0 := by decide +kernel
/-- The fill of 3 elements after its fourth cycle. -/
def filled3 : State := { after (exec (.gfill gfw) (filling 3)) with clusters := [(0, { cyc := 9 })] }
theorem witness_FillWrites : ((theFill (cc filled3)).map fun e => (e.1.acc.isNone, e.1.i.due.isSome, e.2.count)) = some (true, true, 3) := by
  decide +kernel
theorem test_fill_writes_and_completes : let s := after (exec .fillElementWrite filled3)
    ((theFill (cc s)).map fun e => e.2.next) = some 3 ∧ (getEng (cc (after (exec .fillComplete s))) 2).cseq = 1 := by decide +kernel

/-! ### Matrix words -/

def mt : MT := { h := head, td := true, ts := false, imm := -3 }
def ms : MS := { h := head, t := false, b := false, bank := false, ss := 2, k2 := 0, g := 0, orow := 0, rm := 0, z := false }
def mdev (i : Instr) (m : Strm) (k : Mat) : State := eng 1 (qwordOn m 2 i) { core [] with mat := k }
theorem witness_Matrix : let i := Instr.manch mt
    let s := matSettle false (genSettle (mdev i {} {}))
    MayIssue 1 head s (qwordOn {} 2 i) ∧ mBad { kind := .tile .anch 1 0 (-3) } = false
    ∧ mHolds s { kind := .tile .anch 1 0 (-3) } = [] ∧ preFlt (cc s) { kind := .tile .anch 1 0 (-3) } = none
    ∧ draws { kind := .tile .anch 1 0 (-3) } = false
    ∧ (match mChecks { kind := .tile .anch 1 0 (-3) } (qwordOn {} 2 i) s with | .ok (s1, l) => decide (s1 = s) && l.isEmpty | .error _ => false)
      = true := by decide +kernel
/-- The stream of one 8-bit column of two rows for a bank. -/
def mstrm : Strm := { base := loc 64, fmt := 0x04, ext0 := 2, ext1 := 1, ext2 := 1, str0 := 1, str1 := 2 }
/-- Issue, then every check point and the landing. -/
def matrixRun (i : Instr) (m : Strm) (k : Core) (n : Nat) : State :=
  let s := after (exec i (eng 1 (qwordOn m 2 i) k))
  let s := (List.range n).foldl (fun s c => after (exec .matrixCheckPoint { s with clusters := [(0, { cyc := c })] })) s
  after (exec .matrixLanding { s with clusters := [(0, { cyc := 200 })] })
theorem test_manch : (getTile (cc (matrixRun (.manch mt) {} (core []) 0)) 1).anch = -3 := by decide +kernel
theorem test_mstat_issues : (cc (after (exec (.mstat { ms with t := true }) (mdev (.mstat { ms with t := true }) { strm 1 with fmt := 0x03 } {})))).mat.fly.length
    = 1 := by decide +kernel
theorem witness_MatrixLanding : let s := after (exec (.manch mt) (mdev (.manch mt) {} {}))
    let s := { s with clusters := [(0, { cyc := 200 })] }
    ((cc s).mat.fly.map fun x => (x.locs.isNone, mStores x.p.kind, landReady (cc s) (curCyc s) 0 x)) = [(true, false, true)] := by decide +kernel
theorem witness_Tile : ({} : Tile).ovf.getLsbD 127 = false ∧ (127 : Nat) < 128 ∧ ({} : Tile).ovf = 0
    ∧ accMin ≤ toAnchor ⟨tileEl {} 127 127, ({} : Tile).anch.toInt⟩ (511 : BitVec 10).toInt := by decide +kernel
theorem test_mshift_rounds_to_even : tileEl (shiftTile (putEl (putEl {} 0 0 3) 0 1 5) 1) 0 0 = 2
    ∧ tileEl (shiftTile (putEl (putEl {} 0 0 3) 0 1 5) 1) 0 1 = 2 := by decide +kernel
theorem test_madd_saturates : let T := addTile (putEl {} 0 0 accMax) (putEl {} 0 0 1)
    tileEl T 0 0 = accMax ∧ T.ovf = 1 ∧ T.st = true := by decide +kernel
theorem test_scrub_marks_its_row : (getTile (cc (after (exec (.accumulatorScrubError (.row true 127)) (cpu [])))) 1).bad = 1#128 <<< 127 := by
  decide +kernel

/-! ### Copy words -/

def xw : XC := { h := head, sd := 1, ss := 0, cnt := false, lvl := 0, slot := 0, ext := 0 }
/-- Queue X with a copy of n bytes from byte 64 to byte 128. -/
def bytesAt (o n : Nat) : Strm := { base := loc o, ext0 := BitVec.ofNat 32 n, ext1 := 1, ext2 := 1, str0 := 1 }
def qcopy (n : Nat) (i : Instr) : QWord := { wordFor i with snaps := [(0, bytesAt 64 n), (1, bytesAt 128 n)] }
def xdev (n : Nat) (i : Instr) : State := eng 3 (qcopy n i) { core [] with scr := [(64, 7), (66, 9)] }
theorem witness_Copy : let i := Instr.xcpy xw
    let p := xPlan .cpy xw (qcopy 3 i)
    xKindOf i = some (.cpy, xw) ∧ MayIssue 3 head (xdev 3 i) (qcopy 3 i) ∧ xGood p = true ∧ (cc (xdev 3 i)).cpy.run = none
    ∧ xEmpty p = false ∧ xEmpty (xPlan .cpy xw (qcopy 0 i)) = true
    ∧ (match xAdd (xdev 3 i) p (xTotal p) with | .ok s1 => decide (s1 = xdev 3 i) | .error _ => false) = true := by decide +kernel
theorem test_copy : let i := Instr.xcpy xw
    let s := after (exec .copyPiecePerformed (after (exec i (xdev 3 i))))
    readLoc s (.scr 0 128) 4 = [7, 0, 9, 0] := by decide +kernel
theorem test_empty_copy_completes : let i := Instr.xcpy xw
    (getEng (cc (after (exec i (xdev 0 i)))) 3).cseq = 1 := by decide +kernel
theorem witness_CopyPiece : let i := Instr.xcpy xw
    let s := after (exec i (xdev 3 i))
    (match copyRun (cc s) with
    | some (_, p) =>
      let c := (cc s).cpy
      let us := pieceAt s p c.elem
      decide (c.elem < xCount p) && !c.own && decide (needChunk c p = none) && decide ((us.findIdx? fun u => u.act == .ask) = none)
      && decide (xMode us = .plain) && !c.begun && (match xRead p c.next (us.flatMap (·.accs)) s with | .done _ => true | _ => false)
    | none => false) = true := by decide +kernel
theorem witness_CopyComplete : let i := Instr.xcpy xw
    let s := after (exec .copyPiecePerformed (after (exec i (xdev 3 i))))
    (match copyRun (cc s) with
    | some (_, p) => decide (xCount p ≤ (cc s).cpy.elem) && !((cc s).cpy.own && (cc s).cpy.begun) && !volPending s 3
        && decide ((cc s).cpy.slot = none)
    | none => false) = true := by decide +kernel
theorem test_copy_completes : let i := Instr.xcpy xw
    let s := after (exec .copyPiecePerformed (after (exec i (xdev 3 i))))
    (getEng (cc (after (exec .copyWordComplete s))) 3).cseq = 1 := by decide +kernel
theorem witness_TaggedResend : let s := dev { core [] with cpy := { sent := some (.refused 0) } }
    (cc s).cpy.sent = some (.refused 0) ∧ 0 ≤ curCyc s := by decide +kernel


/-! ### Packets, queues and rings -/

theorem test_crc32c : crc32c [0x31, 0x32, 0x33, 0x34, 0x35, 0x36, 0x37, 0x38, 0x39] = 0xE3069283 := by decide +kernel
/-- A nop packet of mark 1 (R404), its CRC field d above its CRC. -/
def nopBody : List Byte := 5 :: List.replicate 255 0
def nopCrc : W32 := crc32c (leBytes 4 1 ++ nopBody)
def nopPacket (d : W32) : List Byte := leBytes 4 1 ++ leBytes 4 (nopCrc + d).toNat ++ nopBody
theorem nopPacket_length (d : W32) : (nopPacket d).length = 264 := by
  unfold nopPacket nopBody
  generalize hz : List.replicate 255 (0 : Byte) = z
  have h : z.length = 255 := by rw [← hz]; exact List.length_replicate
  simp only [leBytes, List.length_append, List.length_cons, List.length_nil, h]
theorem packet_covered (z : List Byte) (n : Nat) :
    (leBytes 4 1 ++ leBytes 4 n ++ z).take 4 ++ (leBytes 4 1 ++ leBytes 4 n ++ z).drop 8 = leBytes 4 1 ++ z := rfl
theorem packet_crc (z : List Byte) (n : Nat) : getN (leBytes 4 1 ++ leBytes 4 n ++ z) 4 4 = leNat (leBytes 4 n) := rfl
theorem leNat_word (c : W32) : leNat (leBytes 4 c.toNat) = c.toNat := by
  have := c.isLt
  simp [leBytes, leNat]
  omega
theorem slot_crc (z : List Byte) (d : W32) :
    slotCrcOk (leBytes 4 1 ++ leBytes 4 (crc32c (leBytes 4 1 ++ z) + d).toNat ++ z) = decide (d = 0) := by
  rw [slotCrcOk, packet_covered, packet_crc, leNat_word]
  generalize crc32c _ = c
  rw [Bool.eq_iff_iff, beq_iff_eq, decide_eq_true_eq, ← BitVec.toNat_inj.symm]
  simp
theorem nopPacket_crc (d : W32) : slotCrcOk (nopPacket d) = decide (d = 0) := slot_crc nopBody d
/-- Queue 7 is enabled, with a packet in its first slot; the queue's own values follow. -/
def fetching (b : List Byte) (v : Sq) : State :=
  { gtc := 5000, host := { sq := [(7, { v with base := 0x1000, cfg := 0x10001, head := 0 })], mem := tputs 0 [] 0x1000 b } }
theorem fetching_reads (b : List Byte) : readSlot (fetching b {}) { getSq (fetching b {}) 7 with readAt := (fetching b {}).gtc }
    = tgets 0 (tputs 0 [] 0x1000 b) 0x1000 264 := by
  simp [readSlot, slotAddr, fetching, getSq, tget, ringGet, ringLoc]
theorem packet_reads (d : W32) :
    readSlot (fetching (nopPacket d) {}) { getSq (fetching (nopPacket d) {}) 7 with readAt := (fetching (nopPacket d) {}).gtc }
      = nopPacket d := by
  rw [fetching_reads, ← nopPacket_length d, tgets_tputs]
theorem witness_Fetch : let s := fetching (nopPacket 0) {}
    let b := readSlot s { getSq s 7 with readAt := s.gtc }
    getN b 0 4 = 1 ∧ slotCrcOk b = true ∧ heldBack s b = false ∧ tablesFull s = false ∧ ringEn (getSq s 7).cfg = true := by
  have h : heldBack (fetching (nopPacket 0) {}) (nopPacket 0) = false := by
    rw [heldBack, show getN (nopPacket 0) 8 1 = 5 from rfl]; simp
  have g : slotCrcOk (nopPacket 0) = true := by rw [nopPacket_crc]; rfl
  dsimp only
  rw [packet_reads]
  exact ⟨rfl, g, h, by simp [tablesFull, graphsInFlight, nodesHeld, fetching], by simp [getSq, tget, fetching, ringEn]⟩
theorem witness_Torn : let s := fetching (nopPacket 1) {}
    let b := readSlot s { getSq s 7 with readAt := s.gtc }
    getN b 0 4 = 1 ∧ slotCrcOk b = false := by
  have g : slotCrcOk (nopPacket 1) = false := by rw [nopPacket_crc]; rfl
  dsimp only
  rw [packet_reads]
  exact ⟨rfl, g⟩
theorem witness_Reread : rereadReady (fetching [] { rereadDue := true, rereads := 15 }) 7 = true
    ∧ 16 ≤ (getSq (fetching [] { rereadDue := true, rereads := 15 }) 7).rereads + 1 ∧ pollDue (fetching [] {}) 7 = true
    ∧ (getSq (fetching [] { torn := true }) 7).torn = true ∧ getN (readSlot (fetching [] {}) {}) 0 4 ≠ 1 := by decide +kernel

theorem witness_Packets : let s : State := {}
    imageUsed s 5 = false ∧ spaReadable s 65536 64 = true ∧ loaderStatus (readSpaLong s 65536 64) 65536 64 = 1
    ∧ imageUsed { s with ref := { graphs := [(1, { image := 5 })] } } 5 = true
    ∧ (match submitTests s ⟨0, 0, 65, 0, 0, 0, 0⟩ with | .error e => decide (e = (1, 0xFFFF)) | .ok _ => false) = true
    ∧ tablesFull s = false ∧ nodesHeld s + 65 ≤ 16384 ∧ graphsOf s 9 = [] ∧ wakeable s 9 0 = none := by decide +kernel

/-- From byte 12 on, an image with one kernel of one operating point (R157 to R160). -/
def imageRest (z : List Byte) : List Byte :=
  leBytes 4 65540 ++ leBytes 4 65536 ++ leBytes 4 4 ++ leBytes 4 0 ++ leBytes 4 0 ++ leBytes 4 0 ++ leBytes 4 0 ++ leBytes 4 64
  ++ leBytes 4 0 ++ leBytes 4 0 ++ List.replicate 12 0
  ++ List.replicate 28 0 ++ [1, 0, 0, 0, 128, 0, 0, 0] ++ List.replicate 28 0 ++ [0, 0, 1, 0, 10, 0, 0, 0, 5, 0, 0, 0, 0, 0, 0, 0] ++ z
def imageBytes (z : List Byte) : List Byte :=
  leBytes 4 0x0149475A ++ leBytes 2 1 ++ leBytes 2 1 ++ leBytes 4 (crc32c (imageRest z)).toNat ++ imageRest z
theorem image_crc (z : List Byte) : (crc32c ((imageBytes z).drop 12)).toNat = getN (imageBytes z) 8 4 := by
  have h : (imageBytes z).drop 12 = imageRest z := rfl
  have g : getN (imageBytes z) 8 4 = leNat (leBytes 4 (crc32c (imageRest z)).toNat) := rfl
  have := (crc32c (imageRest z)).isLt
  rw [h, g]
  simp [leBytes, leNat]
  omega
def img : List Byte := imageBytes (List.replicate 65396 0)
theorem img_length : img.length = 65540 := by
  unfold img imageBytes imageRest
  generalize hz : List.replicate 65396 (0 : Byte) = z
  have h : z.length = 65396 := by rw [← hz]; exact List.length_replicate
  have hl : ∀ n v, (leBytes n v).length = n := by
    intro n
    induction n with
    | zero => intro v; rfl
    | succ n ih => intro v; simp [leBytes, ih]
  simp only [List.length_append, hl, List.length_replicate, h, List.length_cons, List.length_nil]
def kernDesc : List Byte := List.replicate 28 0 ++ [1, 0, 0, 0, 128, 0, 0, 0] ++ List.replicate 28 0
theorem img_rows : (List.range (getN img 6 2)).map (descOf img) = [kernDesc]
    ∧ kernelOfDesc img kernDesc = { queues := [0, 0, 0, 0], ops := [⟨0, 0, 1, 10, 5⟩] }
    ∧ check3 img 0 65540 = true ∧ zeroAt img 0x34 12 = true ∧ getN img 0x14 4 = 4 ∧ getN img 0x1C 4 = 0
    ∧ getN img 0 4 = 0x0149475A ∧ getN img 4 2 = 1 ∧ getN img 0x0C 4 = 65540 := by decide +kernel
/-- An image that the loader accepts. -/
theorem witness_LoadedImage : loaderStatus img 0 65540 = 0 := by
  obtain ⟨h1, h2, h3, h4, h5, h6, h7, h8, h9⟩ := img_rows
  have hc : (crc32c (img.drop 12)).toNat = getN img 8 4 := image_crc _
  unfold loaderStatus
  simp only [h1, h2, h3, h4, h5, h6, h7, h8, h9, hc, img_length, List.map_cons, List.map_nil, ne_eq, not_true_eq_false, or_self,
    if_false]
  decide +kernel

/-- A graph of tag 9 in flight with one node, and the task of that node. -/
def graphed (st : NodeSt) (t : Task) : State :=
  { ref := { graphs := [(1, { tag := 9, nodes := [{ r := { kernel := 0, gran := 1, ntot := 96, nflags := 0x20, fgroup := 7 }, st := st, task := 1 }] })]
             tasks := [(1, { t with graph := 1, node := 0, n := 96, nclus := 1, lbase := 0 })]
             images := [(0, { kernels := [{ ops := [⟨0, 0, 1, 10, 5⟩] }] })] } }
/-- Its cluster 0 belongs to task 1, core 0 in a state. -/
def launched (st : TaskSt) (k : Core) : State :=
  { graphed .running { st := st, clusters := [0] } with cores := [(0, { k with task := 1 })], clusters := [(0, { task := 1 })] }
theorem witness_CancelAndWake : graphsOf (graphed .ready {}) 9 = [1] ∧ wakeable (launched .running (core [])) 9 0 = some 1
    ∧ (wakeTask (launched .running (core [])) 1 0 8 5).isSome = true ∧ wakeTask (launched .running (core [])) 1 96 8 5 = none := by
  decide +kernel
theorem test_wake_fills_its_word : let s := after (exec (.wake 0 9 0 0 8 5) (launched .running (core [])))
    tagFull s 0 1 = true ∧ readLoc s (.scr 0 8) 1 = [5] := by decide +kernel
theorem test_cancel_ends_the_node : (getNode (getGraph (takeCancels (after (exec (.cancel 0 9 0) (graphed .ready {})))) 1) 0).status = 4 := by
  decide +kernel

/-- Queue 7 and completion ring 7 with configurations, a record waiting. -/
def ringed (v : W64) (w : List (List Byte)) : State :=
  { gtc := 5000000, host := { sq := [(7, { cfg := v })], cq := [(7, { base := 0x1000, cfg := v, wait := w, heldMsg := true })] } }
theorem witness_Rings : ringEn (getSq (ringed 1 []) 7).cfg = true ∧ ringEn (getSq (ringed 0 []) 7).cfg = false
    ∧ ringEn (getRing (ringed 1 []) (.cq 7)).cfg = true ∧ ringOk (.cq 7) = true ∧ msgDue (ringed 1 []) (.cq 7) = true
    ∧ (let g := getRing (ringed 1 [[5]]) (.cq 7); g.wait = [[5]] ∧ (g.head - g.tail).toNat < ringSlots g.cfg) := by decide +kernel
theorem test_record_goes_to_the_ring : let s := after (exec (.ringTailWrite (.cq 7) 0) (ringed 0x10001 [[5]]))
    tgets 0 s.host.mem 0x1000 1 = [5] ∧ (getRing s (.cq 7)).head = 1 ∧ s.host.msgs = [7] := by decide +kernel

theorem witness_Bar : let s : State := { host := { pri := true, ats := true, tags := [(3, trapOfBytes [])] } }
    let w : BarAccess := ⟨false, 64, 0, [1, 2], false⟩
    let r : BarAccess := ⟨true, 64, 8, [], false⟩
    let out : BarAccess := ⟨false, 2 ^ 29, 1, [], false⟩
    barInside s w 2 = true ∧ barBacked s (barPieces s false 2 64 2) = true ∧ barInside s r 8 = true
    ∧ barBacked s (barPieces s true 2 64 8) = true ∧ barInside s out 1 = false
    ∧ barBacked { s with host := { s.host with apbase := 2 ^ 51 } } (barPieces { s with host := { s.host with apbase := 2 ^ 51 } } true 2 64 8) = false
    ∧ s.host.tags.any (fun e => e.1 = 3) = true := by decide +kernel
theorem test_bar2_writes_hub_sram : readLoc (after (exec (.hostBarAccess ⟨false, 64, 0, [1, 2], false⟩) {})) (.named (12 * 2 ^ 47 + 64)) 3
    = [1, 2, 0] := by decide +kernel
theorem test_register_keeps_its_defined_bits : hubRead (after (exec (.registerWrite 0x500018 (-1)) {})) 0x500018 = 0xFFFFFFFF := by
  decide +kernel
theorem test_recovery_answers_with_the_management_block : let s : State := { mg := { recovery := true }, pro := { thr := 5 } }
    isNext (exec (.registerWrite 0x600028 7) s) s = true ∧ hubRead s 0x600028 = 0 := by decide +kernel

/-! ### Launches, parks, fabric messages -/

/-- A node in state Prologue with its argument address. -/
def awaiting : State := { ref := { graphs := [(1, { nodes := [{ r := { pro := 64, args := 0x40 }, st := .prologue, task := 5 }] })] } }
theorem witness_Prologue : freePro awaiting = some 0
    ∧ ranked awaiting (fun nd => nd.st == .prologue && nd.pro.isNone && decide (nd.task ≠ 0)) = [(1, 0)] := by decide +kernel
theorem test_prologue_starts : let t := getStrand (getCore (after (exec .prologueStart awaiting)) 3072) 0
    t.pc = 64 ∧ xget t 10 = 0x40 := by decide +kernel
theorem witness_PrologueLimit : let s := prologue []
    let s := setCore s 3072 { getCore s 3072 with strands := [(0, { strand [] with block := 4096 })] }
    (getCore s 3072).run = .on ∧ (getStrand (getCore s 3072) 0).run = .ready ∧ 4096 ≤ (getStrand (getCore s 3072) 0).block := by
  decide +kernel
theorem witness_PrologueExit : let s := prologue [(14, 1)]
    let t := { prologue [(20, 2), (21, 255), (14, 1)] with cur := 3072 }
    isPrologue s.cur = true ∧ NotFault s ∧ Free s (verdictUses (cst s)) ∧ rx s 20 = 0 ∧ rx s 14 ≠ 0 ∧ rx (prologue [(20, 1)]) 20 = 1
    ∧ rx t 20 = 2 ∧ (rx t 21).toNat ≤ 255 ∧ rx t 14 ≠ 0 ∧ 2 < (rx (prologue [(20, 3)]) 20).toNat ∧ rx (prologue []) 14 = 0
    ∧ (s.ref.pros.find? fun e => e.1 = s.cur - 3072) = some (0, 0, 0) := by decide +kernel
theorem test_skip_ends_the_node : (getNode (getGraph (takeVerdicts (after (exec .exit (prologue [(20, 1)])))) 0) 0).status = 3 := by decide +kernel

theorem witness_Launch : let s := graphed .running { clusters := [0] }
    (getTask s 1).st = .dispatched ∧ (getTask s 1).clusters = [0] ∧ anyMoving s [0] = false ∧ (getTask s 1).fabric = false
    ∧ coreOfLid (getTask s 1) 95 = some 95 ∧ (getCluster { s with clusters := [(3, { moving := some 2 })] } 3).moving = some 2
    ∧ agingDue { graphed .ready {} with gtc := 2 ^ 40 } = true := by decide +kernel
theorem test_launch_starts_strand_0 : let s := after (exec (.launchStart 1) (graphed .running { clusters := [0], kernel := { entry := 8 }, codeVa := 64 }))
    (getStrand (getCore s 95) 0).pc = 72 ∧ xget (getStrand (getCore s 95) 0) 1 = 95 ∧ (getCore s 95).lid = 95 := by decide +kernel
theorem witness_LaunchEnd : let s := launched .running { core [] with run := .finished }
    (getTask s 1).st = .running ∧ (getTask s 1).stopped = false ∧ (getTask s 1).ending = none ∧ coresOf s 1 = [0]
    ∧ (getCore s 0).run = .finished := by decide +kernel
theorem witness_Parks : coresOf (launched .freezing (core [])) 1 = [0] ∧ (getTask (launched .freezing (core [])) 1).st = .freezing
    ∧ firstToSave (launched .saving (core [])) 1 = true ∧ noneFlying (launched .saving (core [])) [0] = true
    ∧ (getTask (launched .restoring (core [])) 1).clusters = [0] ∧ anyMoving (launched .restoring (core [])) [0] = false
    ∧ dieUsable (launched .restoring (core [])) 0 = true
    ∧ (getTask (setTask (launched .halting (core [])) 1 { st := .halting, ending := some (6, none) }) 1).ending = some (6, none)
    ∧ ((getCore (launched .running { core [] with pendRecs := (cc recorded).pendRecs.map fun p =>
        { p with trap := { p.trap with code := 3 } } }) 0).pendRecs.map (·.trap.code)) = [3] := by
  decide +kernel
theorem test_park_frees_its_clusters : let s := after (exec (.imageSaved 1) (launched .saving { core [] with scr := [(8, 7)] }))
    (getTask s 1).st = .parked ∧ (getCluster s 0).task = 0 ∧ (tget {} (getTask s 1).saved 0 : Core).scr = [(8, 7)] := by decide +kernel

theorem witness_Fabric : let s := launched .running (core [])
    groupNode s 7 = some (1, 0) ∧ groupNode s 8 = none ∧ coreOfLid (getTask s 1) 0 = some 0
    ∧ (getNode (getGraph s 1) 0).st = .running ∧ (getNode (getGraph (graphed .ready {}) 1) 0).st = .ready
    ∧ (s.vol.held.filter fun e => e.1 = 8).length < 64
    ∧ 64 ≤ (({ s with vol := { s.vol with held := List.replicate 64 (8, 0) } } : State).vol.held.filter fun e => e.1 = 8).length := by
  decide +kernel
theorem test_fabric_arrival_counts : (getSlot (after (exec (.fabricArrivalMessage 7 2) (launched .running (core [])))) 0 4 2).arrived = 1 := by
  decide +kernel

/-! ### Power -/

/-- The Bursar is locked, a record in decision, a curve pending or active. -/
def curved : State :=
  { gtc := 5000, bur := { lock := true, active := some ⟨1, 0, 4000, []⟩, pendingC := some ⟨2, 5000, 9000, []⟩, deciding := some (12 * 2 ^ 47) } }
theorem witness_Curve : curved.bur.deciding.isSome = true ∧ ({ bur := { lock := true } } : State).bur.deciding = none
    ∧ curved.mg.cinSrc = none ∧ curveReason curved (inHub curved (12 * 2 ^ 47) 1216) (readSpaLong curved (12 * 2 ^ 47) 1216) = 1
    ∧ activateDue curved = true ∧ ({ curved with bur := { curved.bur with pendingC := none } } : State).bur.pendingC = none
    ∧ expireDue curved = true := by decide +kernel
theorem witness_Sample : sampleDue { gtc := 100000 } = true ∧ sampleDue { gtc := 99999 } = false
    ∧ spaced ({} : State) = true ∧ spaced { bur := { lastGate := some 0 }, gtc := 199999 } = false
    ∧ ungateNext { bur := { wanted := [(3, 0)], dies := [(3, .gated 0)] } } = some 3
    ∧ ungateNext ({} : State) = none ∧ gateNext ({} : State) = some 15
    ∧ dieState { bur := { dies := [(3, .ungating 0)] } } 3 = .ungating 0 ∧ dieState ({} : State) 15 ≠ .failed
    ∧ railDue { gtc := 500001 } 22 = true := by decide +kernel
theorem test_sample_sums_the_rails : (takeSample { gtc := 7, mg := { rails := (List.range 23).map fun k => (k, { mw := k, at_ := 7 }) } }).bur.p = [253] := by
  decide +kernel

/-! ### The memory manager -/

theorem witness_RegionTable : let s : State := {}
    rtFault s.mm.shd = none ∧ s.mm.next = s.mm.mode ∧ rtFault [(5, 1)] = some (5, 4)
    ∧ anyTask (graphed .running {}) = true ∧ oldGen s = false ∧ oldGen { flown with mm := { gen := true } } = true := by decide +kernel
theorem test_shadow_write : dwOf (tget 0 (after (exec (.rtShadowWrite 63 3 7) ({} : State))).mm.shd 63) 3 = 7
    ∧ (after (exec (.partNextWrite 3) ({} : State))).mm.why = 4 := by decide +kernel
theorem witness_Translations : let w : WalkReq := { cluster := 0, asn := 1, root := 0, va := 0, waiters := [(0, 0)] }
    invWaits { mm := { invBusy := true } } = false ∧ invWaits { flown with mm := { invBusy := true }, cores := flown.cores.map fun e =>
      (e.1, { e.2 with strands := e.2.strands.map fun x => (x.1, { x.2 with flight := x.2.flight.map fun f => { f with ent := some ⟨0, 3, 0, 0, 0, 0, 0, false⟩ } }) }) } = true
    ∧ (match walk { mem := [(0, 4), (1, 0x10), (0x1000, 4), (0x1001, 0x20), (0x2000, 9)], mm := { walks := [w] } } 0 0 with
      | .ok (l, v) => decide (l = 9 ∧ v = 3) | .error _ => false) = true
    ∧ allGated ({} : State) = false ∧ allGated { bur := { dies := (List.range 16).map fun d => (d, .gated 0) } } = true := by decide +kernel
theorem witness_SampleReplace : let s : State := { samp := [(5, none)] }
    paTarget (5 * 64) = 0 ∧ paTarget (9 * 64) = 0 ∧ ((tdel s.samp 5).filter fun e => paTarget (e.1 * 64) = 0).length < 1024 := by
  decide +kernel

/-! ### Volley -/

/-- Entry 0 exports 65,536 bytes of HBM with R and W, entry 1 the scratchpad of lid 0 of task 1 with T. -/
def exporting : State :=
  { launched .running (core []) with vol := {
      exp := [(0, 0xD#256 ||| (65536#256 <<< 128)), (1, 0x2F#256 ||| (1#256 <<< 16) ||| (1#256 <<< 80) ||| (65536#256 <<< 128))],
      fly := [⟨4, 9, 0, .load 8, .strand 0 0, 0, false, none⟩, ⟨5, 9, 0, .load 8, .engine 0 3 64, 1, false, none⟩] } }
def far (off : Nat) (op : RemoteOp) : RemoteReq := { src := 9, seq := 1, off := off, op := op }
theorem witness_Remote : let s := exporting
    let seen := { s with vol := { s.vol with seen := [(9, 1, .ack 9 1 0 7 1)] } }
    seenBefore s (far 0 (.load 8)) = none ∧ seenBefore seen (far 0 (.load 8)) = some (.ack 9 1 0 7 1) ∧ heldBefore s (far 0 (.load 8)) = false
    ∧ tooEarly s (far 0 (.load 8)) = false ∧ tooEarly s { far 0 (.load 8) with after := some 3 } = true
    ∧ (s.vol.fly.all fun r => !notFirst s r) = true
    ∧ expFind s (2 ^ 40) 8 = none ∧ (expFind s 8 8).map (fun e => (remoteNeed false (.load 8) &&& ~~~(expPerm e), e.getLsbD 1)) = some (0, false)
    ∧ (expFind s 8 8).map (fun e => remoteNeed false (.cas .d 0 0) &&& ~~~(expPerm e)) = some pA
    ∧ (expFind s 65536 8).map (fun e => (remoteNeed true (.tag .put 0) &&& ~~~(expPerm e), e.getLsbD 1)) = some (0, true)
    ∧ backed s (regionMap s 8) = true ∧ uncorrectable s (.named 8) 8 = none
    ∧ (s.vol.fly.find? fun r => r.id = 5).isSome = true ∧ (s.vol.fly.find? fun r => r.id = 4).isSome = true := by decide +kernel
theorem test_remote_store : let s := after (exec (.volleyRequest (far 8 (.store [1, 2]))) exporting)
    readLoc s (.named 8) 2 = [1, 2] ∧ s.vol.out = [.ack 9 1 0 0 1] := by decide +kernel
theorem test_remote_put_fills_its_word : tagFull (after (exec (.volleyRequest (far 65544 (.tag .put 3))) exporting)) 0 1 = true := by decide +kernel
theorem witness_Time : let s : State := { gtc := 2000000000, vol := { tmaster := true, synced := true, ppsSeen := true } }
    let t : State := { s with vol := { s.vol with tmaster := false } }
    s.vol.discAt + 1000000 ≤ s.gtc ∧ t.vol.discAt + 10000000 ≤ t.gtc ∧ t.vol.edgeAt + 2000000000 ≤ t.gtc
    ∧ tget 0 s.vol.downAt (routeOf s 9).1 + s.vol.tmo * 1000000 ≤ s.gtc ∧ s.vol.up.getLsbD (routeOf s 9).1 = false ∧ s.vol.up.getLsbD (routeOf s 9).2 = false := by decide +kernel
theorem test_pps_slews_to_the_second : (after (exec .ppsEdge { gtc := 999999990, vol := { tmaster := true, pps := true } })).vol.slew = 10 := by
  decide +kernel

/-! ### The Proctor -/

/-- Task 1 runs on core 0 of cluster 0; it is stopped by the Proctor. -/
def stopped : State := stopTask (launched .running (core [(5, 6)])) 1 0 false
theorem witness_Stop : let s := launched .running (core [])
    stopRefused s 1 0 = false ∧ stopRefused s 1 96 = true ∧ (getTask s 1).stopped = false ∧ lidCyc s 1 0 ≤ s.pro.stopcyc.toNat
    ∧ (let u := { s with clusters := [(0, { task := 1, cyc := 5 })] }; u.pro.stopcyc.toNat < lidCyc u 1 0)
    ∧ (getTask stopped 1).stopped = true ∧ stopRefused stopped 1 0 = false ∧ coresOf stopped 1 = [0]
    ∧ stopDue { s with pro := { armed := true, task := 1 } } = true := by decide +kernel
theorem test_stop_freezes_and_resume_thaws : (getCore stopped 0).run = .frozen
    ∧ (getCore (after (exec (.stopResume 1 0) stopped)) 0).run = .on := by decide +kernel
theorem witness_WatchStop : let s := { launched .running (core []) with pro := { freeze := some (1, 0) } }
    let t : State := { s with pro := { s.pro with freeze := none } }
    s.pro.freeze = some (1, 0) ∧ stopRefused t 1 0 = false ∧ stopRefused t 2 0 = true ∧ (getTask s 1).stopped = false := by decide +kernel
theorem witness_Debug : debugSel { stopped with pro := { stopped.pro with dsel := 0x1F000000 } } = some (0, 0, 0, 31)
    ∧ debugSel ({} : State) = none ∧ debugPending stopped 0 0 0 31 = false := by decide +kernel
theorem test_debug_reads_a_register : (after (exec .debugRead { stopped with pro := { stopped.pro with dsel := 0x05000000 } })).pro.ddat = 6 := by
  decide +kernel
theorem witness_OpenWait : let s := { waiting (.cyc 9) with pro := { open_ := 0 } }
    let k := dev { core [] with strands := [(0, { strand [] with run := .waiting, wait := some (.tag 0 1 9 8), flag := some (.tag 0 1 9 8, 0) })] }
    (agentWait (cc k) 0).isSome = true ∧ openDue { k with pro := { open_ := 0 } } 0 0 = true ∧ s.cur = 0 := by decide +kernel

/-! ### The management block -/

theorem witness_Boot : let s : State := { mg := { trial := true }, gtc := 60000000000 }
    s.mg.trialAt + 60000000000 ≤ s.gtc ∧ slotOk (blank ({} : State)) 0 = false ∧ slotOk (blank ({} : State)) 1 = false
    ∧ mayReset { bur := { dies := [(3, .gated 0)] } } 3 = true ∧ mayReset ({} : State) 4 = false := by decide +kernel
theorem test_empty_flash_boots_into_recovery : let s := after (exec .thermalTrip ({} : State))
    s.mg.recovery = true ∧ s.mg.cause = 5 ∧ s.mg.bad = 3 := by decide +kernel
theorem test_die_reset_needs_a_gated_die : let s := after (exec (.dieReset 0x18) { bur := { dies := [(3, .gated 0)] } })
    s.mg.busy = 0x8 ∧ s.mg.err = true := by decide +kernel
theorem test_die_fails_its_self_test : dieState (after (exec (.dieSelfTestDone 3 false) { mg := { busy := 8 }, gtc := 20000000 })) 3 = .failed := by
  decide +kernel
theorem witness_Attest : inHub ({} : State) (12 * 2 ^ 47) 384 = true ∧ inHub ({} : State) 0 384 = false := by decide +kernel
theorem test_mailbox_holds_32 : let m := List.replicate 64 (1 : Byte)
    let s : State := { mg := { mbox := [(2, List.replicate 32 (1, m))] } }
    isNext (exec (.mailboxMessage 1 2 m) s) s = true
    ∧ (tget [] (after (exec (.mailboxMessage 1 2 m) ({} : State))).mg.mbox 2) = [(1, m)] := by decide +kernel

/-! ### The assembler: worked examples of chapters 4, 5, 7 and 11 -/

/-- The words of one conductor statement. -/
noncomputable def stmtC (e : Skas.Env) (l : String) : Option (List W32) :=
  match Skas.lex l with
  | some (.name n :: ts) => Skas.wordsC Skas.legal e n (Skas.operands ts)
  | _ => none

/-- The word of one engine-word statement. -/
noncomputable def stmtE (l : String) : Option (Nat × W64) :=
  match Skas.lex l with
  | some (.name n :: ts) => Skas.wordE Skas.legal {} n (Skas.operands ts)
  | _ => none

theorem test_skas_addi : stmtC {} "addi x5, x1, -3" = some [0x10A1FFFD] := by decide
theorem test_skas_bne : stmtC { syms := [("back", .label 8)], pc := 20 } "bne x6, x7, back" = some [0x74C7FFFD] := by decide
theorem test_skas_loop : stmtC { syms := [("vend", .label 20)] } "loop x4, 2, vend" = some [0x90840004] := by decide
theorem test_skas_jtab : stmtC { syms := [("dflt", .label 28)], pc := 4 } "jtab x12, x13, 5, dflt" = some [0x8D8D8806] := by
  decide
theorem test_skas_amo : stmtC {} "amo.add.rel.d x0, (x9), x10, device" = some [0x60095066] := by decide
theorem test_skas_li : stmtC {} "li x20, 1 << 15" = some [0x2E800000, 0x1A948000] := by decide
/-- pos + len of 65 is refused (R196). -/
theorem test_skas_wins_refused : stmtC {} "wins w1, x2, 1, 64" = none := by decide
theorem test_skas_vnop : stmtE "vnop pop:m, push:c, idle:12" = some (0, 0x01B000000000000C) := by decide
theorem test_skas_vfma : stmtE "vfma.f16 v3, v1, v2, v3, mk:m1, idle:4" = some (0, 0x13006110C8040004) := by decide
theorem test_skas_xamo : stmtE "xamo.qadd.d s4, s5, device, anch:-20, idle:1" = some (3, 0x30011400C60FB001) := by decide
/-- A word names its own link by c (R150). -/
theorem test_skas_partner_refused : stmtE "vnop pop:v" = none := by decide

/-- A kernel with one template; `st` is no mnemonic. -/
theorem test_skas_kernel : (Skas.assembleOut Skas.legal [".kernel k", ".queues 40, 32, 8, 64", ".ops 0, 0x09, 1, 300, 20",
    "st: emitt.m t ; one word", "j st", ".pool", ".tmpl t, mnop push:x, idle:3", ".end"]).map
    (fun o => (leNat o.code, o.pool)) = some (0x7000FFFFB1000000, [0x011C000000000003]) := by decide
/-- The kernel of R161 does not assemble: the X queue has 64 entries. -/
theorem test_skas_queues_refused : Skas.assembleOut Skas.legal [".kernel k", ".queues 40, 32, 8, 70",
    ".ops 0, 0x09, 1, 300, 20", "nop", ".end"] = none := by decide

/-! ### Check points, rows, operations of copy words at their ports -/

theorem witness_CheckPoint : let s := after (exec (.mldb ms) (eng 1 (qwordOn mstrm 2 (.mldb ms)) (core [])))
    (match (cc s).mat.fly with
    | [x] => x.locs.isNone && decide (acksOf (cc s) 1 = []) && pointDue (curCyc s) x
      && (match pointRead s x x.next with
        | .ok l => !pointDue (curCyc s) { x with next := x.next + 1, buf := x.buf ++ [l] }
        | .error _ => false)
    | _ => false) = true := by decide +kernel
theorem witness_StoredRow : let s := after (exec (.mdrn ms) (mdev (.mdrn ms) { mstrm with fmt := 0x0A, ext1 := 3, str0 := 4, str1 := 8 } {}))
    let s : State := { s with clusters := [(0, { cyc := 2 })] }
    (match (cc s).mat.fly with
    | [x] => x.locs.isNone && decide (acksOf (cc s) 1 = []) && rowDue (curCyc s) x && decide (x.next + 1 < x.cps)
      && decide (curCyc s < x.i.t + 3 + x.next)
    | _ => false) = true := by decide +kernel

/-- A stream of 64-bit elements. -/
def quads (o n : Nat) : Strm := { base := loc o, fmt := 0x07, ext0 := BitVec.ofNat 32 n, ext1 := 1, ext2 := 1, str0 := 8 }
def qwordX (a b : Strm) (i : Instr) : QWord := { wordFor i with snaps := [(0, a), (1, b)] }
def xkern (a b : Strm) (i : Instr) (k : Core) : State := eng 3 (qwordX a b i) { k with task := 1 }
def xamo : Instr := .xamo { xw with ext := 0x0118000 }
theorem witness_AtomicAtPort : let s := after (exec .copyPiecePerformed (after (exec xamo (xkern (quads 64 2) (quads 128 2) xamo (core [])))))
    (match copyRun (cc s) with
    | some (_, p) =>
      let c := (cc s).cpy
      let us := pieceAt s p c.elem
      decide (c.elem < xCount p) && c.begun && decide (xMode us = .atomic) && c.got.isNone
      && (match us[c.part]? with
        | some u => (unitAmo (locUnit s u) (c.vals.getD c.part [])).isSome && !isVol (accAt (locUnit s u) 0).loc
          && (resultAcc (locUnit s u)).isNone
        | none => false)
    | none => false) = true := by decide +kernel
theorem test_xamo_adds : let s := after (exec xamo (xkern (quads 64 2) (quads 128 2) xamo { core [] with scr := [(64, 5), (128, 7)] }))
    let s := after (exec .copyPiecePerformed s)
    readLoc (after (exec .atomicAtPort s)) (.scr 0 128) 1 = [12] := by decide +kernel
theorem witness_CopyTagged : let i := Instr.xste xw
    let s := xkern (quads 64 1) (quads 128 1) i (core [])
    let p := xPlan (.put .put) xw (qwordX (quads 64 1) (quads 128 1) i)
    let full := xkern (quads 64 1) (quads 128 1) i { core [] with full := [(16, ())] }
    xGood p = true ∧ xEmpty p = false ∧ (match tagPlace s p with | .ok (s0, b) => decide (s0 = s) && b | .error _ => false) = true
    ∧ ownReady s p (unitsFrom s p 0) = none ∧ (ownReady full p (unitsFrom full p 0)).isSome = true ∧ (cc full).timed = false := by
  decide +kernel
theorem test_xste_waits_for_an_empty_word : let i := Instr.xste xw
    (getEng (cc (after (exec i (xkern (quads 64 1) (quads 128 1) i { core [] with full := [(16, ())] })))) 3).wait.isSome = true
    ∧ tagFull (after (exec i (xkern (quads 64 1) (quads 128 1) i (core [])))) 0 16 = true := by decide +kernel
theorem witness_Counted : let i := Instr.xbar { xw with sd := 0, cnt := true }
    let s := xkern { quads 64 1 with base := -1 } (quads 64 1) i (core [])
    let p := xPlan .bar { xw with sd := 0, cnt := true } (qwordX { quads 64 1 with base := -1 } (quads 64 1) i)
    (match xAdd s p p.s.base.toInt with | .error _ => true | .ok _ => false) = true
    ∧ (match xAdd s { p with s := quads 0 1 } 5 with | .error _ => false | .ok _ => true) = true := by decide +kernel
/-- A put of core 0 on its way to the bank port of core 1, whose pending list holds n operations. -/
def arriving (f : Tbl Unit) (n : Nat) : State :=
  let i := Instr.xste xw
  let s := after (exec i (xkern (quads 64 1) (quads 128 1) i { core [] with full := [(16, ())] }))
  let a : Held := { sender := .volley 9 1, word := 1, kind := .put, val := 0 }
  { s with cores := [(0, { cc s with task := 1 }), (1, { full := f, held := List.replicate n a })] }
theorem witness_Resend : let s := dev { core [] with cpy := { sent := some (.refused 0) } }
    (cc s).cpy.sent = some (.refused 0) ∧ 0 ≤ curCyc s ∧ (getCore (arriving [(1, ())] 32) 1).held.length = 32
    ∧ tagCond .put (tagFull (arriving [(1, ())] 32) 1 1) = false ∧ tagCond .put (tagFull (arriving [] 0) 1 1) = true := by decide +kernel

/-! ### Frames and steps -/

theorem witness_Frames : let s := cpu [(1, 5), (7, loc 8)]
    (cst s).flag = none ∧ (cc s).utlb = [] ∧ s.pro.watches = [] ∧ (getCore s 0).held = [] ∧ endsPass (cst s) (nextPc s) = false
    ∧ goes (exec (.addi 5 1 (-3)) s) = true ∧ goes (exec (.ldB 24 7 0) s) = true ∧ goes (exec (.stB 1 7 0) s) = true
    ∧ (composeEffect s (.wins 2 5 50 2)).isSome = true ∧ (composeEffect s (.wrd 3 2)).isSome = true
    ∧ (composeEffect s (.sset 3 5 0)).isSome = true := by decide +kernel
theorem witness_MemoryFrames : let s := tagged [(1, ())] [(7, loc 8)]
    let t := tagged [] [(7, loc 8)]
    goes (exec (.amoAdd 3 7 4 .w .none .core) s) = true ∧ goes (exec (.cas 3 7 4 .d .none .core) s) = true
    ∧ goes (exec (.ldt 3 7) s) = true ∧ tagWrites .put = true ∧ tagWrites .readFull = false ∧ goes (exec (.ste 3 7) t) = true := by
  decide +kernel
theorem witness_VectorFrame : let s := landing 5
    (cc s).vec.fly.length = 1 ∧ goes (exec .vectorWordCompletion s) = true ∧ (getEng (cc s) 0).wait = none := by decide +kernel

/-- The first instruction after reset. -/
def firstTurn (w : Nat) : State := State.reset.withFetchWord 32 w
theorem witness_IssueTurn : let s := { firstTurn 0x04430800 with agenda := [] }
    issueReady s 0 = true ∧ pickStrand s 0 = some 0 ∧ isPrologue 0 = false
    ∧ (match fetchAt (prepIssue s 0 false 0) 0 (cst (prepIssue s 0 false 0)).pc with
      | (_, .ok w) => decide (w = 0x04430800)
      | (_, .error _) => false) = true ∧ stopDue s = false ∧ s.pro.freeze = none := by decide +kernel
theorem test_step_runs_the_placed_word : xget (getStrand (getCore (after (step (firstTurn 0x10A1FFFD))) 0) 0) 5 = -3 := by decide +kernel
theorem witness_EngineTurn : let s := { State.reset.withFetchWord 64 0x0100000000000001 with agenda := [] }
    engineReady s 0 0 = true ∧ (queued (getCore s 0) 0).map (·.bits) = [0x0100000000000001] := by decide +kernel
theorem test_step_runs_the_placed_engine_word :
    (getEng (getCore (after (step (State.reset.withFetchWord 64 0x0100000000000001))) 0) 0).cseq = 1 := by decide +kernel
theorem witness_EventTurn : coreEvent .fillComplete = true ∧ (getCore ({} : State) 0).run ≠ .frozen
    ∧ blockWrite (.volleyLock 1) = true ∧ (getCore stopped 0).run = .frozen := by decide +kernel
theorem witness_Reset : memWf State.reset = true ∧ ({} : State).agenda = [] := by decide +kernel
theorem test_write_keeps_memory_canonical : memWf (writeLoc (writeLoc {} (.named 64) [7, 0, 9]) (.named 64) [0]) = true
    ∧ (writeLoc (writeLoc {} (.named 64) [7, 0, 9]) (.named 64) [0]).mem = [(66, 9)] := by decide +kernel

/-! ### Words of the spec decode (R142 to R145 and the worked encodings) -/

theorem test_conductor_words :
    decodeC 0x04430800 = .add 2 3 1 ∧ decodeC 0x10A1FFFD = .addi 5 1 (-3) ∧ decodeC 0x43076000 = .ldD 24 7 0
    ∧ decodeC 0x60095066 = .amoAdd 0 9 10 .d .rel .device ∧ decodeC 0x74C7FFFD = .bne 6 7 (-3) ∧ decodeC 0x88000064 = .jal 100
    ∧ decodeC 0x8D8D8806 = .jtab 12 13 4 6 ∧ decodeC 0x90840004 = .loop 4 1 4 := by decide +kernel
theorem test_emission_words :
    decodeC 0xAD060000 = .emit .m 0 3 ∧ decodeC 0xAC040000 = .emit .v 0 2 ∧ decodeC 0xB3000000 = .emitt .x 0 0
    ∧ decodeC 0xA045C810 = .wins 2 5 50 1 ∧ decodeC 0xD2400000 = .mark 9 ∧ decodeC 0xD8002800 = .bar .cluster 2
    ∧ decodeC 0xE0148068 = .crw 0x068 20 ∧ decodeC 0xE00D8081 = .crw 0x081 13 ∧ decodeC 0xE4450000 = .spawn 2 5
    ∧ decodeC 0xEC000002 = .fret 2 := by decide +kernel
theorem test_null_words :
    decodeE .v 0x0100000000000001 = .vnop head ∧ decodeE .v 0x01B000000000000C = .vnop { pop := some .m, push := some .v, idle := 12 }
    ∧ decodeE .m 0x011C000000000003 = .mnop { pop := none, push := some .x, idle := 3 }
    ∧ decodeE .x 0x0180000000000001 = .xnop { pop := some .v, push := none, idle := 1 } := by decide +kernel
theorem test_vector_words :
    decodeE .v 0x13006110C8040004 = .vfma { vw with h := { head with idle := 4 }, vd := 3, va := 1, vb := 2, vc := 3, m := 1, ty := 1 }
    ∧ decodeE .v 0x0300800000000001 = .vsplat { h := head, vd := 4, size := 0, imm := 0 }
    ∧ decodeE .v 0x4200A40000180001 = .vcvtf { vw with vd := 5, va := 4, vb := 0, vc := 0 }
    ∧ decodeE .v 0x1200C52800000001 = .vfmul { vw with vd := 6, va := 5, vb := 5, vc := 0, ty := 0 }
    ∧ decodeE .v 0x8000000000000001 = .vld { vw with vd := 0, va := 0, vb := 0, vc := 0, ty := 0 } := by decide +kernel
theorem test_generator_words :
    decodeE .g 0x1000400000000001 = .gseed { h := head, gd := 0, sel := true, imm := 0 }
    ∧ decodeE .g 0x1200500000000001 = .gkind { h := head, gd := 0, kind := 5, tr := false }
    ∧ decodeE .g 0x1200600000000001 = .gkind { h := head, gd := 0, kind := 6, tr := false }
    ∧ decodeE .g 0x150040FEAAAAAC01 = .gparm { h := head, gd := 0, sel := true, imm := 0x3FAAAAAB }
    ∧ decodeE .g 0x2000020000000001 = .gfill { h := head, gd := 0, ss := 2, k1 := 0, k2 := 0 } := by decide +kernel
theorem test_matrix_words :
    decodeE .m 0x1000080000000001 = .mldb { ms with ss := 1 } ∧ decodeE .m 0x1100080000000001 = .mldbG { ms with ss := 1 }
    ∧ decodeE .m 0x2200000000000014 = .mmap { ms with h := { head with idle := 20 }, ss := 0 }
    ∧ decodeE .m 0x12009000000000FF = .mldbp { ms with h := { head with idle := 255 }, bank := true }
    ∧ decodeE .m 0x4000200001000020 = .mdrn { ms with h := { head with idle := 32 }, ss := 4, z := true } := by decide +kernel
theorem test_copy_words :
    decodeE .x 0x1000400000000001 = .xcpy xw
    ∧ decodeE .x 0x1000425000000001 = .xcpy { xw with cnt := true, lvl := 1, slot := 2 }
    ∧ decodeE .x 0x30011400C60FB001 = .xamo { xw with sd := 4, ss := 5, ext := 0x03183EC }
    ∧ decodeE .x 0x2100400000000001 = .xdec xw ∧ decodeE .x 0x3200C80000000001 = .xste { xw with sd := 3, ss := 2 }
    ∧ decodeE .x 0x2000000000000001 = .xtab { xw with sd := 0 } := by decide +kernel
theorem test_reserved_words : (decodeC 0).isIllegal = true ∧ decodeE .v 0x0140000000000000 = .illegalEWord .v 0x0140000000000000
    ∧ decodeE .m 0x8000000000000001 = .illegalEWord .m 0x8000000000000001 := by decide +kernel
theorem test_table_words : (decodeTableWord 32 0x10A1FFFD) = some (.addi 5 1 (-3)) := by decide +kernel
theorem witness_RoundTrip : encode (.addi 5 1 (-3)) = .cword 0x10A1FFFD ∧ (Instr.addi 5 1 (-3)).wf = true
    ∧ (Instr.addi 5 1 (-3)).isIllegal = false ∧ encode (.xcpy xw) = .eword .x 0x1000400000000001 ∧ (Instr.xcpy xw).wf = true := by
  decide +kernel

/-! ### Ill-formed terms, one for each check, and a neighbour that is well formed -/

theorem test_conductor_limits :
    (Instr.loop 4 0 0).wf = false ∧ (Instr.psetEq 0 1 2).wf = false ∧ (Instr.pand 0 1 2).wf = false ∧ (Instr.pmov 0 1).wf = false
    ∧ (Instr.wins 2 5 50 14).wf = false ∧ (Instr.wins 2 5 50 13).wf = true ∧ (Instr.sset 0 1 11).wf = false
    ∧ (Instr.sget 1 0 11).wf = false ∧ (Instr.mark 0).wf = false ∧ (Instr.join 0).wf = false := by decide +kernel
theorem test_vector_limits :
    (Instr.vadd { vw with vc := 1 }).wf = false ∧ (Instr.vadd { vw with vc := 0, fn := 2 }).wf = false
    ∧ (Instr.vadd { vw with vc := 0, rm := 1 }).wf = false ∧ (Instr.vadd { vw with vc := 0, nf := true }).wf = false
    ∧ (Instr.vadd { vw with vc := 0, ty := 0 }).wf = false ∧ (Instr.vadd { vw with vc := 0, ty := 3 }).wf = false
    ∧ (Instr.vadd { vw with vc := 0 }).wf = true ∧ (Instr.vfadd { vw with vc := 0, ty := 0, rm := 7 }).wf = false
    ∧ (Instr.vmand { vw with vc := 0, ty := 0, vd := 0 }).wf = false ∧ (Instr.vmand { vw with vc := 0, ty := 0, va := 8 }).wf = false
    ∧ (Instr.vmand { vw with vc := 0, ty := 0, m := 1 }).wf = false ∧ (Instr.vmov { vw with vb := 0, vc := 0, fn := 3 }).wf = false := by
  decide +kernel
theorem test_vector_ranges :
    (Instr.vsplat { h := head, vd := 1, size := 2, imm := 0x10000 }).wf = false
    ∧ (Instr.vsplat { h := head, vd := 1, size := 3, imm := 0x100 }).wf = false
    ∧ (Instr.vsll { vw with vb := 0, vc := 0, fn := 65 }).wf = false ∧ (Instr.vsll { vw with vb := 0, vc := 0, fn := 63 }).wf = true
    ∧ (Instr.vcmp { vw with vc := 0, ty := 5, fn := 8 }).wf = false ∧ (Instr.vcmp { vw with vc := 0, fn := 6 }).wf = false
    ∧ (Instr.vcvt { vw with vb := 0, vc := 0, fn := 0 }).wf = false ∧ (Instr.vcvti { vw with vb := 0, vc := 0, ty := 0, fn := 0x16 }).wf = false
    ∧ (Instr.vpack { vw with vb := 0, vc := 0, ty := 0, fn := 0 }).wf = false ∧ (Instr.vrot { vw with vb := 0, vc := 0, fn := 64 }).wf = false
    ∧ (Instr.vbfly2 { vw with vc := 0, ty := 0, fn := 5 }).wf = false ∧ (Instr.vbfly4 { vw with vb := 0, vc := 0, ty := 0, fn := 8 }).wf = false
    ∧ (Instr.vtwid { vw with va := 0, vb := 0, vc := 0, ty := 0, fn := 0 }).wf = false
    ∧ (Instr.vrevb { vw with vb := 0, vc := 0, fn := 7 }).wf = false ∧ (Instr.vrsum { vw with vb := 0, vc := 0, fn := 7 }).wf = false
    ∧ (Instr.vrsum { vw with vb := 0, vc := 0, mz := true }).wf = false ∧ (Instr.vld { vw with va := 16, vb := 0 }).wf = false := by decide +kernel
theorem test_generator_limits :
    (Instr.gscope { h := head, gd := 0, sel := true, imm := 0 }).wf = false ∧ (Instr.gclr { h := head, gd := 0, sel := false, imm := 1 }).wf = false
    ∧ (Instr.gkind { h := head, gd := 0, kind := 7, tr := false }).wf = false ∧ (Instr.gfill { gfw with k1 := 1 }).wf = false := by decide +kernel
theorem test_matrix_limits :
    (Instr.mldb { ms with t := true }).wf = false ∧ (Instr.mldb { ms with orow := 1 }).wf = false ∧ (Instr.mldb { ms with g := 1 }).wf = false
    ∧ (Instr.mldb { ms with rm := 1 }).wf = false ∧ (Instr.mldb { ms with z := true }).wf = false ∧ (Instr.mstat { ms with k2 := 1 }).wf = false
    ∧ (Instr.mdrn { ms with b := true }).wf = false ∧ (Instr.mdrn { ms with bank := true }).wf = false ∧ (Instr.mdrn { ms with rm := 7 }).wf = false
    ∧ (Instr.mzero mt).wf = false ∧ (Instr.manch { mt with ts := true }).wf = false ∧ (Instr.mtrap { mt with imm := 2 }).wf = false := by
  decide +kernel
theorem test_copy_limits :
    (Instr.xcpy { xw with ext := 1 }).wf = false ∧ (Instr.xcpy { xw with slot := 1 }).wf = false
    ∧ (Instr.xcpy { xw with cnt := true, lvl := 5 }).wf = false ∧ (Instr.xcpyc { xw with ext := 0x1C00000 }).wf = false
    ∧ (Instr.xgath { xw with ext := 1 }).wf = false ∧ (Instr.xtab xw).wf = false ∧ (Instr.xtab { xw with sd := 0, cnt := true }).wf = false
    ∧ (Instr.xamo { xw with ext := 0x1600000 }).wf = false ∧ (Instr.xamo { xw with ext := 0x0000001 }).wf = false
    ∧ (Instr.xamo { xw with ext := 0x0028000 }).wf = false ∧ (Instr.xcas { xw with ext := 1 }).wf = false
    ∧ (Instr.xldf { xw with ext := 1 }).wf = false ∧ (Instr.xtclr { xw with ss := 1 }).wf = false ∧ (Instr.xbar { xw with sd := 0 }).wf = false
    ∧ (Instr.xseq { xw with ext := 1 }).wf = false := by decide +kernel

/-! ### Order of accesses and records, forms that complete, fetches and walks -/

/-- A load of word 1 by strand 1, issued before the access `fl` of strand 0. -/
def behindLoad (g fl : Flight) : State :=
  dev { core [] with strands := [(0, { strand [] with run := .waiting, flight := some fl }), (1, { strand [] with run := .waiting, flight := some g })] }
def loadFlight (o ord : Nat) : Flight :=
  { op := .load .d 3, word := 0, ord := ord, loc := .scr 0 o, va := loc o, len := 8, write := false, rel := false, acq := false, plain := true, gen := false }
theorem witness_FlightOrder :
    let g := loadFlight 8 0
    let st : Flight := { loadFlight 64 1 with op := .store 8 0, write := true }
    let sub (g fl : Flight) : Prop := (sn (behindLoad g fl) 0).flight = some fl ∧ g ∈ flightsBefore (cc (behindLoad g fl)) fl.ord
    sub g { loadFlight 64 1 with rel := true } ∧ sub { g with acq := true } (loadFlight 64 1)
    ∧ (sub { g with op := .fence, rel := true } st ∧ st.write = true) ∧ g.op.touches = true
    ∧ (sub { g with plain := false } { loadFlight 64 1 with plain := false } ∧ ({ g with plain := false } : Flight).strong = true)
    ∧ sub g (loadFlight 12 1) ∧ locMeets g.loc g.len (.scr 0 12) 8 = true := by decide +kernel
theorem test_overlapping_loads_keep_their_order :
    isNext (exec (.memoryAccessPerformed 0) (behindLoad (loadFlight 8 0) (loadFlight 12 1))) (behindLoad (loadFlight 8 0) (loadFlight 12 1)) = true
    ∧ xget (cst (after (exec (.memoryAccessPerformed 0) (behindLoad (loadFlight 8 0) (loadFlight 64 1))))) 3 = 0
    ∧ (cst (after (exec (.memoryAccessPerformed 0) (behindLoad (loadFlight 8 0) (loadFlight 64 1))))).run = .ready := by decide +kernel
theorem witness_FlightRetired : retiredLoc flown (.scr 0 8) = false ∧ locTarget (.scr 0 8) ≠ 14 := by decide +kernel

/-- A level 1 record of strand 1 in a cycle, the third of its core. -/
def numberedCore : Core := { recSeq := 3, newRecs := [{ trapOfBytes [] with seq := 2, level := 1, strand := 1 }] }
theorem witness_NumberedCycle : NumberedCycle numberedCore := by
  refine ⟨by decide +kernel, fun i t h => ?_⟩
  match i with
  | 0 => simp only [numberedCore, List.getElem?_cons_zero, Option.some.injEq] at h; subst h; decide +kernel
  | n + 1 => simp [numberedCore] at h
theorem test_level_two_is_numbered_first :
    ((addRecord numberedCore { trapOfBytes [] with level := 2, engine := 3 }).newRecs.map fun t => (t.level, t.seq)) = [(2, 2), (1, 3)] := by
  decide +kernel

theorem witness_LastArrival : let s := alone []
    (cc s).cs ∈ liveStrands s (cc s) ∧ (∀ n ∈ liveStrands s (cc s), n = (cc s).cs) ∧ (cc s).arrivals = []
    ∧ ((getSlot s s.cur 0 7).arrived + 1).toNat = domCount (cc s) 0 ∧ (getSlot s s.cur 0 7).pending = 0
    ∧ (getSlot s s.cur 0 7).arrived + 1 ≠ 0 := by decide +kernel
/-- Strand 1 waits at slot 7 of its die, of whose two members one has arrived. -/
def dieBar : State :=
  { dev { core [] with task := 1, ncores := 2, dom := [(2, 0x2000000000000)], arrivals := [(23, 5)]
                       strands := [(0, strand []), (1, { strand [] with run := .waiting, barOn := some (2, 7, 0) })] } with
    ref := { tasks := [(1, { n := 2, st := .running, slots := [(23, { arrived := 1 })] })] } }
theorem witness_LastArrival_die : let s := dieBar
    Free s [] ∧ OnCore s ∧ NotFault s ∧ (cst s).barOn = none ∧ liveStrands s (cc s) = [0, 1]
    ∧ (getStrand (cc s) 1).barOn = some (2, 7, (getSlot s s.cur 2 7).phase.toNat)
    ∧ (∀ e ∈ (cc s).arrivals, e.1 = 8 * 2 + 7 → e.2 ≠ (getSlot s s.cur 2 7).phase.toNat)
    ∧ ((getSlot s s.cur 2 7).arrived + 1).toNat = domCount (cc s) 2 := by decide +kernel
theorem test_last_arrival_ends_the_phase : let s := after (exec (.bar .partition 7) dieBar)
    (getSlot s 0 2 7).phase = 1 ∧ (getSlot s 0 2 7).arrived = 0 ∧ (cst s).pc = loc 4 := by decide +kernel

theorem witness_FormsComplete : pget (cst (pooled (core []))) 0 = true ∧ pget (cst (pooled (core []))) 1 = false
    ∧ uncorrectable (pooled (core [])) (.scr 0 64) 8 = none ∧ (cc (pooled (core []))).switching = []
    ∧ readCreg (cpu []) 0 0 0x001 = some 0 ∧ Free (cpu []) [5] ∧ drained (cc (cpu [])) = true := by decide +kernel
theorem witness_MissedWord : let w := wordFor (.vnop head)
    wordBad .v w = false ∧ wordBad .v { bits := 0xFF00000000000001 } = true ∧ headOf 0xFF00000000000001#64 ≠ none
    ∧ wordIdle 0xFF00000000000001#64 ≠ 0
    ∧ (getEng (cc (timedAt 0 w)) 0).stop = false ∧ inHold (cc (timedAt 0 w)) (curCyc (timedAt 0 w)) = false := by decide +kernel
theorem test_illegal_word_misses_no_cycle : let s := timedAt 0 { bits := 0xFF00000000000001 }
    isNext (exec (.scheduleMiss .v) s) s = true := by decide +kernel

theorem witness_Walks : walksAsked (vecSettle (eng 0 (qwordOn (strm 4) 2 (.vld vm)) (core []))) 0
      (vmemAccs (.row none) vm (strm 4) (core [])) = none
    ∧ walksAsked (genSettle (gdev (.gfill gfw) [(0, sign)] (fp 3))) 2 (fillSpots (fillOf (cc (filling 3)) false gfw (qwordOn (fp 3) 2 (.gfill gfw))))
      = none
    ∧ walksAsked (matSettle false (genSettle (mdev (.manch mt) {} {}))) 1 ((allAccs { kind := .tile .anch 1 0 (-3) }).map (·.1)) = none := by
  decide +kernel
/-- A walk of page 0 for strand 0 in progress, its table in memory. -/
def walkingOne : State :=
  { dev (core []) with mem := [(0, 4), (1, 0x10), (0x1000, 4), (0x1001, 0x20), (0x2000, 9)]
                       mm := { walking := [{ cluster := 0, asn := 0, root := 0, va := 0, waiters := [(0, 0)] }] } }
theorem witness_WalkComplete : (match hubWalk { walkingOne with mm := { walkingOne.mm with walking := [] } } 0 0 0 with
    | (_, .ok r) => decide (r = (9, 3))
    | (_, .error _) => false) = true ∧ walkingOne.mm.late = [] := by decide +kernel
theorem witness_WalkLimit : let s : State := { dev (core []) with mm := { walks := List.replicate 64 ⟨0, 7, 0, 0, [(0, 1)]⟩ } }
    (∀ w ∈ s.mm.walks ++ s.mm.walking, (w.ofCluster (clusterOf s.cur) && w.serves (getTask s (cc s).task).asn 0) = false)
    ∧ 64 ≤ outstanding s (clusterOf s.cur) ∧ ∀ p, p < 8 → (s.mm.walking.filter fun v => poolOf s v.cluster = p).length ≤ 128 / s.mm.mode := by
  decide +kernel

/-- Queues 3 and 7 have packets to read; queue 3 was read last. -/
def twoQueues : State :=
  { host := { served := 3, sq := [(3, { cfg := 0x10001, owed := 1 }), (7, { cfg := 0x10001, reread := true })] } }
theorem witness_NextQueue : nextQueue twoQueues = some 7 ∧ nextQueue ({} : State) = none ∧ tablesFull twoQueues = false
    ∧ (getSq twoQueues 7).reread = true ∧ (getSq twoQueues 3).reread = false
    ∧ nextQueue { twoQueues with host := { twoQueues.host with served := 7 } } = some 3 := by decide +kernel
theorem test_atomic_on_a_bar_is_unsupported :
    (after (exec (.hostBarAccess ⟨true, 64, 8, [], true⟩) {})).host.unsupported = true := by decide +kernel
theorem witness_PageFlush : freeTag ([] : Tbl Trap) 0 256 = some 0 ∧ ({} : State).host.compatFail = false
    ∧ (0 : Nat) < ({ alloc := 1 } : HostLink).alloc := by decide +kernel
theorem test_page_requests_keep_the_allocation : let s : State := { host := { tr := { wait := [[], []] }, alloc := 1 } }
    ((pageFlush 3 s).host.tr.wait, (pageFlush 3 s).host.pageReqs.length) = ([[]], 1) := by decide +kernel

theorem witness_PrologueVerdict : Free (prologue [(20, 1)]) (verdictUses (cst (prologue [(20, 1)])))
    ∧ (after (exec .exit (prologue [(20, 1)]))).ref.said = [0] ∧ encode .exit = .cword 0xE4000001
    ∧ recordsOut (core []) = true := by decide +kernel
theorem witness_VolleyOrigins : let s : State := { vol := { fly := [⟨1, 9, 0, .load 4, .fetch 0 0, 0, false, none⟩, ⟨2, 9, 0, .load 8, .host (some (0, 8)), 0, false, none⟩] } }
    ((s.vol.fly.find? fun r => r.id = 1).map (·.origin)) = some (.fetch 0 0)
    ∧ ((s.vol.fly.find? fun r => r.id = 2).map (·.origin)) = some (.host (some (0, 8))) := by decide +kernel
theorem test_refused_operation_leaves_again_later :
    (cc (after (exec (.volleyAck 5 4 0) exporting))).cpy.sent = some (.refused 64) := by decide +kernel
/-! ### What another agent answers, walks left to the hub, landings, clauses at their boundaries -/

/-- The tables of `walkingOne`; every miss is left to a walker. -/
def missing : State := { dev (core []) with mem := walkingOne.mem, defer := true }
theorem witness_AccessAwaitingAWalk : asksWalk missing 0 0 = true ∧ (loadOf missing (.ldD 3 0 0)).map (·.2.2.2.2.2) = some 0
    ∧ (storeOf missing (.stD 3 0 0)).isSome = true ∧ OnCore missing ∧ Free missing [3, 0] := by decide +kernel
theorem test_miss_stands_in_flight : let s := after (exec (.ldD 3 0 0) missing)
    (cst s).flight.map (fun fl => (fl.va, fl.ord, fl.walk.isSome)) = some (0, 0, true) ∧ s.mm.walking.length = 1 := by decide +kernel

theorem test_mask_lands : let v := (cc (after (exec .vectorWordCompletion (dev { core [] with vec := { m := [(2, 8)], vx := 3, fly :=
      [{ i := { w := {}, t := 0, due := some 0, push := none }, dest := .mask 2 5 7, flags := 4, acc := none }] } })))).vec
    v.m = [(2, 13)] ∧ v.vx = 7 := by decide +kernel
theorem test_vxclr_lands : (cc (after (exec .vectorWordCompletion (dev { core [] with vec := { vx := 7, fly :=
      [{ i := { w := {}, t := 0, due := some 0, push := none }, dest := .clearVx 5, flags := 0, acc := none }] } })))).vec.vx = 2 := by decide +kernel

/-- A store of the Volley window holds queue V; what the other device answered. -/
def volStore (l : List (Nat × Nat × BitVec 2 × W64)) : State :=
  let a : VAcc := { el := 0, va := 8, len := 4, loc := .named (14 * 2 ^ 47), pos := 0, data := [1, 2, 3, 4] }
  dev { core [] with acks := l, vec := { fly := [{ i := { w := {}, t := 0, due := none, push := none }, dest := .none, flags := 0
                                                   acc := some [a], load := false }] } }
/-- How such a word goes on. -/
def goesOn (s : State) : Nat :=
  match holdingWord (cc s).vec.fly with
  | some (x, l, _) =>
    match volStep s 0 x.load (lowVa l) (if x.load then [] else l) l with
    | .sent _ => 1
    | .wait => 2
    | .flt _ => 3
    | .ready => 4
    | .done => 5
  | none => 0
theorem witness_VectorAcknowledged : goesOn (volStore []) = 1 ∧ goesOn (volStore [(0, 8 + 2 ^ 64 * (65536 + 4), 0, 0)]) = 4
    ∧ goesOn (volStore [(0, 8 + 2 ^ 64 * 4, 0, 0)]) = 5 ∧ goesOn (volStore [(0, 8 + 2 ^ 64 * (65536 + 4), 2, 0)]) = 3
    ∧ isVol (.named (14 * 2 ^ 47)) = true := by decide +kernel
theorem test_a_store_leaves_after_its_checks : let s := after (exec .vectorRemoteAccessDone (volStore [(0, 8 + 2 ^ 64 * (65536 + 4), 0, 0)]))
    (s.vol.fly.map fun r => r.op) = [.piece [(0, 1), (1, 2), (2, 3), (3, 4)]]
    ∧ ((cc (after (exec .vectorRemoteAccessDone (volStore [(0, 8 + 2 ^ 64 * 4, 0, 0)])))).vec.fly.map fun x => x.i.due) = [some 0] := by decide +kernel
/-- An image of queue G bound for another device. -/
def volImage (l : List (Nat × Nat × BitVec 2 × W64)) : State :=
  let a : VAcc := { el := 0, va := 8, len := 8, loc := .named (14 * 2 ^ 47), pos := 0, data := [1] }
  let w := wordFor (.gsave { h := head, gd := 3, ss := 2, k1 := 0, k2 := 0 })
  dev { core [] with acks := l, gen := { fly := [{ i := { w := w, t := 0, due := none, push := none }, acc := some [a] }] } }
theorem test_generator_word_follows_the_answers :
    ((after (exec .generatorWriteLanding (volImage [(2, 8 + 2 ^ 64 * (65536 + 8), 0, 0)]))).vol.fly.length = 1)
    ∧ ((cc (after (exec .generatorWriteLanding (volImage [(2, 8 + 2 ^ 64 * (65536 + 8), 2, 0)])))).gen.fly.map fun x => x.i.faulted) = [true]
    ∧ ((cc (after (exec .generatorWriteLanding (volImage [(2, 8 + 2 ^ 64 * 8, 0, 0)])))).gen.fly.map fun x => x.i.due) = [some 0] := by decide +kernel

theorem witness_Saturates : let T : Tile := putEl { ovf := 1 } 0 0 accMax
    (T.ovf.getLsbD 0 = true ∧ tileEl T 0 0 = accMax) ∧ (0 : Nat) < 128 ∧ accMax < tileEl (putEl {} 0 0 accMax) 0 0 + 1
    ∧ tileEl (putEl {} 0 0 accMin) 0 0 + -1 < accMin ∧ accMin ≤ tileEl {} 127 127 + 1 ∧ tileEl {} 127 127 + 1 ≤ accMax := by decide +kernel
theorem test_madd_takes_the_marks_of_its_source : let U := tileWord .add (putEl {} 1 2 40) { putEl {} 1 2 2 with ovf := 8, st := true } 0
    tileEl U 1 2 = 42 ∧ U.ovf = 8 ∧ U.st = true := by decide +kernel
theorem test_mshift_saturates : let U := tileWord .shift (putEl {} 0 0 accMin) {} (-1)
    U.anch = -1 ∧ tileEl U 0 0 = accMin ∧ U.ovf = 1 ∧ U.st = true := by decide +kernel

/-- One page of another device, and one of HBM, at address 0. -/
def volPage : TlbE := ⟨0, 3, 0, BitVec.ofNat 64 (14 * 2 ^ 47 + 0x19), 0, 0, 0, false⟩
def hbmPage : TlbE := ⟨0, 3, 0, 0x79, 0, 0, 0, false⟩
/-- Queue X has sent its piece of 3 bytes to another device. -/
def farCopy : State :=
  let w := { wordFor (.xcpy xw) with snaps := [(0, bytesAt 64 3), (1, { bytesAt 0 3 with base := 4 })] }
  after (exec .copyPiecePerformed (after (exec (.xcpy xw) (eng 3 w { core [] with scr := [(64, 7), (66, 9)], utlb := [volPage] }))))
/-- It has been answered, or refused. -/
noncomputable def farCopied (err : BitVec 3) : State := after (exec (.volleyAck 0 err 0) farCopy)
theorem witness_BegunPiece : (match copyRun (cc (farCopied 0)) with
    | some (_, p) =>
      let us := pieceAt (farCopied 0) p (cc (farCopied 0)).cpy.elem
      let l := farWrites (us.flatMap fun u => (locUnit (farCopied 0) u).accs)
      decide (xFarFlt (farCopied 0) l = none) && !volPending (farCopied 0) 3 && (xFarFlt (farCopied 2) l).isSome && l.any (isVol ·.loc)
    | none => false) = true ∧ (cc (farCopied 0)).cpy.begun = true := by decide +kernel
theorem test_piece_goes_as_one_request : (farCopy.vol.fly.map fun r => r.op) = [.piece [(4, 7), (5, 0), (6, 9)]]
    ∧ (cc (after (exec .copyPiecePerformed (farCopied 0)))).cpy.next = 1
    ∧ (cc (after (exec .copyPiecePerformed (farCopied 2)))).newRecs.map (·.code) = [0x11] := by decide +kernel
/-- An atomic of a begun piece in HBM, whose page is then unmapped. -/
def gonePlace (l : List TlbE) : State :=
  let s := eng 3 (qwordX (quads 64 2) { quads 0 2 with base := 128 } xamo) { core [] with task := 1, utlb := [hbmPage] }
  let s := after (exec .copyPiecePerformed (after (exec xamo s)))
  setCC s { cc s with utlb := l }
/-- Whether that atomic's place is still there. -/
def hasPlace (l : List TlbE) : Option Bool :=
  (copyRun (cc (gonePlace l))).bind fun (_, p) => ((pieceAt (gonePlace l) p (cc (gonePlace l)).cpy.elem)[(cc (gonePlace l)).cpy.part]?).map fun u =>
    match reUnit (gonePlace l) u with
    | .ok _ => true
    | .error _ => false
theorem witness_AtomicPlace : hasPlace [hbmPage] = some true ∧ hasPlace [] = some false ∧ (cc (gonePlace [])).cpy.begun = true
    ∧ (cc (gonePlace [])).cpy.sent = none := by decide +kernel
/-- A copy word with every piece performed and a counted slot. -/
def countedEnd (n : W64) : State :=
  let s := after (exec .copyPiecePerformed (after (exec (.xcpy xw) (xdev 3 (.xcpy xw)))))
  setSlot (setCC s { cc s with cpy := { (cc s).cpy with slot := some (0, 3), left := 8 } }) 0 0 3 { pending := n }
/-- Whether the slot can take the rest of that word. -/
def takesRest (n : W64) : Bool :=
  let t := xUpd (countedEnd n) fun c => { c with left := c.left - 8 }
  match slotAdd t t.cur 0 3 (-8) with
  | .ok t1 => (copyRun (cc t1)).isSome
  | .error _ => false
theorem witness_CountedEnd : takesRest 8 = true ∧ takesRest 7 = false ∧ (cc (countedEnd 8)).cpy.slot = some (0, 3) := by decide +kernel
theorem test_counted_word_leaves_its_slot : (getSlot (after (exec .copyWordComplete (countedEnd 8))) 0 0 3).pending = 0
    ∧ (getEng (cc (after (exec .copyWordComplete (countedEnd 8)))) 3).cseq = 1
    ∧ (cc (after (exec .copyWordComplete (countedEnd 7)))).newRecs.map (·.code) = [0x51] := by decide +kernel

/-! ### Freezes, fabric nodes, time, links, stops, debug, flash -/

/-- A frozen task whose core has a load in flight. -/
def freezing (k : Core) : State := launched .freezing { k with run := .frozen }
theorem witness_Freeze : let s := freezing { cc flown with vec := {} }
    let u (s : State) := overCores (overCores (overCores (overCores s (coresOf s 1) flushWalks) (coresOf s 1) flushCopyWalk) (coresOf s 1) flushStrands) (coresOf s 1) flushEngines
    (coresOf (u s) 1).any (stillOut (u s)) = false ∧ (coresOf (u (freezing (cc (volStore [])))) 1).any (stillOut (u (freezing (cc (volStore []))))) = true
    ∧ goes (exec (.memoryAccessPerformed 0) { s with cur := 0 }) = true ∧ fillHolding (getCore s 0) = false ∧ pieceAcked (getCore s 0) = false := by
  decide +kernel
theorem test_freeze_performs_what_is_in_flight : let s := after (exec (.freezeComplete 1) (freezing { cc flown with vec := {} }))
    (getTask s 1).st = .saving ∧ xget (getStrand (getCore s 0) 0) 3 = 7 := by decide +kernel
theorem test_nothing_is_saved_while_a_request_is_out :
    let s := launched .saving (core [])
    let out := { s with vol := { s.vol with fly := [⟨4, 9, 0, .load 8, .engine 0 1 64, 1, false, none⟩] } }
    noneFlying out [0] = false ∧ isNext (exec (.imageSaved 1) out) out = true := by decide +kernel

theorem witness_FabricNotRunning : groupNode (graphed .ready {}) 7 = some (1, 0) ∧ (getTask (graphed .ready { st := .dispatched }) 1).st ≠ .running := by
  decide +kernel
theorem test_arrival_is_held_until_the_part_runs :
    (after (exec (.fabricArrivalMessage 7 2) (graphed .ready { st := .dispatched }))).vol.held = [(7, 2)] := by decide +kernel
theorem test_cancel_waits_for_its_turn : (after (exec (.cancel 0 9 0) (graphed .ready {}))).ref.cancels = [(0, 9, 0)] := by decide +kernel

theorem witness_Discipline : let s : State := { gtc := 20000000, vol := { discAt := 1 } }
    s.vol.late = false ∧ s.vol.discAt + 10000000 ≤ s.gtc ∧ ({ s with vol := { s.vol with late := true } } : State).vol.late = true
    ∧ s.ref.nextTask = 1 ∧ s.mg.recovery = false ∧ s.gtc ≤ 20000001 := by decide +kernel
theorem test_silence_is_reported_once : let s := after (exec .disciplineTimeout { gtc := 20000000, vol := { discAt := 1 } })
    s.host.msgs = [67] ∧ isNext (exec .disciplineTimeout s) s = true := by decide +kernel
theorem test_gtc_steps_forward_at_boot : (stepGtc ({} : State) 70).gtc = 70 ∧ (stepGtc ({} : State) 70).vol.discAt = 70
    ∧ (stepGtc { gtc := 9 } 8).gtc = 9 ∧ (stepGtc { ref := { nextTask := 2 } } 70).gtc = 0 := by decide +kernel
theorem witness_ShedRun : (getTask (graphed .running {}) 1).nclus ≠ 0
    ∧ (let s : State := { ref := { graphs := [(1, { nodes := [{ st := .prologue, task := 5, pro := some 0 }] })], tasks := [(5, { graph := 1, node := 0 })] } }
       (getTask s 5).nclus = 0 ∧ (getNode (getGraph s 1) 0).pro ≠ none ∧ (getNode (getGraph s 1) 0).image = none
       ∧ (getNode (getGraph s 1) 0).st = .prologue) := by decide +kernel

theorem witness_StopHere : let s := { launched .running (core []) with pro := { stopcyc := 0 } }
    let u := { s with cores := s.cores.map fun e => (e.1, { e.2 with slotAt := 1 }) }
    lidCyc s 1 0 = 0 ∧ lidIssued s 1 0 = false ∧ lidIssued u 1 0 = true ∧ (getTask stopped 1).stopped = true
    ∧ lidIssued { stopped with cores := u.cores } 1 0 = true := by decide +kernel
theorem test_stop_at_this_cycle_is_late_after_an_issue :
    let s := { launched .running (core []) with pro := { stopcyc := 0 } }
    let u := { s with cores := s.cores.map fun e => (e.1, { e.2 with slotAt := 1 }) }
    (after (exec (.stopAtCycle 1 0) s)).pro.armed = true ∧ (after (exec (.stopAtCycle 1 0) u)).pro.late = true
    ∧ (after (exec (.stopAtCycle 1 0) u)).pro.armed = false := by decide +kernel

/-- The stopped task under the debug selection of a class and index. -/
def selected (cls i : Nat) : State :=
  { stopped with pro := { stopped.pro with dsel := BitVec.ofNat 64 (cls * 2 ^ 20 + i * 2 ^ 24) } }
theorem witness_DebugClasses : ([(0, 32), (1, 0), (2, 2047), (3, 1), (4, 1), (5, 0), (0, 33), (2, 2048), (3, 262144)].all fun e =>
    decide (debugSel (selected e.1 e.2) = some (0, 0, e.1, e.2))) = true := by decide +kernel
theorem witness_DebugFree : debugPending (selected 2 2047) 0 0 2 2047 = false
    ∧ debugPending (selected 3 1) 0 0 3 1 = false ∧ debugPending (selected 4 1) 0 0 4 1 = false ∧ (getCore (selected 4 1) 0).held = []
    ∧ uncorrectable (selected 3 1) (.scr 0 8) 8 = none ∧ (readCreg (selected 1 0) 0 0 0).isSome = true ∧ readCreg (selected 1 0) 0 0 0x0FF = none
    ∧ scrSize ≤ 8 * 262144 := by
  decide +kernel
theorem test_debug_writes_every_class : (getStrand (getCore (after (exec (.debugWrite 64) (selected 0 32))) 0) 0).pc = 64
    ∧ tget 0 (getCore (after (exec (.debugWrite 5) (selected 2 65))) 0).vec.v 1 = 0x500000000
    ∧ (getCore (after (exec (.debugWrite 5) (selected 3 1))) 0).scr = [(8, 5)] ∧ tagFull (after (exec (.debugWrite 1) (selected 4 1))) 0 1 = true
    ∧ (after (exec (.debugWrite 5) (selected 1 0))).pro.derr = true ∧ (after (exec .debugRead (selected 5 0))).pro.derr = true := by decide +kernel

theorem witness_Trial : let s : State := { mg := { trial := true, act := true } }
    s.mg.trial = true ∧ s.mg.bad.getLsbD (slotNo false) = false ∧ slotOk (blank s) (slotNo false) = false := by decide +kernel
theorem test_reset_in_a_trial_goes_back : let s := boot { mg := { trial := true, act := true } } 5
    s.mg.trial = false ∧ s.mg.next = false ∧ s.mg.bad = 3 ∧ s.mg.recovery = true := by decide +kernel
theorem witness_Flash : 4 + [7, 8].length ≤ slotBytes ∧ slotBytes < slotBytes + [(7 : Byte)].length ∧ ({} : State).mg.recovery = false := by
  decide +kernel
theorem test_writing_a_slot_clears_its_bad_bit : let s := updateSlot { mg := { bad := 3 } } true 4 [7]
    s.mg.bad = 1 ∧ s.mg.flash = [(slotBytes + 4, 7)]
    ∧ (updateSlot { mg := { bad := 3, recovery := true } } true 4 [7]).mg.bad = 3 := by decide +kernel

theorem witness_Pools : let s : State := { mm := { walking := walkingOne.mm.walking } }
    (∃ w ∈ s.mm.walking, poolOf s w.cluster = 0) ∧ (∀ w ∈ s.mm.walking, poolOf s w.cluster ≠ 1) ∧ (0 : Nat) < s.mm.mode := by
  refine ⟨⟨_, List.mem_singleton_self _, by decide +kernel⟩, by decide +kernel, by decide +kernel⟩
theorem witness_Fold : let s : State := { pro := { stsize := 2, stbase := 0 }, mem := [(0, 1), (64, 0)] }
    stFree s 0 s.pro.stsize = [1] ∧ stFind s (fun w p => w.getLsbD 0 && p == 7) 0 s.pro.stsize = none := by decide +kernel
theorem test_shootdown_holds_its_range : let s : State := after (exec (.shootdownRange 3) { mm := { inva := 65536, invn := 2 } })
    s.mm.invAt = (65536, 2) ∧ s.mm.invBusy = true := by decide +kernel

theorem witness_MoreTurns : firmwareAct (.railStale 3) = true ∧ coreEvent .copyPiecePerformed = true ∧ blockWrite .copyPiecePerformed = false
    ∧ firmwareAct .copyPiecePerformed = false ∧ asksWalk { firstTurn 0x04430800 with agenda := [] } 0 (loc 0) = false := by decide +kernel
theorem test_turns_of_firmware_and_sensors : (after (step { agenda := [.gtcStep 70] })).gtc = 70
    ∧ (after (step { agenda := [.temps 5 6] })).mg.tempHub = 6
    ∧ (after (step { agenda := [.flashWrite false 0 [9]] })).mg.flash = [(0, 9)]
    ∧ (after (step { agenda := [.event 0 (.railStale 3)], gtc := 10 ^ 9, mg := { recovery := true } })).host.msgs = [] := by decide +kernel
theorem witness_ResetLists : State.reset.mem = [] ∧ State.reset.host.mem = [] ∧ State.reset.mg.flash = [] := by decide +kernel

end Sys2Proof.Tests
end

section
/-! SUPPORT. O59: a step keeps the canonical form of named memory, host memory and board flash. One lemma for each
function of the model that a step runs says that it keeps `memWf` (`memWf_f`), or that what it answers does (`outWf_f` for
an outcome, `effWf_f` for an effect, and so on); its proof follows the function's branches and cites the lemmas of the
functions called there. Bytes are written in four places only: by `writeLoc`, `ringPut` and `writeFlash`, and in the turn
of the host's own writes. -/

namespace Sys2Proof.Machine

open Sys2Proof

-- One theorem at a time: many evaluated at once take more threads than the check allows.
set_option Elab.async false

/-! ### The canonical form in what a function answers -/

/-- An outcome whose next state, where there is one, holds its memories in canonical form. -/
def OutWf : Host.Outcome State Fault Refusal → Prop
  | .next s => memWf s
  | .fault _ | .refused _ => True

/-- The same of an instruction's effect. -/
def EffWf : Eff → Prop
  | .goto s _ | .jump s _ | .set s | .wait s _ | .flt s _ => memWf s

/-- The same of what became of an access. -/
def DoneWf : Done → Prop
  | .ok s _ | .flt s _ | .tagWait s _ | .sent s _ => memWf s

/-- The same of what an engine's checks make of a word: the state they leave, and the effect that the word has then. -/
def ActWf : Act → Prop
  | .go s f => memWf s ∧ ∀ t i, memWf t → memWf (f t i)
  | .ask s => memWf s
  | .wait _ | .starve _ | .flt _ => True

/-- The same of a step toward accesses on other devices. -/
def VolWf : VolStep → Prop
  | .sent s => memWf s
  | .wait | .flt _ | .ready | .done => True

/-- The same of a copy word's reads. -/
def XReadWf : XRead → Prop
  | .done s | .far s => memWf s
  | .flt _ => True

/-- The same of the reads of a compressed image's header. -/
def HeadWf : HeadStep → Prop
  | .done s _ | .far s => memWf s
  | .flt _ => True

/-- The same of a state that need not be there. -/
def OptWf : Option State → Prop
  | some s => memWf s
  | none => True

section
variable {s t : State}

theorem memWf_iff : memWf s ↔ twf 0 s.mem = true ∧ twf 0 s.host.mem = true ∧ twf 0 s.mg.flash = true := by
  simp only [memWf, Bool.and_eq_true, and_assoc]

/-- What changes none of the three memories keeps their form. -/
theorem memWf_same (hs : memWf s) (hm : t.mem = s.mem := by rfl) (hh : t.host.mem = s.host.mem := by rfl)
    (hf : t.mg.flash = s.mg.flash := by rfl) : memWf t := by
  rw [memWf_iff, hm, hh, hf]
  exact memWf_iff.mp hs

/-- Another core made the current one. -/
theorem memWf_cur {c : Nat} (hs : memWf s) : memWf { s with cur := c } := memWf_same hs

theorem memWf_ite {c : Prop} [Decidable c] {a b : State} (ha : memWf a) (hb : memWf b) : memWf (if c then a else b) :=
  iteInduction (motive := fun s => memWf s) (fun _ => ha) fun _ => hb

/-- A step taken under a condition. -/
theorem memWf_when {c : Prop} [Decidable c] {a : State} (ha : memWf s → memWf a) (hs : memWf s) :
    memWf (if c then a else s) :=
  memWf_ite (ha hs) hs

theorem memWf_unless {c : Prop} [Decidable c] {a : State} (ha : memWf s → memWf a) (hs : memWf s) :
    memWf (if c then s else a) :=
  memWf_ite hs (ha hs)

theorem memWf_fst_ite {α : Type} {c : Prop} [Decidable c] {p q : State × α} (hp : memWf p.1) (hq : memWf q.1) :
    memWf (if c then p else q).1 :=
  iteInduction (motive := fun p : State × α => memWf p.1) (fun _ => hp) fun _ => hq

theorem memWf_snd_ite {α : Type} {c : Prop} [Decidable c] {p q : α × State} (hp : memWf p.2) (hq : memWf q.2) :
    memWf (if c then p else q).2 :=
  iteInduction (motive := fun p : α × State => memWf p.2) (fun _ => hp) fun _ => hq

theorem outWf_ite {c : Prop} [Decidable c] {a b : Host.Outcome State Fault Refusal} (ha : OutWf a) (hb : OutWf b) :
    OutWf (if c then a else b) :=
  iteInduction (motive := OutWf) (fun _ => ha) fun _ => hb

theorem effWf_ite {c : Prop} [Decidable c] {a b : Eff} (ha : EffWf a) (hb : EffWf b) : EffWf (if c then a else b) :=
  iteInduction (motive := EffWf) (fun _ => ha) fun _ => hb

theorem doneWf_ite {c : Prop} [Decidable c] {a b : Done} (ha : DoneWf a) (hb : DoneWf b) :
    DoneWf (if c then a else b) :=
  iteInduction (motive := DoneWf) (fun _ => ha) fun _ => hb

theorem actWf_ite {c : Prop} [Decidable c] {a b : Act} (ha : ActWf a) (hb : ActWf b) : ActWf (if c then a else b) :=
  iteInduction (motive := ActWf) (fun _ => ha) fun _ => hb

theorem volWf_ite {c : Prop} [Decidable c] {a b : VolStep} (ha : VolWf a) (hb : VolWf b) :
    VolWf (if c then a else b) :=
  iteInduction (motive := VolWf) (fun _ => ha) fun _ => hb

theorem xreadWf_ite {c : Prop} [Decidable c] {a b : XRead} (ha : XReadWf a) (hb : XReadWf b) :
    XReadWf (if c then a else b) :=
  iteInduction (motive := XReadWf) (fun _ => ha) fun _ => hb

/-- The state that a match on a pair finds. -/
theorem memWf_fst {α : Type} {p : State × α} {a : α} (e : p = (t, a)) (h : memWf p.1) : memWf t := by
  subst e
  exact h

theorem outWf_of_eq {a b : Host.Outcome State Fault Refusal} (e : a = b) (h : OutWf a) : OutWf b := e ▸ h
theorem doneWf_of_eq {a b : Done} (e : a = b) (h : DoneWf a) : DoneWf b := e ▸ h
theorem volWf_of_eq {a b : VolStep} (e : a = b) (h : VolWf a) : VolWf b := e ▸ h
theorem xreadWf_of_eq {a b : XRead} (e : a = b) (h : XReadWf a) : XReadWf b := e ▸ h
theorem headWf_of_eq {a b : HeadStep} (e : a = b) (h : HeadWf a) : HeadWf b := e ▸ h
theorem optWf_of_eq {a b : Option State} (e : a = b) (h : OptWf a) : OptWf b := e ▸ h

/-- A fold whose every step keeps the form keeps it. -/
theorem memWf_foldl {α : Type} {f : State → α → State} {l : List α} (hf : ∀ s a, memWf s → memWf (f s a))
    (hs : memWf s) : memWf (l.foldl f s) := by
  induction l generalizing s with
  | nil => exact hs
  | cons a l ih => exact ih (hf s a hs)

theorem memWf_fst_foldl {α β : Type} {f : State × β → α → State × β} {l : List α} {p : State × β}
    (hf : ∀ p a, memWf p.1 → memWf (f p a).1) (hp : memWf p.1) : memWf (l.foldl f p).1 := by
  induction l generalizing p with
  | nil => exact hp
  | cons a l ih => exact ih (hf p a hp)

theorem outWf_andThen {o : Out} {f : State → Out} (ho : OutWf o) (hf : ∀ s, memWf s → OutWf (f s)) :
    OutWf (andThen o f) := by
  cases o with
  | next s => exact hf s ho
  | fault r => trivial
  | refused r => trivial

theorem outWf_foldl {α : Type} {f : Out → α → Out} {l : List α} {o : Out} (hf : ∀ o a, OutWf o → OutWf (f o a))
    (ho : OutWf o) : OutWf (l.foldl f o) := by
  induction l generalizing o with
  | nil => exact ho
  | cons a l ih => exact ih (hf o a ho)

/-! ### Memories and the state's parts (`Machine/Mem`) -/

theorem memWf_setCore {c k} (hs : memWf s) : memWf (setCore s c k) := memWf_same hs
theorem memWf_setCluster {k c} (hs : memWf s) : memWf (setCluster s k c) := memWf_same hs
theorem memWf_setTask {t v} (hs : memWf s) : memWf (setTask s t v) := memWf_same hs
theorem memWf_answerReq {src seq m} (hs : memWf s) : memWf (answerReq s src seq m) := memWf_same hs
theorem memWf_awaken {pa} (hs : memWf s) : memWf (awaken s pa) := memWf_ite (memWf_same hs) hs

theorem memWf_writeLoc {l b} (hs : memWf s) : memWf (writeLoc s l b) := by
  obtain ⟨hm, hh, hf⟩ := memWf_iff.mp hs
  obtain ⟨hm', hh'⟩ := writeLoc_twf l b hm hh
  refine memWf_iff.mpr ⟨hm', hh', ?_⟩
  unfold writeLoc
  split
  · exact hf
  · split <;> exact hf

theorem memWf_writeSpa {a bs} (hs : memWf s) : memWf (writeSpa s a bs) := memWf_writeLoc (memWf_awaken hs)
theorem memWf_takeFresh (hs : memWf s) : memWf (takeFresh s).2 := memWf_same hs

/-! ### Message rings, traps and trace (`Machine/Ring`) -/

/-- Bytes written to host memory. -/
theorem memWf_hostMem {a : Nat} {b : List Byte} (hs : memWf s) :
    memWf { s with host := { s.host with mem := tputs 0 s.host.mem a b } } := by
  obtain ⟨hm, hh, hf⟩ := memWf_iff.mp hs
  exact memWf_iff.mpr ⟨hm, twf_tputs b a hh, hf⟩

theorem memWf_ringPut {spa a b} (hs : memWf s) : memWf (ringPut s spa a b) :=
  memWf_ite (memWf_writeSpa hs) (memWf_hostMem hs)

theorem memWf_sendMsix {v} (hs : memWf s) : memWf (sendMsix s v) := memWf_same hs

theorem memWf_setRing {r v} (hs : memWf s) : memWf (setRing s r v) := by
  cases r with
  | cq q => exact memWf_same hs
  | tr => exact memWf_same hs

theorem memWf_ringMsg {r} (hs : memWf s) : memWf (ringMsg s r) :=
  memWf_ite hs (memWf_ite (memWf_sendMsix (memWf_setRing hs)) (memWf_setRing hs))

theorem memWf_ringFlush {r n} (hs : memWf s) : memWf (ringFlush r n s) := by
  induction n generalizing r s with
  | zero => exact hs
  | succ n ih =>
    unfold ringFlush
    dsimp only
    split
    · exact hs
    · exact memWf_ite (ih (memWf_ringMsg (memWf_setRing (memWf_ringPut hs)))) hs

theorem memWf_ringAdd {r b} (hs : memWf s) : memWf (ringAdd s r b) := memWf_ringFlush (memWf_setRing hs)

theorem memWf_pageFlush {n} (hs : memWf s) : memWf (pageFlush n s) := by
  induction n generalizing s with
  | zero => exact hs
  | succ n ih =>
    unfold pageFlush
    split
    · exact memWf_ite hs (ih (memWf_sendMsix (memWf_same hs)))
    · exact hs

theorem memWf_trapWrite (hs : memWf s) : memWf (trapWrite s) := memWf_ite (memWf_pageFlush hs) (memWf_ringFlush hs)

theorem memWf_takeOwed {n} (hs : memWf s) : memWf (takeOwed n s) := by
  induction n generalizing s with
  | zero => exact hs
  | succ n ih =>
    exact ih (memWf_trapWrite (memWf_same hs))

theorem memWf_trapFlush (hs : memWf s) : memWf (trapFlush s) := memWf_takeOwed (memWf_trapWrite hs)
theorem memWf_trapAdd {t} (hs : memWf s) : memWf (trapAdd s t) := memWf_trapFlush (memWf_same hs)

theorem memWf_traceAdd {t} (hs : memWf s) : memWf (traceAdd s t) :=
  memWf_ite (memWf_ite (memWf_same (memWf_writeSpa hs)) (memWf_same hs)) hs

/-! ### Translation (`Machine/Xlate`) -/

theorem memWf_awakenSpan {a n} (hs : memWf s) : memWf (awakenSpan s a n) :=
  memWf_ite hs (memWf_foldl (fun _ _ => memWf_awaken) hs)

theorem memWf_stPut {i l} (hs : memWf s) : memWf (stPut s i l) := memWf_foldl (fun _ _ => memWf_writeSpa) hs

theorem memWf_foldApply {f} (hs : memWf s) : memWf (foldApply s f) := by
  unfold foldApply
  dsimp only
  split
  · exact memWf_stPut (memWf_awakenSpan hs)
  · split
    · exact memWf_same (memWf_awakenSpan hs)
    · exact memWf_stPut (memWf_takeFresh (memWf_awakenSpan hs))

theorem memWf_foldSend {f} (hs : memWf s) : memWf (foldSend s f) := memWf_ite (memWf_same hs) (memWf_foldApply hs)
theorem memWf_foldOut {e} (hs : memWf s) : memWf (foldOut s e) := memWf_ite (memWf_foldSend hs) hs

theorem memWf_foldAll {l} (hs : memWf s) : memWf (foldAll s l) := by
  induction l generalizing s with
  | nil => exact hs
  | cons x l ih => exact ih (memWf_foldOut hs)

theorem memWf_utlbFill {c e} (hs : memWf s) : memWf (utlbFill s c e) := memWf_foldAll (memWf_setCore hs)
theorem memWf_ctlbFill {k e} (hs : memWf s) : memWf (ctlbFill s k e) := memWf_setCluster hs

theorem memWf_hubWalk {asn root va} (hs : memWf s) : memWf (hubWalk s asn root va).1 := by
  unfold hubWalk
  dsimp only
  split
  · exact memWf_foldl (fun _ _ => memWf_awaken) hs
  · exact memWf_same (memWf_foldl (fun _ _ => memWf_awaken) hs)

theorem memWf_leafOf {c va} (hs : memWf s) : memWf (leafOf s c va).1 := by
  unfold leafOf
  dsimp only
  split
  · exact hs
  · split
    · exact memWf_utlbFill hs
    · split
      · next e => exact memWf_fst e (memWf_hubWalk hs)
      · next e =>
          have ht := memWf_fst e (memWf_hubWalk hs)
          exact memWf_utlbFill (memWf_ite ht (memWf_ctlbFill ht))

theorem memWf_dropTlbs {f} (hs : memWf s) : memWf (dropTlbs s f) := memWf_foldAll (memWf_same hs)

theorem memWf_atcNote {pa} (hs : memWf s) : memWf (atcNote s pa) :=
  memWf_when (fun h => memWf_same h) (memWf_awaken hs)

theorem memWf_reach {c va len need remoteT hostNo} (hs : memWf s) :
    memWf (reach s c va len need remoteT hostNo).1 := by
  unfold reach
  split
  · exact hs
  · split
    · exact memWf_fst_ite hs (memWf_fst_ite hs hs)
    · split
      · next e => exact memWf_fst e (memWf_leafOf hs)
      · next e =>
          have ht := memWf_fst e (memWf_leafOf hs)
          exact memWf_fst_ite (memWf_fst_ite ht (memWf_fst_ite ht ht))
            (memWf_fst_ite ht (memWf_fst_ite ht (memWf_atcNote ht)))

theorem memWf_countEntry {e rd wr rem} (hs : memWf s) : memWf (countEntry s e rd wr rem).1 :=
  memWf_fst_ite (memWf_foldSend hs) hs

theorem memWf_countLine {c ent va l rd wr} (hs : memWf s) : memWf (countLine s c ent va l rd wr) := by
  unfold countLine
  split
  · exact hs
  · split
    · split
      · exact memWf_foldSend hs
      · exact memWf_setCore (memWf_countEntry hs)
    · exact hs

/-! ### The referee: records, nodes and graphs (`Machine/Referee`) -/

theorem memWf_setGraph {g v} (hs : memWf s) : memWf (setGraph s g v) := memWf_same hs
theorem memWf_evalSoon (hs : memWf s) : memWf (evalSoon s) := memWf_same hs
theorem memWf_setNode {g i v} (hs : memWf s) : memWf (setNode s g i v) := memWf_setGraph hs
theorem memWf_writeRecord {r} (hs : memWf s) : memWf (writeRecord s r) := memWf_ringAdd (memWf_same hs)

theorem memWf_nodeRecord {g i status detail task} (hs : memWf s) : memWf (nodeRecord s g i status detail task) :=
  memWf_ite (memWf_writeRecord hs) hs

theorem memWf_takeId (hs : memWf s) : memWf (takeId s).2 := memWf_snd_ite (memWf_same hs) hs

theorem memWf_wakeNode {g i} (hs : memWf s) : memWf (wakeNode g s i) :=
  memWf_ite (memWf_ite (memWf_setNode (memWf_takeId hs)) (memWf_setNode (memWf_evalSoon hs))) hs

theorem memWf_wakeNodes (hs : memWf s) : memWf (wakeNodes s) :=
  memWf_foldl (fun _ _ => memWf_foldl fun _ _ => memWf_wakeNode) hs

theorem memWf_closeTask {id} (hs : memWf s) : memWf (closeTask s id) := memWf_unless memWf_dropTlbs (memWf_setTask hs)

theorem memWf_handOver {k} (hs : memWf s) : memWf (handOver s k) :=
  memWf_foldl (fun _ _ h => memWf_ite (memWf_trapAdd h) (memWf_same h)) hs

theorem memWf_handOverTask {task} (hs : memWf s) : memWf (handOverTask s task) :=
  memWf_foldl (fun _ _ => memWf_handOver) hs

theorem memWf_dropPrologue {nd} (hs : memWf s) : memWf (dropPrologue s nd) := by
  unfold dropPrologue
  split
  · exact memWf_closeTask (memWf_same (memWf_handOver (memWf_foldAll hs)))
  · exact hs

theorem memWf_abortMsgs {nd status} (hs : memWf s) : memWf (abortMsgs s nd status) := memWf_ite (memWf_same hs) hs

theorem memWf_endNode {g i status detail task} (hs : memWf s) : memWf (endNode s g i status detail task) :=
  memWf_nodeRecord (memWf_setNode (memWf_abortMsgs (memWf_dropPrologue hs)))

theorem memWf_refuseRemote {l} (hs : memWf s) : memWf (refuseRemote s l) := by
  induction l generalizing s with
  | nil => exact hs
  | cons x l ih => exact ih (memWf_answerReq hs)

theorem memWf_dropHeld {c} (hs : memWf s) : memWf (dropHeld s c) := memWf_refuseRemote (memWf_setCore hs)
theorem memWf_dropParked {task} (hs : memWf s) : memWf (dropParked s task) := memWf_refuseRemote (memWf_same hs)

theorem memWf_leaveEarly {g i} (hs : memWf s) : memWf (leaveEarly s g i).1 :=
  memWf_ite (memWf_closeTask (memWf_dropParked hs)) hs

theorem memWf_endEarly {g i} (hs : memWf s) : memWf (endEarly s g i) := memWf_endNode (memWf_leaveEarly hs)

theorem memWf_endPending {g l} (hs : memWf s) : memWf (endPending s g l) := by
  induction l generalizing g s with
  | nil => exact hs
  | cons x l ih => exact ih (memWf_ite (memWf_endEarly hs) hs)

theorem memWf_unmapEntries {l} (hs : memWf s) : memWf (unmapEntries s l) := by
  induction l generalizing s with
  | nil => exact hs
  | cons x l ih => exact ih (memWf_writeSpa hs)

theorem memWf_endGraph {g} (hs : memWf s) : memWf (endGraph s g) :=
  memWf_when (fun h => memWf_dropTlbs (memWf_setGraph (memWf_unmapEntries h)))
    (memWf_ite (memWf_when memWf_writeRecord (memWf_setGraph hs)) hs)

theorem memWf_nodeDone {g i status detail task} (hs : memWf s) : memWf (nodeDone s g i status detail task) :=
  memWf_wakeNodes (memWf_endGraph (memWf_wakeNodes (memWf_when (fun h => memWf_endPending (memWf_setGraph h))
    (memWf_endNode hs))))

theorem memWf_takeClusters {task vstep l} (hs : memWf s) : memWf (takeClusters s task vstep l) := by
  induction l generalizing task vstep s with
  | nil => exact hs
  | cons x l ih => exact ih (memWf_same hs)

theorem memWf_pickAsn (hs : memWf s) : memWf (pickAsn s).2 := memWf_same hs

theorem memWf_runAsn {gr} (hs : memWf s) : memWf (runAsn s gr).2 := by
  unfold runAsn
  exact memWf_snd_ite (memWf_pickAsn hs) hs

theorem memWf_dispatch {g i ch free} (hs : memWf s) : memWf (dispatch s g i ch free) :=
  memWf_takeClusters (memWf_setNode (memWf_setTask (memWf_same (memWf_takeId (memWf_runAsn hs)))))

theorem memWf_resumeYield {g i free k} (hs : memWf s) : memWf (resumeYield s g i free k) :=
  memWf_takeClusters (memWf_setNode (memWf_setTask hs))

theorem memWf_wantDies {p n task} (hs : memWf s) : memWf (wantDies s p n task) := memWf_same hs

theorem memWf_requestYield {prio need freeN p} (hs : memWf s) : memWf (requestYield s prio need freeN p) := by
  unfold requestYield
  split
  · exact memWf_setTask hs
  · exact hs

theorem memWf_tryNode {r g i} (hs : memWf s) : memWf (tryNode s r g i).1 := by
  unfold tryNode
  dsimp only
  split
  · split
    · exact memWf_resumeYield hs
    · exact memWf_fst_ite (memWf_ite (memWf_requestYield (memWf_wantDies hs)) hs)
        (memWf_ite (memWf_requestYield (memWf_wantDies hs)) hs)
  · split
    · exact hs
    · split
      · exact memWf_fst_ite (memWf_fst_ite (memWf_ite (memWf_requestYield (memWf_wantDies hs)) hs)
          (memWf_ite (memWf_requestYield (memWf_wantDies hs)) hs)) (memWf_fst_ite hs (memWf_dispatch hs))
      · exact memWf_fst_ite (memWf_ite (memWf_requestYield (memWf_wantDies hs)) hs)
          (memWf_ite (memWf_requestYield (memWf_wantDies hs)) hs)

theorem memWf_tryAll {r l} (hs : memWf s) : memWf (tryAll s r l) := by
  induction l generalizing s r with
  | nil => exact hs
  | cons p l ih => exact ih (memWf_tryNode hs)

theorem memWf_evaluate (hs : memWf s) : memWf (evaluate s) := memWf_tryAll (memWf_same hs)

theorem memWf_freeClusters {shed l} (hs : memWf s) : memWf (freeClusters s shed l) := by
  induction l generalizing shed s with
  | nil => exact hs
  | cons x l ih => exact ih (memWf_ite (memWf_same hs) (memWf_setCluster hs))

theorem memWf_coresOff {cl} (hs : memWf s) : memWf (coresOff s cl) := memWf_same hs
theorem memWf_dropClusterTlbs {cl} (hs : memWf s) : memWf (dropClusterTlbs s cl) := memWf_foldAll (memWf_same hs)
theorem memWf_forgetTask {task} (hs : memWf s) : memWf (forgetTask s task) := memWf_same hs

theorem memWf_launchOver {task status detail shed} (hs : memWf s) : memWf (launchOver s task status detail shed) := by
  unfold launchOver
  extract_lets t nd late s1 s2 s3 s4 s5 s6 s7
  have h3 : memWf s3 :=
    memWf_foldl (fun _ _ => memWf_dropHeld) (memWf_dropParked
      (memWf_closeTask (memWf_setTask (memWf_foldl (fun _ _ => memWf_handOver) hs))))
  have h5 : memWf s5 := memWf_coresOff (memWf_freeClusters (memWf_when memWf_dropClusterTlbs h3))
  have h7 : memWf s7 := memWf_ite (memWf_setNode (memWf_nodeRecord h5)) (memWf_nodeDone h5)
  exact memWf_evalSoon (memWf_forgetTask h7)

theorem memWf_ageNow (hs : memWf s) : memWf (ageNow s) := memWf_ite (memWf_evalSoon (memWf_same hs)) hs

theorem memWf_prologueOver {p status} (hs : memWf s) : memWf (prologueOver s p status) := by
  unfold prologueOver
  split
  · exact hs
  · exact memWf_nodeDone hs

/-! ### Accesses performed (`Machine/Ops`) -/

theorem memWf_setCC {k} (hs : memWf s) : memWf (setCC s k) := memWf_setCore hs
theorem memWf_setCst {t} (hs : memWf s) : memWf (setCst s t) := memWf_setCC hs
theorem memWf_wx {r v} (hs : memWf s) : memWf (wx s r v) := memWf_setCst hs

theorem memWf_putRecord {c t} (hs : memWf s) : memWf (putRecord s c t) :=
  memWf_unless (fun h => memWf_ite (memWf_trapAdd h) (memWf_setCore h)) (memWf_setCore (memWf_setTask hs))

theorem memWf_endTask {task status detail} (hs : memWf s) : memWf (endTask s task status detail) := by
  unfold endTask
  dsimp only
  split
  · exact hs
  · exact memWf_setTask hs

theorem memWf_afterRecord {c p byFaultStrand} (hs : memWf s) : memWf (afterRecord s c p byFaultStrand) :=
  memWf_ite (memWf_ite (memWf_prologueOver hs) hs) (memWf_ite (memWf_endTask (memWf_setCore hs))
    (memWf_ite (memWf_setCore hs) (memWf_endTask (memWf_setCore hs))))

theorem memWf_raise1 {c n f word} (hs : memWf s) : memWf (raise1 s c n f word) :=
  memWf_afterRecord (memWf_putRecord (memWf_setCore hs))

theorem memWf_raise2 {c q w f issued prog} (hs : memWf s) : memWf (raise2 s c q w f issued prog) :=
  memWf_ite (memWf_setCore (memWf_putRecord (memWf_setCore hs)))
    (memWf_endTask (memWf_setCore (memWf_putRecord (memWf_setCore hs))))

theorem memWf_drainCore {c} (hs : memWf s) : memWf (drainCore s c) := by
  unfold drainCore
  split
  · exact hs
  · exact memWf_ite (memWf_when memWf_prologueOver (memWf_trapAdd (memWf_setCore hs))) hs

theorem memWf_holdForRoom {c} (hs : memWf s) : memWf (holdForRoom s c) := memWf_ite hs (memWf_setCore hs)

theorem memWf_deliverRecs {c} (hs : memWf s) : memWf (deliverRecs s c) :=
  memWf_holdForRoom (memWf_foldl (fun _ _ => memWf_drainCore) (memWf_setCore hs))

theorem memWf_drainOut (hs : memWf s) : memWf (drainOut s) := memWf_foldl (fun _ _ => memWf_drainCore) hs
theorem memWf_startHandling {c p rest} (hs : memWf s) : memWf (startHandling s c p rest) := memWf_setCore hs
theorem memWf_endHold {c} (hs : memWf s) : memWf (endHold s c) := memWf_setCore hs

/-! ### Accesses on the way (`Machine/Access`) -/

theorem memWf_raceConfirm {task line r lid write} (hs : memWf s) : memWf (raceConfirm s task line r lid write) :=
  memWf_setTask hs

theorem memWf_sampleLine {c line mask write} (hs : memWf s) : memWf (sampleLine s c line mask write) := by
  unfold sampleLine
  split
  · exact hs
  · split
    · exact memWf_same hs
    · exact memWf_ite (memWf_raceConfirm hs) (memWf_same hs)

theorem memWf_sampleAccess {c l n write} (hs : memWf s) : memWf (sampleAccess s c l n write) := by
  unfold sampleAccess
  split
  · exact hs
  · exact memWf_ite hs (memWf_foldl (fun _ _ => memWf_sampleLine) hs)

theorem memWf_bumpRelease {c} (hs : memWf s) : memWf (bumpRelease s c) := memWf_setCore hs

theorem memWf_portMatch {who l w} (hs : memWf s) : memWf (portMatch s who l w) :=
  memWf_when (fun h => memWf_same h) (memWf_traceAdd (memWf_setCore hs))

theorem memWf_portMatches {who l precise} (hs : memWf s) : memWf (portMatches s who l precise) :=
  memWf_foldl (fun _ _ => memWf_portMatch) hs

theorem memWf_storeMany {who l precise} (hs : memWf s) : memWf (storeMany s who l precise) :=
  memWf_portMatches (memWf_foldl (fun _ _ => memWf_writeLoc) hs)

theorem memWf_storeAt {who l bs precise} (hs : memWf s) : memWf (storeAt s who l bs precise) :=
  memWf_portMatches (memWf_writeLoc hs)

theorem memWf_lineCure {l line} (hs : memWf s) : memWf (lineCure s l line) := by
  unfold lineCure
  split
  · exact memWf_setCore hs
  · exact memWf_same hs

theorem memWf_healOver {acc} (hs : memWf s) : memWf (healOver acc s) :=
  memWf_ite hs (memWf_foldl (fun _ _ h => memWf_foldl (fun _ _ h => memWf_ite (memWf_lineCure h) h) h) hs)

theorem memWf_wakeTag {c word by_} (hs : memWf s) : memWf (wakeTag s c word by_) := memWf_same hs

theorem memWf_putTag {c word full by_} (hs : memWf s) : memWf (putTag s c word full by_) :=
  memWf_ite hs (memWf_wakeTag (memWf_setCore hs))

theorem memWf_tagQuiet {who c word k v} (hs : memWf s) : memWf (tagQuiet s who c word k v).1 :=
  memWf_when memWf_bumpRelease (memWf_setCore (memWf_putTag (memWf_ite (memWf_writeLoc hs) hs)))

theorem memWf_tagDo {who c word k v precise} (hs : memWf s) : memWf (tagDo s who c word k v precise).1 :=
  memWf_when memWf_portMatches (memWf_tagQuiet hs)

theorem memWf_closeHeld {c va by_} (hs : memWf s) : memWf (closeHeld s c va by_) := by
  unfold closeHeld
  dsimp only
  split
  · exact memWf_ite (memWf_traceAdd hs) hs
  · exact hs

theorem memWf_heldDone {h v by_} (hs : memWf s) : memWf (heldDone s h v by_) := by
  unfold heldDone
  split
  · exact memWf_setCore (memWf_closeHeld hs)
  · exact memWf_answerReq hs

theorem memWf_heldBad {h} (hs : memWf s) : memWf (heldBad s h) := by
  unfold heldBad
  split
  · exact memWf_setCore hs
  · exact memWf_answerReq hs

theorem memWf_heldRun {c word n} (hs : memWf s) : memWf (heldRun c word n s) := by
  induction n generalizing c word s with
  | zero => exact hs
  | succ n ih =>
    unfold heldRun
    dsimp only
    split
    · exact hs
    · exact memWf_ite (ih (memWf_heldBad (memWf_setCore hs))) (ih (memWf_heldDone (memWf_tagDo (memWf_setCore hs))))

theorem memWf_tagPerform {who c word k v precise} (hs : memWf s) : memWf (tagPerform s who c word k v precise).1 :=
  memWf_heldRun (memWf_tagDo hs)

theorem memWf_amoAt {who l op z v precise} (hs : memWf s) : memWf (amoAt s who l op z v precise).1 := memWf_storeAt hs

theorem memWf_casAt {who l z cmp new precise} (hs : memWf s) : memWf (casAt s who l z cmp new precise).1 :=
  memWf_storeAt hs

/-! ### The conductor (`Machine/Conduct`) -/

theorem memWf_setSn {n t} (hs : memWf s) : memWf (setSn s n t) := memWf_setCC hs

theorem memWf_closeWait {n} (hs : memWf s) : memWf (closeWait s n) := by
  unfold closeWait
  dsimp only
  split
  · exact hs
  · split
    · exact hs
    · exact memWf_ite (memWf_traceAdd hs) hs

theorem memWf_finishIssue {n next slot} (hs : memWf s) : memWf (finishIssue s n next slot) :=
  memWf_setCC (memWf_closeWait hs)

theorem memWf_beginWait {n w} (hs : memWf s) : memWf (beginWait s n w) :=
  memWf_setCC (memWf_ite hs (memWf_closeWait hs))

theorem memWf_waitFor {n w} (hs : memWf s) : memWf (waitFor s n w) := memWf_setCC (memWf_beginWait hs)
theorem memWf_faultIssue {n f word} (hs : memWf s) : memWf (faultIssue s n f word) := memWf_raise1 (memWf_setCC hs)
theorem effWf_adv {s0} (hs : memWf s) : EffWf (adv s0 s) := hs

/-- An instruction whose effect keeps the form keeps it whole. -/
theorem memWf_conductState {proOk fsBan w uses f} (hf : ∀ s, memWf s → EffWf (f s)) (hs : memWf s) :
    memWf (conductState proOk fsBan w uses f s) := by
  refine memWf_ite (memWf_faultIssue hs) (memWf_ite (memWf_faultIssue hs) (memWf_ite (memWf_waitFor hs) ?_))
  have he := hf s hs
  generalize f s = e at he
  cases e with
  | goto s' pc => exact memWf_finishIssue he
  | jump s' pc => exact memWf_ite (memWf_faultIssue hs) (memWf_finishIssue he)
  | set s' => exact he
  | wait s' v => exact memWf_waitFor he
  | flt s' g => exact memWf_faultIssue he

theorem outWf_conduct {proOk fsBan w uses f} (hf : ∀ s, memWf s → EffWf (f s)) (hs : memWf s) :
    OutWf (conduct proOk fsBan w uses f s) := memWf_conductState hf hs

theorem memWf_setReg {n r v} (hs : memWf s) : memWf (setReg s n r v) := memWf_setSn hs

theorem memWf_noteAccess {fl rd wr} (hs : memWf s) : memWf (noteAccess s fl rd wr) :=
  memWf_when memWf_sampleAccess (memWf_countLine hs)

theorem memWf_raceStep_ok {fl} (hs : memWf s) (e : raceStep s fl = .ok t) : memWf t := by
  obtain rfl | ⟨c, r, rfl⟩ := raceStep_ok e
  · exact hs
  · exact memWf_setCore hs

theorem memWf_raceStep_error {fl f} (hs : memWf s) (e : raceStep s fl = .error (t, f)) : memWf t := by
  unfold raceStep at e
  split at e
  · cases e
  · split at e
    · cases e; exact memWf_same hs
    · cases e

theorem memWf_appendWord {n q bits tix} (hs : memWf s) : memWf (appendWord s n q bits tix) := memWf_setCC hs

theorem doneWf_deliver {n fl v} (hs : memWf s) : DoneWf (deliver s n fl v) := by
  unfold deliver
  dsimp only
  split
  · exact memWf_setReg hs
  · exact memWf_setReg hs
  · exact memWf_setReg hs
  · split
    · exact hs
    · exact hs
  · exact memWf_setSn hs
  · exact memWf_appendWord hs
  · exact hs

theorem memWf_sendReq {o pa op cls} (hs : memWf s) : memWf (sendReq s o pa op cls).1 := memWf_same hs
theorem memWf_sendRemote {n pa op strong} (hs : memWf s) : memWf (sendRemote s n pa op strong).1 := memWf_sendReq hs

theorem memWf_takeWatch {c n l mask stop} (hs : memWf s) : memWf (takeWatch s c n l mask stop).1 :=
  memWf_fst_ite (memWf_same hs) hs

theorem memWf_setWpSt {c n st} (hs : memWf s) : memWf (setWpSt s c n st) := memWf_setCore hs

theorem memWf_performWatch {n v loc} (hs : memWf s) : memWf (performWatch s n v loc) :=
  memWf_setWpSt (memWf_takeWatch (memWf_setCC (memWf_same hs)))

theorem doneWf_performAt {n fl} (hs : memWf s) : DoneWf (performAt s n fl) := by
  unfold performAt
  split
  · exact memWf_sendRemote (memWf_noteAccess hs)
  · split
    · exact memWf_ite (memWf_bumpRelease hs) hs
    · exact memWf_performWatch hs
    · split
      · next e => exact memWf_raceStep_error hs e
      · next e =>
          split
          · exact hs
          · exact doneWf_deliver (memWf_noteAccess (memWf_raceStep_ok hs e))
    · split
      · next e => exact memWf_raceStep_error hs e
      · next e =>
          split
          · exact hs
          · exact doneWf_deliver (memWf_noteAccess (memWf_raceStep_ok hs e))
    · split
      · exact hs
      · exact doneWf_deliver (memWf_noteAccess hs)
    · split
      · exact hs
      · exact doneWf_deliver (memWf_noteAccess hs)
    · split
      · next e => exact memWf_raceStep_error hs e
      · next e =>
          have ht := memWf_raceStep_ok hs e
          exact memWf_when memWf_bumpRelease (memWf_storeAt (memWf_noteAccess ht))
    · split
      · exact hs
      · exact doneWf_deliver (memWf_bumpRelease (memWf_amoAt (memWf_noteAccess hs)))
    · split
      · exact hs
      · exact doneWf_deliver (memWf_bumpRelease (memWf_casAt (memWf_noteAccess hs)))
    · split
      · exact hs
      · split
        · split
          · exact hs
          · exact memWf_when memWf_setReg (memWf_tagPerform (memWf_noteAccess hs))
        · exact hs
    · split
      · exact hs
      · split
        · exact hs
        · exact memWf_setReg (memWf_noteAccess hs)

theorem memWf_holdFlight {n fl} (hs : memWf s) : memWf (holdFlight s n fl) := memWf_setCC hs
theorem memWf_takeOrd (hs : memWf s) : memWf (takeOrd s) := memWf_setCC hs

theorem effWf_sendAt {fl} (hs : memWf s) : EffWf (sendAt s fl) := by
  unfold sendAt
  dsimp only
  split
  · split
    · exact hs
    · exact memWf_holdFlight (memWf_takeOrd hs)
  · split
    · next e => exact doneWf_of_eq e (doneWf_performAt (memWf_takeOrd hs))
    · next e => exact doneWf_of_eq e (doneWf_performAt (memWf_takeOrd hs))
    · exact hs
    · next e => exact memWf_holdFlight (doneWf_of_eq e (doneWf_performAt (memWf_takeOrd hs)))

theorem memWf_sendFetch {n pa} (hs : memWf s) : memWf (sendFetch s n pa) := memWf_waitFor (memWf_sendReq hs)

theorem memWf_startWalk {p} (hs : memWf s) : memWf (startWalk s p) := by
  unfold startWalk
  split
  · exact hs
  · exact memWf_unless (fun h => memWf_ite h hs) (memWf_same hs)

theorem memWf_startWalks (hs : memWf s) : memWf (startWalks s) :=
  memWf_foldl (fun _ _ => memWf_foldl fun _ _ => memWf_startWalk) hs

theorem memWf_requestWalk {n va} (hs : memWf s) : memWf (requestWalk s n va) :=
  memWf_unless (fun h => memWf_ite h (memWf_startWalks h)) (memWf_same hs)

theorem memWf_sendWalk {word r} (hs : memWf s) : memWf (sendWalk word r s) :=
  memWf_holdFlight (memWf_takeOrd (memWf_requestWalk hs))

theorem memWf_walkedFlight {n fl r} (hs : memWf s) : memWf (walkedFlight s n fl r) := by
  unfold walkedFlight
  split
  · next e => exact memWf_raise1 (memWf_fst e (memWf_reach hs))
  · next e =>
      have ht := memWf_fst e (memWf_reach hs)
      split
      · exact memWf_raise1 ht
      · exact memWf_setSn ht

theorem effWf_sendMem {word r} (hs : memWf s) : EffWf (sendMem word r s) := by
  unfold sendMem
  split
  · exact hs
  · split
    · exact memWf_sendWalk hs
    · split
      · next e => exact memWf_fst e (memWf_reach hs)
      · next e =>
          have ht := memWf_fst e (memWf_reach hs)
          split
          · exact ht
          · exact effWf_sendAt ht

theorem outWf_memInstr {proOk w uses r} (hs : memWf s) : OutWf (memInstr proOk w uses r s) :=
  memWf_conductState (fun _ => effWf_sendMem) hs

/-! ### Operands (`Machine/Operands`) -/

theorem memWf_wxLate {rd v lat} (hs : memWf s) : memWf (wxLate s rd v lat) := memWf_ite hs (memWf_setCst hs)

theorem outWf_op2 {w rd rs1 rs2 f} (hs : memWf s) : OutWf (op2 w rd rs1 rs2 f s) :=
  memWf_conductState (fun _ h => effWf_adv (memWf_wx h)) hs

theorem outWf_op2Late {w rd rs1 rs2 lat f} (hs : memWf s) : OutWf (op2Late w rd rs1 rs2 lat f s) :=
  memWf_conductState (fun _ h => effWf_adv (memWf_wxLate h)) hs

theorem outWf_op1 {w rd rs1 f} (hs : memWf s) : OutWf (op1 w rd rs1 f s) :=
  memWf_conductState (fun _ h => effWf_adv (memWf_wx h)) hs

theorem outWf_branch {w rt rs1 off c} (hs : memWf s) : OutWf (branch w rt rs1 off c s) :=
  memWf_conductState (fun _ h => effWf_ite h (effWf_adv h)) hs

theorem outWf_setPred {w pd rs1 rs2 c} (hs : memWf s) : OutWf (setPred w pd rs1 rs2 c s) :=
  memWf_conductState (fun _ h => effWf_adv (memWf_setCst h)) hs

theorem outWf_predOp {w pd pa pb f} (hs : memWf s) : OutWf (predOp w pd pa pb f s) :=
  memWf_conductState (fun _ h => effWf_adv (memWf_setCst h)) hs

theorem outWf_loadForm {w rd rs1 z acq plain addr} (hs : memWf s) : OutWf (loadForm w rd rs1 z acq plain addr s) :=
  memWf_conductState (fun _ => effWf_sendMem) hs

theorem outWf_storeForm {w rt rs1 z rel plain addr} (hs : memWf s) : OutWf (storeForm w rt rs1 z rel plain addr s) :=
  memWf_conductState (fun _ => effWf_sendMem) hs

theorem outWf_tagForm {w k rd rs1 rs2} (hs : memWf s) : OutWf (tagForm w k rd rs1 rs2 s) :=
  memWf_conductState (fun _ => effWf_sendMem) hs

theorem outWf_amoForm {w op rd rs1 rs2 z o} (hs : memWf s) : OutWf (amoForm w op rd rs1 rs2 z o s) :=
  memWf_conductState (fun _ => effWf_sendMem) hs

theorem outWf_fenceForm {w acq rel} (hs : memWf s) : OutWf (fenceForm w acq rel s) :=
  memWf_conductState (fun _ => effWf_sendAt) hs

/-! ### Engine issue (`Machine/Issue`) -/

theorem memWf_closeEngWait {q w} (hs : memWf s) : memWf (closeEngWait s q w) := by
  unfold closeEngWait
  dsimp only
  split
  · exact hs
  · exact memWf_ite (memWf_traceAdd hs) hs

theorem memWf_noteWait {q w h} (hs : memWf s) : memWf (noteWait s q w h) := by
  unfold noteWait
  split
  · exact hs
  · exact memWf_ite hs (memWf_setCC (memWf_closeEngWait hs))

theorem memWf_clearAcks {q} (hs : memWf s) : memWf (clearAcks s q) := memWf_setCC hs
theorem memWf_takeWord {q h w} (hs : memWf s) : memWf (takeWord s q h w).1 := memWf_setCC (memWf_closeEngWait hs)

theorem memWf_holdWord {q w h} (hs : memWf s) : memWf (holdWord s q w h) :=
  memWf_ite (memWf_raise2 hs) (memWf_noteWait hs)

theorem memWf_noteClaim {q} (hs : memWf s) : memWf (noteClaim s q) := memWf_setCC hs

/-- A word whose checks and effect keep the form keeps it as it issues, waits or faults. -/
theorem memWf_issueState {q h bad holds act} (ha : ∀ s w, memWf s → ActWf (act s w)) (hs : memWf s) :
    memWf (issueState q h bad holds act s) := by
  unfold issueState
  dsimp only
  split
  · exact hs
  · next w _ =>
    refine memWf_ite hs (memWf_ite (memWf_holdWord hs) (memWf_ite (memWf_raise2 hs) (memWf_ite (memWf_raise2 hs) ?_)))
    split
    · exact memWf_holdWord hs
    · have hw := ha s w hs
      generalize act s w = a at hw
      cases a with
      | wait l => exact memWf_holdWord hs
      | starve l => exact memWf_holdWord (memWf_noteClaim hs)
      | ask s' => exact hw
      | flt f => exact memWf_raise2 (memWf_same hs)
      | go s' f =>
        obtain ⟨hs', hf⟩ := hw
        exact hf _ _ (memWf_takeWord hs')

theorem memWf_completeWord {q i} (hs : memWf s) : memWf (completeWord s q i) := memWf_setCC hs

theorem outWf_nullWord {q h} (hs : memWf s) : OutWf (nullWord q h s) :=
  memWf_issueState (fun _ _ h => ⟨h, fun _ _ => memWf_completeWord⟩) hs

/-! ### Memory words of the engines (`Machine/EngMem`) -/

theorem memWf_reachAll {c need l} (hs : memWf s) : memWf (reachAll c need l s).1 := by
  induction l generalizing c need s with
  | nil => exact hs
  | cons x l ih => exact ih (memWf_reach hs)

theorem optWf_walksAsked {q l} (hs : memWf s) : OptWf (walksAsked s q l) := by
  unfold walksAsked
  split
  · trivial
  · exact memWf_foldl (fun _ _ => memWf_requestWalk) hs

theorem actWf_orAsk {q l a} (ha : ActWf a) (hs : memWf s) : ActWf (orAsk s q l a) := by
  unfold orAsk
  split
  · next e => exact actWf_ite trivial (optWf_of_eq e (optWf_walksAsked hs))
  · exact ha

theorem memWf_raceNote {c write l} (hs : memWf s) : memWf (raceNote c write l s) := by
  unfold raceNote
  refine memWf_foldl (fun _ _ h => ?_) hs
  split
  · exact memWf_setCore h
  · exact h

theorem memWf_sampleAll {c wr l} (hs : memWf s) : memWf (sampleAll c wr l s) :=
  memWf_foldl (fun _ _ => memWf_sampleLine) hs

theorem memWf_noteAll {c rd wr plain l} (hs : memWf s) : memWf (noteAll c rd wr plain l s) :=
  memWf_when memWf_sampleAll (memWf_foldl (fun _ _ => memWf_countLine) hs)

theorem memWf_sendEng {q va n l op cls} (hs : memWf s) : memWf (sendEng s q va n l op cls) := by
  unfold sendEng
  split
  · exact memWf_sendReq hs
  · exact hs

theorem memWf_sendProbe {q a} (hs : memWf s) : memWf (sendProbe q s a) := memWf_ite (memWf_sendEng hs) hs

theorem volWf_volStep {q load low chk l} (hs : memWf s) : VolWf (volStep s q load low chk l) := by
  unfold volStep
  dsimp only
  split
  · trivial
  · split
    · split
      · exact memWf_foldl (fun _ _ => memWf_sendEng) hs
      · split
        · trivial
        · split
          · trivial
          · trivial
    · split
      · exact memWf_foldl (fun _ _ => memWf_sendProbe) hs
      · split
        · trivial
        · split
          · trivial
          · trivial

theorem memWf_storeAll {c q w precise l} (hs : memWf s) : memWf (storeAll c q w precise l s) :=
  memWf_healOver (memWf_storeMany hs)

theorem memWf_sendPieces {q cls l} (hs : memWf s) : memWf (sendPieces q cls l s) :=
  memWf_foldl (fun _ _ => memWf_sendEng) hs

theorem memWf_storeOut {q w l} (hs : memWf s) : memWf (storeOut q w l s) :=
  memWf_sendPieces (memWf_clearAcks (memWf_storeAll hs))

theorem memWf_tagAll {c q w k l} (hs : memWf s) : memWf (tagAll c q w k l s).1 :=
  memWf_foldl (fun _ _ => memWf_heldRun) (memWf_when (fun h => memWf_healOver (memWf_portMatches h))
    (memWf_fst_foldl (fun _ _ => memWf_tagQuiet) hs))

/-! ### The generator's core (`Machine/GenCore`) -/

theorem memWf_setGenUnit {u} (hs : memWf s) : memWf (setGenUnit s u) := memWf_setCC hs

theorem memWf_genLand {x} (hs : memWf s) : memWf (genLand s x) := by
  unfold genLand
  refine memWf_completeWord ?_
  split
  · exact memWf_setGenUnit hs
  · exact hs

theorem memWf_genComplete {n} (hs : memWf s) : memWf (genComplete n s) := by
  induction n generalizing s with
  | zero => exact hs
  | succ n ih =>
    unfold genComplete
    split
    · exact hs
    · exact ih (memWf_genLand (memWf_setGenUnit hs))

theorem memWf_fillWrite {w f n n1} (hs : memWf s) : memWf (fillWrite s w f n n1) := by
  induction n1 generalizing w f n s with
  | zero => exact hs
  | succ n1 ih =>
    exact ih (memWf_storeAt hs)

theorem memWf_setFill {n} (hs : memWf s) : memWf (setFill s n) := memWf_setGenUnit hs

theorem memWf_fillStep (hs : memWf s) : memWf (fillStep s) := by
  unfold fillStep
  split
  · split
    · exact memWf_setFill (memWf_healOver (memWf_fillWrite hs))
    · exact hs
  · exact hs

theorem memWf_fillFinish (hs : memWf s) : memWf (fillFinish s) := by
  unfold fillFinish
  split
  · exact memWf_completeWord (memWf_setGenUnit hs)
  · exact hs

theorem memWf_genSettle (hs : memWf s) : memWf (genSettle s) :=
  memWf_when (fun h => memWf_fillFinish (memWf_fillStep h)) (memWf_genComplete hs)

/-! ### The matrix engine's core (`Machine/MatCore`) -/

theorem memWf_setMat {m} (hs : memWf s) : memWf (setMat s m) := memWf_setCC hs
theorem memWf_putTile {t T} (hs : memWf s) : memWf (putTile s t T) := memWf_setMat hs
theorem memWf_putBank {m b B} (hs : memWf s) : memWf (putBank s m b B) := memWf_setMat hs

theorem memWf_mLand {x} (hs : memWf s) : memWf (mLand x s) := by
  unfold mLand
  split
  · exact memWf_foldl (fun _ _ => memWf_putTile) hs
  · exact memWf_foldl (fun _ _ => memWf_putBank) hs
  · exact memWf_ite hs (memWf_putTile hs)
  · exact memWf_ite (memWf_putTile hs) hs
  · exact memWf_putTile hs
  · exact hs
  · exact hs

/-! ### Generator words (`Machine/Generator`) -/

theorem memWf_genStart {x} (hs : memWf s) : memWf (genStart s x) := memWf_setGenUnit hs

theorem outWf_genWord {h g rd u} (hs : memWf s) : OutWf (genWord h g rd u s) := by
  unfold genWord
  refine memWf_issueState (fun _ _ h => ?_) (memWf_genSettle hs)
  split
  · trivial
  · exact ⟨h, fun _ _ h => memWf_genStart h⟩

theorem memWf_genChecks_ok {write al qw l r} (hs : memWf s) (e : genChecks write al qw l s = .ok (t, r)) :
    memWf t := by
  unfold genChecks at e
  dsimp only at e
  split at e
  · cases e
  · cases e; exact memWf_reachAll hs

theorem memWf_genNote {write l} (hs : memWf s) : memWf (genNote write l s) := memWf_noteAll (memWf_raceNote hs)
theorem memWf_genIssueNote {l} (hs : memWf s) : memWf (genIssueNote l s) := memWf_noteAll (memWf_raceNote hs)

theorem outWf_genMem {g w} (hs : memWf s) : OutWf (genMem g w s) := by
  unfold genMem
  dsimp only
  refine memWf_issueState (fun _ _ h => ?_) (memWf_genSettle hs)
  split
  · trivial
  · refine actWf_orAsk ?_ h
    split
    · trivial
    · next e =>
        have ht := memWf_genChecks_ok h e
        split
        · split
          · trivial
          · split
            · exact ⟨ht, fun _ _ h => memWf_genStart (memWf_storeAll (memWf_genNote h))⟩
            · split
              · trivial
              · exact ⟨ht, fun _ _ h => memWf_genStart (memWf_genNote h)⟩
        · exact ⟨ht, fun _ _ h => memWf_genStart h⟩

theorem memWf_genRemote {g w x rest} (hs : memWf s) : memWf (genRemote g w x rest s) := by
  unfold genRemote
  dsimp only
  split
  · exact hs
  · next e => exact volWf_of_eq e (volWf_volStep hs)
  · exact memWf_raise2 (memWf_same hs)
  · exact memWf_setGenUnit (memWf_clearAcks hs)
  · split
    · exact memWf_raise2 (memWf_same hs)
    · split
      · exact memWf_unless memWf_setGenUnit (memWf_storeOut (memWf_genNote hs))
      · split
        · exact memWf_raise2 (memWf_same hs)
        · exact memWf_setGenUnit (memWf_genNote (memWf_clearAcks hs))

theorem outWf_execGeneratorWriteLanding (hs : memWf s) : OutWf (execGeneratorWriteLanding s) := by
  unfold execGeneratorWriteLanding
  dsimp only
  split
  · exact memWf_genComplete hs
  · split
    · exact memWf_genRemote (memWf_genComplete hs)
    · exact memWf_genRemote (memWf_genComplete hs)
    · exact memWf_genRemote (memWf_genComplete hs)
    · exact memWf_genComplete hs

theorem outWf_fillWord {row w} (hs : memWf s) : OutWf (fillWord row w s) := by
  unfold fillWord
  dsimp only
  refine memWf_issueState (fun _ _ h => ?_) (memWf_genSettle hs)
  split
  · split
    · trivial
    · split
      · trivial
      · refine actWf_orAsk ?_ h
        split
        · trivial
        · next e =>
            split
            · trivial
            · exact ⟨(memWf_genChecks_ok h e), fun _ _ h => memWf_completeWord h⟩
  · split
    · trivial
    · split
      · trivial
      · refine actWf_orAsk ?_ h
        split
        · trivial
        · next e =>
            split
            · trivial
            · exact ⟨(memWf_genChecks_ok h e), fun _ _ h => memWf_ite (memWf_genStart (memWf_genIssueNote h))
                (memWf_genStart (memWf_genIssueNote h))⟩

theorem memWf_fillRemote {w f l} (hs : memWf s) : memWf (fillRemote s w f l) := by
  unfold fillRemote
  dsimp only
  split
  · exact hs
  · next e => exact volWf_of_eq e (volWf_volStep hs)
  · exact memWf_raise2 (memWf_clearAcks hs)
  · exact memWf_setFill (memWf_clearAcks hs)
  · exact memWf_unless memWf_setFill (memWf_storeOut (memWf_sampleAll hs))

theorem outWf_execFillElementWrite (hs : memWf s) : OutWf (execFillElementWrite s) := by
  unfold execFillElementWrite
  split
  · split
    · exact outWf_ite (memWf_fillRemote hs) hs
    · exact memWf_fillStep hs
  · exact hs

/-! ### Loads and stores (`Machine/Loads`) -/

theorem outWf_execMemoryAccessPerformed {strand} (hs : memWf s) : OutWf (execMemoryAccessPerformed strand s) := by
  unfold execMemoryAccessPerformed
  dsimp only
  split
  · exact hs
  · split
    · exact hs
    · split
      · next e => exact memWf_finishIssue (doneWf_of_eq e (doneWf_ite hs (doneWf_performAt hs)))
      · next e => exact memWf_raise1 (doneWf_of_eq e (doneWf_ite hs (doneWf_performAt hs)))
      · next e => exact memWf_beginWait (memWf_setSn (doneWf_of_eq e (doneWf_ite hs (doneWf_performAt hs))))
      · next e => exact memWf_setSn (doneWf_of_eq e (doneWf_ite hs (doneWf_performAt hs)))

theorem outWf_execTaggedWaitTimeout {strand} (hs : memWf s) : OutWf (execTaggedWaitTimeout strand s) := by
  unfold execTaggedWaitTimeout
  dsimp only
  split
  · exact outWf_ite (memWf_setSn hs) hs
  · exact hs

/-! ### Barriers (`Machine/Barrier`) -/

theorem memWf_setSlot {c lvl slot v} (hs : memWf s) : memWf (setSlot s c lvl slot v) :=
  memWf_ite (memWf_setCore hs) (memWf_setTask hs)

theorem memWf_slotComplete {c lvl slot} (hs : memWf s) : memWf (slotComplete s c lvl slot) :=
  memWf_same (memWf_setSlot hs)

theorem memWf_sendArrivals {c slot} (hs : memWf s) : memWf (sendArrivals s c slot) := memWf_same hs

theorem memWf_deviceArrive {c slot} (hs : memWf s) : memWf (deviceArrive s c slot) :=
  memWf_ite (memWf_sendArrivals (memWf_setSlot (memWf_setSlot hs))) hs

theorem memWf_slotCheck {c lvl slot} (hs : memWf s) : memWf (slotCheck s c lvl slot) :=
  memWf_when memWf_slotComplete (memWf_ite (memWf_deviceArrive hs) hs)

theorem memWf_slotAdd_ok {c lvl slot n} (hs : memWf s) (e : slotAdd s c lvl slot n = .ok t) : memWf t := by
  unfold slotAdd at e
  dsimp only at e
  split at e
  · cases e
  · cases e; exact memWf_slotCheck (memWf_setSlot hs)

theorem memWf_tryArrive {lvl slot n} (hs : memWf s) : memWf (tryArrive s lvl slot n) :=
  memWf_ite (memWf_slotCheck (memWf_setSlot (memWf_bumpRelease (memWf_setCC hs)))) hs

theorem memWf_exitArrive (hs : memWf s) : memWf (exitArrive s) := by
  unfold exitArrive
  split
  · exact hs
  · split
    · exact memWf_tryArrive hs
    · exact hs

/-! ### Copy words: plans (`Machine/CopyPlan`) -/

theorem memWf_xReach {l} (hs : memWf s) : memWf (xReach l s).1 := by
  induction l generalizing s with
  | nil => exact hs
  | cons x l ih =>
    unfold xReach
    split
    · exact ih hs
    · exact ih (memWf_reach hs)

theorem memWf_xChecks_ok {p l} (hs : memWf s) (e : xChecks p l s = .ok t) : memWf t := by
  unfold xChecks at e
  dsimp only at e
  split at e
  · cases e
  · cases e; exact memWf_xReach hs

/-! ### Copy words: steps (`Machine/CopyStep`) -/

theorem memWf_xUpd {f} (hs : memWf s) : memWf (xUpd s f) := memWf_setCC hs
theorem memWf_sendX {a op} (hs : memWf s) : memWf (sendX s a op) := memWf_sendEng hs

theorem xreadWf_xFetch {rd wr} (hs : memWf s) : XReadWf (xFetch rd wr s) := by
  unfold xFetch
  split
  · exact hs
  · split
    · exact hs
    · exact memWf_foldl (fun _ _ => memWf_sendProbe) (memWf_foldl (fun _ _ => memWf_sendX) hs)

theorem xreadWf_xRead {p k l} (hs : memWf s) : XReadWf (xRead p k l s) := by
  unfold xRead
  dsimp only
  split
  · next e => exact optWf_of_eq e (optWf_walksAsked hs)
  · split
    · trivial
    · next e =>
        have ht := memWf_xChecks_ok hs e
        split
        · next e => exact xreadWf_of_eq e (xreadWf_ite ht (xreadWf_xFetch ht))
        · next e => exact xreadWf_of_eq e (xreadWf_ite ht (xreadWf_xFetch ht))
        · next e =>
            split
            · trivial
            · exact xreadWf_of_eq e (xreadWf_ite ht (xreadWf_xFetch ht))

theorem memWf_xNote {plain l} (hs : memWf s) : memWf (xNote plain l s) :=
  memWf_noteAll (memWf_noteAll (memWf_noteAll (memWf_noteAll (memWf_noteAll (memWf_raceNote (memWf_raceNote hs))))))

theorem memWf_xFault {i p f} (hs : memWf s) : memWf (xFault s i p f) := memWf_raise2 (memWf_same hs)

theorem memWf_xSub {i p n} (hs : memWf s) : memWf (xSub s i p n) := by
  unfold xSub
  dsimp only
  split
  · exact hs
  · split
    · next e => exact memWf_slotAdd_ok (memWf_xUpd hs) e
    · exact memWf_xFault (memWf_xUpd hs)

theorem memWf_finishPiece {i p n b} (hs : memWf s) : memWf (finishPiece s i p n b) :=
  memWf_xSub (memWf_clearAcks (memWf_xUpd hs))

theorem memWf_xStore {i w} (hs : memWf s) : memWf (xStore i w s) :=
  memWf_sendPieces (memWf_healOver (memWf_storeMany hs))

theorem memWf_xSend {i act w} (hs : memWf s) : memWf (xSend i act w s) := by
  unfold xSend
  split
  · exact memWf_ite (memWf_sendX hs) (memWf_xStore hs)
  · exact memWf_xStore hs

theorem memWf_plainTurn {i p us} (hs : memWf s) : memWf (plainTurn s i p us) := by
  unfold plainTurn
  dsimp only
  split
  · split
    · exact hs
    · split
      · exact memWf_xFault hs
      · exact memWf_finishPiece (memWf_ite (memWf_bumpRelease hs) hs)
  · split
    · exact memWf_xFault hs
    · next e => exact xreadWf_of_eq e (xreadWf_xRead hs)
    · next e =>
        have ht := xreadWf_of_eq e (xreadWf_xRead hs)
        exact memWf_ite (memWf_xUpd (memWf_xSend (memWf_clearAcks (memWf_xNote ht))))
          (memWf_finishPiece (memWf_when memWf_bumpRelease (memWf_xSend (memWf_clearAcks (memWf_xNote ht)))))

theorem memWf_spanThen {i p l f} (hf : ∀ s b, memWf s → memWf (f s b)) (hs : memWf s) :
    memWf (spanThen s i p l f) := by
  unfold spanThen
  split
  · exact memWf_xFault hs
  · next e => exact xreadWf_of_eq e (xreadWf_xRead hs)
  · next e => exact hf _ _ (memWf_clearAcks (memWf_xNote (xreadWf_of_eq e (xreadWf_xRead hs))))

theorem memWf_tabTurn {i p t} (hs : memWf s) : memWf (tabTurn s i p t) := by
  unfold tabTurn
  refine memWf_spanThen (fun _ _ h => ?_) hs
  split
  · exact memWf_xFault h
  · exact memWf_xUpd h

theorem headWf_readHead {p c0 nc} (hs : memWf s) : HeadWf (readHead s p c0 nc) := by
  unfold readHead
  dsimp only
  split
  · trivial
  · next e => exact xreadWf_of_eq e (xreadWf_xRead hs)
  · next e =>
      have ht := xreadWf_of_eq e (xreadWf_xRead hs)
      split
      · trivial
      · split
        · trivial
        · next e => exact xreadWf_of_eq e (xreadWf_xRead ht)
        · next e =>
            split
            · trivial
            · split
              · trivial
              · exact memWf_xNote (xreadWf_of_eq e (xreadWf_xRead ht))

theorem memWf_xAdd_ok {p n} (hs : memWf s) (e : xAdd s p n = .ok t) : memWf t := by
  unfold xAdd at e
  split at e
  · cases e; exact hs
  · exact memWf_slotAdd_ok hs e

theorem memWf_chunkTurn {i p t c0 j} (hs : memWf s) : memWf (chunkTurn s i p t c0 j) := by
  unfold chunkTurn
  refine memWf_spanThen (fun _ _ h => ?_) hs
  split
  · exact memWf_xFault h
  · exact memWf_xUpd h

theorem memWf_beginTurn {i p us} (hs : memWf s) : memWf (beginTurn s i p us) := by
  unfold beginTurn
  split
  · exact memWf_xFault hs
  · next e => exact xreadWf_of_eq e (xreadWf_xRead hs)
  · next e =>
      have ht := xreadWf_of_eq e (xreadWf_xRead hs)
      exact memWf_xUpd (memWf_clearAcks (memWf_ite (memWf_xNote ht) ht))

theorem memWf_atomicHere {w l op} (hs : memWf s) : memWf (atomicHere s w l op).1 := by
  unfold atomicHere
  split
  · exact memWf_amoAt hs
  · exact memWf_casAt hs
  · exact hs

theorem memWf_opDone {i p b n m} (hs : memWf s) : memWf (opDone s i p b n m) :=
  memWf_ite (memWf_finishPiece (memWf_clearAcks (memWf_xUpd hs))) (memWf_xSub (memWf_clearAcks (memWf_xUpd hs)))

theorem memWf_resultTurn {i p u old b n m} (hs : memWf s) : memWf (resultTurn s i p u old b n m) := by
  unfold resultTurn
  dsimp only
  split
  · exact memWf_opDone hs
  · split
    · exact memWf_opDone (memWf_xStore (memWf_sampleAll hs))
    · split
      · exact memWf_xUpd (memWf_xStore (memWf_clearAcks hs))
      · split
        · exact hs
        · exact memWf_xFault hs
        · exact memWf_opDone hs

theorem memWf_atomicDone {i p u old m} (hs : memWf s) : memWf (atomicDone s i p u old m) :=
  memWf_unless memWf_resultTurn (memWf_xSub (memWf_xUpd (memWf_bumpRelease hs)))

theorem memWf_atomicTurn {i p us} (hs : memWf s) : memWf (atomicTurn s i p us) := by
  unfold atomicTurn
  dsimp only
  split
  · exact memWf_finishPiece hs
  · split
    · exact memWf_xFault hs
    · split
      · exact memWf_resultTurn hs
      · exact hs
      · split
        · split
          · exact memWf_xUpd (memWf_sendX (memWf_clearAcks hs))
          · split
            · exact hs
            · exact memWf_xFault hs
            · exact memWf_atomicDone (memWf_clearAcks hs)
        · exact memWf_atomicDone (memWf_atomicHere hs)

theorem memWf_sendTag {a k v} (hs : memWf s) : memWf (sendTag s a k v) :=
  memWf_xUpd (memWf_ite (memWf_sendX (memWf_clearAcks hs)) hs)

theorem memWf_tagTurn {i p us} (hs : memWf s) : memWf (tagTurn s i p us) := by
  unfold tagTurn
  dsimp only
  split
  · exact memWf_finishPiece hs
  · split
    · exact memWf_xFault hs
    · split
      · exact memWf_resultTurn hs
      · exact hs
      · split
        · split
          · exact hs
          · exact memWf_xFault hs
          · exact memWf_xUpd (memWf_when memWf_bumpRelease (memWf_clearAcks hs))
        · exact hs
      · split
        · exact memWf_ite (memWf_sendTag hs) (memWf_ite (memWf_xUpd (memWf_tagPerform hs)) hs)
        · exact memWf_ite (memWf_sendTag hs) hs

theorem memWf_ownUnit {i k u v} (hs : memWf s) : memWf (ownUnit i k s u v).1 := by
  refine memWf_fst_foldl (fun p x h => ?_) hs
  dsimp only
  split
  · exact memWf_tagQuiet h
  · exact h

theorem memWf_ownPiece {i k us} (hs : memWf s) : memWf (ownPiece i k us s) :=
  memWf_xStore (memWf_sampleAll (memWf_healOver (memWf_portMatches
    (memWf_fst_foldl (fun _ _ => memWf_ownUnit) (memWf_xNote hs)))))

theorem memWf_ownPieces {i p k n} (hs : memWf s) : memWf (ownPieces i p k n s).1 := by
  induction n generalizing i p k s with
  | zero => exact hs
  | succ n ih =>
    unfold ownPieces
    dsimp only
    split
    · exact hs
    · split
      · exact hs
      · next e =>
          have ht := memWf_xChecks_ok hs e
          split
          · exact ht
          · exact ih (memWf_ite (memWf_xSub (memWf_xUpd (memWf_ownPiece ht))) (memWf_xUpd (memWf_ownPiece ht)))

theorem memWf_ownAcks {i p} (hs : memWf s) : memWf (ownAcks s i p) := by
  unfold ownAcks
  dsimp only
  split
  · exact memWf_xFault (memWf_ite hs (memWf_xUpd hs))
  · exact memWf_xSub (memWf_clearAcks (memWf_ite hs (memWf_xUpd hs)))

theorem memWf_ownTurn {i p} (hs : memWf s) : memWf (ownTurn s i p) := by
  unfold ownTurn
  split
  · exact hs
  · refine memWf_ite hs ?_
    dsimp only
    split
    · exact memWf_xFault hs
    · next e =>
      split at e
      · next e' => cases e; exact optWf_of_eq e' (optWf_walksAsked hs)
      · exact xreadWf_of_eq e (xreadWf_xFetch hs)
    · next e =>
      split at e
      · cases e
      · have hd := xreadWf_of_eq e (xreadWf_xFetch hs)
        refine memWf_ite (memWf_xUpd (memWf_clearAcks (memWf_foldl (fun _ _ h => memWf_heldRun h)
          (memWf_ownPieces hd)))) ?_
        split
        · exact memWf_xFault (memWf_foldl (fun _ _ => memWf_heldRun) (memWf_ownPieces hd))
        · exact memWf_clearAcks (memWf_foldl (fun _ _ => memWf_heldRun) (memWf_ownPieces hd))

/-! ### Copy words (`Machine/Copy`) -/

theorem memWf_tagPlace_ok {p b} (hs : memWf s) (e : tagPlace s p = .ok (t, b)) : memWf t := by
  unfold tagPlace at e
  dsimp only at e
  split at e
  · cases e
  · split at e
    · cases e
    · cases e; exact memWf_xReach hs

theorem memWf_startRun {own head p i} (hs : memWf s) : memWf (startRun own head p s i) :=
  memWf_when memWf_ownTurn (memWf_xUpd (memWf_clearAcks hs))

theorem actWf_addThen {p n f} (hf : ∀ t i, memWf t → memWf (f t i)) (hs : memWf s) : ActWf (addThen s p n f) := by
  unfold addThen
  split
  · trivial
  · next e => exact ⟨memWf_xAdd_ok hs e, hf⟩

theorem actWf_copyAct {p} (hs : memWf s) : ActWf (copyAct p s) := by
  unfold copyAct
  split
  · trivial
  · split
    · exact actWf_addThen (fun _ _ => memWf_completeWord) hs
    · split
      · exact actWf_addThen (fun _ _ => memWf_completeWord) hs
      · split
        · trivial
        · split
          · trivial
          · split
            · trivial
            · next e => exact actWf_ite trivial (headWf_of_eq e (headWf_readHead hs))
            · next e => exact actWf_addThen (fun _ _ => memWf_startRun) (headWf_of_eq e (headWf_readHead hs))
      · refine actWf_orAsk ?_ hs
        split
        · trivial
        · next e =>
            split
            · trivial
            · exact actWf_addThen (fun _ _ => memWf_startRun) (memWf_tagPlace_ok hs e)
      · refine actWf_orAsk ?_ hs
        split
        · trivial
        · next e =>
            split
            · trivial
            · exact actWf_addThen (fun _ _ => memWf_startRun) (memWf_tagPlace_ok hs e)
      · refine actWf_orAsk ?_ hs
        split
        · trivial
        · next e =>
            split
            · trivial
            · exact actWf_addThen (fun _ _ => memWf_startRun) (memWf_tagPlace_ok hs e)
      · exact actWf_addThen (fun _ _ => memWf_startRun) hs

theorem memWf_issueProg (hs : memWf s) : memWf (issueProg s) := memWf_setCC hs

theorem memWf_headAhead {k w} (hs : memWf s) : memWf (headAhead k w s) := by
  unfold headAhead
  dsimp only
  split
  · split
    · split
      · next e => exact headWf_of_eq e (headWf_readHead hs)
      · exact hs
      · exact hs
    · exact hs
  · exact hs

theorem outWf_copyWord {k w} (hs : memWf s) : OutWf (copyWord k w s) :=
  memWf_when (fun h => memWf_issueProg (memWf_ite (memWf_clearAcks h) h))
    (memWf_issueState (fun _ _ => actWf_copyAct) (memWf_headAhead hs))

theorem memWf_askTurn {i p us j} (hs : memWf s) : memWf (askTurn s i p us j) := by
  unfold askTurn
  split
  · exact memWf_ite (memWf_xFault hs) (memWf_plainTurn hs)
  · next e => exact xreadWf_of_eq e (xreadWf_xRead hs)
  · next e => exact xreadWf_of_eq e (xreadWf_xRead hs)

theorem memWf_pieceTurn {i p} (hs : memWf s) : memWf (pieceTurn s i p) := by
  unfold pieceTurn
  dsimp only
  split
  · exact memWf_ownAcks hs
  · split
    · exact hs
    · split
      · exact memWf_tabTurn hs
      · split
        · exact memWf_ownTurn hs
        · split
          · exact memWf_chunkTurn hs
          · split
            · split
              · exact memWf_askTurn hs
              · exact memWf_plainTurn hs
            · exact memWf_ite hs (memWf_beginTurn hs)
            · exact memWf_ite (memWf_tagTurn hs) (memWf_beginTurn hs)

theorem outWf_execCopyPiecePerformed (hs : memWf s) : OutWf (execCopyPiecePerformed s) := by
  unfold execCopyPiecePerformed
  split
  · exact memWf_pieceTurn hs
  · exact hs

theorem outWf_execAtomicAtPort (hs : memWf s) : OutWf (execAtomicAtPort s) := by
  unfold execAtomicAtPort
  split
  · exact outWf_ite (memWf_atomicTurn hs) hs
  · exact hs

theorem memWf_noneBehind (hs : memWf s) : memWf (noneBehind s) := memWf_same hs

theorem memWf_tagArrive {i p a d k v} (hs : memWf s) : memWf (tagArrive s i p a d k v) :=
  memWf_ite (memWf_ite (memWf_noneBehind (memWf_xFault hs)) (memWf_noneBehind (memWf_heldDone (memWf_tagPerform hs))))
    (memWf_ite (memWf_noneBehind (memWf_xUpd (memWf_setCore (memWf_ite hs (memWf_setCC hs))))) (memWf_xUpd hs))

theorem outWf_execTaggedOpArrival (hs : memWf s) : OutWf (execTaggedOpArrival s) := by
  unfold execTaggedOpArrival
  split
  · exact hs
  · split
    · split
      · exact hs
      · exact memWf_tagArrive hs
    · exact hs

theorem memWf_sendAgain (hs : memWf s) : memWf (sendAgain s) := by
  unfold sendAgain
  split
  · exact memWf_sendTag hs
  · exact memWf_xUpd hs

theorem outWf_execTaggedResend (hs : memWf s) : OutWf (execTaggedResend s) := by
  unfold execTaggedResend
  split
  · exact outWf_ite (memWf_sendAgain hs) hs
  · exact hs

theorem outWf_execCopyWordComplete (hs : memWf s) : OutWf (execCopyWordComplete s) := by
  unfold execCopyWordComplete
  split
  · exact hs
  · exact outWf_ite hs (outWf_ite (memWf_xSub hs) (memWf_completeWord (memWf_xUpd (memWf_clearAcks (memWf_xSub hs)))))

/-! ### Memory management (`Machine/MemMan`) -/

theorem memWf_setMm {m} (hs : memWf s) : memWf (setMm s m) := memWf_same hs

theorem memWf_atCore {c f} (hf : ∀ s, memWf s → memWf (f s)) (hs : memWf s) : memWf (atCore s c f) :=
  memWf_cur (hf _ (memWf_same hs))

theorem memWf_wakeWalk {e} (hs : memWf s) : memWf (wakeWalk s e) := by
  unfold wakeWalk
  dsimp only
  split
  · split
    · exact memWf_atCore (fun _ => memWf_walkedFlight) hs
    · exact hs
  · exact memWf_setCore hs
  · exact hs

theorem memWf_askAgain {e} (hs : memWf s) : memWf (askAgain s e) := by
  unfold askAgain
  split
  · exact memWf_atCore (fun _ => memWf_requestWalk) hs
  · exact memWf_wakeWalk hs

theorem memWf_fillWalk {w} (hs : memWf s) : memWf (fillWalk s w) := by
  unfold fillWalk
  split
  · next e => exact memWf_foldl (fun _ _ => memWf_ctlbFill) (memWf_fst e (memWf_hubWalk hs))
  · next e => exact memWf_fst e (memWf_hubWalk hs)

theorem memWf_walkOver {w} (hs : memWf s) : memWf (walkOver s w) :=
  memWf_foldl (fun _ _ => memWf_askAgain) (memWf_foldl (fun _ _ => memWf_wakeWalk) (memWf_fillWalk (memWf_setMm hs)))

theorem memWf_poolOver {p} (hs : memWf s) : memWf (poolOver s p) := by
  unfold poolOver
  dsimp only
  split
  · exact memWf_walkOver (memWf_takeFresh hs)
  · exact memWf_takeFresh hs

theorem memWf_sendSaturated (hs : memWf s) : memWf (sendSaturated s) := by
  unfold sendSaturated
  split
  · exact memWf_ite (memWf_foldSend (memWf_setCore hs)) hs
  · exact hs

theorem outWf_execFoldDelivered (hs : memWf s) : OutWf (execFoldDelivered s) := by
  unfold execFoldDelivered
  split
  · exact outWf_ite (memWf_sendSaturated hs) (memWf_sendSaturated (memWf_foldApply (memWf_same hs)))
  · exact memWf_sendSaturated hs

theorem memWf_rtRefuse {inval why idx} (hs : memWf s) : memWf (rtRefuse s inval why idx) := memWf_setMm hs

theorem outWf_execRtSwitch (hs : memWf s) : OutWf (execRtSwitch s) := by
  unfold execRtSwitch
  dsimp only
  split
  · exact memWf_rtRefuse hs
  · split
    · exact memWf_rtRefuse hs
    · exact outWf_ite (memWf_rtRefuse hs) (memWf_setMm hs)

theorem memWf_shootdown {kind asn} (hs : memWf s) : memWf (shootdown s kind asn) :=
  memWf_ite (memWf_setMm hs) (memWf_setMm (memWf_dropTlbs hs))

theorem memWf_retireChannel {stack channel} (hs : memWf s) : memWf (retireChannel s stack channel) := memWf_setMm hs

theorem outWf_execVstepTransitionComplete {cluster} (hs : memWf s) :
    OutWf (execVstepTransitionComplete cluster s) := by
  unfold execVstepTransitionComplete
  dsimp only
  split
  · exact memWf_setCluster hs
  · exact hs

/-! ### The loader (`Machine/Loader`) -/

theorem memWf_packetRecord {q tag status detail} (hs : memWf s) : memWf (packetRecord s q tag status detail) :=
  memWf_writeRecord hs

theorem memWf_loadImagePkt {q id addr size vbase} (hs : memWf s) : memWf (loadImagePkt s q id addr size vbase) :=
  memWf_ite (memWf_packetRecord hs) (memWf_ite (memWf_packetRecord hs)
    (memWf_packetRecord (memWf_ite (memWf_same (memWf_awakenSpan hs)) (memWf_awakenSpan hs))))

/-! ### Submission (`Machine/Submit`) -/

theorem memWf_mapPage {va leaf n tab lvl} {x : State × MapLog} (hx : memWf x.1) :
    memWf (mapPage va leaf n tab lvl x).1 := by
  induction n generalizing tab lvl x with
  | zero => exact hx
  | succ n ih =>
    unfold mapPage
    dsimp only
    split
    · exact hx
    · exact ih hx
    · exact memWf_fst_ite (memWf_writeSpa hx) (ih (memWf_writeSpa (memWf_writeSpa hx)))

theorem memWf_mapSection {root im off len perm} {x : State × MapLog} (hx : memWf x.1) :
    memWf (mapSection root im off len perm x).1 := memWf_fst_foldl (fun _ _ h => memWf_mapPage h) hx

theorem memWf_mapImage {root im} (hs : memWf s) : memWf (mapImage s root im).1 :=
  memWf_mapSection (memWf_mapSection (memWf_mapSection hs))

theorem memWf_acceptGraph {q p ns} (hs : memWf s) : memWf (acceptGraph s q p ns) :=
  memWf_wakeNodes (memWf_endGraph (memWf_same (memWf_mapImage (memWf_takeFresh hs))))

theorem memWf_submitPkt {q p} (hs : memWf s) : memWf (submitPkt s q p) := by
  unfold submitPkt
  split
  · exact memWf_writeRecord hs
  · exact memWf_acceptGraph hs

/-! ### Launches (`Machine/Launch`) -/

theorem memWf_placeCores {t f n n1} (hs : memWf s) : memWf (placeCores t f n n1 s) := by
  induction n1 generalizing t f n s with
  | zero => exact hs
  | succ n1 ih =>
    unfold placeCores
    split
    · exact ih (memWf_setCore hs)
    · exact ih hs

theorem memWf_applyArrivals {c fgroup l} (hs : memWf s) : memWf (applyArrivals s c fgroup l) := by
  induction l generalizing c fgroup s with
  | nil => exact hs
  | cons x l ih => exact memWf_ite (ih (memWf_slotCheck (memWf_setSlot hs))) (ih hs)

theorem outWf_execLaunchStart {task} (hs : memWf s) : OutWf (execLaunchStart task s) := by
  unfold execLaunchStart
  dsimp only
  split
  · split
    · exact memWf_same (memWf_applyArrivals (memWf_placeCores (memWf_setTask hs)))
    · exact memWf_placeCores (memWf_setTask hs)
  · exact hs

theorem memWf_finishCheck {c} (hs : memWf s) : memWf (finishCheck s c) := memWf_ite (memWf_setCore hs) hs

theorem memWf_freezeAll {task} (hs : memWf s) : memWf (freezeAll s task) :=
  memWf_same (memWf_foldl (fun _ _ => memWf_deliverRecs) hs)

theorem memWf_haltTask {task status detail} (hs : memWf s) : memWf (haltTask s task status detail) :=
  memWf_freezeAll (memWf_setTask (memWf_endTask hs))

theorem memWf_taskLeaves {task} (hs : memWf s) : memWf (taskLeaves s task) :=
  memWf_ite (memWf_evalSoon (memWf_coresOff (memWf_freeClusters (memWf_setNode (memWf_setTask hs))))) hs

theorem outWf_execLaunchEnd {task} (hs : memWf s) : OutWf (execLaunchEnd task s) := by
  unfold execLaunchEnd
  dsimp only
  split
  · split
    · exact outWf_ite (memWf_launchOver hs) hs
    · exact outWf_ite (memWf_launchOver hs) (memWf_taskLeaves hs)
  · exact hs

theorem outWf_execPrologueStart (hs : memWf s) : OutWf (execPrologueStart s) := by
  unfold execPrologueStart
  split
  · exact memWf_setCore (memWf_setNode (memWf_setTask (memWf_same (memWf_runAsn hs))))
  · exact hs

theorem memWf_sayVerdict (hs : memWf s) : memWf (sayVerdict s) := memWf_same hs

theorem memWf_prologueVerdict {p} (hs : memWf s) : memWf (prologueVerdict s p) := by
  unfold prologueVerdict
  dsimp only
  split
  · exact memWf_raise1 hs
  · split
    · exact hs
    · exact memWf_ite (memWf_nodeDone hs) (memWf_evalSoon (memWf_setNode (memWf_dropPrologue hs)))

theorem memWf_takeVerdicts (hs : memWf s) : memWf (takeVerdicts s) :=
  memWf_foldl (fun _ _ h => memWf_ite (memWf_prologueVerdict (memWf_same h)) h) hs

/-! ### System instructions (`Machine/System`) -/

theorem memWf_setBarOn {n b} (hs : memWf s) : memWf (setBarOn s n b) := memWf_setSn hs

theorem outWf_execBar {lvl slot} (hs : memWf s) : OutWf (execBar lvl slot s) := by
  unfold execBar
  refine outWf_conduct (fun _ h => ?_) hs
  split
  · exact effWf_ite (effWf_adv (memWf_setBarOn (memWf_tryArrive (memWf_fst_ite h (memWf_setBarOn h)))))
      (memWf_tryArrive (memWf_fst_ite h (memWf_setBarOn h)))
  · exact effWf_ite (effWf_adv (memWf_setBarOn (memWf_tryArrive (memWf_setBarOn h))))
      (memWf_tryArrive (memWf_setBarOn h))

theorem outWf_execWaitTargetReached {strand} (hs : memWf s) : OutWf (execWaitTargetReached strand s) := by
  unfold execWaitTargetReached
  dsimp only
  split
  · exact memWf_ite (memWf_setSn hs) hs
  · exact memWf_ite (memWf_setSn hs) hs
  · exact hs

theorem memWf_stopStrand {n} (hs : memWf s) : memWf (stopStrand s n) := memWf_setCC (memWf_closeWait hs)
theorem memWf_yieldStop (hs : memWf s) : memWf (yieldStop s) := memWf_setCC (memWf_finishIssue hs)

theorem outWf_execYield (hs : memWf s) : OutWf (execYield s) :=
  memWf_conductState (fun _ h => effWf_ite h (effWf_ite h
    (effWf_ite h (effWf_ite h (effWf_ite (memWf_taskLeaves (memWf_yieldStop h)) (effWf_adv h)))))) hs

theorem outWf_switchForm {w uses stamp} (hs : memWf s) : OutWf (switchForm w uses stamp s) :=
  memWf_conductState (fun _ h => effWf_ite (effWf_adv (memWf_setCC h)) (memWf_setCC h)) hs

theorem outWf_execCrr {rd num} (hs : memWf s) : OutWf (execCrr rd num s) := by
  unfold execCrr
  refine outWf_conduct (fun _ h => ?_) hs
  split
  · exact h
  · exact effWf_ite h (effWf_adv (memWf_wx h))

theorem memWf_clearRace {v} (hs : memWf s) : memWf (clearRace s v) := memWf_setTask hs
theorem memWf_dropWatch {c n} (hs : memWf s) : memWf (dropWatch s c n) := memWf_same hs
theorem memWf_disarmWatch {n v} (hs : memWf s) : memWf (disarmWatch s n v) := memWf_setCC (memWf_dropWatch hs)

theorem effWf_armWatch {n v w} (hs : memWf s) : EffWf (armWatch s n v w) := by
  unfold armWatch
  dsimp only
  split
  · next e => exact effWf_adv (memWf_setWpSt (memWf_disarmWatch (memWf_fst e (memWf_reach hs))))
  · next e => exact effWf_sendAt (memWf_fst e (memWf_reach hs))

theorem effWf_writeWpCtl {n v w} (hs : memWf s) : EffWf (writeWpCtl s n v w) :=
  effWf_ite (effWf_armWatch hs) (effWf_adv (memWf_disarmWatch hs))

theorem outWf_execCrw {num rs1} (hs : memWf s) : OutWf (execCrw num rs1 s) :=
  memWf_conductState (fun _ h => effWf_ite h (effWf_ite h
    (effWf_ite (effWf_adv (memWf_clearRace h)) (effWf_ite (effWf_adv (memWf_ite (memWf_setCC h) h))
    (effWf_ite (effWf_adv (memWf_ite (memWf_setCC h) h))
    (effWf_ite (effWf_adv (memWf_setCC h)) (effWf_ite (effWf_writeWpCtl h)
    (effWf_ite (effWf_adv h) (effWf_adv (memWf_setCC h)))))))))) hs

theorem outWf_execWatchTaken {strand} (hs : memWf s) : OutWf (execWatchTaken strand s) := by
  unfold execWatchTaken
  dsimp only
  split
  · split
    · split
      · exact hs
      · split
        · next e => exact memWf_finishIssue (doneWf_of_eq e (doneWf_performAt hs))
        · exact hs
    · exact hs
  · exact hs

theorem memWf_copyUncount {p} (hs : memWf s) : memWf (copyUncount s p) := by
  unfold copyUncount
  dsimp only
  split
  · split
    · split
      · next e => exact memWf_slotAdd_ok (memWf_setCC hs) e
      · exact memWf_setCC hs
    · exact hs
  · exact hs

theorem memWf_giveVerdict {code} (hs : memWf s) : memWf (giveVerdict s code) := by
  unfold giveVerdict
  split
  · exact hs
  · exact memWf_when (fun h => memWf_finishCheck (memWf_endHold h))
      (memWf_setCC (memWf_ite hs (memWf_copyUncount hs)))

theorem outWf_execFret {verdict} (hs : memWf s) : OutWf (execFret verdict s) := by
  unfold execFret
  dsimp only
  refine outWf_conduct (fun _ h => ?_) hs
  split
  · exact h
  · split
    · split
      · exact memWf_haltTask (memWf_setCC (memWf_copyUncount h))
      · exact memWf_haltTask (memWf_setCC h)
    · exact memWf_giveVerdict h

theorem outWf_execFaultStrandStart (hs : memWf s) : OutWf (execFaultStrandStart s) := by
  unfold execFaultStrandStart
  dsimp only
  split
  · split
    · exact memWf_startHandling hs
    · exact hs
  · exact hs

theorem memWf_fetchAt {c pc} (hs : memWf s) : memWf (fetchAt s c pc).1 := by
  unfold fetchAt
  split
  · next e => exact memWf_fst e (memWf_reach hs)
  · next e =>
      have ht := memWf_fst e (memWf_reach hs)
      split
      · exact ht
      · exact ht

theorem memWf_farFetch {c pc pa} (e : farFetch s c pc = some (t, pa)) (hs : memWf s) : memWf t := by
  unfold farFetch at e
  split at e
  · next er =>
    split at e <;> cases e
    exact memWf_fst er (memWf_reach hs)
  · cases e

theorem outWf_execInstructionFetchFault (hs : memWf s) : OutWf (execInstructionFetchFault s) := by
  unfold execInstructionFetchFault
  split
  · next e => exact memWf_faultIssue (memWf_fst e (memWf_fetchAt hs))
  · next e => exact memWf_fst e (memWf_fetchAt hs)

/-! ### The vector engine's core (`Machine/VecCore`) -/

theorem memWf_vecLand {x} (hs : memWf s) : memWf (vecLand s x) := memWf_completeWord (memWf_setCC hs)

theorem memWf_vecComplete {n} (hs : memWf s) : memWf (vecComplete n s) := by
  induction n generalizing s with
  | zero => exact hs
  | succ n ih =>
    unfold vecComplete
    split
    · exact hs
    · exact ih (memWf_vecLand (memWf_setCC hs))

theorem memWf_vecSettle (hs : memWf s) : memWf (vecSettle s) := memWf_vecComplete hs
theorem memWf_vecStart {x classC} (hs : memWf s) : memWf (vecStart s x classC) := memWf_setCC hs

theorem outWf_vecWord {h u run} (hs : memWf s) : OutWf (vecWord h u run s) := by
  unfold vecWord
  refine memWf_issueState (fun _ _ h => ?_) (memWf_vecSettle hs)
  split
  · trivial
  · exact ⟨h, fun _ _ h => memWf_vecStart h⟩

theorem outWf_vecReg {w u f} (hs : memWf s) : OutWf (vecReg w u f s) := outWf_vecWord hs
theorem outWf_vecMap {lat srcs w f} (hs : memWf s) : OutWf (vecMap lat srcs w f s) := outWf_vecReg hs

/-! ### Vector words (`Machine/Vector`) -/

theorem outWf_execVmov {w} (hs : memWf s) : OutWf (execVmov w s) := by
  unfold execVmov
  split
  · exact outWf_vecWord hs
  · exact outWf_vecReg hs
  · exact outWf_vecReg hs

theorem outWf_vecF2 {lat f w} (hs : memWf s) : OutWf (vecF2 lat f w s) := outWf_vecMap hs
theorem outWf_vecF3 {f w} (hs : memWf s) : OutWf (vecF3 f w s) := outWf_vecMap hs
theorem outWf_vecC {srcs w f} (hs : memWf s) : OutWf (vecC srcs w f s) := outWf_vecReg hs
theorem outWf_vecC1 {f w} (hs : memWf s) : OutWf (vecC1 f w s) := outWf_vecC hs
theorem outWf_vecI2 {lat sat f w} (hs : memWf s) : OutWf (vecI2 lat sat f w s) := outWf_vecMap hs
theorem outWf_vecBit {f w} (hs : memWf s) : OutWf (vecBit f w s) := outWf_vecMap hs
theorem outWf_vecShift {f w} (hs : memWf s) : OutWf (vecShift f w s) := outWf_vecMap hs
theorem outWf_vecCmp {w f} (hs : memWf s) : OutWf (vecCmp w f s) := outWf_ite (outWf_vecWord hs) (outWf_vecMap hs)

theorem outWf_vecMask {w two f} (hs : memWf s) : OutWf (vecMask w two f s) := by
  unfold vecMask
  exact outWf_vecWord hs

theorem outWf_vecCvt {w f} (hs : memWf s) : OutWf (vecCvt w f s) := outWf_vecReg hs
theorem outWf_vecPerm {w srcs f} (hs : memWf s) : OutWf (vecPerm w srcs f s) := outWf_vecMap hs

/-! ### Vector memory words (`Machine/VecMemory`) -/

theorem memWf_vmemChecks_ok {kind load qw m l r} (hs : memWf s) (e : vmemChecks kind load qw m l s = .ok (t, r)) :
    memWf t := by
  unfold vmemChecks at e
  dsimp only at e
  split at e
  · cases e
  · cases e; exact memWf_reachAll hs

theorem memWf_vmemPerform {load qw l} (hs : memWf s) : memWf (vmemPerform load qw l s).1 :=
  memWf_fst_ite (memWf_noteAll (memWf_raceNote hs)) (memWf_storeOut (memWf_noteAll (memWf_raceNote hs)))

theorem outWf_vecMem {kind load w} (hs : memWf s) : OutWf (vecMem kind load w s) := by
  unfold vecMem
  refine memWf_issueState (fun _ _ h => ?_) (memWf_vecSettle hs)
  split
  · trivial
  · refine actWf_orAsk ?_ h
    split
    · trivial
    · next e =>
        have ht := memWf_vmemChecks_ok h e
        split
        · split
          · split
            · trivial
            · split
              · trivial
              · exact ⟨ht, fun _ _ h => memWf_vecStart (memWf_tagAll (memWf_noteAll h))⟩
          · split
            · trivial
            · exact ⟨ht, fun _ _ h => memWf_vecStart (memWf_vmemPerform h)⟩
        · exact ⟨ht, fun _ _ h => memWf_vecStart h⟩

theorem memWf_remoteOver {x rest r} (hs : memWf s) : memWf (remoteOver x rest r s) := memWf_clearAcks (memWf_setCC hs)

theorem outWf_execVectorRemoteAccessDone (hs : memWf s) : OutWf (execVectorRemoteAccessDone s) := by
  unfold execVectorRemoteAccessDone
  split
  · exact hs
  · split
    · exact hs
    · next e => exact volWf_of_eq e (volWf_volStep hs)
    · exact memWf_raise2 (memWf_same hs)
    · exact memWf_remoteOver hs
    · split
      · exact memWf_raise2 (memWf_same hs)
      · exact outWf_ite (memWf_vmemPerform hs) (memWf_remoteOver (memWf_vmemPerform hs))

/-! ### Parking (`Machine/Park`) -/

theorem memWf_inCore {c f} (hf : ∀ s, memWf s → OutWf (f s)) (hs : memWf s) : memWf (inCore s c f) := by
  unfold inCore
  split
  · next e => exact memWf_cur (outWf_of_eq e (hf _ (memWf_same hs)))
  · exact hs

theorem memWf_flushStrands {c} (hs : memWf s) : memWf (flushStrands s c) :=
  memWf_foldl (fun _ _ => memWf_inCore fun _ => outWf_execMemoryAccessPerformed) hs

theorem memWf_flushEngines {c} (hs : memWf s) : memWf (flushEngines s c) :=
  memWf_when (memWf_inCore (fun _ => outWf_execTaggedOpArrival))
    (memWf_when (memWf_inCore (fun _ => outWf_execCopyPiecePerformed))
    (memWf_when (memWf_inCore (fun _ => outWf_execFillElementWrite))
    (memWf_when (memWf_inCore (fun _ => outWf_execGeneratorWriteLanding))
    (memWf_ite (memWf_inCore (fun _ => outWf_execVectorRemoteAccessDone) hs) hs))))

theorem memWf_withdrawFar {c} (hs : memWf s) : memWf (withdrawFar s c) := memWf_same hs
theorem memWf_withdraw {c} (hs : memWf s) : memWf (withdraw s c) := memWf_withdrawFar (memWf_setCore hs)

theorem memWf_refuseOne {k h before} (hs : memWf s) : memWf (refuseOne k s h before) := by
  unfold refuseOne
  split
  · exact memWf_setCore hs
  · exact memWf_same hs

theorem memWf_refuseHeld {c} (hs : memWf s) : memWf (refuseHeld s c) :=
  memWf_foldl (fun _ _ => memWf_refuseOne) (memWf_setCore hs)

theorem memWf_parkTask {task} (hs : memWf s) : memWf (parkTask s task) := memWf_freezeAll (memWf_setTask hs)
theorem memWf_flushWalks {c} (hs : memWf s) : memWf (flushWalks s c) := memWf_foldl (fun _ _ => memWf_wakeWalk) hs

theorem memWf_flushCopyWalk {c} (hs : memWf s) : memWf (flushCopyWalk s c) := by
  unfold flushCopyWalk
  split
  · exact hs
  · exact memWf_inCore (fun _ => outWf_execCopyPiecePerformed) (memWf_foldl (fun _ _ => memWf_fillWalk) hs)

theorem memWf_flushAll {l} (hs : memWf s) : memWf (flushAll s l) :=
  memWf_foldl (fun _ _ => memWf_flushEngines) (memWf_foldl (fun _ _ => memWf_flushStrands)
    (memWf_foldl (fun _ _ => memWf_flushCopyWalk) (memWf_foldl (fun _ _ => memWf_flushWalks) hs)))

theorem outWf_execFreezeComplete {task} (hs : memWf s) : OutWf (execFreezeComplete task s) :=
  outWf_ite (outWf_ite (memWf_flushAll hs) (memWf_setTask
    (memWf_foldl (fun _ _ => memWf_withdraw) (memWf_foldl (fun _ _ => memWf_refuseHeld) (memWf_flushAll hs))))) hs

theorem memWf_dropWalkers {l} (hs : memWf s) : memWf (dropWalkers s l) := memWf_setMm hs

theorem memWf_fillRange {t} (hs : memWf s) : memWf (fillRange s t) := by
  unfold fillRange
  split
  · exact hs
  · exact memWf_writeLoc (memWf_takeFresh hs)

theorem memWf_saveImage {task} (hs : memWf s) : memWf (saveImage s task) :=
  memWf_coresOff (memWf_freeClusters (memWf_setNode (memWf_setTask
    (memWf_dropClusterTlbs (memWf_dropWalkers (memWf_fillRange hs))))))

theorem memWf_wantRestores {l l1} (hs : memWf s) : memWf (wantRestores l l1 s) := by
  induction l1 generalizing l s with
  | nil => exact hs
  | cons x l1 ih => exact memWf_ite (ih (memWf_ite (memWf_wantDies hs) hs)) (ih hs)

theorem memWf_allotRestore (hs : memWf s) : memWf (allotRestore s) := by
  unfold allotRestore
  split
  · exact hs
  · exact memWf_wantRestores (memWf_ite (memWf_takeClusters (memWf_setTask hs)) hs)

theorem memWf_releaseTask {task vstep} (hs : memWf s) : memWf (releaseTask s task vstep) :=
  memWf_allotRestore (memWf_same hs)

theorem memWf_placeCore {t lid k} (hs : memWf s) : memWf (placeCore s t lid k) := by
  unfold placeCore
  split
  · exact memWf_setCore hs
  · exact hs

theorem memWf_placeYield {t lid k} (hs : memWf s) : memWf (placeYield s t lid k) := by
  unfold placeYield
  split
  · exact memWf_setCore hs
  · exact hs

theorem memWf_rearm {c} (hs : memWf s) : memWf (rearm s c) := by
  refine memWf_foldl (fun s n hs => memWf_ite ?_ hs) hs
  split
  · next e => exact memWf_setWpSt (memWf_setCore (memWf_fst e (memWf_reach hs)))
  · next e => exact memWf_cur (memWf_performWatch (memWf_same (memWf_fst e (memWf_reach hs))))

theorem memWf_arriveTag {c h} (hs : memWf s) : memWf (arriveTag s c h) := by
  unfold arriveTag
  dsimp only
  split
  · exact memWf_ite (memWf_heldBad hs) (memWf_heldDone (memWf_tagPerform hs))
  · split
    · exact memWf_setCore hs
    · split
      · exact memWf_answerReq hs
      · exact hs

theorem memWf_respond {r err v} (hs : memWf s) : memWf (respond s r err v) := memWf_answerReq hs

theorem memWf_pieceAtPort {who l b} (hs : memWf s) : memWf (pieceAtPort s who l b) :=
  memWf_healOver (memWf_storeMany hs)

theorem memWf_remoteDo {r l} (hs : memWf s) : memWf (remoteDo s r l) := by
  unfold remoteDo
  dsimp only
  split
  · split
    · exact memWf_respond (memWf_awaken hs)
    · split
      · exact memWf_respond (memWf_awaken hs)
      · exact memWf_respond (memWf_storeAt (memWf_awaken hs))
      · exact memWf_respond (memWf_pieceAtPort (memWf_awaken hs))
      · exact memWf_respond (memWf_awaken hs)
      · exact memWf_awaken hs
      · exact memWf_respond (memWf_storeAt (memWf_awaken hs))
      · exact memWf_respond (memWf_amoAt (memWf_awaken hs))
      · exact memWf_respond (memWf_casAt (memWf_awaken hs))
      · exact memWf_awaken hs
  · split
    · exact memWf_respond hs
    · split
      · exact memWf_respond hs
      · exact memWf_respond (memWf_storeAt hs)
      · exact memWf_respond (memWf_pieceAtPort hs)
      · exact memWf_respond hs
      · exact hs
      · exact memWf_arriveTag hs
      · exact memWf_respond (memWf_amoAt hs)
      · exact memWf_respond (memWf_casAt hs)
      · exact memWf_arriveTag hs

theorem memWf_parkedDeliver {task} (hs : memWf s) : memWf (parkedDeliver s task) := by
  unfold parkedDeliver
  dsimp only
  refine memWf_foldl (fun _ _ h => ?_) hs
  split
  · exact h
  · split
    · exact memWf_remoteDo (memWf_same h)
    · exact memWf_respond (memWf_same h)

theorem memWf_parkedTurn (hs : memWf s) : memWf (parkedTurn s) := memWf_foldl (fun _ _ => memWf_parkedDeliver) hs

theorem memWf_heldArrivals {task} (hs : memWf s) : memWf (heldArrivals s task) := by
  unfold heldArrivals
  dsimp only
  split
  · exact memWf_same (memWf_applyArrivals hs)
  · exact hs

theorem outWf_execRestoreComplete {task} (hs : memWf s) : OutWf (execRestoreComplete task s) :=
  outWf_ite (memWf_evalSoon (memWf_allotRestore (memWf_foldl (fun _ _ => memWf_finishCheck)
    (memWf_heldArrivals (memWf_parkedDeliver (memWf_ite (memWf_foldl (fun _ _ => memWf_placeYield)
    (memWf_setTask (memWf_same hs))) (memWf_foldl (fun _ _ => memWf_rearm)
    (memWf_foldl (fun _ _ => memWf_placeCore) (memWf_setTask (memWf_same hs)))))))))) hs

theorem memWf_shedStrand {c n} (hs : memWf s) : memWf (shedStrand s c n) := by
  unfold shedStrand
  split
  · exact hs
  · exact memWf_when (memWf_inCore (fun _ => outWf_execMemoryAccessPerformed)) (memWf_takeFresh hs)

theorem memWf_shedEngines {c} (hs : memWf s) : memWf (shedEngines s c) :=
  memWf_when (memWf_inCore (fun _ => outWf_execTaggedOpArrival))
    (memWf_when (memWf_inCore (fun _ => outWf_execFillElementWrite))
    (memWf_when (memWf_inCore (fun _ => outWf_execGeneratorWriteLanding))
    (memWf_when (memWf_inCore (fun _ => outWf_execVectorRemoteAccessDone)) (memWf_setCore (memWf_takeFresh hs)))))

theorem memWf_shedAccesses {l} (hs : memWf s) : memWf (shedAccesses s l) :=
  memWf_foldl (fun _ _ => memWf_shedEngines) (memWf_foldl (fun _ _ => memWf_foldl fun _ _ => memWf_shedStrand)
    (memWf_foldl (fun _ _ => memWf_withdrawFar) (memWf_foldl (fun _ _ => memWf_dropHeld) hs)))

theorem memWf_shedTask {task status detail} (hs : memWf s) : memWf (shedTask s task status detail) := by
  unfold shedTask
  dsimp only
  split
  · exact memWf_launchOver hs
  · exact memWf_launchOver hs
  · exact memWf_ite (memWf_launchOver hs) (memWf_haltTask hs)
  · exact hs
  · exact hs
  · exact memWf_haltTask hs

theorem outWf_execHaltComplete {task} (hs : memWf s) : OutWf (execHaltComplete task s) := by
  unfold execHaltComplete
  dsimp only
  split
  · exact outWf_ite (memWf_launchOver (memWf_shedAccesses hs)) hs
  · exact hs

theorem memWf_takeFeature {c} (hs : memWf s) : memWf (takeFeature s c) :=
  memWf_ite hs (memWf_when memWf_endHold (memWf_setCore hs))

/-! ### Packets (`Machine/Packets`) -/

theorem memWf_cancelNode {g i} (hs : memWf s) : memWf (cancelNode g s i) := by
  unfold cancelNode
  dsimp only
  split
  · exact memWf_endEarly hs
  · exact memWf_endEarly hs
  · exact memWf_endEarly hs
  · exact memWf_shedTask hs
  · exact memWf_shedTask hs
  · exact memWf_shedTask hs
  · exact hs

theorem memWf_cancelGraph {g node} (hs : memWf s) : memWf (cancelGraph s g node).1 :=
  memWf_wakeNodes (memWf_endGraph (memWf_foldl (fun _ _ => memWf_cancelNode)
    (memWf_foldl (fun _ _ => memWf_cancelNode) hs)))

theorem memWf_cancelPkt {q tag node} (hs : memWf s) : memWf (cancelPkt s q tag node) :=
  memWf_packetRecord (memWf_fst_foldl (fun _ _ => memWf_cancelGraph) hs)

theorem optWf_wakeTask {task lid off v} (hs : memWf s) : OptWf (wakeTask s task lid off v) := by
  unfold wakeTask
  dsimp only
  split
  · trivial
  · split
    · exact memWf_setTask hs
    · exact memWf_setTask hs
    · split
      · exact memWf_setTask hs
      · exact memWf_setTask hs
    · trivial
    · trivial
    · split
      · exact memWf_tagPerform hs
      · trivial

theorem memWf_wakePkt {q tag node lid off v} (hs : memWf s) : memWf (wakePkt s q tag node lid off v) := by
  unfold wakePkt
  split
  · exact memWf_packetRecord hs
  · split
    · exact memWf_packetRecord hs
    · split
      · exact memWf_packetRecord hs
      · next e => exact memWf_packetRecord (optWf_of_eq e (optWf_wakeTask hs))

theorem memWf_badTag {b} (hs : memWf s) : memWf (badTag s b).2 :=
  memWf_snd_ite hs (memWf_snd_ite hs (memWf_takeFresh hs))

theorem memWf_runPacket {q b} (hs : memWf s) : memWf (runPacket s q b) := by
  unfold runPacket
  split
  · split
    · exact memWf_loadImagePkt hs
    · exact memWf_submitPkt hs
    · exact memWf_same hs
    · exact memWf_wakePkt hs
    · exact memWf_packetRecord hs
  · exact memWf_packetRecord (memWf_badTag hs)

theorem memWf_setSq {q v} (hs : memWf s) : memWf (setSq s q v) := memWf_same hs
theorem memWf_tearQueue {q} (hs : memWf s) : memWf (tearQueue s q) := memWf_sendMsix (memWf_setSq hs)

theorem memWf_fetchSlot {q again} (hs : memWf s) : memWf (fetchSlot s q again) :=
  memWf_unless (fun h => memWf_ite (memWf_ite h (memWf_runPacket h))
    (memWf_ite (memWf_tearQueue (memWf_ite (memWf_awaken hs) hs)) h)) (memWf_setSq (memWf_ite (memWf_awaken hs) hs))

theorem memWf_fetchTurn (hs : memWf s) : memWf (fetchTurn s) := by
  unfold fetchTurn
  split
  · exact hs
  · exact memWf_ite (memWf_fetchSlot (memWf_setSq (memWf_same hs))) (memWf_fetchSlot (memWf_setSq (memWf_same hs)))

theorem memWf_takeCancels (hs : memWf s) : memWf (takeCancels s) :=
  memWf_foldl (fun _ _ => memWf_cancelPkt) (memWf_same hs)

theorem memWf_askRead {q} (hs : memWf s) : memWf (askRead s q) := memWf_ite (memWf_setSq hs) hs
theorem memWf_enableSq {q v} (hs : memWf s) : memWf (enableSq s q v) := memWf_ite hs (memWf_setSq hs)
theorem memWf_disableSq {q v} (hs : memWf s) : memWf (disableSq s q v) := memWf_ite (memWf_setSq hs) (memWf_setSq hs)

theorem memWf_flushRing {r} (hs : memWf s) : memWf (flushRing s r) := by
  unfold flushRing
  split
  · exact memWf_ringFlush hs
  · exact memWf_drainOut (memWf_trapFlush hs)

theorem memWf_enableRing {r v} (hs : memWf s) : memWf (enableRing s r v) :=
  memWf_ite hs (memWf_flushRing (memWf_setRing hs))

theorem memWf_disableRing {r v} (hs : memWf s) : memWf (disableRing s r v) :=
  memWf_ite (memWf_setRing hs) (memWf_setRing hs)

/-! ### The host link (`Machine/HostLink`) -/

theorem memWf_barFar {pa at_ b n n1 n2} (hs : memWf s) : memWf (barFar pa at_ b n n1 n2 s) := by
  induction n generalizing pa at_ b n1 n2 s with
  | zero => exact hs
  | succ n ih =>
    unfold barFar
    split
    · exact hs
    · split
      · exact ih (memWf_sendReq hs)
      · exact ih (memWf_sendReq hs)

theorem memWf_barRead {at_ l} (hs : memWf s) : memWf (barRead s at_ l).2 := by
  induction l generalizing at_ s with
  | nil => exact hs
  | cons x l ih =>
    exact ih (memWf_snd_ite (memWf_barFar (memWf_awaken hs))
      (memWf_snd_ite (memWf_takeFresh (memWf_awaken hs)) (memWf_awaken hs)))

theorem memWf_barWrite {l l1} (hs : memWf s) : memWf (barWrite s l l1) := by
  induction l generalizing l1 s with
  | nil => exact hs
  | cons x l ih => exact ih (memWf_ite (memWf_barFar (memWf_awaken hs)) (memWf_storeAt (memWf_awaken hs)))

theorem memWf_barRefused {read} (hs : memWf s) : memWf (barRefused s read) := memWf_same hs

theorem outWf_execHostBarAccess {a} (hs : memWf s) : OutWf (execHostBarAccess a s) :=
  outWf_ite (memWf_barRefused hs) (outWf_ite (memWf_barRefused hs)
    (outWf_ite (memWf_same hs) (outWf_ite (memWf_same (memWf_barRead hs)) (memWf_healOver (memWf_barWrite hs)))))

/-! ### The volley (`Machine/Volley`) -/

theorem memWf_withdrawReq {src seq} (hs : memWf s) : memWf (withdrawReq s src seq) :=
  memWf_ite hs (memWf_answerReq (memWf_same hs))

theorem memWf_requestScr {r e} (hs : memWf s) : memWf (requestScr s r e) := by
  unfold requestScr
  dsimp only
  split
  · exact memWf_respond hs
  · split
    · exact hs
    · exact memWf_same hs
    · exact memWf_same hs
    · exact memWf_same hs
    · split
      · exact memWf_remoteDo hs
      · exact memWf_respond hs

theorem outWf_execVolleyRequest {r} (hs : memWf s) : OutWf (execVolleyRequest r s) := by
  unfold execVolleyRequest
  split
  · exact memWf_withdrawReq hs
  · exact memWf_same hs
  · split
    · exact hs
    · split
      · exact memWf_respond hs
      · exact outWf_ite (memWf_respond hs) (outWf_ite (memWf_requestScr hs)
          (outWf_ite (memWf_respond hs) (outWf_ite (memWf_respond hs) (memWf_remoteDo hs))))

theorem doneWf_ackStrand {n fl v} (hs : memWf s) : DoneWf (ackStrand s n fl v) := by
  unfold ackStrand
  split
  · exact memWf_ite (memWf_bumpRelease hs) hs
  · exact doneWf_deliver (memWf_bumpRelease hs)
  · exact doneWf_deliver (memWf_bumpRelease hs)
  · exact doneWf_deliver hs

theorem memWf_ackToStrand {n id err v} (hs : memWf s) : memWf (ackToStrand s n id err v) := by
  unfold ackToStrand
  split
  · split
    · split
      · exact memWf_raise1 hs
      · split
        · next e => exact memWf_finishIssue (doneWf_of_eq e (doneWf_ackStrand hs))
        · next e => exact memWf_raise1 (doneWf_of_eq e (doneWf_ackStrand hs))
        · next e => exact doneWf_of_eq e (doneWf_ackStrand hs)
        · next e => exact doneWf_of_eq e (doneWf_ackStrand hs)
    · exact hs
  · exact hs

theorem memWf_ackToFetch {n err v} (hs : memWf s) : memWf (ackToFetch s n err v) := by
  unfold ackToFetch
  dsimp only
  split
  · exact memWf_ite (memWf_raise1 hs) (memWf_setSn hs)
  · exact hs

theorem memWf_ackUndone {c refused} (hs : memWf s) : memWf (ackUndone s c refused) := memWf_setCore hs

theorem memWf_ackToHost {read err v} (hs : memWf s) : memWf (ackToHost s read err v) := by
  unfold ackToHost
  split
  · exact memWf_same hs
  · split
    · exact hs
    · exact memWf_unless (fun h => memWf_same h) (memWf_takeFresh hs)

theorem outWf_execVolleyAck {id error value} (hs : memWf s) : OutWf (execVolleyAck id error value s) := by
  unfold execVolleyAck
  dsimp only
  split
  · exact hs
  · split
    · exact memWf_cur (memWf_ackToStrand (memWf_same hs))
    · exact memWf_ackToHost (memWf_same hs)
    · exact memWf_cur (memWf_ackToFetch (memWf_same hs))
    · exact outWf_ite (memWf_ackUndone (memWf_same hs)) (memWf_setCore (memWf_same hs))

theorem outWf_execFabricArrivalMessage {fgroup slot} (hs : memWf s) :
    OutWf (execFabricArrivalMessage fgroup slot s) := by
  unfold execFabricArrivalMessage
  dsimp only
  split
  · exact memWf_ite (memWf_same hs) hs
  · split
    · exact memWf_applyArrivals hs
    · exact memWf_ite (memWf_same hs) hs

theorem outWf_execFabricAbort {fgroup fidx} (hs : memWf s) : OutWf (execFabricAbort fgroup fidx s) := by
  unfold execFabricAbort
  dsimp only
  split
  · exact hs
  · split
    · exact memWf_nodeDone (memWf_leaveEarly hs)
    · exact memWf_nodeDone (memWf_leaveEarly hs)
    · exact memWf_nodeDone (memWf_leaveEarly hs)
    · exact hs
    · exact memWf_shedTask hs

theorem memWf_sendDiscipline {ports} (hs : memWf s) : memWf (sendDiscipline s ports) := memWf_same hs
theorem memWf_reportMc3 (hs : memWf s) : memWf (reportMc3 s) := memWf_ite hs (memWf_sendMsix hs)
theorem memWf_stepGtc {v} (hs : memWf s) : memWf (stepGtc s v) := memWf_ite hs (memWf_same hs)
theorem memWf_setUp {p b} (hs : memWf s) : memWf (setUp s p b) := memWf_ite hs (memWf_same hs)

theorem memWf_shedRun {status task} (hs : memWf s) : memWf (shedRun s status task) :=
  memWf_ite (memWf_nodeDone (memWf_leaveEarly hs)) (memWf_shedTask hs)

theorem outWf_execManagementMessage {exp route} (hs : memWf s) : OutWf (execManagementMessage exp route s) := by
  unfold execManagementMessage
  dsimp only
  split
  · split
    · refine memWf_writeSpa ?_
      split
      · exact memWf_ite (memWf_same hs) hs
      · exact hs
    · split
      · exact memWf_ite (memWf_same hs) hs
      · exact hs
  · split
    · exact memWf_ite (memWf_same hs) hs
    · exact hs

/-! ### Power curves (`Machine/Curve`) -/

theorem memWf_reportEvent {kind grade victims dies detail} (hs : memWf s) :
    memWf (reportEvent s kind grade victims dies detail) := by
  unfold reportEvent
  extract_lets b cseq msg r n s1 full s2 sbur s4 s5
  have h1 : memWf s1 := memWf_same hs
  have h2 : memWf s2 := memWf_writeSpa h1
  have h5 : memWf s5 := memWf_ite h1 (memWf_sendMsix (memWf_same h2))
  split
  · exact memWf_ite (memWf_same h5) h5
  · exact h5

theorem memWf_writeFlash {a b} (hs : memWf s) : memWf (writeFlash s a b) := by
  obtain ⟨hm, hh, hf⟩ := memWf_iff.mp hs
  exact memWf_iff.mpr ⟨hm, hh, twf_tputs b a hf⟩

theorem memWf_putSeqRecord {seq} (hs : memWf s) : memWf (putSeqRecord s seq).1 :=
  memWf_fst_ite (memWf_writeFlash (memWf_takeFresh hs)) (memWf_writeFlash (memWf_takeFresh hs))

theorem memWf_setBur {b} (hs : memWf s) : memWf (setBur s b) := memWf_same hs

theorem memWf_refuseCurve {reason} (hs : memWf s) : memWf (refuseCurve s reason) :=
  memWf_reportEvent (memWf_setBur hs)

theorem memWf_acceptCurve {c src} (hs : memWf s) : memWf (acceptCurve s c src) := memWf_reportEvent (memWf_same hs)

theorem outWf_execCurveDecision (hs : memWf s) : OutWf (execCurveDecision s) := by
  unfold execCurveDecision
  split
  · exact hs
  · exact outWf_ite (memWf_refuseCurve (memWf_same hs)) (outWf_ite
      (memWf_acceptCurve (memWf_putSeqRecord (memWf_same hs)))
      (memWf_refuseCurve (memWf_putSeqRecord (memWf_same hs))))

theorem memWf_takeOver {c} (hs : memWf s) : memWf (takeOver s c) := memWf_when memWf_reportEvent (memWf_setBur hs)

theorem outWf_execCurveActivate (hs : memWf s) : OutWf (execCurveActivate s) := by
  unfold execCurveActivate
  split
  · exact outWf_ite (memWf_takeOver hs) hs
  · exact hs

theorem outWf_execCurveExpire (hs : memWf s) : OutWf (execCurveExpire s) := by
  unfold execCurveExpire
  split
  · split
    · split
      · exact memWf_takeOver hs
      · exact memWf_reportEvent (memWf_setBur hs)
    · exact hs
  · exact hs

/-! ### The bursar (`Machine/Bursar`) -/

theorem memWf_takeSample (hs : memWf s) : memWf (takeSample s) := memWf_setBur hs

theorem memWf_clampEvents (hs : memWf s) : memWf (clampEvents s) :=
  memWf_when memWf_reportEvent (memWf_when memWf_reportEvent (memWf_setBur hs))

theorem memWf_judgeBand (hs : memWf s) : memWf (judgeBand s) := memWf_when memWf_reportEvent (memWf_setBur hs)

theorem memWf_slowTask {t k} (hs : memWf s) : memWf (slowTask s t k) :=
  memWf_foldl (fun _ _ h => memWf_ite (memWf_setCluster h) h) hs

theorem memWf_takeVictims {grade limit l a l1} (hs : memWf s) : memWf (takeVictims grade limit l a l1 s).1 := by
  induction l generalizing grade limit a l1 s with
  | nil => exact hs
  | cons x l ih =>
    exact memWf_fst_ite hs (memWf_fst_ite (ih (memWf_slowTask hs))
      (memWf_fst_ite (ih (memWf_parkTask (memWf_setBur hs))) (ih (memWf_shedTask hs))))

theorem memWf_declareGrade (hs : memWf s) : memWf (declareGrade s) :=
  memWf_ite hs (memWf_reportEvent (memWf_setBur (memWf_takeVictims hs)))

theorem memWf_burSettle (hs : memWf s) : memWf (burSettle s) :=
  memWf_ite hs (memWf_foldl (fun _ _ => memWf_reportEvent)
    (memWf_foldl (fun _ _ => memWf_reportEvent) (memWf_setBur hs)))

theorem memWf_riseTask {limit id} (hs : memWf s) : memWf (riseTask limit s id) :=
  memWf_foldl (fun _ _ h => memWf_ite (memWf_setBur (memWf_setCluster h)) h) hs

theorem memWf_raiseTasks {l a} (hs : memWf s) : memWf (raiseTasks l a s) := by
  induction l generalizing a s with
  | nil => exact hs
  | cons x l ih =>
    unfold raiseTasks
    dsimp only
    split
    · exact ih (memWf_riseTask hs)
    · split
      · exact ih hs
      · split
        · exact ih (memWf_reportEvent (memWf_releaseTask hs))
        · exact ih hs

theorem memWf_raisePower (hs : memWf s) : memWf (raisePower s) := memWf_ite (memWf_raiseTasks hs) hs
theorem memWf_setDie {d v} (hs : memWf s) : memWf (setDie s d v) := memWf_setBur hs

theorem outWf_execGatingTurn (hs : memWf s) : OutWf (execGatingTurn s) := by
  unfold execGatingTurn
  split
  · exact hs
  · split
    · exact memWf_setBur (memWf_setDie hs)
    · exact memWf_reportEvent (memWf_setBur (memWf_dropClusterTlbs (memWf_setDie hs)))
    · exact hs

theorem outWf_execDieUngated {die} (hs : memWf s) : OutWf (execDieUngated die s) := by
  unfold execDieUngated
  split
  · exact memWf_allotRestore (memWf_reportEvent (memWf_setDie hs))
  · exact hs

theorem memWf_restartTask {task} (hs : memWf s) : memWf (restartTask s task) :=
  memWf_ite (memWf_setNode (memWf_dropParked (memWf_closeTask
    (memWf_evalSoon (memWf_forgetTask (memWf_coresOff (memWf_freeClusters
    (memWf_dropClusterTlbs (memWf_handOverTask hs)))))))))
    (memWf_setNode (memWf_setTask (memWf_evalSoon (memWf_forgetTask
    (memWf_coresOff (memWf_freeClusters (memWf_dropClusterTlbs (memWf_handOverTask hs))))))))

theorem memWf_failTask {task} (hs : memWf s) : memWf (failTask s task) := by
  unfold failTask
  dsimp only
  split
  · exact memWf_launchOver (memWf_shedAccesses hs)
  · exact memWf_ite (memWf_launchOver (memWf_shedAccesses hs)) (memWf_restartTask (memWf_shedAccesses hs))

/-! ### Composition of words (`Machine/Compose`) -/

theorem memWf_setW {n v} (hs : memWf s) : memWf (setW s n v) := memWf_setCst hs

theorem effWf_emitWait {q e} (hs : memWf s) (h : emitWait s q = some e) : EffWf e := by
  unfold emitWait at h
  dsimp only at h
  split at h
  · cases h; exact hs
  · split at h
    · cases h
    · cases h; exact memWf_setCC hs

theorem outWf_execEmit {q pd ws} (hs : memWf s) : OutWf (execEmit q pd ws s) := by
  refine memWf_conductState (fun s h => effWf_ite (effWf_adv h) ?_) hs
  split
  · next he => exact effWf_emitWait h he
  · exact effWf_adv (memWf_appendWord h)

theorem outWf_execEmitt {q pd idx} (hs : memWf s) : OutWf (execEmitt q pd idx s) := by
  refine memWf_conductState (fun s h => effWf_ite h (effWf_ite (effWf_adv h) ?_)) hs
  split
  · next he => exact effWf_emitWait h he
  · exact effWf_sendMem h

theorem memWf_setStrm {r v} (hs : memWf s) : memWf (setStrm s r v) := memWf_setCC hs

/-! ### The proctor (`Machine/Proctor`) -/

theorem outWf_execWaitOpenThreshold {who} (hs : memWf s) : OutWf (execWaitOpenThreshold who s) := by
  unfold execWaitOpenThreshold
  dsimp only
  split
  · exact outWf_ite (memWf_traceAdd (memWf_setCC hs)) hs
  · exact hs

theorem memWf_stopTrace {kind task lid} (hs : memWf s) : memWf (stopTrace s kind task lid) := memWf_traceAdd hs

theorem memWf_stopTask {task lid late} (hs : memWf s) : memWf (stopTask s task lid late) :=
  memWf_stopTrace (memWf_same (memWf_foldl (fun _ _ => memWf_deliverRecs) (memWf_setTask hs)))

theorem memWf_setErr {b} (hs : memWf s) : memWf (setErr s b) := memWf_same hs

theorem outWf_execWatchStopFreeze (hs : memWf s) : OutWf (execWatchStopFreeze s) := by
  unfold execWatchStopFreeze
  split
  · exact hs
  · exact outWf_ite (memWf_same hs) (memWf_stopTask (memWf_same hs))

theorem memWf_debugPut {c n cls i v} (hs : memWf s) : memWf (debugPut s c n cls i v) := by
  unfold debugPut
  split
  · exact memWf_setCore hs
  · exact memWf_setCore hs
  · exact memWf_writeLoc hs
  · exact memWf_heldRun (memWf_putTag hs)
  · exact hs

theorem memWf_setDerr {b} (hs : memWf s) : memWf (setDerr s b) := memWf_same hs

theorem outWf_execDebugRead (hs : memWf s) : OutWf (execDebugRead s) := by
  unfold execDebugRead
  split
  · exact memWf_setDerr hs
  · split
    · exact memWf_setDerr hs
    · exact memWf_setDerr (memWf_same hs)

theorem outWf_execDebugWrite {v} (hs : memWf s) : OutWf (execDebugWrite v s) := by
  unfold execDebugWrite
  split
  · exact memWf_setDerr hs
  · exact outWf_ite (memWf_setDerr hs) (memWf_setDerr (memWf_debugPut (memWf_same hs)))

theorem memWf_clearValid {i} (hs : memWf s) : memWf (clearValid s i) := memWf_ite (memWf_writeSpa hs) hs

/-! ### Management (`Machine/Manage`) -/

theorem memWf_blank (hs : memWf s) : memWf (blank s) := by
  obtain ⟨_, hh, hf⟩ := memWf_iff.mp hs
  exact memWf_iff.mpr ⟨rfl, hh, hf⟩

theorem memWf_restoreSeq (hs : memWf s) : memWf (restoreSeq s) := by
  unfold restoreSeq
  extract_lets a b
  exact memWf_ite (memWf_setBur hs) (memWf_reportMc3 hs)

theorem memWf_runSlot {k trial bad} (hs : memWf s) : memWf (runSlot s k trial bad) := by
  unfold runSlot
  extract_lets floor
  exact memWf_restoreSeq (memWf_same hs)

theorem memWf_boot {cause} (hs : memWf s) : memWf (boot s cause) := by
  unfold boot
  extract_lets g old next bad s1 g1 s2 ok
  have h2 : memWf s2 := memWf_same (memWf_blank hs)
  exact memWf_ite (memWf_runSlot h2) (memWf_ite (memWf_runSlot h2) (memWf_same h2))

theorem memWf_writeSlot {k o b} (hs : memWf s) : memWf (writeSlot s k o b) :=
  memWf_ite hs (memWf_same (memWf_writeFlash hs))

theorem memWf_updateSlot {k o b} (hs : memWf s) : memWf (updateSlot s k o b) := memWf_ite hs (memWf_writeSlot hs)

theorem outWf_execRecoveryCommit (hs : memWf s) : OutWf (execRecoveryCommit s) := by
  refine outWf_ite ?_ hs
  extract_lets at_ size b s1
  have h1 : memWf s1 := memWf_writeSlot hs
  exact memWf_boot (memWf_same (memWf_takeFresh h1))

theorem outWf_execDieSelfTestDone {die pass} (hs : memWf s) : OutWf (execDieSelfTestDone die pass s) := by
  unfold execDieSelfTestDone
  dsimp only
  split
  · exact hs
  · split
    · split
      · exact memWf_same hs
      · exact memWf_setDie (memWf_same hs)
    · exact memWf_setDie (memWf_same hs)

theorem outWf_execAttestReport (hs : memWf s) : OutWf (execAttestReport s) := by
  unfold execAttestReport
  split
  · exact hs
  · next a e =>
    extract_lets g1 s1 s2
    have h1 : memWf s1 := memWf_same hs
    have h2 : memWf s2 := memWf_writeSpa h1
    exact outWf_ite (memWf_same h2) (memWf_same h1)

/-! ### Matrix words (`Machine/Matrix`) -/

theorem memWf_putFly {j x} (hs : memWf s) : memWf (putFly s j x) := memWf_setMat hs
theorem memWf_samplePoint {x q} (hs : memWf s) : memWf (samplePoint s x q) := memWf_ite hs (memWf_sampleAll hs)

theorem memWf_readPoint {j x} (hs : memWf s) : memWf (readPoint s j x) := by
  unfold readPoint
  split
  · exact memWf_raise2 (memWf_setMat hs)
  · exact memWf_ite (memWf_setMat (memWf_putFly (memWf_samplePoint hs))) (memWf_putFly (memWf_samplePoint hs))

theorem memWf_passPoint {j x} (hs : memWf s) : memWf (passPoint s j x) := by
  unfold passPoint
  dsimp only
  split
  · exact hs
  · next e => exact volWf_of_eq e (volWf_ite trivial (volWf_volStep hs))
  · exact memWf_raise2 (memWf_setMat (memWf_clearAcks hs))
  · exact memWf_unless memWf_clearAcks (memWf_readPoint hs)
  · exact memWf_unless memWf_clearAcks (memWf_readPoint hs)

theorem memWf_matPoints {now n} (hs : memWf s) : memWf (matPoints now n s) := by
  induction n generalizing now s with
  | zero => exact hs
  | succ n ih =>
    unfold matPoints
    split
    · exact ih (memWf_passPoint hs)
    · exact hs

theorem memWf_matPointsNow (hs : memWf s) : memWf (matPointsNow s) := memWf_matPoints hs

theorem outWf_execMatrixCheckPoint (hs : memWf s) : OutWf (execMatrixCheckPoint s) := by
  unfold execMatrixCheckPoint
  dsimp only
  split
  · exact memWf_matPoints hs
  · split
    · exact memWf_passPoint hs
    · exact hs

theorem memWf_rowWritten {j x} (hs : memWf s) : memWf (rowWritten s j x) := memWf_putFly (memWf_healOver hs)

theorem memWf_writeRow {j x} (hs : memWf s) : memWf (writeRow s j x) := by
  unfold writeRow
  dsimp only
  split
  · exact hs
  · next e => exact volWf_of_eq e (volWf_volStep hs)
  · exact memWf_raise2 (memWf_clearAcks hs)
  · exact memWf_rowWritten (memWf_clearAcks hs)
  · exact memWf_unless memWf_rowWritten (memWf_storeOut (memWf_sampleAll hs))

theorem memWf_matRows {far n} (hs : memWf s) : memWf (matRows far n s) := by
  induction n generalizing far s with
  | zero => exact hs
  | succ n ih =>
    unfold matRows
    split
    · exact ih (memWf_writeRow hs)
    · exact hs

theorem memWf_noteReads {x} (hs : memWf s) : memWf (noteReads s x) := memWf_ite hs (memWf_noteAll hs)

theorem memWf_mComplete {j x} (hs : memWf s) : memWf (mComplete s j x) :=
  memWf_completeWord (memWf_setMat (memWf_mLand (memWf_noteReads hs)))

theorem memWf_matLandings {n} (hs : memWf s) : memWf (matLandings n s) := by
  induction n generalizing s with
  | zero => exact hs
  | succ n ih =>
    unfold matLandings
    split
    · exact ih (memWf_mComplete hs)
    · exact hs

theorem memWf_matSettle {far} (hs : memWf s) : memWf (matSettle far s) := memWf_matLandings (memWf_matRows hs)

theorem outWf_execAccumulatorScrubError {pl} (hs : memWf s) : OutWf (execAccumulatorScrubError pl s) := by
  unfold execAccumulatorScrubError
  split
  · exact memWf_putTile hs
  · exact memWf_putBank hs

theorem memWf_mChecks_ok {p qw r} (hs : memWf s) (e : mChecks p qw s = .ok (t, r)) : memWf t := by
  unfold mChecks at e
  dsimp only at e
  split at e
  · cases e
  · cases e; exact memWf_reachAll hs

theorem memWf_mStart {p g l i} (hs : memWf s) : memWf (mStart p g l s i) :=
  memWf_matSettle (memWf_setMat (memWf_when memWf_noteAll (memWf_raceNote hs)))

theorem outWf_matWord {h plan} (hs : memWf s) : OutWf (matWord h plan s) := by
  refine memWf_issueState (fun s qw h => actWf_ite trivial ?_) (memWf_matSettle (memWf_genSettle hs))
  split
  · trivial
  · refine actWf_orAsk ?_ h
    split
    · trivial
    · next e => exact ⟨memWf_mChecks_ok h e, fun _ _ h => memWf_mStart h⟩

/-! ### Misses (`Machine/Miss`) -/

theorem outWf_execScheduleMiss {q} (hs : memWf s) : OutWf (execScheduleMiss q s) := by
  unfold execScheduleMiss
  dsimp only
  split
  · exact hs
  · exact outWf_ite hs (outWf_ite (memWf_issueProg (memWf_raise2 hs))
      (outWf_ite hs (memWf_issueProg (memWf_holdWord hs))))

/-! ### Register maps (`Machine/RegMap`) -/

theorem memWf_writeMg {o v} (hs : memWf s) : memWf (writeMg s o v) := by
  unfold writeMg
  split
  · exact memWf_same hs
  · exact memWf_same hs
  · exact hs

theorem memWf_writeMm {o v} (hs : memWf s) : memWf (writeMm s o v) := by
  unfold writeMm
  split
  · exact memWf_ite (memWf_rtRefuse hs) hs
  · exact memWf_setMm hs
  · exact memWf_ite (memWf_setMm hs) hs
  · exact memWf_setMm hs
  · exact memWf_setMm hs
  · exact memWf_setMm hs
  · exact hs

theorem memWf_writeRef {o v} (hs : memWf s) : memWf (writeRef s o v) := memWf_ite (memWf_same hs) hs

theorem memWf_writeBur {o v} (hs : memWf s) : memWf (writeBur s o v) := by
  unfold writeBur
  split
  · exact memWf_setBur hs
  · exact memWf_setBur hs
  · exact memWf_setBur hs
  · exact memWf_setBur hs
  · exact memWf_setBur hs
  · exact hs

theorem memWf_writeHost {o v} (hs : memWf s) : memWf (writeHost s o v) := by
  unfold writeHost
  split
  · exact memWf_ite (memWf_same hs) hs
  · split
    · exact memWf_ite (memWf_same hs) hs
    · split
      · exact memWf_ite hs (memWf_same hs)
      · exact memWf_same hs
      · exact memWf_same hs
      · exact memWf_same hs
      · exact memWf_same hs
      · exact hs

theorem memWf_writeVol {o v} (hs : memWf s) : memWf (writeVol s o v) := by
  unfold writeVol
  split
  · exact memWf_same hs
  · split
    · exact memWf_ite hs (memWf_same hs)
    · exact memWf_same hs
    · exact memWf_same hs
    · exact memWf_ite hs (memWf_same hs)
    · exact hs

theorem memWf_writePro {o v} (hs : memWf s) : memWf (writePro s o v) := by
  unfold writePro
  split
  · exact memWf_same hs
  · exact memWf_same hs
  · exact memWf_same hs
  · exact memWf_same hs
  · exact memWf_same hs
  · exact memWf_same hs
  · exact memWf_same hs
  · exact memWf_same hs
  · exact memWf_same hs
  · exact memWf_ite (memWf_same hs) hs
  · exact memWf_same hs
  · exact memWf_same hs
  · exact hs

theorem outWf_execRegisterWrite {off v} (hs : memWf s) : OutWf (execRegisterWrite off v s) := by
  unfold execRegisterWrite
  split
  · exact hs
  · split
    · exact memWf_writeMg hs
    · exact memWf_writeMm hs
    · exact memWf_writeRef hs
    · exact memWf_writeBur hs
    · exact memWf_writeHost hs
    · exact memWf_writeVol hs
    · exact memWf_writePro hs
    · exact memWf_ite (memWf_same hs) hs
    · exact hs

/-! ### Signal words (`Machine/VecSignal`) -/

theorem outWf_vecCx {lat srcs w f} (hs : memWf s) : OutWf (vecCx lat srcs w f s) := outWf_vecReg hs
theorem outWf_vecRed {α : Type} {srcs w} {r : RedOp α} (hs : memWf s) : OutWf (vecRed srcs w r s) := outWf_vecReg hs
theorem outWf_vecFred {mx w} (hs : memWf s) : OutWf (vecFred mx w s) := outWf_vecRed hs
theorem outWf_vecIred {f ident w} (hs : memWf s) : OutWf (vecIred f ident w s) := outWf_vecRed hs

/-! ### Every instruction (`Machine/Dispatch`) -/

theorem outWf_exec {i} (hs : memWf s) : OutWf (exec i s) := by
  unfold exec
  cases i with
  | add | sub | and_ | or_ | xor | sll | srl | sra | slt | sltu | min_ | max_ | minu | maxu => exact outWf_op2 hs
  | clz | ctz | popc | bswap | addi | ori | slli | srli | lsi | andi | xori | srai | slti | sltiu =>
    exact outWf_op1 hs
  | lui | lpc | lcrd | wrd | qstat | sget => exact memWf_conductState (fun _ h => effWf_adv (memWf_wx h)) hs
  | mul | div | mulh | mulhu | mulhsu | divu | rem | remu => exact outWf_op2Late hs
  | ldB | ldH | ldW | ldD | ldBu | ldHu | ldWu | ldS | ldAcq => exact outWf_loadForm hs
  | stB | stH | stW | stD | stS | stRel => exact outWf_storeForm hs
  | ldf | ldt | ste | stf | tclr => exact outWf_tagForm hs
  | tagrd | cas => exact outWf_memInstr hs
  | amoAdd | amoQadd | amoSwap | amoSmin | amoSmax | amoUmin | amoUmax | amoAnd | amoOr | amoXor =>
    exact outWf_amoForm hs
  | fenceAcq | fenceRel | fenceFull => exact outWf_fenceForm hs
  | beq | bne | blt | bge | bltu | bgeu => exact outWf_branch hs
  | join => exact memWf_conductState (fun _ h => effWf_ite h (effWf_adv h)) hs
  | jal => exact memWf_conductState (fun _ => memWf_wx) hs
  | jalr => exact memWf_conductState (fun _ h => effWf_ite h (memWf_wx h)) hs
  | jtab | wtmpl => exact memWf_conductState (fun _ h => effWf_ite h (effWf_sendMem h)) hs
  | loop => exact memWf_conductState (fun _ h => effWf_ite h (effWf_ite h (effWf_adv (memWf_setCst h)))) hs
  | rot | lcwr => exact memWf_conductState (fun _ h => effWf_adv (memWf_setCst h)) hs
  | psetEq | psetNe | psetLt | psetGe | psetLtu | psetGeu => exact outWf_setPred hs
  | pand | pmov | por | pxor | pandn => exact outWf_predOp hs
  | lbrk => exact memWf_conductState (fun _ h => effWf_ite (effWf_adv (memWf_setCst h)) h) hs
  | wins | wmov | wcpy => exact memWf_conductState (fun _ h => effWf_adv (memWf_setW h)) hs
  | tkpush => exact memWf_conductState (fun _ h => effWf_ite h (effWf_ite h (effWf_adv (memWf_setCC h)))) hs
  | tkpop => exact memWf_conductState (fun _ h => effWf_ite h (effWf_adv (memWf_setCC h))) hs
  | sset | scpy | sclr => exact memWf_conductState (fun _ h => effWf_adv (memWf_setStrm h)) hs
  | mark => exact memWf_conductState (fun _ h => effWf_ite (effWf_adv (memWf_setCC h)) (memWf_setCC h)) hs
  | start | ilock => exact outWf_switchForm hs
  | waitCyc | waitGtc => exact memWf_conductState (fun _ h => effWf_ite (effWf_adv h) h) hs
  | spawn => exact memWf_conductState (fun _ h => effWf_ite h (effWf_ite h (effWf_adv (memWf_setSn h)))) hs
  | exit =>
    exact memWf_conductState (fun _ h => effWf_ite (memWf_sayVerdict h)
      (effWf_ite (memWf_finishCheck (memWf_exitArrive (memWf_stopStrand h))) h)) hs
  | nop => exact memWf_conductState (fun _ => effWf_adv) hs
  | vnop | mnop | gnop | xnop => exact outWf_nullWord hs
  | vsplat | vxrd | vxclr | vmpopc => exact outWf_vecWord hs
  | vfadd | vfsub | vfmul => exact outWf_vecF2 hs
  | vfma | vfms | vfnma => exact outWf_vecF3 hs
  | vfdiv => exact outWf_vecC hs
  | vfsqrt | vfexp2 | vflog2 | vfrsqrt | vfrcp => exact outWf_vecC1 hs
  | vfmin | vfmax | vfabs | vfneg | vmad | vabs | vpopc | vsel | vclass => exact outWf_vecMap hs
  | vadd | vsub | vmul | vmulh | vmin | vmax => exact outWf_vecI2 hs
  | vand | vor | vxor => exact outWf_vecBit hs
  | vsll | vsrl | vsra => exact outWf_vecShift hs
  | vfcmp | vcmp => exact outWf_vecCmp hs
  | vmand | vmor | vmxor | vmnot => exact outWf_vecMask hs
  | vcvt | vcvti | vcvtf => exact outWf_vecCvt hs
  | vpack | vunpk => exact outWf_vecReg hs
  | vperm | vrot | vslide | vzip | vunzip | vbcast | vrevb => exact outWf_vecPerm hs
  | vcmul | vcmac | vconj | vbfly4 | vtwid => exact outWf_vecCx hs
  | vbfly2 => exact outWf_ite (outWf_vecCx hs) (outWf_vecCx hs)
  | vfsum | vfdot => exact outWf_vecRed hs
  | vfrmax | vfrmin => exact outWf_vecFred hs
  | vrsum | vrmax | vrmin => exact outWf_vecIred hs
  | vld | vst | vldf | vldt | vste | vstf | vgath | vscat | vldm | vstm => exact outWf_vecMem hs
  | mldb | mldbG | mldbp | mma | mmaG | mmap | mmapG | mmat | mmatG | mzero | manch | movclr | mtrap | mstat
    | mshift | mdrn | mdrnMx | madd | msave | mrest | mmov =>
    exact outWf_matWord hs
  | gseed | gscope | gkind | gorig | gparm | gdraw | gclr | gskip => exact outWf_genWord hs
  | gfreq | gload | gsave => exact outWf_genMem hs
  | gfill | gvec => exact outWf_fillWord hs
  | xcpy | xcpyc | xfill | xgath | xscat | xtab | xdec | xamo | xcas | xste | xstf | xldf | xtclr | xget
    | xput | xgetc | xputc | xbar | xseq =>
    exact outWf_copyWord hs
  | illegalCWord => exact outWf_conduct (fun _ h => h) hs
  | illegalEWord => exact memWf_issueState (fun _ _ h => trivial) hs
  | sqPoll | tornClear => exact outWf_ite (memWf_askRead (memWf_setSq hs)) hs
  | packetReread => exact outWf_ite (memWf_setSq hs) hs
  | msixCoalesceExpiry => exact outWf_ite (memWf_sendMsix (memWf_setRing hs)) hs
  | prologueLimit => exact outWf_ite (memWf_raise1 hs) hs
  | longLatencyResult => exact memWf_setSn hs
  | watchArm => exact outWf_conduct (fun _ => effWf_armWatch) hs
  | watchDisarm => exact outWf_conduct (fun _ h => effWf_adv (memWf_disarmWatch h)) hs
  | blockEnd => exact outWf_ite hs (memWf_setCC hs)
  | vectorWordCompletion => exact memWf_vecSettle hs
  | matrixLanding => exact memWf_matSettle hs
  | fillComplete => exact memWf_fillFinish hs
  | raceSampleReplace | cancel | atsInvalidation | ppsEdge | volleyLock | sideTableClear | attestRequest =>
    exact memWf_same hs
  | sqDoorbell => exact outWf_ite (memWf_askRead hs) hs
  | loadImage => exact memWf_loadImagePkt hs
  | submitGraph => exact outWf_ite (memWf_packetRecord hs) (outWf_ite hs (memWf_submitPkt hs))
  | wake => exact memWf_wakePkt hs
  | nopPacket => exact memWf_packetRecord hs
  | queueEnable => exact outWf_ite (memWf_enableSq hs) hs
  | queueDisable => exact outWf_ite (memWf_disableSq hs) hs
  | ringEnable => exact outWf_ite (memWf_enableRing hs) hs
  | ringDisable => exact outWf_ite (memWf_disableRing hs) hs
  | ringTailWrite => exact outWf_ite (memWf_flushRing (memWf_setRing hs)) hs
  | compatEnable =>
    exact outWf_ite (outWf_ite hs (memWf_drainOut (memWf_trapFlush (memWf_same hs))))
      (memWf_drainOut (memWf_trapFlush (memWf_same hs)))
  | prgResponse => exact outWf_ite (memWf_when (fun h => memWf_drainOut (memWf_trapFlush h)) (memWf_same hs)) hs
  | featureAbsentRepark =>
    exact outWf_ite (memWf_parkTask (memWf_setTask (memWf_foldl (fun _ _ => memWf_takeFeature) hs))) hs
  | agingTick => exact memWf_ageNow hs
  | dieFailure =>
    exact outWf_ite hs (memWf_reportMc3 (memWf_reportEvent
      (memWf_dropClusterTlbs (memWf_foldl (fun _ _ => memWf_failTask) (memWf_setBur hs)))))
  | bursarSample =>
    exact outWf_ite (memWf_evalSoon (memWf_setBur (memWf_raisePower
      (memWf_declareGrade (memWf_judgeBand (memWf_clampEvents (memWf_takeSample hs))))))) hs
  | imageSaved =>
    exact outWf_ite (memWf_evalSoon (memWf_when (fun h => memWf_releaseTask (memWf_setTask h)) (memWf_saveImage hs)))
      hs
  | selfRefreshEnter | selfRefreshExit | rtSwitchDrained | shootdownComplete => exact outWf_ite (memWf_setMm hs) hs
  | curveSubmit => exact outWf_ite (memWf_setBur hs) (memWf_same hs)
  | seqloWrite => exact outWf_ite hs (memWf_setBur hs)
  | bursarLock => exact memWf_setBur hs
  | rtCopy => exact outWf_ite (memWf_rtRefuse hs) (memWf_setMm hs)
  | rtActiveWrite => exact memWf_rtRefuse hs
  | rtShadowWrite => exact outWf_ite hs (outWf_ite (memWf_rtRefuse hs) (memWf_setMm hs))
  | partNextWrite => exact outWf_ite (memWf_setMm hs) (memWf_rtRefuse hs)
  | shootdownAll | shootdownAsn | shootdownRange => exact memWf_shootdown hs
  | hbmRetire | pseudoChannelFailure => exact memWf_retireChannel hs
  | walkComplete => exact outWf_ite hs (memWf_startWalks (memWf_foldl (fun _ _ => memWf_poolOver) hs))
  | disciplineSend => exact outWf_ite (memWf_sendDiscipline hs) hs
  | disciplineReceive => exact outWf_ite hs (memWf_same hs)
  | disciplineTimeout | railStale => exact outWf_ite (memWf_reportMc3 (memWf_same hs)) hs
  | ppsTimeout | firmwareCommit | railReading => exact outWf_ite (memWf_same hs) hs
  | linkDown | linkUp => exact memWf_setUp hs
  | reroute => exact outWf_ite hs (memWf_same (memWf_foldl (fun _ _ => memWf_writeSpa) hs))
  | destinationUnreachable => exact outWf_ite (memWf_foldl (fun _ _ => memWf_shedRun) (memWf_reportMc3 hs)) hs
  | stopNow => exact outWf_ite (memWf_setErr hs) (outWf_ite (memWf_setErr hs) (memWf_stopTask (memWf_setErr hs)))
  | stopAtCycle =>
    exact outWf_ite (memWf_setErr hs) (outWf_ite (outWf_ite (memWf_same hs) (memWf_stopTask (memWf_setErr hs)))
      (memWf_same hs))
  | stopResume => exact outWf_ite (memWf_setErr hs) (memWf_stopTrace (memWf_same hs))
  | stopCycleReached => exact outWf_ite (memWf_stopTask hs) hs
  | sideTableClearDone => exact outWf_ite (memWf_same (memWf_foldl (fun _ _ => memWf_clearValid) hs)) hs
  | mailboxMessage => exact outWf_ite hs (outWf_ite (memWf_same hs) (outWf_ite (memWf_same hs) hs))
  | trialExpiry => exact outWf_ite (memWf_boot hs) hs
  | coreWatchdog | deviceReset | powerOn | resetPin | thermalTrip => exact memWf_boot hs
  | dieReset => exact memWf_same (memWf_dropClusterTlbs hs)
  | ethernetDatagram =>
    exact outWf_ite hs (outWf_ite (outWf_ite (memWf_setBur hs) (memWf_same hs)) (outWf_ite (memWf_same hs) hs))
  | configurationWrite => exact memWf_when (fun h => memWf_drainOut (memWf_trapFlush h)) (memWf_same hs)
  | emit => exact outWf_execEmit hs
  | emitt => exact outWf_execEmitt hs
  | bar => exact outWf_execBar hs
  | crr => exact outWf_execCrr hs
  | fret => exact outWf_execFret hs
  | vmov => exact outWf_execVmov hs
  | waitTargetReached => exact outWf_execWaitTargetReached hs
  | watchTaken => exact outWf_execWatchTaken hs
  | taggedWaitTimeout => exact outWf_execTaggedWaitTimeout hs
  | memoryAccessPerformed => exact outWf_execMemoryAccessPerformed hs
  | scheduleMiss => exact outWf_execScheduleMiss hs
  | launchStart => exact outWf_execLaunchStart hs
  | vstepTransitionComplete => exact outWf_execVstepTransitionComplete hs
  | launchEnd => exact outWf_execLaunchEnd hs
  | faultStrandStart => exact outWf_execFaultStrandStart hs
  | vectorRemoteAccessDone => exact outWf_execVectorRemoteAccessDone hs
  | matrixCheckPoint => exact outWf_execMatrixCheckPoint hs
  | accumulatorScrubError => exact outWf_execAccumulatorScrubError hs
  | generatorWriteLanding => exact outWf_execGeneratorWriteLanding hs
  | fillElementWrite => exact outWf_execFillElementWrite hs
  | copyPiecePerformed => exact outWf_execCopyPiecePerformed hs
  | copyWordComplete => exact outWf_execCopyWordComplete hs
  | taggedResend => exact outWf_execTaggedResend hs
  | taggedOpArrival => exact outWf_execTaggedOpArrival hs
  | atomicAtPort => exact outWf_execAtomicAtPort hs
  | prologueStart => exact outWf_execPrologueStart hs
  | fabricArrivalMessage => exact outWf_execFabricArrivalMessage hs
  | fabricAbort => exact outWf_execFabricAbort hs
  | haltComplete => exact outWf_execHaltComplete hs
  | gatingTurn => exact outWf_execGatingTurn hs
  | dieUngated => exact outWf_execDieUngated hs
  | curveDecision => exact outWf_execCurveDecision hs
  | curveActivate => exact outWf_execCurveActivate hs
  | curveExpire => exact outWf_execCurveExpire hs
  | rtSwitch => exact outWf_execRtSwitch hs
  | foldDelivered => exact outWf_execFoldDelivered hs
  | volleyRequest => exact outWf_execVolleyRequest hs
  | volleyAck => exact outWf_execVolleyAck hs
  | managementMessage => exact outWf_execManagementMessage hs
  | waitOpenThreshold => exact outWf_execWaitOpenThreshold hs
  | watchStopFreeze => exact outWf_execWatchStopFreeze hs
  | debugRead => exact outWf_execDebugRead hs
  | debugWrite => exact outWf_execDebugWrite hs
  | recoveryCommit => exact outWf_execRecoveryCommit hs
  | dieSelfTestDone => exact outWf_execDieSelfTestDone hs
  | attestReport => exact outWf_execAttestReport hs
  | registerWrite => exact outWf_execRegisterWrite hs
  | instructionFetchFault => exact outWf_execInstructionFetchFault hs
  | crw => exact outWf_execCrw hs
  | yield => exact outWf_execYield hs
  | hostBarAccess => exact outWf_execHostBarAccess hs
  | freezeComplete => exact outWf_execFreezeComplete hs
  | restoreComplete => exact outWf_execRestoreComplete hs

/-! ### Turns and the default schedule (`Machine/Schedule`) -/

theorem memWf_prepIssue {c d n} (hs : memWf s) : memWf (prepIssue s c d n) := memWf_setCore (memWf_same hs)

theorem outWf_runFetched (hs : memWf s) : OutWf (runFetched s) := by
  unfold runFetched
  dsimp only
  split
  · exact memWf_waitFor hs
  · split
    · exact outWf_exec hs
    · split
      · exact memWf_waitFor (memWf_requestWalk hs)
      · split
        · exact outWf_exec hs
        · next e => exact memWf_sendFetch (memWf_farFetch e hs)
        · split
          · exact outWf_exec hs
          · next e => exact outWf_exec (memWf_fst e (memWf_fetchAt hs))

theorem outWf_issueTurn {c d} (hs : memWf s) : OutWf (issueTurn s c d) := by
  unfold issueTurn
  split
  · split
    · exact hs
    · exact outWf_runFetched (memWf_prepIssue hs)
  · exact hs

theorem outWf_engineRun {c q} (hs : memWf s) : OutWf (engineRun s c q) := outWf_ite (outWf_exec (memWf_same hs)) hs
theorem outWf_engineTurn {c q} (hs : memWf s) : OutWf (engineTurn s c q) := outWf_ite hs (outWf_engineRun hs)

theorem outWf_eventTurn {c i} (hs : memWf s) : OutWf (eventTurn s c i) :=
  outWf_ite hs (outWf_ite hs (outWf_exec (memWf_same hs)))

theorem outWf_settleStops (hs : memWf s) : OutWf (settleStops s) :=
  outWf_andThen (outWf_ite (outWf_exec hs) hs) (fun _ h => outWf_ite (outWf_exec h) h)

theorem outWf_runAll {f : State → Nat → Out} {l : List Nat} (hf : ∀ s a, memWf s → OutWf (f s a)) (hs : memWf s) :
    OutWf (runAll f l s) := by
  induction l generalizing s with
  | nil => exact hs
  | cons a l ih => exact outWf_andThen (hf s a hs) fun _ => ih

theorem outWf_runDue {c} (hs : memWf s) : OutWf (runDue s c) :=
  outWf_foldl (fun _ _ ho => outWf_andThen ho fun _ => outWf_eventTurn) hs

theorem outWf_timedTurns {c} (hs : memWf s) : OutWf (timedTurns s c) :=
  outWf_ite (outWf_foldl (fun _ _ ho => outWf_andThen ho fun _ => outWf_engineRun) hs) hs

theorem outWf_pointTurn {c} (hs : memWf s) : OutWf (pointTurn s c) :=
  outWf_ite (memWf_matPointsNow (memWf_same hs)) hs

theorem outWf_lastIssue {c} (hs : memWf s) : OutWf (lastIssue s c) := outWf_issueTurn hs

theorem outWf_tickTurn {k} (hs : memWf s) : OutWf (tickTurn s k) := by
  refine outWf_ite trivial (outWf_andThen (outWf_settleStops (memWf_same hs)) fun s1 h1 => outWf_ite ?_ h1)
  refine outWf_andThen (outWf_runAll (fun _ _ => outWf_lastIssue) h1) fun s2 h2 => ?_
  refine outWf_andThen (outWf_runAll (fun _ _ => outWf_timedTurns) h2) fun s3 h3 => ?_
  refine outWf_andThen (outWf_runAll (fun _ _ => outWf_pointTurn) h3) fun s4 h4 => ?_
  have h5 : memWf ((clusterCores s4 k).foldl deliverRecs s4) := memWf_foldl (fun _ _ => memWf_deliverRecs) h4
  exact outWf_andThen (outWf_settleStops (memWf_setCluster h5)) fun _ => outWf_runAll fun _ _ => outWf_runDue

theorem memWf_gtcStep (hs : memWf s) : memWf (gtcStep s) := memWf_ite (memWf_same hs) (memWf_same hs)
theorem memWf_shareClock (hs : memWf s) : memWf (shareClock s) := memWf_same hs

theorem memWf_refereeCycle (hs : memWf s) : memWf (refereeCycle s) :=
  memWf_fetchTurn (memWf_takeCancels (memWf_when memWf_evaluate
    (memWf_allotRestore (memWf_takeVerdicts (memWf_ageNow hs)))))

theorem memWf_endMoves (hs : memWf s) : memWf (endMoves s) := memWf_same hs

theorem outWf_hubTurn (hs : memWf s) : OutWf (hubTurn s) := by
  refine outWf_andThen (outWf_runAll (fun _ _ => outWf_lastIssue) (memWf_same hs)) fun s1 h1 => ?_
  extract_lets s2 r s3
  have h2 : memWf s2 := memWf_burSettle (memWf_parkedTurn (memWf_refereeCycle h1))
  clear_value s2
  have h3 : memWf s3 := memWf_endMoves (memWf_shareClock (memWf_gtcStep (memWf_same h2)))
  clear_value s3
  exact outWf_runAll (fun _ _ => outWf_runDue) h3

theorem outWf_runTurn {turn} (hs : memWf s) : OutWf (runTurn s turn) := by
  cases turn with
  | tick => exact outWf_tickTurn hs
  | hubTick => exact outWf_hubTurn hs
  | issue => exact outWf_ite (outWf_andThen (outWf_settleStops hs) (fun _ => outWf_issueTurn)) trivial
  | engine | engineLate =>
    exact outWf_ite (outWf_andThen (outWf_settleStops hs) fun _ h => outWf_engineTurn (memWf_same h)) trivial
  | hostMem => exact memWf_hostMem hs
  | temps => exact memWf_same hs
  | gtcStep => exact memWf_stepGtc hs
  | flashWrite => exact memWf_updateSlot hs
  | event | eventLate => exact outWf_ite (outWf_eventTurn (memWf_same hs)) trivial

theorem outWf_firstChange {l : List Turn} {o : Out} (hs : memWf s) (e : firstChange s l = some o) : OutWf o := by
  induction l with
  | nil => cases e
  | cons turn l ih =>
    have hr := outWf_runTurn (turn := turn) hs
    unfold firstChange at e
    split at e
    · next er =>
      split at e
      · exact ih e
      · cases e
        exact outWf_of_eq er hr
    · cases e
      exact hr

theorem outWf_defaultTurn (hs : memWf s) : OutWf (defaultTurn s) := by
  unfold defaultTurn
  split
  · next e => exact outWf_firstChange hs e
  · exact outWf_runTurn hs

/-! ### A step (`Machine/Step`) -/

theorem outWf_step (hs : memWf s) : OutWf (step s) := by
  unfold step
  split
  · exact outWf_runTurn (memWf_same hs)
  · exact outWf_defaultTurn hs

end

/-- Settles O59: a step that goes on answers a state, and `outWf_step` says that its memories are in canonical form. -/
theorem stepKeepsMemoryCanonical : Obligations.StepKeepsMemoryCanonical :=
  fun _ _ hs e => outWf_of_eq e (outWf_step hs)

end Sys2Proof.Machine
end

section
/-! SUPPORT. O39: what saturating addition, a strip of products and the tile words leave in a tile. A tile is read by key
(`elAt`, key 128 × row + column); a word's landing is a fold that changes the element of one key at a time, and
`foldl_visits` says what such a fold leaves: each key's element is the one its own visit left, and the marks (overflow
bits, status bit) only grow. -/

namespace Sys2Proof.Machine

open Sys2Proof Sys2Proof.Statements

/-! ### The range of a W128 integer -/

theorem accMin_le_accMax : accMin ≤ accMax := by decide

theorem toInt_ofInt_of_mem {v : Int} (h : accMin ≤ v) (h' : v ≤ accMax) : (BitVec.ofInt 128 v).toInt = v := by
  unfold accMin at h
  unfold accMax at h'
  exact BitVec.toInt_ofInt_eq_self (by decide) (by omega) (by omega)

theorem clampInt_of_mem {lo hi v : Int} (h : lo ≤ v) (h' : v ≤ hi) : clampInt lo hi v = v := by
  simp [clampInt, Int.not_lt.mpr h, Int.not_lt.mpr h']

theorem clampInt_of_lt {lo hi v : Int} (h : v < lo) : clampInt lo hi v = lo := if_pos h

theorem le_clampInt_and_clampInt_le {lo hi : Int} (v : Int) (h : lo ≤ hi) : lo ≤ clampInt lo hi v ∧ clampInt lo hi v ≤ hi := by
  unfold clampInt
  split
  · omega
  · split <;> omega

theorem clampInt_of_gt {lo hi v : Int} (hle : lo ≤ hi) (h : hi < v) : clampInt lo hi v = hi := by
  simp [clampInt, show ¬ v < lo by omega, h]

theorem accMin_le_clampInt (v : Int) : accMin ≤ clampInt accMin accMax v :=
  (le_clampInt_and_clampInt_le v accMin_le_accMax).1

theorem clampInt_le_accMax (v : Int) : clampInt accMin accMax v ≤ accMax :=
  (le_clampInt_and_clampInt_le v accMin_le_accMax).2

theorem roundMag_zero (md : Rm) (neg : Bool) (k : Nat) : roundMag md neg 0 k = (0, false) := by simp [roundMag]

/-- A zero is a zero at every anchor. -/
theorem toAnchor_zero (e a : Int) : toAnchor ⟨0, e⟩ a = 0 := by
  by_cases h : 0 ≤ e + -a
  · simp [toAnchor, Dy.roundInt, Dy.scale, h, shlInt]
  · simp [toAnchor, Dy.roundInt, Dy.scale, h, roundMag_zero]

/-! ### Elements by key -/

/-- The element that a tile keeps at key `k` (128 × row + column). -/
def elAt (T : Tile) (k : Nat) : Int := (tget 0 T.el k).toInt

theorem tileEl_eq_elAt (T : Tile) (i n : Nat) : tileEl T i n = elAt T (128 * i + n) := rfl

@[simp] theorem tileEl_div_mod (T : Tile) (k : Nat) : tileEl T (k / 128) (k % 128) = elAt T k := by
  rw [tileEl_eq_elAt, Nat.div_add_mod]

/-- Row and column of a key. -/
theorem exists_key {i n : Nat} (hn : n < 128) : ∃ k, i = k / 128 ∧ n = k % 128 := ⟨128 * i + n, by omega, by omega⟩

theorem key_ne {i n r m : Nat} (hn : n < 128) (hm : m < 128) (h : r ≠ i ∨ m ≠ n) : 128 * r + m ≠ 128 * i + n := by omega

theorem accMin_le_elAt (T : Tile) (k : Nat) : accMin ≤ elAt T k := by simpa [accMin, elAt] using BitVec.le_toInt (tget 0 T.el k)

theorem elAt_le_accMax (T : Tile) (k : Nat) : elAt T k ≤ accMax := by simpa [accMax, elAt] using BitVec.toInt_le (x := tget 0 T.el k)

/-- A key that no entry has reads 0. -/
theorem elAt_of_not_mem_tileKeys {T : Tile} {k : Nat} (h : k ∉ tileKeys T) : elAt T k = 0 := by
  simp only [tileKeys, List.mem_eraseDups] at h
  unfold elAt
  revert h
  induction T.el with
  | nil => exact fun _ => rfl
  | cons e t ih =>
    intro h
    simp only [List.map_cons, List.mem_cons, not_or] at h
    simpa [tget, h.1] using ih h.2

theorem nodup_eraseDups {α : Type} [BEq α] [LawfulBEq α] (l : List α) : l.eraseDups.Nodup := by
  match l with
  | [] => simp
  | a :: l =>
    rw [List.eraseDups_cons, List.nodup_cons]
    exact ⟨by simp [List.mem_eraseDups], nodup_eraseDups _⟩
termination_by l.length
decreasing_by exact Nat.lt_succ_of_le (List.length_filter_le ..)

theorem nodup_tileKeys (T : Tile) : (tileKeys T).Nodup := nodup_eraseDups _

theorem elAt_putEl_self (T : Tile) (i n : Nat) {v : Int} (h : accMin ≤ v) (h' : v ≤ accMax) :
    elAt (putEl T i n v) (128 * i + n) = v := by
  simp [elAt, putEl, tget_tput, toInt_ofInt_of_mem h h']

theorem elAt_putEl_ne (T : Tile) {i n k : Nat} (v : Int) (h : k ≠ 128 * i + n) : elAt (putEl T i n v) k = elAt T k := by
  simp [elAt, putEl, tget_tput, h]

@[simp] theorem elAt_markOvf (T : Tile) (i k : Nat) : elAt (markOvf T i) k = elAt T k := rfl

/-! ### Marks -/

/-- `U` has the anchor, the trap enable and the bad bits of `T`, and every mark of `T`. -/
structure KeepsMarks (T U : Tile) : Prop where
  anch : U.anch = T.anch
  te : U.te = T.te
  bad : U.bad = T.bad
  ovf : ∀ r, T.ovf.getLsbD r = true → U.ovf.getLsbD r = true
  st : T.st = true → U.st = true

/-- `U` has the anchor and the marks of `T`, but for overflow bits of `m`. -/
structure SameMarks (m : BitVec 128) (T U : Tile) : Prop where
  anch : U.anch = T.anch
  ovf : U.ovf ||| m = T.ovf ||| m
  st : U.st = T.st

theorem KeepsMarks.refl (T : Tile) : KeepsMarks T T := ⟨rfl, rfl, rfl, fun _ h => h, fun h => h⟩

theorem KeepsMarks.trans {T U V : Tile} (h : KeepsMarks T U) (h' : KeepsMarks U V) : KeepsMarks T V :=
  ⟨h'.anch.trans h.anch, h'.te.trans h.te, h'.bad.trans h.bad, fun r hr => h'.ovf r (h.ovf r hr), fun hs => h'.st (h.st hs)⟩

theorem SameMarks.refl (m : BitVec 128) (T : Tile) : SameMarks m T T := ⟨rfl, rfl, rfl⟩

theorem SameMarks.trans {m : BitVec 128} {T U V : Tile} (h : SameMarks m T U) (h' : SameMarks m U V) : SameMarks m T V :=
  ⟨h'.anch.trans h.anch, h'.ovf.trans h.ovf, h'.st.trans h.st⟩

theorem SameMarks.ovf_eq {T U : Tile} (h : SameMarks 0 T U) : U.ovf = T.ovf := by simpa using h.ovf

theorem keepsMarks_putEl (T : Tile) (i n : Nat) (v : Int) : KeepsMarks T (putEl T i n v) :=
  ⟨rfl, rfl, rfl, fun _ h => h, fun h => h⟩

theorem sameMarks_putEl (m : BitVec 128) (T : Tile) (i n : Nat) (v : Int) : SameMarks m T (putEl T i n v) := ⟨rfl, rfl, rfl⟩

theorem keepsMarks_markOvf (T : Tile) (i : Nat) : KeepsMarks T (markOvf T i) :=
  ⟨rfl, rfl, rfl, fun r h => by simp [markOvf, h], fun _ => rfl⟩

theorem getLsbD_ovf_markOvf (T : Tile) {i : Nat} (hi : i < 128) : (markOvf T i).ovf.getLsbD i = true := by
  simp [markOvf, hi]

/-! ### Saturating stores and additions (R127) -/

theorem putSat_of_mem {T : Tile} {i n : Nat} {v : Int} (h : accMin ≤ v) (h' : v ≤ accMax) : putSat T i n v = putEl T i n v := by
  simp [putSat, clampInt_of_mem h h']

theorem putSat_of_lt {T : Tile} {i n : Nat} {v : Int} (h : v < accMin) : putSat T i n v = markOvf (putEl T i n accMin) i := by
  simp [putSat, clampInt_of_lt h, show accMin ≠ v by omega]

theorem putSat_of_gt {T : Tile} {i n : Nat} {v : Int} (h : accMax < v) : putSat T i n v = markOvf (putEl T i n accMax) i := by
  simp [putSat, clampInt_of_gt accMin_le_accMax h, show accMax ≠ v by omega]

/-- A saturating store is a store of the nearest W128 integer, with or without a mark. -/
theorem putSat_eq (T : Tile) (i n : Nat) (v : Int) : putSat T i n v = putEl T i n (clampInt accMin accMax v)
    ∨ putSat T i n v = markOvf (putEl T i n (clampInt accMin accMax v)) i := by
  by_cases h : clampInt accMin accMax v = v
  · exact .inl (by simp [putSat, h])
  · exact .inr (by simp [putSat, h])

theorem tileEl_putSat (T : Tile) (i n : Nat) (v : Int) : tileEl (putSat T i n v) i n = clampInt accMin accMax v := by
  have hput := elAt_putEl_self T i n (accMin_le_clampInt v) (clampInt_le_accMax v)
  rcases putSat_eq T i n v with e | e
  · rw [e]; exact hput
  · rw [e]; exact hput

theorem elAt_putSat_ne (T : Tile) {i n k : Nat} (v : Int) (h : k ≠ 128 * i + n) : elAt (putSat T i n v) k = elAt T k := by
  rcases putSat_eq T i n v with e | e
  · rw [e, elAt_putEl_ne T _ h]
  · rw [e, elAt_markOvf, elAt_putEl_ne T _ h]

theorem keepsMarks_putSat (T : Tile) (i n : Nat) (v : Int) : KeepsMarks T (putSat T i n v) := by
  rcases putSat_eq T i n v with e | e
  · rw [e]; exact keepsMarks_putEl ..
  · rw [e]; exact (keepsMarks_putEl ..).trans (keepsMarks_markOvf ..)

theorem takesClamped_putSat (T : Tile) {i : Nat} (n : Nat) (v : Int) (hi : i < 128) : takesClamped (putSat T i n v) i n v := by
  refine ⟨fun h h' => ?_, fun h => ⟨?_, ?_, ?_⟩, fun h => ⟨?_, ?_, ?_⟩⟩
  · rw [tileEl_putSat, clampInt_of_mem h h']
  · rw [tileEl_putSat, clampInt_of_lt h]
  · rw [putSat_of_lt h]; exact getLsbD_ovf_markOvf _ hi
  · rw [putSat_of_lt h]; rfl
  · rw [tileEl_putSat, clampInt_of_gt accMin_le_accMax h]
  · rw [putSat_of_gt h]; exact getLsbD_ovf_markOvf _ hi
  · rw [putSat_of_gt h]; rfl

/-- What an element took it keeps while its value and the marks stay. -/
theorem takesClamped_of_keepsMarks {U V : Tile} {i n : Nat} {v : Int} (h : takesClamped U i n v)
    (hel : tileEl V i n = tileEl U i n) (hm : KeepsMarks U V) : takesClamped V i n v := by
  obtain ⟨hin, hlo, hhi⟩ := h
  refine ⟨fun h h' => hel.trans (hin h h'), fun h => ?_, fun h => ?_⟩
  · obtain ⟨he, ho, hs⟩ := hlo h
    exact ⟨hel.trans he, hm.ovf i ho, hm.st hs⟩
  · obtain ⟨he, ho, hs⟩ := hhi h
    exact ⟨hel.trans he, hm.ovf i ho, hm.st hs⟩

/-- An element that stays takes its own value: it is a W128 integer. -/
theorem takesClamped_of_eq {U : Tile} {i n : Nat} {v : Int} (h : tileEl U i n = v) : takesClamped U i n v := by
  have hlo := accMin_le_elAt U (128 * i + n)
  have hhi := elAt_le_accMax U (128 * i + n)
  rw [← tileEl_eq_elAt, h] at hlo hhi
  exact ⟨fun _ _ => h, fun h => by omega, fun h => by omega⟩

theorem heldEl_eq_true {T : Tile} {i : Nat} {x : Int} (ho : T.ovf.getLsbD i = true) (hx : x = accMin ∨ x = accMax) :
    heldEl T i x = true := by simp [heldEl, ho, hx]

theorem heldEl_eq_false {T : Tile} {i : Nat} {x : Int} (h : T.ovf.getLsbD i = false ∨ (x ≠ accMin ∧ x ≠ accMax)) :
    heldEl T i x = false := by
  rcases h with ho | hx
  · simp [heldEl, ho]
  · simp [heldEl, hx]

theorem satAddEl_of_held {T : Tile} {i n : Nat} {q : Int} (h : heldEl T i (tileEl T i n) = true) : satAddEl T i n q = T := by
  simp [satAddEl, h]

theorem satAddEl_of_not_held {T : Tile} {i n : Nat} {q : Int} (h : heldEl T i (tileEl T i n) = false) :
    satAddEl T i n q = putSat T i n (tileEl T i n + q) := by
  simp [satAddEl, h]

theorem satAddEl_eq (T : Tile) (i n : Nat) (q : Int) :
    satAddEl T i n q = T ∨ satAddEl T i n q = putSat T i n (tileEl T i n + q) := by
  cases h : heldEl T i (tileEl T i n) with
  | true => exact .inl (satAddEl_of_held h)
  | false => exact .inr (satAddEl_of_not_held h)

theorem elAt_satAddEl_ne (T : Tile) {i n k : Nat} (q : Int) (h : k ≠ 128 * i + n) : elAt (satAddEl T i n q) k = elAt T k := by
  rcases satAddEl_eq T i n q with e | e
  · rw [e]
  · rw [e, elAt_putSat_ne T _ h]

theorem keepsMarks_satAddEl (T : Tile) (i n : Nat) (q : Int) : KeepsMarks T (satAddEl T i n q) := by
  rcases satAddEl_eq T i n q with e | e
  · rw [e]; exact .refl T
  · rw [e]; exact keepsMarks_putSat ..

/-- An addition that stays in range changes no mark. -/
theorem sameMarks_satAddEl (m : BitVec 128) {T : Tile} {i n : Nat} {q : Int} (h : accMin ≤ tileEl T i n + q)
    (h' : tileEl T i n + q ≤ accMax) : SameMarks m T (satAddEl T i n q) := by
  rcases satAddEl_eq T i n q with e | e
  · rw [e]; exact .refl m T
  · rw [e, putSat_of_mem h h']; exact sameMarks_putEl ..

theorem saturatingAdditionHoldsAndMarks : SaturatingAdditionHoldsAndMarks := by
  intro T i n q hi hn x U
  have hkeep := keepsMarks_satAddEl T i n q
  refine ⟨fun ho hx => satAddEl_of_held (heldEl_eq_true ho hx), fun hfree => ?_,
    fun r m hm h => elAt_satAddEl_ne T q (key_ne hn hm h), hkeep.anch, hkeep.te, hkeep.bad⟩
  have hU : U = putSat T i n (x + q) := satAddEl_of_not_held (heldEl_eq_false hfree)
  have hel : tileEl U i n = clampInt accMin accMax (x + q) := hU ▸ tileEl_putSat T i n (x + q)
  refine ⟨fun h h' => ?_, fun h => ?_, fun h => ?_⟩
  · rw [hel, clampInt_of_mem h h', hU, putSat_of_mem h h']
    exact ⟨rfl, rfl, rfl⟩
  · rw [hel, clampInt_of_lt h, hU, putSat_of_lt h]
    exact ⟨rfl, rfl, rfl⟩
  · rw [hel, clampInt_of_gt accMin_le_accMax h, hU, putSat_of_gt h]
    exact ⟨rfl, rfl, rfl⟩

/-! ### A fold that visits each key once -/

/-- What a fold of `f` over the indices `ks` leaves in the tile `V`, from `T` on, where the step at `j` changes the element
at `key j` alone: `R` holds from start to end, a key that is not visited keeps its element, and a visited one has at the
end what its visit left, in a tile that stood between start and end. -/
structure Visits (R : Tile → Tile → Prop) (key : Nat → Nat) (f : Tile → Nat → Tile) (ks : List Nat) (T V : Tile) : Prop where
  rel : R T V
  rest : ∀ k, (∀ j ∈ ks, k ≠ key j) → elAt V k = elAt T k
  visit : ∀ j ∈ ks, ∃ U, R T U ∧ elAt U (key j) = elAt T (key j) ∧ R (f U j) V ∧ elAt V (key j) = elAt (f U j) (key j)

/-- A fold over distinct indices visits each key once, for every preorder (`KeepsMarks`, `SameMarks`) that a visit to an
element still at its first value keeps. -/
theorem foldl_visits {f : Tile → Nat → Tile} {key : Nat → Nat} (hkey : Function.Injective key) {R : Tile → Tile → Prop}
    (refl : ∀ T, R T T) (trans : ∀ {T U V}, R T U → R U V → R T V) (other : ∀ U j k, k ≠ key j → elAt (f U j) k = elAt U k)
    {ks : List Nat} (hks : ks.Nodup) :
    ∀ T, (∀ U, ∀ j ∈ ks, R T U → elAt U (key j) = elAt T (key j) → R U (f U j)) →
      Visits R key f ks T (ks.foldl f T) := by
  induction ks with
  | nil => exact fun T _ => ⟨refl T, fun _ _ => rfl, fun _ h => nomatch h⟩
  | cons j ks ih =>
    intro T step
    obtain ⟨hj, hks⟩ := List.nodup_cons.mp hks
    have hne : ∀ i ∈ ks, key i ≠ key j := fun i hi e => hj (hkey e ▸ hi)
    have hfirst : R T (f T j) := step T j List.mem_cons_self (refl T) rfl
    obtain ⟨hR, hrest, hvisit⟩ := ih hks (f T j) fun U i hi hU e =>
      step U i (List.mem_cons_of_mem _ hi) (trans hfirst hU) (e.trans (other T j _ (hne i hi)))
    refine ⟨trans hfirst hR, fun k hk => ?_, fun i hi => ?_⟩
    · have hk' := List.forall_mem_cons.mp hk
      exact (hrest k hk'.2).trans (other T j k hk'.1)
    · rcases List.mem_cons.mp hi with rfl | hi
      · exact ⟨T, refl T, rfl, hR, hrest _ fun i' hi' => (hne i' hi').symm⟩
      · obtain ⟨U, hU, e, hend⟩ := hvisit i hi
        exact ⟨U, trans hfirst hU, e.trans (other T j _ (hne i hi)), hend⟩

/-! ### A strip of products (R126, R326) -/

/-- The landing of the values `vs` on one element, in order, each taken to the tile's anchor. -/
def landValues (i n : Nat) (vs : List Dy) (T : Tile) : Tile := vs.foldl (fun T v => satAddEl T i n (toAnchor v T.anch.toInt)) T

/-- A strip of products lands column by column. -/
theorem mulStrip_eq (f : Fmt) (sgeo : BitVec 2) (K : Nat) (B : Bank) (i : Nat) (codes : List Nat) (T : Tile) :
    mulStrip f sgeo K B i codes T = (List.range 128).foldl (fun T n => landValues i n
      (contribs K (if sgeo = 3 ∨ B.sgeo = 3 then 32 else 128) (prodFmt f || prodFmt (fmtD B.fmt))
        (fun k => realCode f (codes.getD k 0)) (fun k => realCode (fmtD B.fmt) (bankCode B k n)) (scaleAt sgeo (codes.drop K))
        (fun k => bankScale B k n)) T) T := rfl

theorem elAt_landValues_ne {i n k : Nat} (h : k ≠ 128 * i + n) (vs : List Dy) :
    ∀ T, elAt (landValues i n vs T) k = elAt T k := by
  induction vs with
  | nil => exact fun _ => rfl
  | cons v vs ih => exact fun T => (ih _).trans (elAt_satAddEl_ne T _ h)

/-- Values whose running sum stays in range add up exactly, and mark nothing. -/
theorem landValues_exact {i n : Nat} {a : Int} {vs : List Dy} : ∀ {T : Tile}, T.anch.toInt = a → T.ovf.getLsbD i = false →
    (∀ j, accMin ≤ tileEl T i n + ((vs.map (toAnchor · a)).take j).sum
      ∧ tileEl T i n + ((vs.map (toAnchor · a)).take j).sum ≤ accMax) →
    tileEl (landValues i n vs T) i n = tileEl T i n + (vs.map (toAnchor · a)).sum ∧ SameMarks 0 T (landValues i n vs T) := by
  induction vs with
  | nil => exact fun _ _ _ => ⟨(Int.add_zero _).symm, .refl 0 _⟩
  | cons v vs ih =>
    intro T ha ho hsum
    subst ha
    have hv : accMin ≤ tileEl T i n + toAnchor v T.anch.toInt ∧ tileEl T i n + toAnchor v T.anch.toInt ≤ accMax := by
      simpa using hsum 1
    have hmarks : SameMarks 0 T (satAddEl T i n (toAnchor v T.anch.toInt)) := sameMarks_satAddEl 0 hv.1 hv.2
    have hel : tileEl (satAddEl T i n (toAnchor v T.anch.toInt)) i n = tileEl T i n + toAnchor v T.anch.toInt := by
      rw [satAddEl_of_not_held (heldEl_eq_false (.inl ho)), putSat_of_mem hv.1 hv.2]
      exact elAt_putEl_self T i n hv.1 hv.2
    obtain ⟨he, hm⟩ := ih (congrArg BitVec.toInt hmarks.anch) (by rw [hmarks.ovf_eq]; exact ho) fun j => by
      simpa [hel, Int.add_assoc] using hsum (j + 1)
    refine ⟨?_, hmarks.trans hm⟩
    simpa [landValues, hel, Int.add_assoc] using he

theorem multiplyAddsItsProductsAtTheAnchor : MultiplyAddsItsProductsAtTheAnchor := by
  intro f sgeo K B i codes T hi ho bf q hsum U
  obtain ⟨hmarks, hrest, hvisit⟩ := foldl_visits (key := fun n => 128 * i + n) (fun _ _ e => Nat.add_left_cancel e)
    (SameMarks.refl 0) SameMarks.trans (fun U n k hk => elAt_landValues_ne hk _ U) List.nodup_range T
    fun U n hn hU e => (landValues_exact (congrArg BitVec.toInt hU.anch) (by rw [hU.ovf_eq]; exact ho) fun j => by
      rw [tileEl_eq_elAt, e]
      exact hsum n j (List.mem_range.mp hn)).2
  rw [← mulStrip_eq] at hmarks hrest hvisit
  refine ⟨fun n hn => ?_, fun r n hr hn => hrest _ fun j hj => ?_, hmarks.ovf_eq, hmarks.st, hmarks.anch⟩
  · obtain ⟨V, hV, e, -, hend⟩ := hvisit n (List.mem_range.mpr hn)
    have hexact := (landValues_exact (congrArg BitVec.toInt hV.anch) (by rw [hV.ovf_eq]; exact ho) fun j => by
      rw [tileEl_eq_elAt, e]
      exact hsum n j hn).1
    rw [tileEl_eq_elAt V, e] at hexact
    exact hend.trans hexact
  · exact key_ne (List.mem_range.mp hj) hn (.inl hr)

/-! ### mshift (R330) -/

/-- What mshift does to the element at key `k` of the tile `U`, from its first value in `T`. -/
def shiftEl (T : Tile) (a : BitVec 10) (U : Tile) (k : Nat) : Tile :=
  if heldEl U (k / 128) (elAt T k) then U else putSat U (k / 128) (k % 128) (toAnchor ⟨elAt T k, T.anch.toInt⟩ a.toInt)

theorem shiftTile_eq (T : Tile) (a : BitVec 10) : shiftTile T a = { (tileKeys T).foldl (shiftEl T a) T with anch := a } := by
  simp only [shiftTile, tileEl_div_mod]
  rfl

theorem elAt_shiftEl_ne (T : Tile) (a : BitVec 10) (U : Tile) (j k : Nat) (h : k ≠ j) : elAt (shiftEl T a U j) k = elAt U k := by
  unfold shiftEl
  split
  · rfl
  · exact elAt_putSat_ne U _ (by rwa [Nat.div_add_mod])

theorem keepsMarks_shiftEl (T : Tile) (a : BitVec 10) (U : Tile) (k : Nat) : KeepsMarks U (shiftEl T a U k) := by
  unfold shiftEl
  split
  · exact .refl U
  · exact keepsMarks_putSat ..

theorem shiftEl_of_held {T U : Tile} {a : BitVec 10} {k : Nat} (h : heldEl U (k / 128) (elAt T k) = true) :
    shiftEl T a U k = U := by
  simp [shiftEl, h]

theorem shiftEl_of_not_held {T U : Tile} {a : BitVec 10} {k : Nat} (h : heldEl U (k / 128) (elAt T k) = false) :
    shiftEl T a U k = putSat U (k / 128) (k % 128) (toAnchor ⟨elAt T k, T.anch.toInt⟩ a.toInt) := by
  simp [shiftEl, h]

section
variable (T : Tile) (a : BitVec 10)

/-- The fold of mshift keeps every mark, leaves what is not listed, and leaves of a listed element what its visit left. -/
theorem foldl_shiftEl_visits : Visits KeepsMarks id (shiftEl T a) (tileKeys T) T ((tileKeys T).foldl (shiftEl T a) T) :=
  foldl_visits Function.injective_id KeepsMarks.refl KeepsMarks.trans (elAt_shiftEl_ne T a)
    (nodup_tileKeys T) T fun U j _ _ _ => keepsMarks_shiftEl T a U j

theorem keepsMarks_shiftTile : KeepsMarks { T with anch := a } (shiftTile T a) := by
  obtain ⟨hkeep, -, -⟩ := foldl_shiftEl_visits T a
  rw [shiftTile_eq]
  exact ⟨rfl, hkeep.te, hkeep.bad, hkeep.ovf, hkeep.st⟩

theorem takesClamped_shiftTile_iff {i n : Nat} {v : Int} :
    takesClamped (shiftTile T a) i n v ↔ takesClamped ((tileKeys T).foldl (shiftEl T a) T) i n v := by
  rw [shiftTile_eq]
  rfl

theorem takesClamped_shiftTile {k : Nat} (hk : k / 128 < 128) (hx : elAt T k ≠ accMin ∧ elAt T k ≠ accMax) :
    takesClamped (shiftTile T a) (k / 128) (k % 128) (toAnchor ⟨elAt T k, T.anch.toInt⟩ a.toInt) := by
  obtain ⟨-, hrest, hvisit⟩ := foldl_shiftEl_visits T a
  rw [takesClamped_shiftTile_iff]
  by_cases hmem : k ∈ tileKeys T
  · obtain ⟨U, -, -, hend, hel⟩ := hvisit k hmem
    rw [shiftEl_of_not_held (heldEl_eq_false (.inr hx))] at hend hel
    exact takesClamped_of_keepsMarks (takesClamped_putSat U _ _ hk) (by simpa using hel) hend
  · have hzero := elAt_of_not_mem_tileKeys hmem
    have hel := hrest k fun j hj e => hmem (e ▸ hj)
    rw [hzero, toAnchor_zero]
    exact takesClamped_of_eq ((tileEl_div_mod _ k).trans (hel.trans hzero))

theorem elAt_shiftTile_of_held {k : Nat} (ho : T.ovf.getLsbD (k / 128) = true) (hx : elAt T k = accMin ∨ elAt T k = accMax) :
    elAt (shiftTile T a) k = elAt T k := by
  obtain ⟨-, hrest, hvisit⟩ := foldl_shiftEl_visits T a
  rw [shiftTile_eq]
  by_cases hmem : k ∈ tileKeys T
  · obtain ⟨U, hU, hfirst, -, hel⟩ := hvisit k hmem
    rw [shiftEl_of_held (heldEl_eq_true (hU.ovf _ ho) hx)] at hel
    exact hel.trans hfirst
  · exact hrest k fun j hj e => hmem (e ▸ hj)

/-- Where no row is marked and every element fits, mshift shifts each and marks nothing. -/
theorem shiftTile_exact (ho : T.ovf = 0) (hfit : ∀ k, accMin ≤ toAnchor ⟨elAt T k, T.anch.toInt⟩ a.toInt
    ∧ toAnchor ⟨elAt T k, T.anch.toInt⟩ a.toInt ≤ accMax) :
    (∀ k, elAt (shiftTile T a) k = toAnchor ⟨elAt T k, T.anch.toInt⟩ a.toInt)
    ∧ (shiftTile T a).ovf = 0 ∧ (shiftTile T a).st = T.st := by
  have hfree {U : Tile} (hU : SameMarks 0 T U) (k : Nat) : shiftEl T a U k
      = putEl U (k / 128) (k % 128) (toAnchor ⟨elAt T k, T.anch.toInt⟩ a.toInt) := by
    rw [shiftEl_of_not_held (heldEl_eq_false (.inl (by simp [hU.ovf_eq, ho]))), putSat_of_mem (hfit k).1 (hfit k).2]
  obtain ⟨hmarks, hrest, hvisit⟩ := foldl_visits Function.injective_id (SameMarks.refl 0) SameMarks.trans
    (elAt_shiftEl_ne T a) (nodup_tileKeys T) T fun U j _ hU _ => hfree hU j ▸ sameMarks_putEl ..
  rw [shiftTile_eq]
  refine ⟨fun k => ?_, hmarks.ovf_eq.trans ho, hmarks.st⟩
  by_cases hmem : k ∈ tileKeys T
  · obtain ⟨U, hU, -, -, hel⟩ := hvisit k hmem
    rw [hfree hU, id_eq, ← tileEl_div_mod (putEl ..)] at hel
    exact hel.trans (elAt_putEl_self U _ _ (hfit k).1 (hfit k).2)
  · have hzero := elAt_of_not_mem_tileKeys hmem
    rw [hzero, toAnchor_zero]
    exact (hrest k fun j hj e => hmem (e ▸ hj)).trans hzero

end

/-! ### madd (R330) -/

theorem keepsMarks_orOvf (T S : Tile) (i : Nat) : KeepsMarks T (orOvf T S i) := by
  unfold orOvf
  split
  · exact ⟨rfl, rfl, rfl, fun r h => by simp [h], fun h => h⟩
  · exact .refl T

/-- The overflow bit that a row takes from the added tile is one of that tile's. -/
theorem sameMarks_orOvf (T S : Tile) (i : Nat) : SameMarks S.ovf T (orOvf T S i) := by
  unfold orOvf
  split
  · next h =>
    refine ⟨rfl, ?_, rfl⟩
    ext r hr
    by_cases hS : S.ovf[r] = true
    · simp [hS]
    · have hne : r ≠ i := fun e => hS (by simpa [e ▸ hr, BitVec.getLsbD_eq_getElem, e] using h)
      simp [hS]
      omega
  · exact .refl _ T

theorem elAt_orOvf (T S : Tile) (i k : Nat) : elAt (orOvf T S i) k = elAt T k := by
  unfold orOvf
  split <;> rfl

/-- What madd adds to the element at key `k` before it saturates: the added tile's element at the target's anchor. -/
def addend (D S : Tile) (k : Nat) : Int := toAnchor ⟨elAt S k, S.anch.toInt⟩ D.anch.toInt

/-- The marks that madd sets in `U` before it adds at key `k`: the added tile's overflow bit of the row, and that of an
addend which saturates. -/
def addMarks (D S U : Tile) (k : Nat) : Tile :=
  let V := if k % 128 = 0 then U else orOvf U S (k / 128)
  if clampInt accMin accMax (addend D S k) = addend D S k then V else markOvf V (k / 128)

theorem addElem_eq (D S U : Tile) (k : Nat) :
    addElem D S U k = satAddEl (addMarks D S U k) (k / 128) (k % 128) (clampInt accMin accMax (addend D S k)) := by
  simp only [addElem, tileEl_div_mod]
  rfl

theorem addTile_eq (D S : Tile) : addTile D S = { (tileKeys S).foldl (addElem D S) D with
    ovf := ((tileKeys S).foldl (addElem D S) D).ovf ||| S.ovf, st := ((tileKeys S).foldl (addElem D S) D).st || S.st } := rfl

theorem addend_of_not_mem_tileKeys {D S : Tile} {k : Nat} (h : k ∉ tileKeys S) : addend D S k = 0 := by
  rw [addend, elAt_of_not_mem_tileKeys h, toAnchor_zero]

theorem clampInt_zero : clampInt accMin accMax 0 = 0 := by decide

section
variable (D S : Tile)

@[simp] theorem elAt_addMarks (U : Tile) (k j : Nat) : elAt (addMarks D S U k) j = elAt U j := by
  have hrow : elAt (if k % 128 = 0 then U else orOvf U S (k / 128)) j = elAt U j := by
    split
    · rfl
    · exact elAt_orOvf ..
  simp only [addMarks]
  split
  · exact hrow
  · exact (elAt_markOvf ..).trans hrow

theorem keepsMarks_addMarks (U : Tile) (k : Nat) : KeepsMarks U (addMarks D S U k) := by
  have hrow : KeepsMarks U (if k % 128 = 0 then U else orOvf U S (k / 128)) := by
    split
    · exact .refl U
    · exact keepsMarks_orOvf ..
  unfold addMarks
  simp only
  split
  · exact hrow
  · exact hrow.trans (keepsMarks_markOvf ..)

theorem sameMarks_addMarks (U : Tile) {k : Nat} (h : accMin ≤ addend D S k) (h' : addend D S k ≤ accMax) :
    SameMarks S.ovf U (addMarks D S U k) := by
  simp only [addMarks, clampInt_of_mem h h', if_true]
  split
  · exact .refl _ U
  · exact sameMarks_orOvf ..

/-- An addend that saturates marks its row and the tile. -/
theorem addMarks_of_saturates (U : Tile) {k : Nat} (hk : k / 128 < 128) (h : addend D S k < accMin ∨ accMax < addend D S k) :
    (addMarks D S U k).ovf.getLsbD (k / 128) = true ∧ (addMarks D S U k).st = true := by
  have hne : clampInt accMin accMax (addend D S k) ≠ addend D S k := by
    have := accMin_le_clampInt (addend D S k)
    have := clampInt_le_accMax (addend D S k)
    omega
  simp only [addMarks, if_neg hne]
  exact ⟨getLsbD_ovf_markOvf _ hk, rfl⟩

theorem elAt_addElem_ne (U : Tile) (j k : Nat) (h : k ≠ j) : elAt (addElem D S U j) k = elAt U k := by
  rw [addElem_eq, elAt_satAddEl_ne _ _ (by rwa [Nat.div_add_mod]), elAt_addMarks]

theorem keepsMarks_addMarks_addElem (U : Tile) (k : Nat) : KeepsMarks (addMarks D S U k) (addElem D S U k) :=
  addElem_eq D S U k ▸ keepsMarks_satAddEl ..

theorem keepsMarks_addElem (U : Tile) (k : Nat) : KeepsMarks U (addElem D S U k) :=
  (keepsMarks_addMarks D S U k).trans (keepsMarks_addMarks_addElem D S U k)

/-- The fold of madd keeps every mark, leaves what the added tile does not list, and leaves of a listed element what its
visit left. -/
theorem foldl_addElem_visits : Visits KeepsMarks id (addElem D S) (tileKeys S) D ((tileKeys S).foldl (addElem D S) D) :=
  foldl_visits Function.injective_id KeepsMarks.refl KeepsMarks.trans (elAt_addElem_ne D S)
    (nodup_tileKeys S) D fun U j _ _ _ => keepsMarks_addElem D S U j

theorem keepsMarks_foldl_addTile : KeepsMarks ((tileKeys S).foldl (addElem D S) D) (addTile D S) := by
  rw [addTile_eq]
  exact ⟨rfl, rfl, rfl, fun r h => by simp [h], fun h => by simp [h]⟩

theorem keepsMarks_addTile : KeepsMarks D (addTile D S) :=
  (foldl_addElem_visits D S).rel.trans (keepsMarks_foldl_addTile D S)

theorem elAt_addTile (k : Nat) : elAt (addTile D S) k = elAt ((tileKeys S).foldl (addElem D S) D) k := rfl

theorem takesClamped_addTile {k : Nat} (hk : k / 128 < 128) (hx : elAt D k ≠ accMin ∧ elAt D k ≠ accMax) :
    takesClamped (addTile D S) (k / 128) (k % 128) (elAt D k + clampInt accMin accMax (addend D S k)) := by
  obtain ⟨-, hrest, hvisit⟩ := foldl_addElem_visits D S
  by_cases hmem : k ∈ tileKeys S
  · obtain ⟨U, -, hfirst, hend, hel⟩ := hvisit k hmem
    have hfirst : tileEl (addMarks D S U k) (k / 128) (k % 128) = elAt D k := by simpa using hfirst
    rw [addElem_eq, satAddEl_of_not_held (heldEl_eq_false (.inr (hfirst ▸ hx))), hfirst] at hend hel
    exact takesClamped_of_keepsMarks (takesClamped_putSat _ _ _ hk) (by simpa [elAt_addTile] using hel)
      (hend.trans (keepsMarks_foldl_addTile D S))
  · have hel := hrest k fun j hj e => hmem (e ▸ hj)
    rw [addend_of_not_mem_tileKeys hmem, clampInt_zero, Int.add_zero]
    exact takesClamped_of_eq ((tileEl_div_mod _ k).trans hel)

theorem elAt_addTile_of_held {k : Nat} (ho : D.ovf.getLsbD (k / 128) = true) (hx : elAt D k = accMin ∨ elAt D k = accMax) :
    elAt (addTile D S) k = elAt D k := by
  obtain ⟨-, hrest, hvisit⟩ := foldl_addElem_visits D S
  by_cases hmem : k ∈ tileKeys S
  · obtain ⟨U, hU, hfirst, -, hel⟩ := hvisit k hmem
    have ho' := (hU.trans (keepsMarks_addMarks D S U k)).ovf _ ho
    have hheld : heldEl (addMarks D S U k) (k / 128) (tileEl (addMarks D S U k) (k / 128) (k % 128)) = true :=
      heldEl_eq_true ho' (by simpa [show elAt U k = elAt D k from hfirst] using hx)
    rw [addElem_eq, satAddEl_of_held hheld] at hel
    exact (hel.trans (elAt_addMarks ..)).trans hfirst
  · exact hrest k fun j hj e => hmem (e ▸ hj)

theorem addTile_marks_of_saturates {k : Nat} (hk : k / 128 < 128) (h : addend D S k < accMin ∨ accMax < addend D S k) :
    (addTile D S).ovf.getLsbD (k / 128) = true ∧ (addTile D S).st = true := by
  obtain ⟨-, -, hvisit⟩ := foldl_addElem_visits D S
  have hmem : k ∈ tileKeys S := Decidable.byContradiction fun hmem => by
    rw [addend_of_not_mem_tileKeys hmem] at h
    exact absurd h (by decide)
  obtain ⟨U, -, -, hend, -⟩ := hvisit k hmem
  obtain ⟨ho, hs⟩ := addMarks_of_saturates D S U hk h
  have hkeep := ((keepsMarks_addMarks_addElem D S U k).trans hend).trans (keepsMarks_foldl_addTile D S)
  exact ⟨hkeep.ovf _ ho, hkeep.st hs⟩

theorem getLsbD_ovf_addTile {i : Nat} (h : D.ovf.getLsbD i = true ∨ S.ovf.getLsbD i = true) :
    (addTile D S).ovf.getLsbD i = true := by
  rcases h with h | h
  · exact (keepsMarks_addTile D S).ovf i h
  · rw [addTile_eq]; simp [h]

/-- Where every addend and every sum fits, madd marks nothing that neither tile had marked. -/
theorem addTile_marks_of_fits (hfit : ∀ k, accMin ≤ addend D S k ∧ addend D S k ≤ accMax
    ∧ accMin ≤ elAt D k + addend D S k ∧ elAt D k + addend D S k ≤ accMax) :
    (addTile D S).ovf = D.ovf ||| S.ovf ∧ (addTile D S).st = (D.st || S.st) := by
  obtain ⟨hmarks, -, -⟩ := foldl_visits Function.injective_id (SameMarks.refl S.ovf) SameMarks.trans (elAt_addElem_ne D S)
    (nodup_tileKeys S) D fun U k _ _ hfirst => by
      obtain ⟨hlo, hhi, hsum, hsum'⟩ := hfit k
      have hfirst : tileEl (addMarks D S U k) (k / 128) (k % 128) = elAt D k := by simpa using hfirst
      rw [addElem_eq, clampInt_of_mem hlo hhi]
      exact (sameMarks_addMarks D S U hlo hhi).trans (sameMarks_satAddEl S.ovf (by rwa [hfirst]) (by rwa [hfirst]))
  rw [addTile_eq]
  exact ⟨hmarks.ovf, congrArg (· || S.st) hmarks.st⟩

end

/-! ### The tile words (R330) -/

theorem tileWordsActOnTheirTile : TileWordsActOnTheirTile := by
  intro D S imm
  have hshift := keepsMarks_shiftTile D imm
  have hadd := keepsMarks_addTile D S
  refine ⟨fun _ _ => rfl, ⟨rfl, rfl, rfl, rfl, rfl⟩, rfl, rfl, rfl, rfl, ⟨hshift.anch, hshift.te, hshift.bad, ?_, ?_⟩,
    ⟨hadd.anch, hadd.te, hadd.bad, ?_, fun i => getLsbD_ovf_addTile D S, ?_⟩⟩
  · intro i n hi hn
    obtain ⟨k, rfl, rfl⟩ := exists_key (i := i) hn
    simp only [tileEl_div_mod]
    exact ⟨fun h h' => takesClamped_shiftTile D imm hi ⟨h, h'⟩, elAt_shiftTile_of_held D imm⟩
  · intro ho hfit
    obtain ⟨hel, ho', hs⟩ := shiftTile_exact D imm ho fun k => by simpa using hfit (k / 128) (k % 128)
    exact ⟨fun i n _ => hel (128 * i + n), ho', hs⟩
  · intro i n hi hn
    obtain ⟨k, rfl, rfl⟩ := exists_key (i := i) hn
    simp only [tileEl_div_mod]
    exact ⟨fun h h' => takesClamped_addTile D S hi ⟨h, h'⟩, elAt_addTile_of_held D S, addTile_marks_of_saturates D S hi⟩
  · intro hfit
    exact addTile_marks_of_fits D S fun k => by simpa [addend] using hfit (k / 128) (k % 128)

/-- Settles O39: strips of products, saturating addition and the tile words, each by its own theorem above. -/
theorem matrixTilesAccumulateExactly : Obligations.MatrixTilesAccumulateExactly :=
  ⟨multiplyAddsItsProductsAtTheAnchor, saturatingAdditionHoldsAndMarks, tileWordsActOnTheirTile⟩

end Sys2Proof.Machine
end

section
/-! SUPPORT. O55, O56, O57: decoding the word of a well-formed instruction gives the instruction back. First what each
field of a packed word reads back as, then one lemma for each row of the opcode maps: of R137 as `ReadBack`, of R142 to
R145 as `OpcodeRow`. Fields are found by the library's lemmas on `extractLsb'` and `getLsbD` of an append. `simp` takes
them with `-Nat.reduceAdd`, so that an append's width stays the sum they speak of. -/

namespace Sys2Proof

open Sys2Proof.Machine
open BitVec (extractLsb'_append_eq_of_add_le extractLsb'_append_eq_of_le extractLsb'_append_eq_left
  extractLsb'_append_eq_right getLsbD_append)

/-! ### Codes -/

@[simp] theorem queueOf_code (q : Queue) : queueOf q.code = q := by cases q <;> rfl

@[simp] theorem lwidthOf_code (wd : LWidth) : lwidthOf wd.code = some wd := by cases wd <;> rfl

@[simp] theorem swidthOf_code (wd : SWidth) : swidthOf wd.code = some wd := by cases wd <;> rfl

@[simp] theorem scope3_bits (sc : Scope) : scope3 sc.bits = some sc := by cases sc <;> rfl

@[simp] theorem aorderOf_bits (o : AOrder) : aorderOf o.bits = o := by cases o <;> rfl

@[simp] theorem asizeOf_bit (z : ASize) : asizeOf (z.bit[0]) = z := by cases z <;> rfl

/-! ### Fields of a packed conductor word (R135) -/

section
variable (mj : BitVec 6) (rd rs1 rs2 : Reg) (fn : BitVec 11) (imm : W16) (f : BitVec 26)

@[simp] theorem cMajor_packJ : cMajor (packJ mj f) = mj.toNat := congrArg BitVec.toNat extractLsb'_append_eq_left

@[simp] theorem extractLsb'_packJ {lo n : Nat} (h : lo + n ≤ 26) : (packJ mj f).extractLsb' lo n = f.extractLsb' lo n :=
  extractLsb'_append_eq_of_add_le h

@[simp] theorem cMajor_packI : cMajor (packI mj rd rs1 imm) = mj.toNat := by
  simp (disch := decide) [-Nat.reduceAdd, cMajor, packI, extractLsb'_append_eq_of_le]

@[simp] theorem cRd_packI : cRd (packI mj rd rs1 imm) = rd := by
  simp (disch := decide) [-Nat.reduceAdd, cRd, packI, extractLsb'_append_eq_of_le, extractLsb'_append_eq_of_add_le]

@[simp] theorem cRs1_packI : cRs1 (packI mj rd rs1 imm) = rs1 := by
  simp (disch := decide) [-Nat.reduceAdd, cRs1, packI, extractLsb'_append_eq_of_le, extractLsb'_append_eq_of_add_le]

@[simp] theorem cImm_packI : cImm (packI mj rd rs1 imm) = imm := extractLsb'_append_eq_right

@[simp] theorem extractLsb'_packI {lo n : Nat} (h : lo + n ≤ 16) :
    (packI mj rd rs1 imm).extractLsb' lo n = imm.extractLsb' lo n := extractLsb'_append_eq_of_add_le h

@[simp] theorem getElem_packI_fifteen : (packI mj rd rs1 imm)[15] = imm.msb := by
  rw [packI, BitVec.getElem_append, dif_pos (by decide), BitVec.msb_eq_getLsbD_last, BitVec.getLsbD_eq_getElem]

@[simp] theorem cMajor_packR : cMajor (packR mj rd rs1 rs2 fn) = mj.toNat := by
  simp (disch := decide) [-Nat.reduceAdd, cMajor, packR, extractLsb'_append_eq_of_le]

@[simp] theorem cRd_packR : cRd (packR mj rd rs1 rs2 fn) = rd := by
  simp (disch := decide) [-Nat.reduceAdd, cRd, packR, extractLsb'_append_eq_of_le, extractLsb'_append_eq_of_add_le]

@[simp] theorem cRs1_packR : cRs1 (packR mj rd rs1 rs2 fn) = rs1 := by
  simp (disch := decide) [-Nat.reduceAdd, cRs1, packR, extractLsb'_append_eq_of_le, extractLsb'_append_eq_of_add_le]

@[simp] theorem cRs2_packR : cRs2 (packR mj rd rs1 rs2 fn) = rs2 := by
  simp (disch := decide) [-Nat.reduceAdd, cRs2, packR, extractLsb'_append_eq_of_le, extractLsb'_append_eq_of_add_le]

@[simp] theorem cFn_packR : cFn (packR mj rd rs1 rs2 fn) = fn := extractLsb'_append_eq_right

@[simp] theorem extractLsb'_packR {lo n : Nat} (h : lo + n ≤ 11) :
    (packR mj rd rs1 rs2 fn).extractLsb' lo n = fn.extractLsb' lo n := extractLsb'_append_eq_of_add_le h

@[simp] theorem getElem_packR {i : Nat} (h : i < 11) {h' : i < 32} : (packR mj rd rs1 rs2 fn)[i] = fn[i] :=
  (BitVec.getElem_append _).trans (dif_pos h)

end

section
variable (op : BitVec 4) (z : ASize) (o : AOrder) (sc : Scope)

@[simp] theorem extractLsb'_amoFn_op : (amoFn op z o sc).extractLsb' 7 4 = op := by
  simp (disch := decide) [-Nat.reduceAdd, amoFn, extractLsb'_append_eq_of_le]

@[simp] theorem getElem_amoFn_size : (amoFn op z o sc)[6] = z.bit[0] :=
  (BitVec.getElem_append _).trans (by simp [-Nat.reduceAdd, BitVec.getElem_append])

@[simp] theorem extractLsb'_amoFn_order : (amoFn op z o sc).extractLsb' 4 2 = o.bits := by
  simp (disch := decide) [-Nat.reduceAdd, amoFn, extractLsb'_append_eq_of_le, extractLsb'_append_eq_of_add_le]

@[simp] theorem extractLsb'_amoFn_scope : (amoFn op z o sc).extractLsb' 1 3 = sc.bits := by
  simp (disch := decide) [-Nat.reduceAdd, amoFn, extractLsb'_append_eq_of_le, extractLsb'_append_eq_of_add_le]

@[simp] theorem getElem_amoFn_zero : (amoFn op z o sc)[0] = false := (BitVec.getElem_append _).trans rfl

end

/-! ### The rows of the conductor's opcode map (R137) -/

/-- The word of a conductor instruction is read back as that instruction. -/
def ReadBack (i : Instr) : Prop := ∀ w, encode i = .cword w → decodeLegalC w = some i

/-- Majors 0x01 and 0x02: register operations. -/
theorem readBack_register (d a b : Reg) :
    ReadBack (.add d a b) ∧ ReadBack (.sub d a b) ∧ ReadBack (.and_ d a b) ∧ ReadBack (.or_ d a b)
    ∧ ReadBack (.xor d a b) ∧ ReadBack (.sll d a b) ∧ ReadBack (.srl d a b) ∧ ReadBack (.sra d a b)
    ∧ ReadBack (.slt d a b) ∧ ReadBack (.sltu d a b) ∧ ReadBack (.min_ d a b) ∧ ReadBack (.max_ d a b)
    ∧ ReadBack (.minu d a b) ∧ ReadBack (.maxu d a b) ∧ ReadBack (.mul d a b) ∧ ReadBack (.mulh d a b)
    ∧ ReadBack (.mulhu d a b) ∧ ReadBack (.mulhsu d a b) ∧ ReadBack (.div d a b) ∧ ReadBack (.divu d a b)
    ∧ ReadBack (.rem d a b) ∧ ReadBack (.remu d a b) := by
  and_intros <;> rintro _ ⟨⟩ <;> simp [decodeLegalC, decAlu, decMul]

/-- Major 0x03: counts and byte reversal. -/
theorem readBack_bits (d a : Reg) :
    ReadBack (.clz d a) ∧ ReadBack (.ctz d a) ∧ ReadBack (.popc d a) ∧ ReadBack (.bswap d a) := by
  and_intros <;> rintro _ ⟨⟩ <;> simp [decodeLegalC, decBits]

/-- Majors 0x04 to 0x07, 0x09, 0x0A and 0x0C: register operations with an immediate. -/
theorem readBack_immediate (d a : Reg) (imm : W16) :
    ReadBack (.addi d a imm) ∧ ReadBack (.andi d a imm) ∧ ReadBack (.ori d a imm) ∧ ReadBack (.xori d a imm)
    ∧ ReadBack (.slti d a imm) ∧ ReadBack (.sltiu d a imm) ∧ ReadBack (.lsi d a imm) := by
  and_intros <;> rintro _ ⟨⟩ <;> simp [decodeLegalC]

/-- Major 0x08: shifts by an immediate. -/
theorem readBack_shift (d a : Reg) (sh : BitVec 6) :
    ReadBack (.slli d a sh) ∧ ReadBack (.srli d a sh) ∧ ReadBack (.srai d a sh) := by
  and_intros <;> rintro _ ⟨⟩ <;>
    simp (disch := decide) [-Nat.reduceAdd, decodeLegalC, decShiftImm, extractLsb'_append_eq_of_le,
      extractLsb'_append_eq_of_add_le]

/-- Majors 0x0B and 0x0D: constants, rs1 reserved. -/
theorem readBack_upper (d : Reg) (imm : W16) :
    ReadBack (.lui d imm) ∧ ReadBack (.lpc d imm) := by
  and_intros <;> rintro _ ⟨⟩ <;> simp [decodeLegalC, guardOpt]

/-- Major 0x10: loads. -/
theorem readBack_load (d a : Reg) (off : BitVec 13) :
    ReadBack (.ldB d a off) ∧ ReadBack (.ldH d a off) ∧ ReadBack (.ldW d a off) ∧ ReadBack (.ldD d a off)
    ∧ ReadBack (.ldBu d a off) ∧ ReadBack (.ldHu d a off) ∧ ReadBack (.ldWu d a off) := by
  and_intros <;> rintro _ ⟨⟩ <;>
    simp (disch := decide) [-Nat.reduceAdd, decodeLegalC, decLoad, cOff13, extractLsb'_append_eq_of_le,
      extractLsb'_append_eq_of_add_le]

/-- Major 0x11: stores. -/
theorem readBack_store (d a : Reg) (off : BitVec 13) :
    ReadBack (.stB d a off) ∧ ReadBack (.stH d a off) ∧ ReadBack (.stW d a off) ∧ ReadBack (.stD d a off) := by
  and_intros <;> rintro _ ⟨⟩ <;>
    simp (disch := decide) [-Nat.reduceAdd, decodeLegalC, decStore, cOff13, extractLsb'_append_eq_of_le,
      extractLsb'_append_eq_of_add_le]

/-- Majors 0x12 and 0x13: accesses with a scope. -/
theorem readBack_scoped :
    (∀ d a lw sc, ReadBack (.ldS d a lw sc)) ∧ (∀ d a lw sc, ReadBack (.ldAcq d a lw sc))
    ∧ (∀ d a sw sc, ReadBack (.stS d a sw sc)) ∧ (∀ d a sw sc, ReadBack (.stRel d a sw sc)) := by
  and_intros <;> intros <;> rintro _ ⟨⟩ <;>
    simp (disch := decide) [-Nat.reduceAdd, decodeLegalC, decScopedLoad, decScopedStore,
      extractLsb'_append_eq_of_le, extractLsb'_append_eq_of_add_le]

/-- Major 0x14: tagged accesses, their unused register fields reserved. -/
theorem readBack_tagged :
    (∀ d a, ReadBack (.ldf d a)) ∧ (∀ d a, ReadBack (.ldt d a)) ∧ (∀ a b, ReadBack (.ste a b))
    ∧ (∀ a b, ReadBack (.stf a b)) ∧ (∀ a, ReadBack (.tclr a)) ∧ (∀ d a, ReadBack (.tagrd d a)) := by
  and_intros <;> intros <;> rintro _ ⟨⟩ <;> simp [decodeLegalC, decTagged, guardOpt]

/-- Major 0x15: fences. -/
theorem readBack_fence (sc : Scope) :
    ReadBack (.fenceAcq sc) ∧ ReadBack (.fenceRel sc) ∧ ReadBack (.fenceFull sc) := by
  and_intros <;> rintro _ ⟨⟩ <;>
    simp (disch := decide) [-Nat.reduceAdd, decodeLegalC, decFence, cZero, extractLsb'_append_eq_of_le,
      extractLsb'_append_eq_of_add_le]

/-- Majors 0x18 and 0x19: atomic operations of either size. -/
theorem readBack_atomic (d a b : Reg) (z : ASize) (o : AOrder) (sc : Scope) :
    ReadBack (.amoAdd d a b z o sc) ∧ ReadBack (.amoSmin d a b z o sc) ∧ ReadBack (.amoSmax d a b z o sc)
    ∧ ReadBack (.amoUmin d a b z o sc) ∧ ReadBack (.amoUmax d a b z o sc) ∧ ReadBack (.amoAnd d a b z o sc)
    ∧ ReadBack (.amoOr d a b z o sc) ∧ ReadBack (.amoXor d a b z o sc) ∧ ReadBack (.amoSwap d a b z o sc)
    ∧ ReadBack (.cas d a b z o sc) := by
  and_intros <;> rintro _ ⟨⟩ <;> simp [decodeLegalC, decAmo, decCas, cZero]

/-- Major 0x18, the saturating addition: its size bit is set. -/
theorem readBack_amoQadd (d a b : Reg) (o : AOrder) (sc : Scope) :
    ReadBack (.amoQadd d a b o sc) := by
  rintro _ ⟨⟩
  simp [decodeLegalC, decAmo, guardOpt, ASize.bit]

/-- Majors 0x1C to 0x21: branches. -/
theorem readBack_branch (t a : Reg) (off : W16) :
    ReadBack (.beq t a off) ∧ ReadBack (.bne t a off) ∧ ReadBack (.blt t a off) ∧ ReadBack (.bge t a off)
    ∧ ReadBack (.bltu t a off) ∧ ReadBack (.bgeu t a off) := by
  and_intros <;> rintro _ ⟨⟩ <;> simp [decodeLegalC]

/-- Majors 0x22 and 0x23: jumps, bit 15 of 0x23 set in jtab. -/
theorem readBack_jump :
    (∀ far, ReadBack (.jal far)) ∧ (∀ d a off, ReadBack (.jalr d a off))
    ∧ (∀ d a len dflt, ReadBack (.jtab d a len dflt)) := by
  and_intros <;> intros <;> rintro _ ⟨⟩ <;>
    simp (disch := decide) [-Nat.reduceAdd, decodeLegalC, decJumpReg, BitVec.msb_append,
      extractLsb'_append_eq_of_le, extractLsb'_append_eq_of_add_le]

/-- Major 0x24: a body of no words is reserved. -/
theorem readBack_loop (a : Reg) (stm : BitVec 3) {len : W16} (h : len ≠ 0#16) :
    ReadBack (.loop a stm len) := by
  rintro _ ⟨⟩
  simp (disch := decide) [-Nat.reduceAdd, decodeLegalC, guardOpt, cZero, cRs1, cImm, h,
    extractLsb'_append_eq_of_le, extractLsb'_append_eq_of_add_le]

/-- Major 0x25: loop control. -/
theorem readBack_loopControl :
    ReadBack .rot ∧ ReadBack .lbrk ∧ (∀ d, ReadBack (.lcrd d)) ∧ (∀ a, ReadBack (.lcwr a)) := by
  and_intros <;> intros <;> rintro _ ⟨⟩ <;> simp [decodeLegalC, decRot, guardOpt]

/-- Major 0x26: p0 as a destination is reserved. -/
theorem readBack_pset {p : PReg} (a b : Reg) (h : p ≠ 0#3) :
    ReadBack (.psetEq p a b) ∧ ReadBack (.psetNe p a b) ∧ ReadBack (.psetLt p a b) ∧ ReadBack (.psetGe p a b)
    ∧ ReadBack (.psetLtu p a b) ∧ ReadBack (.psetGeu p a b) := by
  and_intros <;> rintro _ ⟨⟩ <;>
    simp (disch := decide) [-Nat.reduceAdd, decodeLegalC, decPset, cZero, cRs1, cRs2, cFn, h,
      extractLsb'_append_eq_of_le, extractLsb'_append_eq_of_add_le]

/-- Major 0x27: predicate logic, p0 as a destination reserved. -/
theorem readBack_plogic {p : PReg} (h : p ≠ 0#3) :
    (∀ a b, ReadBack (.pand p a b)) ∧ (∀ a b, ReadBack (.por p a b)) ∧ (∀ a b, ReadBack (.pxor p a b))
    ∧ (∀ a b, ReadBack (.pandn p a b)) ∧ (∀ a, ReadBack (.pmov p a)) := by
  and_intros <;> intros <;> rintro _ ⟨⟩ <;>
    simp (disch := decide) [-Nat.reduceAdd, decodeLegalC, decPlogic, guardOpt, cZero, cFn, h,
      extractLsb'_append_eq_of_le, extractLsb'_append_eq_of_add_le]

/-- Major 0x28: the inserted field lies in the word register. -/
theorem readBack_wins (wd : WReg) (a : Reg) {pos len : BitVec 6} (h : wfWins pos len = true) :
    ReadBack (.wins wd a pos len) := by
  rintro _ ⟨⟩
  simp (disch := decide) [-Nat.reduceAdd, decodeLegalC, decWins, guardOpt, cZero, cRs1, h,
    extractLsb'_append_eq_of_le, extractLsb'_append_eq_of_add_le]

/-- Major 0x29: moves between word registers and registers. -/
theorem readBack_wmov :
    (∀ wa j, ReadBack (.wmov wa j)) ∧ (∀ j wa, ReadBack (.wrd j wa)) ∧ (∀ wa wj, ReadBack (.wcpy wa wj)) := by
  and_intros <;> intros <;> rintro _ ⟨⟩ <;>
    simp (disch := decide) [-Nat.reduceAdd, decodeLegalC, decWmov, guardOpt, cZero, cRs1, cImm,
      extractLsb'_append_eq_of_le, extractLsb'_append_eq_of_add_le]

/-- Majors 0x2A to 0x2F: templates, emission, queue state and tokens. -/
theorem readBack_emission :
    (∀ wd idx, ReadBack (.wtmpl wd idx)) ∧ (∀ q p wd, ReadBack (.emit q p wd))
    ∧ (∀ q p idx, ReadBack (.emitt q p idx)) ∧ (∀ d q, ReadBack (.qstat d q)) ∧ (∀ q, ReadBack (.tkpush q))
    ∧ (∀ q, ReadBack (.tkpop q)) := by
  and_intros <;> intros <;> rintro _ ⟨⟩ <;>
    simp (disch := decide) [-Nat.reduceAdd, decodeLegalC, guardOpt, cZero, cRd, cImm, cQueueBits,
      extractLsb'_append_eq_of_le, extractLsb'_append_eq_of_add_le]

/-- Majors 0x30 and 0x31: field codes above 10 are reserved. -/
theorem readBack_streamField {fld : BitVec 5} (h : fld.toNat ≤ 10) :
    (∀ sr d, ReadBack (.sset sr d fld)) ∧ (∀ d sr, ReadBack (.sget d sr fld)) := by
  and_intros <;> intros <;> rintro _ ⟨⟩ <;>
    simp (disch := decide) [-Nat.reduceAdd, decodeLegalC, guardOpt, cZero, cRd, cRs1, cField, h,
      extractLsb'_append_eq_of_le, extractLsb'_append_eq_of_add_le]

/-- Majors 0x32 and 0x33: copies and clears of a stream register. -/
theorem readBack_stream :
    (∀ sd ss, ReadBack (.scpy sd ss)) ∧ (∀ sd, ReadBack (.sclr sd)) := by
  and_intros <;> intros <;> rintro _ ⟨⟩ <;>
    simp (disch := decide) [-Nat.reduceAdd, decodeLegalC, guardOpt, cZero, extractLsb'_append_eq_of_le,
      extractLsb'_append_eq_of_add_le]

/-- Majors 0x34 and 0x35: an empty set of queues is reserved. -/
theorem readBack_marker {qs : BitVec 4} (h : qs ≠ 0#4) :
    ReadBack (.mark qs) ∧ ReadBack (.join qs) := by
  and_intros <;> rintro _ ⟨⟩ <;>
    simp (disch := decide) [-Nat.reduceAdd, decodeLegalC, guardOpt, cZero, h, extractLsb'_append_eq_of_le,
      extractLsb'_append_eq_of_add_le]

/-- Majors 0x36, 0x37 and 0x3A: barriers, timed waits and switches of the kind of section. -/
theorem readBack_wait :
    (∀ l k, ReadBack (.bar l k)) ∧ (∀ a, ReadBack (.waitCyc a)) ∧ (∀ a, ReadBack (.waitGtc a))
    ∧ (∀ a, ReadBack (.start a)) ∧ ReadBack .ilock := by
  and_intros <;> intros <;> rintro _ ⟨⟩ <;>
    simp (disch := decide) [-Nat.reduceAdd, decodeLegalC, guardOpt, cZero, extractLsb'_append_eq_of_le,
      extractLsb'_append_eq_of_add_le]

/-- Major 0x38: control registers, bit 15 set in a write. -/
theorem readBack_control :
    (∀ d num, ReadBack (.crr d num)) ∧ (∀ num a, ReadBack (.crw num a)) := by
  and_intros <;> intros <;> rintro _ ⟨⟩ <;>
    simp (disch := decide) [-Nat.reduceAdd, decodeLegalC, guardOpt, cZero, -BitVec.reduceAppend, BitVec.msb_append,
      extractLsb'_append_eq_of_le, extractLsb'_append_eq_of_add_le]

/-- Majors 0x39 and 0x3B: strands, and the return from a fault. -/
theorem readBack_strand :
    (∀ k a, ReadBack (.spawn k a)) ∧ ReadBack .exit ∧ ReadBack .yield ∧ ReadBack .nop ∧ (∀ v, ReadBack (.fret v)) := by
  and_intros <;> intros <;> rintro _ ⟨⟩ <;>
    simp (disch := decide) [-Nat.reduceAdd, decodeLegalC, decYieldGroup, guardOpt, cZero, cRs1,
      extractLsb'_append_eq_of_le, extractLsb'_append_eq_of_add_le]

/-- Every well-formed conductor instruction is read back from its word, by the lemma of its row of the map (R137). -/
theorem readBack_of_wf {i : Instr} (hi : i.isIllegal = false) (hwf : i.wf = true) : ReadBack i := by
  cases i
  case add | sub | and_ | or_ | xor | sll | srl | sra | slt | sltu | min_ | max_ | minu | maxu | mul | mulh | mulhu
    | mulhsu | div | divu | rem | remu => simp only [readBack_register]
  case clz | ctz | popc | bswap => simp only [readBack_bits]
  case addi | andi | ori | xori | slti | sltiu | lsi => simp only [readBack_immediate]
  case slli | srli | srai => simp only [readBack_shift]
  case lui | lpc => simp only [readBack_upper]
  case ldB | ldH | ldW | ldD | ldBu | ldHu | ldWu => simp only [readBack_load]
  case stB | stH | stW | stD => simp only [readBack_store]
  case ldS | ldAcq | stS | stRel => simp only [readBack_scoped]
  case ldf | ldt | ste | stf | tclr | tagrd => simp only [readBack_tagged]
  case fenceAcq | fenceRel | fenceFull => simp only [readBack_fence]
  case amoAdd | amoSmin | amoSmax | amoUmin | amoUmax | amoAnd | amoOr | amoXor | amoSwap | cas =>
    simp only [readBack_atomic]
  case amoQadd => simp only [readBack_amoQadd]
  case beq | bne | blt | bge | bltu | bgeu => simp only [readBack_branch]
  case jal | jalr | jtab => simp only [readBack_jump]
  case loop => simp only [readBack_loop (h := bne_iff_ne.mp hwf)]
  case rot | lbrk | lcrd | lcwr => simp only [readBack_loopControl]
  case psetEq | psetNe | psetLt | psetGe | psetLtu | psetGeu => simp only [readBack_pset (h := bne_iff_ne.mp hwf)]
  case pand | por | pxor | pandn | pmov => simp only [readBack_plogic (h := bne_iff_ne.mp hwf)]
  case wins => simp only [readBack_wins (h := hwf)]
  case wmov | wrd | wcpy => simp only [readBack_wmov]
  case wtmpl | emit | emitt | qstat | tkpush | tkpop => simp only [readBack_emission]
  case sset | sget => simp only [readBack_streamField (h := of_decide_eq_true hwf)]
  case scpy | sclr => simp only [readBack_stream]
  case mark | join => simp only [readBack_marker (h := bne_iff_ne.mp hwf)]
  case bar | waitCyc | waitGtc | start | ilock => simp only [readBack_wait]
  case crr | crw => simp only [readBack_control]
  case spawn | exit | yield | nop | fret => simp only [readBack_strand]
  case illegalCWord => cases hi
  -- Engine words and events have no conductor word.
  all_goals rintro _ ⟨⟩

/-- Settles O56: the decoder reads every well-formed conductor instruction back from its word. -/
theorem conductorWordsDecodeToTheirInstruction : Obligations.ConductorWordsDecodeToTheirInstruction :=
  fun _ w hw hi hwf => congrArg (·.getD (.illegalCWord w)) (readBack_of_wf hi hwf w hw)

/-! ### The head of a packed engine word (R36, R37, R140) -/

@[simp] theorem tokOf_tokBits (t : Option Queue) :
    tokOf ((tokBits t).getLsbD 2) ((tokBits t).extractLsb' 0 2) = some t := by
  cases t with
  | none => rfl
  | some q => cases q <;> rfl

section
variable (op : BitVec 8) (h : EHead) (f : BitVec 40)

theorem eOpcode_packHead : eOpcode (packHead op h f) = op.toNat := by
  simp (disch := decide) [-Nat.reduceAdd, eOpcode, packHead, extractLsb'_append_eq_of_le]

theorem headOf_packHead : headOf (packHead op h f) = some h := by
  simp (disch := decide) [-Nat.reduceAdd, -BitVec.getLsbD_eq_getElem, headOf, packHead, getLsbD_append,
    extractLsb'_append_eq_of_le, extractLsb'_append_eq_of_add_le]

/-- A layout's fields lie in bits [49:10] of the word. -/
theorem extractLsb'_packHead {lo n : Nat} (hlo : 10 ≤ lo) (hn : lo + n ≤ 50) :
    (packHead op h f).extractLsb' lo n = f.extractLsb' (lo - 10) n := by
  rw [packHead, extractLsb'_append_eq_of_le hlo, extractLsb'_append_eq_of_add_le (by omega)]

theorem getLsbD_packHead {i : Nat} (hlo : 10 ≤ i) (hi : i < 50) : (packHead op h f).getLsbD i = f.getLsbD (i - 10) := by
  rw [packHead, getLsbD_append, if_neg (by omega), getLsbD_append, if_pos (by omega)]

end

/-! ### The layouts (R232, R233, R301, R321, R348): each unpacks to the word packed, its reserved bits zero -/

@[simp] theorem getLsbD_b1 (b : Bool) : (b1 b).getLsbD 0 = b := by cases b <;> rfl

section
variable (op : BitVec 8)

theorem unpackVR_packVR (w : VWord) : unpackVR w.h (packVR op w) = w := by
  simp (disch := decide) [-Nat.reduceAdd, -BitVec.getLsbD_eq_getElem, unpackVR, packVR, extractLsb'_packHead,
    getLsbD_packHead, getLsbD_append, extractLsb'_append_eq_of_le, extractLsb'_append_eq_of_add_le]

theorem unpackVI_packVI (w : VSplat) : unpackVI w.h (packVI op w) = w := by
  simp (disch := decide) [-Nat.reduceAdd, unpackVI, packVI, extractLsb'_packHead, extractLsb'_append_eq_of_le,
    extractLsb'_append_eq_of_add_le]

theorem unpackMS_packMS (w : MS) : unpackMS w.h (packMS op w) = w := by
  simp (disch := decide) [-Nat.reduceAdd, -BitVec.getLsbD_eq_getElem, unpackMS, packMS, extractLsb'_packHead,
    getLsbD_packHead, getLsbD_append, extractLsb'_append_eq_of_le, extractLsb'_append_eq_of_add_le]

theorem unpackMT_packMT (w : MT) : unpackMT w.h (packMT op w) = w := by
  simp (disch := decide) [-Nat.reduceAdd, -BitVec.getLsbD_eq_getElem, unpackMT, packMT, extractLsb'_packHead,
    getLsbD_packHead, getLsbD_append, extractLsb'_append_eq_of_le, extractLsb'_append_eq_of_add_le]

theorem unpackGI_packGI (w : GI) : unpackGI w.h (packGI op w) = w := by
  simp (disch := decide) [-Nat.reduceAdd, -BitVec.getLsbD_eq_getElem, unpackGI, packGI, extractLsb'_packHead,
    getLsbD_packHead, getLsbD_append, extractLsb'_append_eq_of_le, extractLsb'_append_eq_of_add_le]

theorem unpackGK_packGK (w : GK) : unpackGK w.h (packGK op w) = w := by
  simp (disch := decide) [-Nat.reduceAdd, -BitVec.getLsbD_eq_getElem, unpackGK, packGK, extractLsb'_packHead,
    getLsbD_packHead, getLsbD_append, extractLsb'_append_eq_of_le, extractLsb'_append_eq_of_add_le]

theorem unpackGS_packGS (w : GS) : unpackGS w.h (packGS op w) = w := by
  simp (disch := decide) [-Nat.reduceAdd, unpackGS, packGS, extractLsb'_packHead, extractLsb'_append_eq_of_le,
    extractLsb'_append_eq_of_add_le]

theorem unpackXC_packXC (w : XC) : unpackXC w.h (packXC op w) = w := by
  simp (disch := decide) [-Nat.reduceAdd, -BitVec.getLsbD_eq_getElem, unpackXC, packXC, extractLsb'_packHead,
    getLsbD_packHead, getLsbD_append, extractLsb'_append_eq_of_le, extractLsb'_append_eq_of_add_le]

theorem eZero_packHead_zero (h : EHead) : eZero (packHead op h 0) 10 40 = true := by
  simp [eZero, extractLsb'_packHead]

theorem eZero_packVI (w : VSplat) : eZero (packVI op w) 42 1 = true := by
  simp (disch := decide) [-Nat.reduceAdd, eZero, packVI, extractLsb'_packHead, extractLsb'_append_eq_of_le,
    extractLsb'_append_eq_of_add_le]

theorem eZero_packMS (w : MS) : eZero (packMS op w) 10 14 = true := by
  simp (disch := decide) [-Nat.reduceAdd, eZero, packMS, extractLsb'_packHead, extractLsb'_append_eq_of_add_le]

theorem eZero_packMT (w : MT) : eZero (packMT op w) 10 28 = true := by
  simp (disch := decide) [-Nat.reduceAdd, eZero, packMT, extractLsb'_packHead, extractLsb'_append_eq_of_add_le]

theorem eZero_packGI (w : GI) : eZero (packGI op w) 42 4 = true := by
  simp (disch := decide) [-Nat.reduceAdd, eZero, packGI, extractLsb'_packHead, extractLsb'_append_eq_of_le,
    extractLsb'_append_eq_of_add_le]

theorem eZero_packGK (w : GK) : eZero (packGK op w) 10 33 = true := by
  simp (disch := decide) [-Nat.reduceAdd, eZero, packGK, extractLsb'_packHead, extractLsb'_append_eq_of_add_le]

theorem eZero_packGS (w : GS) : (eZero (packGS op w) 44 3 && eZero (packGS op w) 10 17) = true := by
  simp (disch := decide) [-Nat.reduceAdd, eZero, packGS, extractLsb'_packHead, extractLsb'_append_eq_of_le,
    extractLsb'_append_eq_of_add_le]

end

/-! ### The rows of the engines' opcode maps (R142 to R145) -/

/-- The opcode map that a queue's words are read by. -/
def opcodeMap : Queue → EHead → W64 → Option Instr
  | .v => decodeV
  | .m => decodeM
  | .g => decodeG
  | .x => decodeX

theorem decodeLegalE_eq_opcodeMap (q : Queue) {w : W64} {h : EHead} (hh : headOf w = some h) :
    decodeLegalE q w = opcodeMap q h w := by
  simp only [decodeLegalE, hh]
  cases q <;> rfl

/-- The row of opcode `op` in the map of queue `q`: a word of that opcode is read as `c` says where its bits meet `rsv`
and that instruction is well formed, and is illegal otherwise. -/
def OpcodeRow (q : Queue) (op : BitVec 8) (rsv : W64 → Bool) (c : EHead → W64 → Instr) : Prop :=
  ∀ h w, eOpcode w = op.toNat → opcodeMap q h w = wfOpt (rsv w) (c h w)

theorem OpcodeRow.decodeE_packHead {q : Queue} {op : BitVec 8} {rsv : W64 → Bool} {c : EHead → W64 → Instr} {h : EHead}
    {f : BitVec 40} {i : Instr} (hrow : OpcodeRow q op rsv c) (hrsv : rsv (packHead op h f) = true)
    (hc : c h (packHead op h f) = i) (hwf : i.wf = true) : decodeE q (packHead op h f) = i := by
  have hmap := hrow h (packHead op h f) (eOpcode_packHead op h f)
  simp [decodeE, decodeLegalE_eq_opcodeMap q (headOf_packHead op h f), hmap, hrsv, hc, wfOpt, hwf]

section
variable {q : Queue} {op : BitVec 8}

theorem decodeE_packHead_zero {h : EHead} {c : EHead → Instr}
    (hrow : OpcodeRow q op (eZero · 10 40) fun h _ => c h) (hwf : (c h).wf = true) :
    decodeE q (packHead op h 0) = c h :=
  hrow.decodeE_packHead (eZero_packHead_zero op h) rfl hwf

theorem decodeE_packVR {w : VWord} {c : VWord → Instr}
    (hrow : OpcodeRow q op (fun _ => true) fun h u => c (unpackVR h u)) (hwf : (c w).wf = true) :
    decodeE q (packVR op w) = c w :=
  hrow.decodeE_packHead rfl (congrArg c (unpackVR_packVR op w)) hwf

theorem decodeE_packVI {w : VSplat} {c : VSplat → Instr}
    (hrow : OpcodeRow q op (eZero · 42 1) fun h u => c (unpackVI h u)) (hwf : (c w).wf = true) :
    decodeE q (packVI op w) = c w :=
  hrow.decodeE_packHead (eZero_packVI op w) (congrArg c (unpackVI_packVI op w)) hwf

theorem decodeE_packMS {w : MS} {c : MS → Instr}
    (hrow : OpcodeRow q op (eZero · 10 14) fun h u => c (unpackMS h u)) (hwf : (c w).wf = true) :
    decodeE q (packMS op w) = c w :=
  hrow.decodeE_packHead (eZero_packMS op w) (congrArg c (unpackMS_packMS op w)) hwf

theorem decodeE_packMT {w : MT} {c : MT → Instr}
    (hrow : OpcodeRow q op (eZero · 10 28) fun h u => c (unpackMT h u)) (hwf : (c w).wf = true) :
    decodeE q (packMT op w) = c w :=
  hrow.decodeE_packHead (eZero_packMT op w) (congrArg c (unpackMT_packMT op w)) hwf

theorem decodeE_packGI {w : GI} {c : GI → Instr}
    (hrow : OpcodeRow q op (eZero · 42 4) fun h u => c (unpackGI h u)) (hwf : (c w).wf = true) :
    decodeE q (packGI op w) = c w :=
  hrow.decodeE_packHead (eZero_packGI op w) (congrArg c (unpackGI_packGI op w)) hwf

theorem decodeE_packGK {w : GK} {c : GK → Instr}
    (hrow : OpcodeRow q op (eZero · 10 33) fun h u => c (unpackGK h u)) (hwf : (c w).wf = true) :
    decodeE q (packGK op w) = c w :=
  hrow.decodeE_packHead (eZero_packGK op w) (congrArg c (unpackGK_packGK op w)) hwf

theorem decodeE_packGS {w : GS} {c : GS → Instr}
    (hrow : OpcodeRow q op (fun u => eZero u 44 3 && eZero u 10 17) fun h u => c (unpackGS h u))
    (hwf : (c w).wf = true) : decodeE q (packGS op w) = c w :=
  hrow.decodeE_packHead (eZero_packGS op w) (congrArg c (unpackGS_packGS op w)) hwf

theorem decodeE_packXC {w : XC} {c : XC → Instr}
    (hrow : OpcodeRow q op (fun _ => true) fun h u => c (unpackXC h u)) (hwf : (c w).wf = true) :
    decodeE q (packXC op w) = c w :=
  hrow.decodeE_packHead rfl (congrArg c (unpackXC_packXC op w)) hwf

end

/-- Settles O57: each engine word is read back by the row of its opcode, its fields as its layout packed them. -/
theorem engineWordsDecodeToTheirInstruction : Obligations.EngineWordsDecodeToTheirInstruction := by
  intro i q w hw hi hwf
  cases i
  case vnop =>
    cases hw
    exact decodeE_packHead_zero (fun _ _ e => by rw [opcodeMap, decodeV, e]; rfl) hwf
  case mnop =>
    cases hw
    exact decodeE_packHead_zero (fun _ _ e => by rw [opcodeMap, decodeM, e]; rfl) hwf
  case gnop =>
    cases hw
    exact decodeE_packHead_zero (fun _ _ e => by rw [opcodeMap, decodeG, e]; rfl) hwf
  case xnop =>
    cases hw
    exact decodeE_packHead_zero (fun _ _ e => by rw [opcodeMap, decodeX, e]; rfl) hwf
  case vmov | vxrd | vxclr | vfadd | vfsub | vfmul | vfma | vfms | vfnma | vfdiv | vfsqrt | vfmin | vfmax | vfabs |
    vfneg | vfexp2 | vflog2 | vfrsqrt | vfrcp | vadd | vsub | vmul | vmulh | vmad | vmin | vmax | vabs | vand | vor |
    vxor | vsll | vsrl | vsra | vpopc | vfcmp | vcmp | vsel | vclass | vmand | vmor | vmxor | vmnot | vmpopc | vcvt |
    vcvti | vcvtf | vpack | vunpk | vperm | vrot | vslide | vzip | vunzip | vbcast | vcmul | vcmac | vconj | vbfly2 |
    vbfly4 | vtwid | vrevb | vfsum | vfrmax | vfrmin | vfdot | vrsum | vrmax | vrmin | vld | vst | vldf | vldt | vste
    | vstf | vgath | vscat | vldm | vstm =>
    cases hw
    exact decodeE_packVR (fun _ _ e => by rw [opcodeMap, decodeV, e]; rfl) hwf
  case vsplat =>
    cases hw
    exact decodeE_packVI (fun _ _ e => by rw [opcodeMap, decodeV, e]; rfl) hwf
  case mldb | mldbG | mldbp | mma | mmaG | mmap | mmapG | mmat | mmatG | mstat | mdrn | mdrnMx | msave | mrest =>
    cases hw
    exact decodeE_packMS (fun _ _ e => by rw [opcodeMap, decodeM, e]; rfl) hwf
  case mzero | manch | movclr | mtrap | mshift | madd | mmov =>
    cases hw
    exact decodeE_packMT (fun _ _ e => by rw [opcodeMap, decodeM, e]; rfl) hwf
  case gseed | gscope | gorig | gparm | gdraw | gskip | gclr =>
    cases hw
    exact decodeE_packGI (fun _ _ e => by rw [opcodeMap, decodeG, e]; rfl) hwf
  case gkind =>
    cases hw
    exact decodeE_packGK (fun _ _ e => by rw [opcodeMap, decodeG, e]; rfl) hwf
  case gfreq | gload | gsave | gfill | gvec =>
    cases hw
    exact decodeE_packGS (fun _ _ e => by rw [opcodeMap, decodeG, e]; rfl) hwf
  case xcpy | xcpyc | xfill | xgath | xscat | xtab | xdec | xamo | xcas | xste | xstf | xldf | xtclr | xget | xput |
    xgetc | xputc | xbar | xseq =>
    cases hw
    exact decodeE_packXC (fun _ _ e => by rw [opcodeMap, decodeX, e]; rfl) hwf
  case illegalEWord => cases hi
  -- Conductor instructions and events have no engine word.
  all_goals cases hw

/-- Settles O55: each word written out is the encoding of its instruction, and the two reserved words are evaluated. -/
theorem wordsDecodeAsTheMapsSay : Obligations.WordsDecodeAsTheMapsSay := by
  have hC := conductorWordsDecodeToTheirInstruction
  have hE := engineWordsDecodeToTheirInstruction
  exact ⟨hC _ _ rfl rfl rfl, hC _ _ rfl rfl rfl, hC _ _ rfl rfl rfl, hC _ _ rfl rfl rfl, hC _ _ rfl rfl rfl,
    hC _ _ rfl rfl rfl, hC _ _ rfl rfl rfl, ⟨0, rfl⟩, hE _ _ _ rfl rfl rfl, hE _ _ _ rfl rfl rfl,
    hE _ _ _ rfl rfl rfl, ⟨0x0140000000000000, rfl⟩⟩

end Sys2Proof
end

section
/-! SUPPORT. O13, O17, O19, O25: composition and stream registers, timed waits, yield, and the fault strand. An instruction
is first seen through `conduct`, by the rule for what its meaning answers (advance, wait, fault or a whole state); what the
meaning answers then follows from the statement's conditions on its branches. -/

namespace Sys2Proof.Machine

open Sys2Proof Sys2Proof.Statements

/-- An instruction whose meaning is to advance goes on at the next word. -/
theorem conduct_adv {pro fs : Bool} {w : W32} {uses : List Nat} {f : State → Eff} {s s' : State}
    (hp : pro = true ∨ OnCore s) (hf : fs = false ∨ NotFault s) (hu : Free s uses) (h : f s = adv s s') :
    conduct pro fs w uses f s = .next (goOn s s') :=
  conduct_goto hp hf hu h

/-! ### Composition and stream registers (R195, R196, R201, R204, R205) -/

theorem compositionAndStreamRegistersChange : CompositionAndStreamRegistersChange := by
  intro s i us s' h hu hc
  cases i
  case wins | wmov | wrd | wcpy | sset | sget | scpy | sclr | qstat =>
    cases h
    exact conduct_adv (.inr hc) (.inl rfl) hu rfl
  -- No other instruction is one of the table.
  all_goals cases h

/-- Writing a field leaves every other field of the stream. -/
theorem strmGet_strmSet_ne (m : Strm) (v : W64) {f g : Nat} (h : g ≠ f) : strmGet (strmSet m f v) g = strmGet m g := by
  unfold strmSet
  split
  case h_12 => rfl
  all_goals
    unfold strmGet
    split <;> simp at h ⊢

theorem streamFieldReadsBackWhatFits : StreamFieldReadsBackWhatFits := by
  intro m f v hf
  refine ⟨?_, fun g _ hg => strmGet_strmSet_ne m v hg⟩
  match f with
  | 0 | 1 | 2 | 3 | 4 | 5 | 6 | 7 | 8 | 9 | 10 => rfl
  | _ + 11 => omega

/-- Settles O13: each instruction of the table advances with its effect, and a stream field is read as it was cut. -/
theorem compositionAndStreamRegistersHoldWhatIsWritten : Obligations.CompositionAndStreamRegistersHoldWhatIsWritten :=
  ⟨compositionAndStreamRegistersChange, streamFieldReadsBackWhatFits⟩

/-! ### Timed waits (R209) -/

theorem timedWaitEndsAtItsTarget : TimedWaitEndsAtItsTarget := by
  intro s a hu hc hn
  refine ⟨fun h => ?_, fun h => ?_, fun h => ?_, fun h => ?_⟩
  · exact conduct_adv (.inr hc) (.inr hn) hu (if_pos h)
  · exact conduct_wait (.inr hc) (.inr hn) hu (if_neg (Nat.not_le.mpr h))
  · exact conduct_adv (.inr hc) (.inr hn) hu (if_pos h)
  · exact conduct_wait (.inr hc) (.inr hn) hu (if_neg (Nat.not_le.mpr h))

theorem exec_waitTargetReached_cyc {s : State} {b : BitVec 2} {v : W64} (hr : (sn s b.toNat).run = .waiting)
    (hw : (sn s b.toNat).wait = some (.cyc v)) :
    exec (.waitTargetReached b) s =
      .next (if v.toNat ≤ schedCyc s s.cur then setSn s b.toNat { sn s b.toNat with run := .ready } else s) := by
  change execWaitTargetReached b s = _
  simp only [execWaitTargetReached, hr, hw]

theorem exec_waitTargetReached_gtc {s : State} {b : BitVec 2} {v : W64} (hr : (sn s b.toNat).run = .waiting)
    (hw : (sn s b.toNat).wait = some (.gtc v)) :
    exec (.waitTargetReached b) s =
      .next (if v.toNat ≤ s.gtc then setSn s b.toNat { sn s b.toNat with run := .ready } else s) := by
  change execWaitTargetReached b s = _
  simp only [execWaitTargetReached, hr, hw]

theorem reachedTargetReadiesTheStrand : ReachedTargetReadiesTheStrand := fun _ _ _ hr =>
  ⟨fun hw h => by rw [exec_waitTargetReached_cyc hr hw, if_pos h],
   fun hw h => by rw [exec_waitTargetReached_gtc hr hw, if_pos h]⟩

/-- Settles O17: the target is compared with its counter, at issue and by the event. -/
theorem timedWaitsEndAtTheirTarget : Obligations.TimedWaitsEndAtTheirTarget :=
  ⟨timedWaitEndsAtItsTarget, reachedTargetReadiesTheStrand⟩

/-! ### Yield (R227) -/

/-- What a yield does, its conditions taken in the order of R227. -/
def yieldEff (s : State) : Eff :=
  if (cc s).cs ≠ 0 ∨ liveStrands s (cc s) ≠ [0] ∨ faultRunning (cc s) then .flt s { code := 0x0106, detail := 1 }
  else if (cst s).loop.act then .flt s { code := 0x0106, detail := 2 }
  else if !drained (cc s) then .wait s .drainYield
  else if anyToken (cc s) then .flt s { code := 0x0106, detail := 3 }
  else if (curTask s).yldReq then .set (taskLeaves (yieldStop s) (cc s).task)
  else adv s s

theorem exec_yield (s : State) : exec .yield s = conduct false true (packJ 0x39 2) [] yieldEff s := rfl

/-- The core stopped at a yield, as a completion after which the core no longer runs. -/
theorem yieldStop_eq (s : State) : yieldStop s = setCC (goOn s s) { cc (goOn s s) with run := .yielded } := rfl

/-- Settles O19: a yield's conditions are taken one by one, each with those before it passed. -/
theorem yieldStopsOnlyOnRequest : Obligations.YieldStopsOnlyOnRequest := by
  refine ⟨fun s hu => conduct_adv (.inl rfl) (.inl rfl) hu rfl, fun s w hu hc hn hw => ?_⟩
  cases hw
  simp only [exec_yield, ← yieldStop_eq]
  have hc' : false = true ∨ OnCore s := .inr hc
  have hn' : true = false ∨ NotFault s := .inr hn
  refine ⟨fun h => conduct_flt hc' hn' hu (if_pos h), fun hcs hl hf => ⟨fun ha => ?_, fun ha hd => ?_, fun ha hd ht => ?_,
    fun ha hd ht => ⟨fun hy => ?_, fun hy => ?_⟩⟩⟩
  · exact conduct_flt hc' hn' hu (by simp [yieldEff, hcs, hl, hf, ha])
  · exact conduct_wait hc' hn' hu (by simp [yieldEff, hcs, hl, hf, ha, hd])
  · exact conduct_flt hc' hn' hu (by simp [yieldEff, hcs, hl, hf, ha, hd, ht])
  · exact conduct_adv hc' hn' hu (by simp [yieldEff, hcs, hl, hf, ha, hd, ht, hy])
  · exact conduct_set hc' hn' hu (by simp [yieldEff, hcs, hl, hf, ha, hd, ht, hy])

/-! ### The start of the fault strand (R216) -/

theorem eq_nil_of_nextRecord {l : List Pending} (h : nextRecord l = none) : l = [] := by
  cases l with
  | nil => rfl
  | cons a l =>
    unfold nextRecord at h
    split at h
    · split at h <;> cases h
    · cases h

/-- The record taken has the least sequence number. -/
theorem nextRecord_le {l rest : List Pending} {p : Pending} (h : nextRecord l = some (p, rest)) :
    ∀ r ∈ l, p.trap.seq.toNat ≤ r.trap.seq.toNat := by
  induction l generalizing p rest with
  | nil => cases h
  | cons a l ih =>
    unfold nextRecord at h
    split at h
    next q l' hl =>
      have hq := ih hl
      split at h
      next hle =>
        cases h
        exact List.forall_mem_cons.mpr ⟨Nat.le_refl _, fun r hr => Nat.le_trans hle (hq r hr)⟩
      next hgt =>
        cases h
        exact List.forall_mem_cons.mpr ⟨by omega, hq⟩
    next hl =>
      cases h
      simp [eq_nil_of_nextRecord hl]

/-- The fault strand starts where the core runs, no record is being handled and a hold has come to rest. -/
theorem exec_faultStrandStart {s : State} {p : Pending} {rest : List Pending} (hr : (cc s).run = .on)
    (hf : hasFaultStrand s (cc s) = true) (hh : (cc s).handling = none)
    (hq : (cc s).hold = true → inHold (cc s) (curCyc s) = true ∧ holdQuiet (cc s) = true)
    (hp : nextRecord (cc s).pendRecs = some (p, rest)) :
    exec .faultStrandStart s = .next (startHandling s s.cur p rest) := by
  have hg : (!(cc s).hold || (inHold (cc s) (curCyc s) && holdQuiet (cc s))) = true := by
    cases h : (cc s).hold
    · rfl
    · simp [hq h]
  change execFaultStrandStart s = _
  simp [execFaultStrandStart, hr, hf, hh, hg, hp]

/-- The fault strand as it starts on a record: at the kernel's fault entry, keeping its emission count and composition
registers. -/
def handlerStrand (s : State) : Strand :=
  { run := .ready
    pc := (getTask s (cc s).task).codeVa + BitVec.ofNat 64 ((getTask s (cc s).task).kernel.onfault.getD 0)
    eseq := (getStrand (cc s) 3).eseq, w := (getStrand (cc s) 3).w }

theorem cc_startHandling (s : State) (p : Pending) (rest : List Pending) : cc (startHandling s s.cur p rest) =
    { setStrand (cc s) 3 (handlerStrand s) with
      handling := some p, pendRecs := rest, fltWord := p.word, fltPc := p.trap.pc } :=
  cc_setCC s _

theorem getStrand_startHandling (s : State) (p : Pending) (rest : List Pending) :
    getStrand (cc (startHandling s s.cur p rest)) 3 = handlerStrand s := by
  rw [cc_startHandling]
  exact getStrand_setStrand_self ..

theorem xget_handlerStrand (s : State) (r : Nat) : xget (handlerStrand s) r = 0 := ite_self _

theorem faultStrandStartsOnTheOldestRecord : FaultStrandStartsOnTheOldestRecord := by
  intro s p rest hr hf hh hq hp
  refine ⟨_, exec_faultStrandStart hr hf hh hq hp, nextRecord_le hp, ?_⟩
  rw [getStrand_startHandling, cc_startHandling]
  exact ⟨rfl, rfl, rfl, rfl, rfl, rfl, xget_handlerStrand s⟩

/-! ### The return from a fault (R217 to R219, R370) -/

/-- A verdict that lets the node go on is noted for the record handled; with no record pending the hold ends. -/
theorem giveVerdict_eq {s : State} {p : Pending} (v : BitVec 2) (hh : (cc s).handling = some p) :
    giveVerdict s v =
      let u := if v = 0 then s else copyUncount s p
      let k := { setStrand (cc u) 3 { getStrand (cc u) 3 with run := .idle } with
        handling := none, verdicts := (cc u).verdicts ++ [{ p := p, code := v, word := (cc u).fltWord, pc := (cc u).fltPc }]
        slotAt := curCyc u + 1 }
      if (cc u).pendRecs = [] then finishCheck (endHold (setCC u k) u.cur) u.cur else setCC u k := by
  simp only [giveVerdict, hh, setStrand_pendRecs, List.isEmpty_iff, setCC_cur]

theorem exec_fret_elsewhere {s : State} (v : BitVec 2) (hu : Free s []) (hc : OnCore s) (hn : NotFault s) :
    exec (.fret v) s = .next
      (faults s { code := 0x0001, detail := (packJ 0x3B (0#24 ++ v)).setWidth 64 } (packJ 0x3B (0#24 ++ v))) :=
  conduct_flt (.inr hc) (.inl rfl) hu (if_pos (by simp [hn]))

theorem exec_fret_abort {s : State} {p : Pending} (hu : Free s []) (hc : OnCore s)
    (hs : isFaultStrand s (cc s) (cc s).cs = true) (hh : (cc s).handling = some p) :
    exec (.fret 3) s = .next (haltTask (setCC (copyUncount s p)
      { cc (copyUncount s p) with slotAt := curCyc (copyUncount s p) + 1 }) (cc s).task 2 none) :=
  conduct_set (.inr hc) (.inl rfl) hu (by simp [hs, hh])

theorem exec_fret_resume {s : State} {v : BitVec 2} (hu : Free s []) (hc : OnCore s)
    (hs : isFaultStrand s (cc s) (cc s).cs = true) (hv : v ≠ 3) : exec (.fret v) s = .next (giveVerdict s v) :=
  conduct_set (.inr hc) (.inl rfl) hu ((if_neg (by simp [hs])).trans (if_neg hv))

theorem faultReturnGivesItsVerdict : FaultReturnGivesItsVerdict := by
  intro s v w hu hc hw
  cases hw
  refine ⟨exec_fret_elsewhere v hu hc, fun hs p hh => ⟨fun hv => ?_, fun hv => ?_⟩⟩
  · subst hv
    exact exec_fret_abort hu hc hs hh
  · exact (exec_fret_resume hu hc hs hv).trans (congrArg _ (giveVerdict_eq v hh))

theorem stoppedCopyWordLeavesItsSlot : StoppedCopyWordLeavesItsSlot := by
  intro s p
  refine ⟨fun h => ?_, fun lvl sl hsl hm t1 ht => ?_⟩
  · unfold copyUncount
    split
    next hsl => exact if_neg (h.resolve_left (by simp [hsl]))
    next => rfl
  · unfold copyUncount
    split
    next hsl' =>
      cases hsl.symm.trans hsl'
      rw [if_pos hm]
      dsimp only at ht ⊢
      split
      next hok => exact Except.ok.inj (hok.symm.trans ht)
      next herr => cases herr.symm.trans ht
    next hnone => cases hsl.symm.trans hnone

theorem verdictResumesTheStrand : VerdictResumesTheStrand := by
  intro k v
  dsimp only [verdict1]
  rw [getStrand_setStrand_self]
  exact ⟨rfl, rfl, fun _ => rfl, fun m hm => getStrand_setStrand_ne k _ hm⟩

/-- Settles O25: the fault strand starts on the least record, its return notes or ends by the verdict, a copy word that
does not resume gives up its bytes, and a verdict readies its strand. -/
theorem faultStrandRunsAndReturns : Obligations.FaultStrandRunsAndReturns :=
  ⟨faultStrandStartsOnTheOldestRecord, faultReturnGivesItsVerdict, stoppedCopyWordLeavesItsSlot, verdictResumesTheStrand⟩

end Sys2Proof.Machine
end

section
/-! SUPPORT. O30, O31, O32, O34, O54: vector words at issue and at landing. A word that touches no memory is `vecWord` with
the effect that the statements' tables give it; what it writes is read back bit by bit; and a step of queue V keeps a frame
that settling, issuing, landing and completing each keep. -/

namespace Sys2Proof.Machine

open Sys2Proof Sys2Proof.Statements

/-! ### The tables of words that touch no memory (R236 to R275) -/

/-- A table whose words are `vecWord` with their effects says what they do at issue. -/
theorem vectorIssues_of_exec {table : Instr → Option VecEffect}
    (h : ∀ s i e, table i = some e → exec i s = vecWord e.h e.uses e.run s) : vectorIssues table :=
  fun s i e _ hi hm hh hb => (h s i e hi).trans (vecWord_go hm hh hb)

/-- The words of a table are `vecWord` with the effect that the table writes out, operands and operation alike. -/
theorem exec_floatWord (s : State) (i : Instr) (e : VecEffect) (h : floatWord i = some e) :
    exec i s = vecWord e.h e.uses e.run s := by
  cases i
  case vfadd | vfsub | vfmul | vfma | vfms | vfnma | vfdiv | vfsqrt | vfexp2 | vflog2 | vfrsqrt | vfrcp | vfmin | vfmax
      | vfabs | vfneg | vclass =>
    cases h
    rfl
  all_goals cases h

theorem exec_intWord (s : State) (i : Instr) (e : VecEffect) (h : intWord i = some e) :
    exec i s = vecWord e.h e.uses e.run s := by
  cases i
  case vadd | vsub | vmul | vmulh | vmad | vmin | vmax | vabs | vand | vor | vxor | vsll | vsrl | vsra | vpopc | vsel
      | vperm | vrot | vslide | vzip | vunzip | vbcast | vrevb =>
    cases h
    rfl
  all_goals cases h

theorem exec_convertWord (s : State) (i : Instr) (e : VecEffect) (h : convertWord i = some e) :
    exec i s = vecWord e.h e.uses e.run s := by
  cases i
  case vcvt | vcvti | vcvtf | vpack | vunpk =>
    cases h
    rfl
  all_goals cases h

theorem exec_complexWord (s : State) (i : Instr) (e : VecEffect) (h : complexWord i = some e) :
    exec i s = vecWord e.h e.uses e.run s := by
  cases i
  case vcmul | vcmac | vconj | vbfly4 | vtwid =>
    cases h
    rfl
  case vbfly2 w =>
    change (if w.fn.getLsbD 3 then some _ else some _) = some e at h
    change execVbfly2 w s = _
    unfold execVbfly2
    split at h
    next hf =>
      cases h
      rw [if_pos hf]
      rfl
    next hf =>
      cases h
      rw [if_neg hf]
      simp only [decide_eq_true_eq]
      rfl
  all_goals cases h

theorem exec_reduceWord (s : State) (i : Instr) (e : VecEffect) (h : reduceWord i = some e) :
    exec i s = vecWord e.h e.uses e.run s := by
  cases i
  case vfsum | vfrmax | vfrmin | vfdot | vrsum | vrmax | vrmin =>
    cases h
    rfl
  all_goals cases h

/-- vmov with fn = 1 writes a mask from the lanes of a register (R258). -/
theorem execVmov_eq_one {w : VWord} {s : State} (h : w.fn = 1) : execVmov w s =
    vecWord w.h (mdUses w [vNo w.va] 2)
      (fun k => ((maskBits (maskOf k w.m) w.mz fun l => elemOf (vreg k w.va) 32 l != 0).mask w.vd, 0)) s := by
  unfold execVmov
  rw [h]
  rfl

/-- vmov with fn = 2 writes the lanes of a register from a mask (R258). -/
theorem execVmov_eq_two {w : VWord} {s : State} (h : w.fn = 2) : execVmov w s =
    vecReg w { vrUses w [] 2 with reads := (vrUses w [] 2).reads ++ mNo (fieldMask w.va) }
      (fun k => mapElems (maskOf k w.m) w.mz 32 fun l => (if (maskA w k).getLsbD l then 2 ^ 32 - 1 else 0, 0)) s := by
  unfold execVmov
  rw [h]
  rfl

/-- vmov with any other fn copies the enabled lanes of a register (R258). -/
theorem execVmov_eq_other {w : VWord} {s : State} (h1 : w.fn ≠ 1) (h2 : w.fn ≠ 2) : execVmov w s =
    vecReg w (vrUses w [w.va] 2) (fun k => mapElems (maskOf k w.m) w.mz 32 fun l => (elemOf (vreg k w.va) 32 l, 0)) s := by
  unfold execVmov
  split
  next h => exact absurd (BitVec.eq_of_toNat_eq h) h1
  next h => exact absurd (BitVec.eq_of_toNat_eq h) h2
  next => rfl

/-- A compare writes the lanes of a mask where bit 3 of fn is set, else elements of all ones or zero (R247). -/
theorem vecCmp_eq {w : VWord} {f : Core → Nat → Bool × Flags} {s : State} {e : VecEffect}
    (h : (if w.fn.getLsbD 3 then some (cmpMask w f) else some (elementwise w 2 [w.va, w.vb] fun k e =>
      let r := f k e
      (if r.1 then 2 ^ (vty w).width - 1 else 0, r.2))) = some e) :
    vecCmp w f s = vecWord e.h e.uses e.run s := by
  split at h
  next hf =>
    cases h
    exact if_pos hf
  next hf =>
    cases h
    exact if_neg hf

theorem exec_moveWord (s : State) (i : Instr) (e : VecEffect) (h : moveWord i = some e) :
    exec i s = vecWord e.h e.uses e.run s := by
  cases i
  case vsplat | vxrd | vxclr | vmand | vmor | vmxor | vmnot | vmpopc =>
    cases h
    rfl
  case vmov w =>
    change (if w.fn = 1 then some _ else if w.fn = 2 then some _ else some _) = some e at h
    change execVmov w s = _
    split at h
    next h1 =>
      cases h
      exact execVmov_eq_one h1
    next h1 =>
      split at h
      next h2 =>
        cases h
        exact execVmov_eq_two h2
      next h2 =>
        cases h
        exact execVmov_eq_other h1 h2
  case vfcmp w =>
    change execVfcmp w s = _
    unfold execVfcmp
    exact vecCmp_eq h
  case vcmp w =>
    change execVcmp w s = _
    unfold execVcmp
    exact vecCmp_eq h
  all_goals cases h

/-- A word of any of the six tables is `vecWord` with its effect. -/
theorem exec_eq_vecWord {s : State} {i : Instr} {e : VecEffect} (h : floatWord i = some e ∨ intWord i = some e
    ∨ moveWord i = some e ∨ convertWord i = some e ∨ complexWord i = some e ∨ reduceWord i = some e) :
    exec i s = vecWord e.h e.uses e.run s := by
  rcases h with h | h | h | h | h | h
  · exact exec_floatWord s i e h
  · exact exec_intWord s i e h
  · exact exec_moveWord s i e h
  · exact exec_convertWord s i e h
  · exact exec_complexWord s i e h
  · exact exec_reduceWord s i e h

/-- Settles O30: each word of the three tables is `vecWord` with its effect, and `vecWord_go` says how that issues. -/
theorem arithmeticVectorWordsComputeTheirElements : Obligations.ArithmeticVectorWordsComputeTheirElements :=
  ⟨vectorIssues_of_exec exec_floatWord, vectorIssues_of_exec exec_intWord, vectorIssues_of_exec exec_convertWord⟩

/-- Settles O31: as O30; a move, a compare and a butterfly each by the form that fn selects. -/
theorem maskComplexAndReductionWordsCompute : Obligations.MaskComplexAndReductionWordsCompute :=
  ⟨vectorIssues_of_exec exec_moveWord, vectorIssues_of_exec exec_complexWord, vectorIssues_of_exec exec_reduceWord⟩

/-! ### What an elementwise word writes (R230) -/

/-- Bit `j` of element `e'` in a number that holds a `w`-bit code at element `e`. -/
theorem testBit_code_at {w j : Nat} (v e e' : Nat) (hj : j < w) :
    (v % 2 ^ w * 2 ^ (w * e)).testBit (w * e' + j) = (decide (e = e') && v.testBit j) := by
  rw [Nat.testBit_mul_two_pow]
  rcases Nat.lt_trichotomy e e' with h | rfl | h
  · obtain ⟨d, rfl⟩ := Nat.exists_eq_add_of_lt h
    have hw : w * (e + d + 1) = w * e + w * d + w := by rw [Nat.mul_add_one, Nat.mul_add]
    have hlt : ¬ w * (e + d + 1) + j - w * e < w := by omega
    simp [Nat.testBit_mod_two_pow, hlt, Nat.ne_of_lt h]
  · simp [Nat.testBit_mod_two_pow, hj]
  · obtain ⟨d, rfl⟩ := Nat.exists_eq_add_of_lt h
    have hw : w * (e' + d + 1) = w * e' + w * d + w := by rw [Nat.mul_add_one, Nat.mul_add]
    have hle : ¬ w * (e' + d + 1) ≤ w * e' + j := by omega
    simp [hle, Nat.ne_of_gt h]

theorem put_val_testBit {w j : Nat} (o : VOut) (e v e' : Nat) (hj : j < w) :
    (o.put w e v).val.testBit (w * e' + j) = (o.val.testBit (w * e' + j) || (decide (e = e') && v.testBit j)) :=
  (Nat.testBit_or ..).trans (congrArg _ (testBit_code_at v e e' hj))

theorem put_msk_testBit {w j : Nat} (o : VOut) (e v e' : Nat) (hj : j < w) :
    (o.put w e v).msk.testBit (w * e' + j) = (o.msk.testBit (w * e' + j) || decide (e = e')) := by
  have h := testBit_code_at (2 ^ w - 1) e e' hj
  rw [Nat.mod_eq_of_lt (Nat.sub_lt (Nat.two_pow_pos w) Nat.one_pos), Nat.testBit_two_pow_sub_one, decide_eq_true hj,
    Bool.and_true] at h
  exact (Nat.testBit_or ..).trans (congrArg _ h)

/-- What `eachElem` does with one element (R230): the value where the mask enables it, else zero or nothing. -/
def stepElem (m : W64) (mz : Bool) (w : Nat) (f : Nat → Nat × Flags) (e : Nat) (o : VOut) : VOut :=
  if enabled m w e then (o.put w e (f e).1).flag (laneOf w e) (f e).2 else if mz then o.put w e 0 else o

theorem eachElem_succ (m : W64) (mz : Bool) (w : Nat) (f : Nat → Nat × Flags) (k e : Nat) (o : VOut) :
    eachElem m mz w f (k + 1) e o = eachElem m mz w f k (e + 1) (stepElem m mz w f e o) := rfl

theorem stepElem_val_testBit {m : W64} {mz : Bool} {w j : Nat} {f : Nat → Nat × Flags} (e e' : Nat) (o : VOut) (hj : j < w) :
    (stepElem m mz w f e o).val.testBit (w * e' + j)
      = (o.val.testBit (w * e' + j) || (decide (e = e') && (enabled m w e' && (f e').1.testBit j))) := by
  unfold stepElem
  by_cases he : e = e'
  · subst he
    cases enabled m w e <;> cases mz <;> simp [VOut.flag, put_val_testBit, hj]
  · cases enabled m w e <;> cases mz <;> simp [VOut.flag, put_val_testBit, hj, he]

theorem stepElem_msk_testBit {m : W64} {mz : Bool} {w j : Nat} {f : Nat → Nat × Flags} (e e' : Nat) (o : VOut) (hj : j < w) :
    (stepElem m mz w f e o).msk.testBit (w * e' + j)
      = (o.msk.testBit (w * e' + j) || (decide (e = e') && (enabled m w e' || mz))) := by
  unfold stepElem
  by_cases he : e = e'
  · subst he
    cases enabled m w e <;> cases mz <;> simp [VOut.flag, put_msk_testBit, hj]
  · cases enabled m w e <;> cases mz <;> simp [VOut.flag, put_msk_testBit, hj, he]

/-- A bit that only the step of element `e'` can set is set by the steps from `e` on where they reach `e'`. -/
theorem eachElem_testBit {m : W64} {mz : Bool} {w n e' : Nat} {f : Nat → Nat × Flags} {g : VOut → Nat} {b : Bool}
    (hg : ∀ e o, (g (stepElem m mz w f e o)).testBit n = ((g o).testBit n || (decide (e = e') && b))) (k : Nat) :
    ∀ e o, (g (eachElem m mz w f k e o)).testBit n = ((g o).testBit n || (decide (e ≤ e' ∧ e' < e + k) && b)) := by
  induction k with
  | zero =>
    intro e o
    have h : ¬ (e ≤ e' ∧ e' < e + 0) := by omega
    rw [eachElem, decide_eq_false h, Bool.false_and, Bool.or_false]
  | succ k ih =>
    intro e o
    have h : (e ≤ e' ∧ e' < e + (k + 1)) ↔ e = e' ∨ (e + 1 ≤ e' ∧ e' < e + 1 + k) := by omega
    rw [eachElem_succ, ih, hg]
    simp only [h, Bool.decide_or, Bool.or_assoc, ← Bool.and_or_distrib_right]

theorem mapElems_val_testBit {m : W64} {mz : Bool} {w j e : Nat} {f : Nat → Nat × Flags} (he : e < 2048 / w) (hj : j < w) :
    (mapElems m mz w f).val.testBit (w * e + j) = (enabled m w e && (f e).1.testBit j) := by
  rw [mapElems, eachElem_testBit fun d o => stepElem_val_testBit d e o hj]
  simp [he]

theorem mapElems_msk_testBit {m : W64} {mz : Bool} {w j e : Nat} {f : Nat → Nat × Flags} (he : e < 2048 / w) (hj : j < w) :
    (mapElems m mz w f).msk.testBit (w * e + j) = (enabled m w e || mz) := by
  rw [mapElems, eachElem_testBit fun d o => stepElem_msk_testBit d e o hj]
  simp [he]

theorem elemOf_testBit (v : BitVec 2048) (w e j : Nat) :
    (elemOf v w e).testBit j = (decide (j < w) && v.getLsbD (w * e + j)) := by
  rw [elemOf, Nat.testBit_mod_two_pow, Nat.testBit_div_two_pow, Nat.add_comm, BitVec.testBit_toNat]

/-- The bits of an element of a whole register lie in the register. -/
theorem elem_bit_lt {w e j : Nat} (he : e < 2048 / w) (hj : j < w) : w * e + j < 2048 := by
  have h1 : w * (e + 1) ≤ w * (2048 / w) := Nat.mul_le_mul_left w he
  have h2 : w * (2048 / w) ≤ 2048 := Nat.mul_div_le 2048 w
  rw [Nat.mul_succ] at h1
  omega

/-- What an elementwise word leaves in an element of its register (R230). -/
theorem elemOf_landed {m : W64} {mz : Bool} {w e : Nat} {f : Nat → Nat × Flags} {old : BitVec 2048} (he : e < 2048 / w) :
    let o := mapElems m mz w f
    let msk := BitVec.ofNat 2048 o.msk
    elemOf ((old &&& ~~~msk) ||| (BitVec.ofNat 2048 o.val &&& msk)) w e
      = if enabled m w e then (f e).1 % 2 ^ w else if mz then 0 else elemOf old w e := by
  refine Nat.eq_of_testBit_eq fun j => ?_
  rw [elemOf_testBit]
  by_cases hj : j < w
  · have hb := elem_bit_lt he hj
    simp only [BitVec.getLsbD_or, BitVec.getLsbD_and, BitVec.getLsbD_not, BitVec.getLsbD_ofNat, mapElems_val_testBit he hj,
      mapElems_msk_testBit he hj, hb, hj, decide_true, Bool.true_and]
    cases hm : enabled m w e
    · cases mz <;> simp [elemOf_testBit, hj]
    · simp [Nat.testBit_mod_two_pow, hj]
  · split
    · simp [Nat.testBit_mod_two_pow, hj]
    · split <;> simp [elemOf_testBit, hj]

/-- Settles O32: each bit of the element is the value's, the old one or zero, by what the word writes there. -/
theorem disabledElementsKeepOrZero : Obligations.DisabledElementsKeepOrZero :=
  fun _ _ _ _ _ _ _ he => elemOf_landed he

/-! ### Writing a core twice -/

/-- The later write at a key is the one that stays. -/
theorem tset_tset {α : Type} (t : Tbl α) (a : Nat) (v w : α) : tset (tset t a v) a w = tset t a w := by
  induction t with
  | nil => simp [tset]
  | cons e t ih =>
    obtain ⟨k, u⟩ := e
    rcases Nat.lt_trichotomy a k with h | rfl | h
    · simp [tset, h]
    · simp [tset]
    · simp [tset, Nat.lt_asymm h, Nat.ne_of_gt h, ih]

@[simp] theorem setCC_setCC (s : State) (k k' : Core) : setCC (setCC s k) k' = setCC s k' :=
  congrArg (fun c => ({ s with cores := c } : State)) (tset_tset ..)

/-! ### A word of an engine completes: what stays -/

/-- The frame of a step of queue V: nothing of the device changes but, of the current core, its queue V, its token links, its
vector unit and the agents that ended waits. -/
structure VecFrame (s t : State) : Prop where
  device : ({ t with cores := [] } : State) = { s with cores := [] }
  others : ∀ c, c ≠ s.cur → getCore t c = getCore s c
  core : engineFree (cc t) = engineFree (cc s)
  engines : ∀ p, p ≠ 0 → getEng (cc t) p = getEng (cc s) p

theorem VecFrame.refl (s : State) : VecFrame s s := ⟨rfl, fun _ _ => rfl, rfl, fun _ _ => rfl⟩

theorem VecFrame.cur {s t : State} (h : VecFrame s t) : t.cur = s.cur :=
  (congrArg State.cur h.device :)

theorem VecFrame.pro {s t : State} (h : VecFrame s t) : t.pro = s.pro :=
  (congrArg State.pro h.device :)

theorem VecFrame.trans {s t u : State} (h : VecFrame s t) (g : VecFrame t u) : VecFrame s u where
  device := g.device.trans h.device
  others c hc := (g.others c (h.cur ▸ hc)).trans (h.others c hc)
  core := g.core.trans h.core
  engines p hp := (g.engines p hp).trans (h.engines p hp)

/-- The cycle of the core is that of its cluster, shifted by its offset. -/
theorem VecFrame.curCyc {s t : State} (h : VecFrame s t) : curCyc t = curCyc s := by
  have hcl : t.clusters = s.clusters := (congrArg State.clusters h.device :)
  have href : t.ref = s.ref := (congrArg State.ref h.device :)
  have hoff : (getCore t t.cur).off = (getCore s s.cur).off := (congrArg Core.off h.core :)
  rw [h.cur] at hoff
  unfold Machine.curCyc cycOf schedCyc getCluster
  rw [h.cur, hcl, href, hoff]

theorem vecFrame_setCC {s : State} {k : Core} (hc : engineFree k = engineFree (cc s))
    (he : ∀ p, p ≠ 0 → getEng k p = getEng (cc s) p) : VecFrame s (setCC s k) where
  device := rfl
  others _ h := getCore_setCC_ne s k h
  core := by rw [cc_setCC, hc]
  engines p hp := by rw [cc_setCC, he p hp]

/-- A change of the vector unit alone. -/
theorem vecFrame_setVec (s : State) (v : Vec) : VecFrame s (setCC s { cc s with vec := v }) :=
  vecFrame_setCC rfl fun _ _ => rfl

@[simp] theorem engineFree_retirePush (k : Core) (i : Issued) : engineFree (retirePush k i) = engineFree k := by
  unfold retirePush
  split <;> rfl

@[simp] theorem getEng_retirePush (k : Core) (i : Issued) (q : Nat) : getEng (retirePush k i) q = getEng k q := by
  unfold retirePush
  split <;> rfl

@[simp] theorem retirePush_vec (k : Core) (i : Issued) : (retirePush k i).vec = k.vec := by
  unfold retirePush
  split <;> rfl

theorem drainSetter_by (k k' : Core) (q n : Nat) (t : Strand) (b : Nat × Nat) :
    { drainSetter k k' q n t with by_ := b } = { t with by_ := b } := by
  unfold drainSetter
  split
  · split <;> rfl
  · rfl

/-- Noting who ended the waits of strands is bookkeeping. -/
theorem engineFree_mapSetter (k a b : Core) (q : Nat) :
    engineFree { k with strands := k.strands.map fun (n, t) => (n, drainSetter a b q n t) } = engineFree k := by
  simp only [engineFree, List.map_map, Function.comp_def, drainSetter_by]

/-- The core in which a word has completed, before its strands note it. -/
def wordRetired (k : Core) (q : Nat) (i : Issued) : Core :=
  let k := retirePush k i
  let e := getEng k q
  let k := setEng k q { e with cseq := if i.w.skipped then e.cseq else e.cseq + 1 }
  settleMarkers { k with lastDone := q } q

theorem completeWord_eq (s : State) (q : Nat) (i : Issued) : completeWord s q i =
    let k := wordRetired (cc s) q i
    setCC s { k with strands := k.strands.map fun (n, t) => (n, drainSetter (cc s) k q n t) } := rfl

theorem engineFree_wordRetired (k : Core) (q : Nat) (i : Issued) : engineFree (wordRetired k q i) = engineFree k :=
  engineFree_retirePush k i

theorem getEng_wordRetired_ne (k : Core) {q p : Nat} (i : Issued) (h : p ≠ q) : getEng (wordRetired k q i) p = getEng k p :=
  calc getEng (wordRetired k q i) p
    _ = getEng (setEng (retirePush k i) q _) p := getEng_setEng_ne _ _ h
    _ = getEng (retirePush k i) p := getEng_setEng_ne _ _ h
    _ = getEng k p := getEng_retirePush k i p

theorem getEng_wordRetired_wait (k : Core) (q : Nat) (i : Issued) : (getEng (wordRetired k q i) q).wait = (getEng k q).wait := by
  simp only [wordRetired, settleMarkers, getEng_setEng_self]
  change (getEng (setEng (retirePush k i) q _) q).wait = _
  rw [getEng_setEng_self, getEng_retirePush]

theorem completeWord_vec (s : State) (q : Nat) (i : Issued) : (cc (completeWord s q i)).vec = (cc s).vec := by
  rw [completeWord_eq, cc_setCC]
  exact retirePush_vec (cc s) i

theorem completeWord_wait (s : State) (q : Nat) (i : Issued) :
    (getEng (cc (completeWord s q i)) q).wait = (getEng (cc s) q).wait := by
  rw [completeWord_eq, cc_setCC]
  exact getEng_wordRetired_wait (cc s) q i

theorem vecFrame_completeWord (s : State) (i : Issued) : VecFrame s (completeWord s 0 i) :=
  vecFrame_setCC ((engineFree_mapSetter ..).trans (engineFree_wordRetired ..)) fun _ hp => getEng_wordRetired_ne (cc s) i hp

/-! ### Landing (R238) -/

theorem landedVec_eq (v : Vec) (d : VDest) : landedVec v d = landDest v d := by
  cases d <;> rfl

/-- Landing reads and leaves the words in flight. -/
theorem landDest_withFly (v : Vec) (l : List VIssued) (d : VDest) :
    landDest { v with fly := l } d = { landDest v d with fly := l } := by
  cases d <;> rfl

theorem landDest_v_ne {v : Vec} {d : VDest} {r : Nat} (h : ∀ val msk, d ≠ .reg r val msk) :
    tget 0 (landDest v d).v r = tget 0 v.v r := by
  cases d with
  | none | mask | clearVx => rfl
  | reg vd val msk =>
    have hr : r ≠ vd := fun e => h val msk (e ▸ rfl)
    exact (tget_tput ..).trans (if_neg hr)

theorem landDest_m_ne {v : Vec} {d : VDest} {r : Nat} (h : ∀ val msk, d ≠ .mask r val msk) :
    tget 0 (landDest v d).m r = tget 0 v.m r := by
  cases d with
  | none | reg | clearVx => rfl
  | mask md val msk =>
    have hr : r ≠ md := fun e => h val msk (e ▸ rfl)
    exact (tget_tput ..).trans (if_neg hr)

theorem vecFrame_vecLand (s : State) (x : VIssued) : VecFrame s (vecLand s x) :=
  (vecFrame_setVec s _).trans (vecFrame_completeWord _ x.i)

theorem vecLand_wait (s : State) (x : VIssued) : (getEng (cc (vecLand s x)) 0).wait = (getEng (cc s) 0).wait := by
  rw [vecLand, completeWord_wait, cc_setCC]
  rfl

/-- The landing of a word taken out of those in flight. -/
theorem vecLand_withFly (s : State) (x : VIssued) (rest : List VIssued) :
    vecLand (setCC s { cc s with vec := { (cc s).vec with fly := rest } }) x =
      completeWord (setCC s { cc s with
        vec := { landedVec (cc s).vec x.dest with fly := rest, vx := (landedVec (cc s).vec x.dest).vx ||| x.flags } }) 0 x.i := by
  simp only [vecLand, cc_setCC, setCC_setCC, landDest_withFly, landedVec_eq]

/-! ### The words whose cycle has come -/

theorem vecTake_cons_due {now d : Nat} {x : VIssued} (rest : List VIssued) (hd : x.i.due = some d) (h : d ≤ now) :
    vecTake now (x :: rest) = some (x, rest) := by
  simp [vecTake, hd, h]

theorem vecTake_none {now : Nat} {l : List VIssued} (h : ∀ y ∈ l, ∀ e, y.i.due = some e → now < e) :
    vecTake now l = none := by
  induction l with
  | nil => rfl
  | cons y l ih =>
    have hl : vecTake now l = none := ih fun z hz => h z (List.mem_cons_of_mem y hz)
    have hy := h y List.mem_cons_self
    cases hd : y.i.due with
    | none => simp [vecTake, hd, hl]
    | some e => simp [vecTake, hd, hl, hy e hd]

theorem vecComplete_of_none (n : Nat) {s : State} (h : vecTake (curCyc s) (cc s).vec.fly = none) : vecComplete n s = s := by
  cases n with
  | zero => rfl
  | succ n => simp only [vecComplete, h]

theorem vecComplete_succ {n : Nat} {s : State} {x : VIssued} {rest : List VIssued}
    (h : vecTake (curCyc s) (cc s).vec.fly = some (x, rest)) :
    vecComplete (n + 1) s = vecComplete n (vecLand (setCC s { cc s with vec := { (cc s).vec with fly := rest } }) x) := by
  simp only [vecComplete, h]

theorem vecFrame_vecComplete (n : Nat) : ∀ s, VecFrame s (vecComplete n s) := by
  induction n with
  | zero => exact VecFrame.refl
  | succ n ih =>
    intro s
    cases h : vecTake (curCyc s) (cc s).vec.fly with
    | none =>
      rw [vecComplete_of_none (n + 1) h]
      exact .refl s
    | some p =>
      rw [vecComplete_succ h]
      exact (vecFrame_setVec s _).trans ((vecFrame_vecLand _ _).trans (ih _))

theorem vecComplete_wait (n : Nat) : ∀ s, (getEng (cc (vecComplete n s)) 0).wait = (getEng (cc s) 0).wait := by
  induction n with
  | zero => exact fun _ => rfl
  | succ n ih =>
    intro s
    cases h : vecTake (curCyc s) (cc s).vec.fly with
    | none => rw [vecComplete_of_none (n + 1) h]
    | some p =>
      rw [vecComplete_succ h, ih, vecLand_wait, cc_setCC]
      rfl

theorem vecFrame_vecSettle (s : State) : VecFrame s (vecSettle s) := vecFrame_vecComplete _ s

theorem vecSettle_wait (s : State) : (getEng (cc (vecSettle s)) 0).wait = (getEng (cc s) 0).wait := vecComplete_wait _ s

theorem dueVectorWordLands : DueVectorWordLands := by
  intro s x rest d hf hd hle hr v
  have htake : vecTake (curCyc s) (cc s).vec.fly = some (x, rest) := hf ▸ vecTake_cons_due rest hd hle
  change Host.Outcome.next (vecSettle s) = _
  rw [vecSettle, hf, List.length_cons, vecComplete_succ htake, vecLand_withFly]
  refine congrArg _ (vecComplete_of_none _ (vecTake_none ?_))
  rw [completeWord_vec, cc_setCC, (vecFrame_completeWord _ _).curCyc, (vecFrame_setVec s _).curCyc]
  exact hr

/-! ### The memory word that holds queue V (R281, R284, R485) -/

theorem landsAfter_cons (now : Nat) (d : VDest) (x : VIssued) (l : List VIssued) :
    landsAfter now d (x :: l) = landsAfter (landsAfter now d [x]) d l := rfl

theorem le_landsAfter_one (now : Nat) (d : VDest) (x : VIssued) : now ≤ landsAfter now d [x] := by
  simp only [landsAfter, List.foldl]
  split
  · split
    · exact Nat.le_max_left ..
    · exact Nat.le_refl now
  · exact Nat.le_refl now

theorem lt_landsAfter_one {now e : Nat} {d : VDest} {x : VIssued} (he : x.i.due = some e) (hn : destNo d ≠ none)
    (hd : destNo x.dest = destNo d) : e < landsAfter now d [x] := by
  obtain ⟨r, hr⟩ := Option.ne_none_iff_exists'.mp hn
  simp only [landsAfter, List.foldl, he, hd, hr, if_true]
  exact Nat.le_max_right ..

theorem le_landsAfter (d : VDest) (l : List VIssued) : ∀ now, now ≤ landsAfter now d l := by
  induction l with
  | nil => exact Nat.le_refl
  | cons x l ih => exact fun now => Nat.le_trans (le_landsAfter_one now d x) (ih _)

/-- A value that has come lands after every word in flight that writes its register (R239). -/
theorem lt_landsAfter {d : VDest} (hn : destNo d ≠ none) {l : List VIssued} {y : VIssued} {e : Nat} (hy : y ∈ l)
    (he : y.i.due = some e) (hd : destNo y.dest = destNo d) : ∀ now, e < landsAfter now d l := by
  induction l with
  | nil => cases hy
  | cons x l ih =>
    intro now
    rw [landsAfter_cons]
    cases hy with
    | head => exact Nat.lt_of_lt_of_le (lt_landsAfter_one he hn hd) (le_landsAfter d l _)
    | tail _ hy => exact ih hy _

/-- The word lands in the first cycle behind every earlier write of its register. -/
theorem remoteWordLands_remoteOver (s : State) (x : VIssued) (rest : List VIssued) (r : List (VAcc × Nat)) :
    remoteWordLands s (remoteOver x rest r s) x rest r :=
  ⟨landsAfter (curCyc s) x.dest rest, le_landsAfter .., fun _ hy _ he hn hd => lt_landsAfter hn hy he hd _, rfl⟩

/-- What the next step of the word that holds queue V makes of it. -/
def remoteStep (s : State) (x : VIssued) (l : List VAcc) : VolStep :=
  volStep s 0 x.load (lowVa l) (if x.load then [] else l) l

/-- The word that holds queue V faults after its issue. -/
def remoteFault (s : State) (x : VIssued) (f : Flt) : State :=
  raise2 { clearAcks s 0 with fresh := s.fresh + 1 } s.cur 0 x.i.w f true 0

section
variable {s : State} {x : VIssued} {l : List VAcc} {rest : List VIssued}
  (hw : holdingWord (cc s).vec.fly = some (x, l, rest))
include hw

theorem exec_remoteAccess_flt {f : Flt} (h : remoteStep s x l = .flt f) :
    exec .vectorRemoteAccessDone s = .next (remoteFault s x f) := by
  change execVectorRemoteAccessDone s = _
  unfold remoteStep at h
  simp only [execVectorRemoteAccessDone, hw, h, remoteFault]

theorem exec_remoteAccess_done (h : remoteStep s x l = .done) :
    exec .vectorRemoteAccessDone s = .next (remoteOver x rest [] s) := by
  change execVectorRemoteAccessDone s = _
  unfold remoteStep at h
  simp only [execVectorRemoteAccessDone, hw, h]

theorem exec_remoteAccess_portFlt {f : Flt} (h : remoteStep s x l = .ready) (hp : vmemPortChecks x.load l s = some f) :
    exec .vectorRemoteAccessDone s = .next (remoteFault s x f) := by
  change execVectorRemoteAccessDone s = _
  unfold remoteStep at h
  simp only [execVectorRemoteAccessDone, hw, h, hp, remoteFault]

/-- Once its checks have passed the word's accesses are performed; stores sent to other devices are then awaited. -/
theorem exec_remoteAccess_ready (h : remoteStep s x l = .ready) (hp : vmemPortChecks x.load l s = none) :
    exec .vectorRemoteAccessDone s =
      if !x.load && l.any fun a => isVol a.loc then .next (vmemPerform x.load x.i.w l s).1
      else .next (remoteOver x rest (vmemPerform x.load x.i.w l s).2 (vmemPerform x.load x.i.w l s).1) := by
  change execVectorRemoteAccessDone s = _
  unfold remoteStep at h
  simp only [execVectorRemoteAccessDone, hw, h, hp]

end

theorem remoteVectorWordCompletes : RemoteVectorWordCompletes := by
  intro s x l rest hw step fault
  refine ⟨fun hs hp => ⟨fun hl => ?_, fun hl hv => ?_⟩, fun hs => ?_, fun f hs hp => ?_, fun f hs => ?_⟩
  · have hc : ¬ (!x.load && l.any fun a => isVol a.loc) = true := by
      rcases hl with hl | hl
      · simp [hl]
      · have hn : (l.any fun a => isVol a.loc) = false := by simpa using hl
        simp [hn]
    exact ⟨_, (exec_remoteAccess_ready hw hs hp).trans (if_neg hc), remoteWordLands_remoteOver ..⟩
  · have hc : (!x.load && l.any fun a => isVol a.loc) = true := by simpa [hl] using hv
    exact (exec_remoteAccess_ready hw hs hp).trans (if_pos hc)
  · exact ⟨_, exec_remoteAccess_done hw hs, remoteWordLands_remoteOver ..⟩
  · exact exec_remoteAccess_portFlt hw hs hp
  · exact exec_remoteAccess_flt hw hs

/-- Settles O34: the due word is taken and no other is; the word that holds its queue goes by its next step. -/
theorem vectorWordsInFlightLand : Obligations.VectorWordsInFlightLand :=
  ⟨dueVectorWordLands, remoteVectorWordCompletes⟩

/-! ### The frame of the words that touch no memory -/

/-- With tracing off no record is written (R496, R512). -/
theorem traceAdd_off {s : State} (r : Trace) (h : s.pro.ctl.getLsbD 0 = false) : traceAdd s r = s := by
  unfold traceAdd
  dsimp only
  rw [h]
  rfl

/-- A word that ends no flag wait, or ends it untraced, writes no trace record. -/
theorem closeEngWait_untraced {s : State} {q : Nat} (w : QWord)
    (h : (getEng (cc s) q).wait = none ∨ s.pro.ctl.getLsbD 0 = false) : closeEngWait s q w = s := by
  unfold closeEngWait
  dsimp only
  split
  · rfl
  next hw =>
    have hc : s.pro.ctl.getLsbD 0 = false := h.resolve_left (by simp [hw])
    split
    · exact traceAdd_off _ hc
    · rfl

/-- A word that leaves its queue untraced changes its queue and token links. -/
theorem takeWord_untraced {s : State} {q : Nat} (h : EHead) (w : QWord)
    (hu : (getEng (cc s) q).wait = none ∨ s.pro.ctl.getLsbD 0 = false) :
    ∃ ls rs e, (takeWord s q h w).1 = setCC s (unopen (setEng { cc s with links := ls, resv := rs } q e) (4 + q)) := by
  simp only [takeWord, closeEngWait_untraced w hu]
  cases w.held with
  | true => exact ⟨_, _, _, rfl⟩
  | false => cases h.pop <;> cases h.push <;> exact ⟨_, _, _, rfl⟩

theorem vecFrame_takeWord {s : State} (h : EHead) (w : QWord)
    (hu : (getEng (cc s) 0).wait = none ∨ s.pro.ctl.getLsbD 0 = false) :
    VecFrame s (takeWord s 0 h w).1 ∧ (cc (takeWord s 0 h w).1).vec = (cc s).vec := by
  obtain ⟨ls, rs, e, he⟩ := takeWord_untraced h w hu
  rw [he, cc_setCC]
  exact ⟨vecFrame_setCC rfl fun _ hp => getEng_setEng_ne _ e hp, rfl⟩

/-- A word put in flight leaves the registers, the masks and the flags. -/
theorem vecStart_registers (s : State) (x : VIssued) (c : Bool) :
    (cc (vecStart s x c)).vec.v = (cc s).vec.v ∧ (cc (vecStart s x c)).vec.m = (cc s).vec.m
      ∧ (cc (vecStart s x c)).vec.vx = (cc s).vec.vx := by
  rw [vecStart, cc_setCC]
  exact ⟨rfl, rfl, rfl⟩

theorem vecFrame_vecStart (s : State) (x : VIssued) (c : Bool) : VecFrame s (vecStart s x c) := vecFrame_setVec s _

/-- The registers, the masks and the flags after a word is taken and put in flight are those before. -/
theorem takeStart_frame {s : State} (h : EHead) (w : QWord) (x : VIssued) (c : Bool)
    (hu : (getEng (cc s) 0).wait = none ∨ s.pro.ctl.getLsbD 0 = false) :
    let t := vecStart (takeWord s 0 h w).1 x c
    VecFrame s t ∧ (cc t).vec.v = (cc s).vec.v ∧ (cc t).vec.m = (cc s).vec.m ∧ (cc t).vec.vx = (cc s).vec.vx := by
  obtain ⟨hf, hv⟩ := vecFrame_takeWord h w hu
  exact ⟨hf.trans (vecFrame_vecStart ..), hv ▸ vecStart_registers ..⟩

/-- Settles O54: settling, taking the word and putting it in flight each keep the frame; so do landing and completing. -/
theorem frameOfVectorWords : Obligations.FrameOfVectorWords := by
  constructor
  · intro s t i e w hi u hm hh hb hu ht
    have hs := vecFrame_vecSettle s
    have hu' : (getEng (cc u) 0).wait = none ∨ u.pro.ctl.getLsbD 0 = false := by
      rwa [vecSettle_wait, hs.pro]
    cases ht.symm.trans ((exec_eq_vecWord hi).trans (vecWord_go hm hh hb))
    obtain ⟨hg, hv, hmask, hvx⟩ := takeStart_frame e.h w _ e.uses.classC hu'
    obtain ⟨hdev, hoth, hcore, heng⟩ := hs.trans hg
    exact ⟨hdev, hoth, hcore, heng, hv, hmask, hvx⟩
  · intro s t x rest d hf hd hle hr ht
    cases ht.symm.trans (dueVectorWordLands s x rest d hf hd hle hr)
    obtain ⟨hdev, hoth, hcore, heng⟩ := (vecFrame_setVec s _).trans (vecFrame_completeWord _ x.i)
    refine ⟨hdev, hoth, hcore, heng, fun r hn => ?_, fun r hn => ?_⟩
    · rw [completeWord_vec, cc_setCC, landedVec_eq]
      exact landDest_v_ne hn
    · rw [completeWord_vec, cc_setCC, landedVec_eq]
      exact landDest_m_ne hn

end Sys2Proof.Machine
end

section
/-! SUPPORT. O35, O36, O37: generator words. A word of class W or M is settled by the lemma of its issue and the lemma of its
landing, and O35 fails only of a word in flight that has faulted; a memory word that holds queue G goes by its next step; a
fill word writes a run of its positions. -/

namespace Sys2Proof.Machine

open Sys2Proof Sys2Proof.Statements

/-! ### Words taken out of those in flight -/

theorem takeFirst_cons_of_pos {α : Type} {p : α → Bool} {x : α} (l : List α) (h : p x = true) :
    takeFirst p (x :: l) = some (x, l) := if_pos h

theorem takeFirst_eq_none {α : Type} {p : α → Bool} {l : List α} (h : ∀ y ∈ l, p y = false) : takeFirst p l = none := by
  induction l with
  | nil => rfl
  | cons y l ih => simp [takeFirst, h y List.mem_cons_self, ih fun z hz => h z (List.mem_cons_of_mem y hz)]

theorem genComplete_of_none (n : Nat) {s : State} (h : takeFirst (genDue (curCyc s)) (cc s).gen.fly = none) :
    genComplete n s = s := by
  cases n with
  | zero => rfl
  | succ n => simp only [genComplete, h]

theorem genComplete_succ {n : Nat} {s : State} {x : GIssued} {rest : List GIssued}
    (h : takeFirst (genDue (curCyc s)) (cc s).gen.fly = some (x, rest)) :
    genComplete (n + 1) s = genComplete n (genLand (setGenUnit s { (cc s).gen with fly := rest }) x) := by
  simp only [genComplete, h]

/-- With no word due and none that holds the queue, the event does nothing. -/
theorem exec_writeLanding_idle {s : State} (hd : takeFirst (genDue (curCyc s)) (cc s).gen.fly = none)
    (hh : takeFirst genHolding (cc s).gen.fly = none) : exec .generatorWriteLanding s = .next s := by
  change execGeneratorWriteLanding s = _
  simp only [execGeneratorWriteLanding, genComplete_of_none _ hd, hh]

/-! ### A word of the generator unit completes: what stays -/

@[simp] theorem cc_setGenUnit (s : State) (u : GenUnit) : cc (setGenUnit s u) = { cc s with gen := u } := cc_setCC ..

@[simp] theorem setGenUnit_setGenUnit (s : State) (u v : GenUnit) : setGenUnit (setGenUnit s u) v = setGenUnit s v := by
  simp only [setGenUnit, cc_setCC, setCC_setCC]

@[simp] theorem retirePush_gen (k : Core) (i : Issued) : (retirePush k i).gen = k.gen := by
  unfold retirePush
  split <;> rfl

theorem completeWord_gen (s : State) (q : Nat) (i : Issued) : (cc (completeWord s q i)).gen = (cc s).gen := by
  rw [completeWord_eq, cc_setCC]
  exact retirePush_gen (cc s) i

/-- Of a core's fields its cycle reads the offset alone. -/
theorem curCyc_setCC_of_off {s : State} {k : Core} (h : k.off = (cc s).off) : curCyc (setCC s k) = curCyc s := by
  unfold curCyc cycOf schedCyc
  rw [setCC_cur, getCore_setCC_cur, h]
  rfl

/-- The cycle of the core does not depend on its generator unit. -/
theorem curCyc_setGenUnit (s : State) (u : GenUnit) : curCyc (setGenUnit s u) = curCyc s :=
  curCyc_setCC_of_off rfl

theorem completeWord_curCyc (s : State) (q : Nat) (i : Issued) : curCyc (completeWord s q i) = curCyc s :=
  curCyc_setCC_of_off (congrArg Core.off (engineFree_wordRetired (cc s) q i) :)

/-! ### Words that change a generator (R304, R310) -/

theorem genErr_eq_none {k : Core} {g : Nat} (h : k.gen.bad.contains g = false) : genErr k g = none := by
  simp only [genErr, h, Bool.false_eq_true, if_false]

/-- A word whose cycle is still to come is not due. -/
theorem genDue_of_later {now : Nat} {x : GIssued} (h : ∀ e, x.i.due = some e → now < e) : genDue now x = false := by
  cases hd : x.i.due with
  | none => simp [genDue, hd]
  | some e => simp [genDue, hd, h e hd]

/-- The row of each word that changes a generator is `genWord` with its change. -/
theorem exec_genChange {i : Instr} {h : EHead} {g : BitVec 3} {rd : Bool} {f : Gen → Gen}
    (hi : genChange i = some (h, g, rd, f)) :
    ∃ c : GUpd, (∀ x, genApply c x = f x) ∧ ∀ s, exec i s = genWord h g rd c s := by
  unfold genChange at hi
  split at hi <;> cases hi
  case h_1 w | h_2 w | h_5 w => exact ⟨_, fun _ => by cases w.sel <;> rfl, fun _ => rfl⟩
  all_goals exact ⟨_, fun _ => rfl, fun _ => rfl⟩

theorem genWord_go {s : State} {h : EHead} {g : BitVec 3} {rd : Bool} {c : GUpd} {w : QWord}
    (hm : MayIssue 2 h (genSettle s) w) (hh : genHolds (genSettle s) g.toNat rd (some 1) = [])
    (hb : rd = true → (cc (genSettle s)).gen.bad.contains g.toNat = false) :
    genWord h g rd c s = .next (genStart (takeWord (genSettle s) 2 h w).1
      { i := { (takeWord (genSettle s) 2 h w).2 with due := some ((takeWord (genSettle s) 2 h w).2.t + 1) }
        upd := some (g.toNat, c) }) := by
  have herr : (if rd then genErr (cc (genSettle s)) g.toNat else none) = none := by
    split
    next hr => exact genErr_eq_none (hb hr)
    next => rfl
  unfold genWord
  rw [issueState_go (s' := genSettle s)
    (f := fun s i => genStart s { i := { i with due := some (i.t + 1) }, upd := some (g.toNat, c) }) hm rfl hh]
  simp only [herr]

/-- The first half of O35 holds: the word issues with its change one cycle away. -/
theorem exec_genChange_issues {s : State} {i : Instr} {h : EHead} {g : BitVec 3} {rd : Bool} {f : Gen → Gen} {w : QWord}
    (hi : genChange i = some (h, g, rd, f)) (hm : MayIssue 2 h (genSettle s) w)
    (hh : genHolds (genSettle s) g.toNat rd (some 1) = [])
    (hb : rd = true → (cc (genSettle s)).gen.bad.contains g.toNat = false) :
    ∃ c : GUpd, (∀ x, genApply c x = f x) ∧ exec i s = .next (genStart (takeWord (genSettle s) 2 h w).1
      { i := { (takeWord (genSettle s) 2 h w).2 with due := some ((takeWord (genSettle s) 2 h w).2.t + 1) }
        upd := some (g.toNat, c) }) := by
  obtain ⟨c, hc, he⟩ := exec_genChange hi
  exact ⟨c, hc, (he s).trans (genWord_go hm hh hb)⟩

/-- The generator that lands takes its change, every other keeps its fields. -/
theorem tget_landGen (u : GenUnit) (g : Nat) (c : GUpd) (h : Nat) :
    tget {} (landGen u g c).g h = if h = g then genApply c (tget {} u.g g) else tget {} u.g h := tget_tput ..

/-- The first word's change is due, and the word has not faulted: it lands and completes, and no other word does. -/
theorem exec_writeLanding_change {s : State} {x : GIssued} {rest : List GIssued} {g d : Nat} {c : GUpd}
    (hf : (cc s).gen.fly = x :: rest) (hd : x.i.due = some d) (hle : d ≤ curCyc s) (hfill : x.fill = none)
    (hok : x.i.faulted = false) (hu : x.upd = some (g, c))
    (hr : ∀ y ∈ rest, (∀ e, y.i.due = some e → curCyc s < e) ∧ y.acc = none) :
    exec .generatorWriteLanding s =
      .next (completeWord (setGenUnit s { landGen (cc s).gen g c with fly := rest }) 2 x.i) := by
  have htake : takeFirst (genDue (curCyc s)) (cc s).gen.fly = some (x, rest) :=
    hf ▸ takeFirst_cons_of_pos rest (by simp [genDue, hfill, hok, hd, hle])
  have hland : genLand (setGenUnit s { (cc s).gen with fly := rest }) x
      = completeWord (setGenUnit s { landGen (cc s).gen g c with fly := rest }) 2 x.i := by
    simp only [genLand, hu, cc_setGenUnit, setGenUnit_setGenUnit]
    rfl
  have hfly : (cc (completeWord (setGenUnit s { landGen (cc s).gen g c with fly := rest }) 2 x.i)).gen.fly = rest := by
    rw [completeWord_gen, cc_setGenUnit]
  have hidle : takeFirst (genDue (curCyc s)) rest = none :=
    takeFirst_eq_none fun y hy => genDue_of_later (hr y hy).1
  have hhold : takeFirst genHolding rest = none :=
    takeFirst_eq_none fun y hy => by simp [genHolding, (hr y hy).2]
  change execGeneratorWriteLanding s = _
  simp only [execGeneratorWriteLanding, hf, List.length_cons, genComplete_succ htake, hland]
  rw [genComplete_of_none]
  · simp only [hfly, hhold]
  · rw [hfly, completeWord_curCyc, curCyc_setGenUnit, hidle]

/-- The second half of O35 holds of a word that has not faulted. -/
theorem exec_writeLanding_changesItsGenerator {s : State} {x : GIssued} {rest : List GIssued} {g d : Nat} {c : GUpd}
    (hf : (cc s).gen.fly = x :: rest) (hd : x.i.due = some d) (hle : d ≤ curCyc s) (hfill : x.fill = none)
    (hok : x.i.faulted = false) (hu : x.upd = some (g, c))
    (hr : ∀ y ∈ rest, (∀ e, y.i.due = some e → curCyc s < e) ∧ y.acc = none) :
    ∃ u : GenUnit, exec .generatorWriteLanding s = .next (completeWord (setGenUnit s u) 2 x.i) ∧ u.fly = rest
      ∧ tget {} u.g g = genApply c (tget {} (cc s).gen.g g) ∧ ∀ h, h ≠ g → tget {} u.g h = tget {} (cc s).gen.g h :=
  ⟨_, exec_writeLanding_change hf hd hle hfill hok hu hr, rfl, (tget_landGen ..).trans (if_pos rfl),
    fun _ hn => (tget_landGen ..).trans (if_neg hn)⟩

/-- A word that faulted, alone in flight with a change that is due. Only a word that holds its queue faults after its issue, and
such a word owes its accesses; the statement does not exclude this one. -/
def faultedChange : GIssued :=
  { i := { w := {}, t := 0, due := some 0, push := none, faulted := true }, upd := some (3, .draw 9) }

/-- Core 0 with that word in flight. -/
def faultedChangeState : State := { cores := [(0, { gen := { fly := [faultedChange] } })] }

/-- A word that faulted does not land. -/
theorem exec_writeLanding_faultedChange : exec .generatorWriteLanding faultedChangeState = .next faultedChangeState :=
  exec_writeLanding_idle rfl rfl

/-- Refutes O35: of the word in flight the statement does not ask that it has not faulted, and one that has keeps its place,
where the statement says that it completes. -/
theorem not_generatorWordsMakeTheirChange : ¬ Obligations.GeneratorWordsMakeTheirChange := by
  intro ⟨_, hland⟩
  obtain ⟨u, he, hfly, -⟩ := hland faultedChangeState faultedChange [] 3 0 (.draw 9) rfl rfl (Nat.zero_le _) rfl rfl rfl
    (fun _ hy => nomatch hy)
  have hs : faultedChangeState = completeWord (setGenUnit faultedChangeState u) 2 faultedChange.i :=
    Host.Outcome.next.inj (exec_writeLanding_faultedChange.symm.trans he)
  have hgen : (cc faultedChangeState).gen.fly = u.fly := by
    rw [hs, completeWord_gen, cc_setGenUnit]
  exact List.cons_ne_nil _ _ (hgen.trans hfly)

/-! ### Memory words at issue (R305, R306) -/

theorem genMemOf_eq_some {i : Instr} {g : GMem} {w : GS} (h : genMemOf i = some (g, w)) :
    (i = .gfreq w ∧ g = .freq) ∨ (i = .gload w ∧ g = .load) ∨ (i = .gsave w ∧ g = .save) := by
  unfold genMemOf at h
  split at h <;> cases h <;> simp

theorem exec_genMemOf {s : State} {i : Instr} {g : GMem} {w : GS} (h : genMemOf i = some (g, w)) : exec i s = genMem g w s := by
  obtain ⟨rfl, rfl⟩ | ⟨rfl, rfl⟩ | ⟨rfl, rfl⟩ := genMemOf_eq_some h <;> rfl

/-- The memory word may issue from `t`, and its checks before those at the ports pass: they lead to `s1` and locate its accesses. -/
structure GenMemPasses (g : GMem) (w : GS) (qw : QWord) (t s1 : State) (l : List VAcc) : Prop where
  issue : MayIssue 2 w.h t qw
  legal : gmemBad g (snapOf qw w.ss) = false
  unheld : genHolds t w.gd.toNat (gmemStores g) (if gmemStores g then none else some 6) = []
  inOrder : fillOrder t (gmemAccs g (snapOf qw w.ss) {}) = []
  sound : gmemStores g = true → (cc t).gen.bad.contains w.gd.toNat = false
  aligned : imageAlign g (snapOf qw w.ss) = none
  walked : walksAsked t 2 (gmemAccs g (snapOf qw w.ss) (getGen (cc t) w.gd.toNat)) = none
  checked : genChecks (gmemStores g) (if g = .freq then 4 else 8) qw
    (gmemAccs g (snapOf qw w.ss) (getGen (cc t) w.gd.toNat)) t = .ok (s1, l)

section
variable {g : GMem} {w : GS} {qw : QWord} {s s1 : State} {l : List VAcc} (h : GenMemPasses g w qw (genSettle s) s1 l)
include h

theorem GenMemPasses.noErr : (if gmemStores g then genErr (cc (genSettle s)) w.gd.toNat else none) = none := by
  split
  next hw => exact genErr_eq_none (h.sound hw)
  next => rfl

/-- Accesses that reach outside the own scratchpad are owed. -/
theorem genMem_far (hown : ownAcc s1.cur l = false) :
    genMem g w s = .next (genStart (takeWord s1 2 w.h qw).1 { i := (takeWord s1 2 w.h qw).2, acc := some l }) := by
  dsimp only [genMem]
  rw [issueState_go (s' := s1) (f := fun s i => genStart s { i := i, acc := some l }) h.issue h.legal]
  · simp only [h.unheld, h.inOrder, List.append_nil]
  · simp only [h.noErr, h.aligned, orAsk, h.walked, h.checked, hown, Option.orElse_none, Bool.false_eq_true, if_false]

/-- An image is stored at once. -/
theorem genMem_store (hown : ownAcc s1.cur l = true) (hp : genPortChecks (gmemStores g) l s1 = none)
    (hw : gmemStores g = true) :
    genMem g w s = .next (genStart
      (storeAll (takeWord s1 2 w.h qw).1.cur 2 qw true l (genNote true l (takeWord s1 2 w.h qw).1))
      { i := { (takeWord s1 2 w.h qw).2 with due := some ((takeWord s1 2 w.h qw).2.t + 1) } }) := by
  dsimp only [genMem]
  rw [issueState_go (s' := s1) (f := fun s i => genStart (storeAll s.cur 2 qw true l (genNote true l s))
    { i := { i with due := some (i.t + 1) } }) h.issue h.legal]
  · simp only [h.unheld, h.inOrder, List.append_nil]
  · simp only [h.noErr, h.aligned, orAsk, h.walked, h.checked, hown, hp, Option.orElse_none, if_true]
    simp only [hw, if_true]

/-- A table or image read from the own scratchpad lands six cycles later. -/
theorem genMem_read {c : GUpd} (hown : ownAcc s1.cur l = true) (hp : genPortChecks (gmemStores g) l s1 = none)
    (hw : gmemStores g = false) (hc : gmemRead g (snapOf qw w.ss) l s1 = .ok c) :
    genMem g w s = .next (genStart (genNote false l (takeWord s1 2 w.h qw).1)
      { i := { (takeWord s1 2 w.h qw).2 with due := some ((takeWord s1 2 w.h qw).2.t + 6) }, upd := some (w.gd.toNat, c) }) := by
  dsimp only [genMem]
  rw [issueState_go (s' := s1) (f := fun s i => genStart (genNote false l s)
    { i := { i with due := some (i.t + 6) }, upd := some (w.gd.toNat, c) }) h.issue h.legal]
  · simp only [h.unheld, h.inOrder, List.append_nil]
  · simp only [h.noErr, h.aligned, orAsk, h.walked, h.checked, hown, hp, hc, Option.orElse_none, if_true]
    simp only [hw, Bool.false_eq_true, if_false]

end

/-! ### The memory word that holds queue G (R310) -/

theorem genLandsAfter_cons (now g : Nat) (x : GIssued) (l : List GIssued) :
    genLandsAfter now g (x :: l) = genLandsAfter (genLandsAfter now g [x]) g l := rfl

theorem le_genLandsAfter_one (now g : Nat) (x : GIssued) : now ≤ genLandsAfter now g [x] := by
  simp only [genLandsAfter, List.foldl]
  split
  · split
    · exact Nat.le_max_left ..
    · exact Nat.le_refl now
  · exact Nat.le_refl now

theorem lt_genLandsAfter_one {now g e : Nat} {x : GIssued} {c : GUpd} (hu : x.upd = some (g, c)) (he : x.i.due = some e) :
    e < genLandsAfter now g [x] := by
  simp only [genLandsAfter, List.foldl, hu, he, if_true]
  exact Nat.le_max_right ..

theorem le_genLandsAfter (g : Nat) (l : List GIssued) : ∀ now, now ≤ genLandsAfter now g l := by
  induction l with
  | nil => exact Nat.le_refl
  | cons x l ih => exact fun now => Nat.le_trans (le_genLandsAfter_one now g x) (ih _)

/-- What a word read lands after every earlier write of its generator. -/
theorem lt_genLandsAfter {g e : Nat} {c : GUpd} {l : List GIssued} {y : GIssued} (hy : y ∈ l) (hu : y.upd = some (g, c))
    (he : y.i.due = some e) : ∀ now, e < genLandsAfter now g l := by
  induction l with
  | nil => cases hy
  | cons x l ih =>
    intro now
    rw [genLandsAfter_cons]
    cases hy with
    | head => exact Nat.lt_of_lt_of_le (lt_genLandsAfter_one hu he) (le_genLandsAfter g l _)
    | tail _ hy => exact ih hy _

/-- The first word in flight holds its queue: the event takes its next step. -/
theorem exec_writeLanding_holding {s : State} {g : GMem} {w : GS} {x : GIssued} {rest : List GIssued} {l : List VAcc}
    (hw : genMemOf (decodeE .g x.i.w.bits) = some (g, w)) (hf : (cc s).gen.fly = x :: rest)
    (hr : ∀ y ∈ rest, genDue (curCyc s) y = false) (hacc : x.acc = some l) (hfill : x.fill = none)
    (hok : x.i.faulted = false) (hd : x.i.due = none) :
    exec .generatorWriteLanding s = .next (genRemote g w x rest s) := by
  have hnone : takeFirst (genDue (curCyc s)) (cc s).gen.fly = none :=
    takeFirst_eq_none (hf ▸ List.forall_mem_cons.mpr ⟨genDue_of_later (by simp [hd]), hr⟩)
  have htake : takeFirst genHolding (cc s).gen.fly = some (x, rest) :=
    hf ▸ takeFirst_cons_of_pos rest (by simp [genHolding, hacc, hfill, hok, hd])
  change execGeneratorWriteLanding s = _
  simp only [execGeneratorWriteLanding, genComplete_of_none _ hnone, htake]
  obtain ⟨hi, rfl⟩ | ⟨hi, rfl⟩ | ⟨hi, rfl⟩ := genMemOf_eq_some hw <;> simp only [hi]

/-- What the next step of the memory word that holds queue G makes of its accesses. -/
def genRemoteStep (s : State) (g : GMem) (l : List VAcc) : VolStep :=
  volStep s 2 (!gmemStores g) (lowVa l) (if gmemStores g then l else []) l

/-- The word `y`, taken out of those in flight, stands there again behind the others and lands in cycle `d`. -/
def genFlies (rest : List GIssued) (s : State) (y : GIssued) (d : Nat) : State :=
  setGenUnit s { (cc s).gen with fly := rest ++ [{ y with i := { y.i with due := some d } }] }

section
variable {s : State} {g : GMem} {w : GS} {x : GIssued} {rest : List GIssued} {l : List VAcc} (hacc : x.acc = some l)
include hacc

theorem genRemote_flt {f : Flt} (h : genRemoteStep s g l = .flt f) :
    genRemote g w x rest s = raise2 { clearAcks s 2 with fresh := s.fresh + 1 } s.cur 2 x.i.w f true 0 := by
  unfold genRemoteStep at h
  simp only [genRemote, hacc, Option.getD_some, h]

theorem genRemote_done (h : genRemoteStep s g l = .done) :
    genRemote g w x rest s = genFlies rest (clearAcks s 2) x (curCyc s) := by
  unfold genRemoteStep at h
  simp only [genRemote, hacc, Option.getD_some, h, genFlies]

/-- Stores to another device are awaited; others end the word. -/
theorem genRemote_store (h : genRemoteStep s g l = .ready) (hp : genPortChecks (gmemStores g) l s = none)
    (hw : gmemStores g = true) :
    genRemote g w x rest s =
      let u := storeOut 2 x.i.w l (genNote true l s)
      if l.any fun a => isVol a.loc then u else genFlies rest u x (curCyc u) := by
  unfold genRemoteStep at h
  simp only [genRemote, hacc, Option.getD_some, h, hp]
  simp only [hacc, hw, genFlies, if_true]

theorem genRemote_read {c : GUpd} (h : genRemoteStep s g l = .ready) (hp : genPortChecks (gmemStores g) l s = none)
    (hw : gmemStores g = false) (hc : gmemRead g (snapOf x.i.w w.ss) l s = .ok c) :
    genRemote g w x rest s = genFlies rest (genNote false l (clearAcks s 2)) { x with upd := some (w.gd.toNat, c) }
      (genLandsAfter (curCyc s) w.gd.toNat rest) := by
  unfold genRemoteStep at h
  simp only [genRemote, hacc, Option.getD_some, h, hp, hc]
  simp only [hw, genFlies, Bool.false_eq_true, if_false]

end

/-- Settles O36: at issue by what the checks located, afterwards by the next step of the word that holds its queue. -/
theorem generatorMemoryWordsMoveTablesAndImages : Obligations.GeneratorMemoryWordsMoveTablesAndImages := by
  constructor
  · intro s i g w qw s1 l hi t m wr hm hb hh ho hg ha hw hc u fly
    have hpass : GenMemPasses g w qw (genSettle s) s1 l := ⟨hm, hb, hh, ho, hg, ha, hw, hc⟩
    rw [exec_genMemOf hi]
    exact ⟨genMem_far hpass, fun hown hp => ⟨genMem_store hpass hown hp, fun hr c hc => genMem_read hpass hown hp hr hc⟩⟩
  · intro s g w x rest l hi hf hr hacc hfill hok hd wr step flies
    rw [exec_writeLanding_holding hi hf hr hacc hfill hok hd]
    refine ⟨fun hs hp => ⟨fun hwr => ⟨fun hv => ?_, fun hv => ?_⟩, fun hwr c hc => ?_⟩, fun hs => ?_, fun f hs => ?_⟩
    · exact congrArg _ ((genRemote_store hacc hs hp hwr).trans (if_neg (by simpa using hv)))
    · exact congrArg _ ((genRemote_store hacc hs hp hwr).trans (if_pos (by simpa using hv)))
    · exact ⟨_, le_genLandsAfter _ rest _, fun y hy e c' hu he => lt_genLandsAfter hy hu he _,
        congrArg _ (genRemote_read hacc hs hp hwr hc)⟩
    · exact congrArg _ (genRemote_done hacc hs)
    · exact congrArg _ (genRemote_flt hacc hs)

/-! ### Fill words (R307 to R311) -/

theorem exec_fillOfWord {s : State} {i : Instr} {row : Bool} {w : GS} (h : fillOfWord i = some (row, w)) :
    exec i s = fillWord row w s := by
  unfold fillOfWord at h
  split at h <;> cases h <;> rfl

/-- A fill word of progress record `f` has issued with its accesses `l`: with no element it completes; else it stands in flight,
with its cycle where it writes the own scratchpad, with its accesses owed elsewhere. -/
def fillIssued (f : Fill) (l : List VAcc) (s : State) (i : Issued) : State :=
  if f.count = 0 then completeWord s 2 i
  else if ownAcc s.cur l then
    genStart (genIssueNote l s) { i := { i with due := some (fillDue i.t f.g f.count) }, fill := some f }
  else genStart (genIssueNote l s) { i := i, acc := some l, fill := some f }

theorem fillWord_go {s s1 : State} {row : Bool} {w : GS} {qw : QWord} {l : List VAcc}
    (hm : MayIssue 2 w.h (genSettle s) qw) (hb : fillBad w qw = false)
    (hh : genHolds (genSettle s) w.gd.toNat true none = [])
    (hpipe : (fillOf (cc (genSettle s)) row w qw).count ≠ 0 →
      pipeHolds (genSettle s) (claimOf (genSettle s) 2 qw) (drawClaim (genSettle s)) = [])
    (hg : (cc (genSettle s)).gen.bad.contains w.gd.toNat = false)
    (huse : genUsable (fillOf (cc (genSettle s)) row w qw).g = true)
    (hw : walksAsked (genSettle s) 2 (fillSpots (fillOf (cc (genSettle s)) row w qw)) = none)
    (hc : genChecks true (strmBytes (fillOf (cc (genSettle s)) row w qw).m) qw
      (fillSpots (fillOf (cc (genSettle s)) row w qw)) (genSettle s) = .ok (s1, l))
    (hrace : raceFlt s1 s1.cur true l = none) :
    fillWord row w s =
      .next (fillIssued (fillOf (cc (genSettle s)) row w qw) l (takeWord s1 2 w.h qw).1 (takeWord s1 2 w.h qw).2) := by
  have hstarve : (if (fillOf (cc (genSettle s)) row w qw).count = 0 then []
      else pipeHolds (genSettle s) (claimOf (genSettle s) 2 qw) (drawClaim (genSettle s))) = [] := by
    split
    next => rfl
    next hn => exact hpipe hn
  dsimp only [fillWord]
  rw [issueState_go (s' := s1) (f := fillIssued (fillOf (cc (genSettle s)) row w qw) l) hm hb hh]
  simp only [hstarve, genErr_eq_none hg, huse, orAsk, hw, hc, hrace, List.isEmpty_nil, Bool.not_true, Bool.false_eq_true,
    if_false, if_true, Option.orElse_none]
  rfl

/-- The store of position `e` of an own-scratchpad fill. -/
def fillStore (w : QWord) (f : Fill) (v : State) (e : Nat) : State :=
  storeAt v (whoWord v.cur 2 w (fillVa f e)) (ownLoc v.cur (fillVa f e)) (fillData f e) true

/-- A run of positions is written one after another. -/
theorem fillWrite_eq_foldl (w : QWord) (f : Fill) (n : Nat) :
    ∀ (s : State) (e : Nat), fillWrite s w f e n = ((List.range n).map (e + ·)).foldl (fillStore w f) s := by
  simp only [← List.range'_eq_map_range]
  induction n with
  | zero => exact fun _ _ => rfl
  | succ n ih => exact fun s e => ih (fillStore w f s e) (e + 1)

/-- Positions of an own-scratchpad fill written by a cycle (R310). -/
theorem fillReached_eq (t now : Nat) (f : Fill) :
    fillReached t now f = if now < t + 4 then 0 else Nat.min f.count ((now - t - 3) * genRate f.g) := by
  unfold fillReached
  split
  next => rfl
  next h => rw [show now - t - 4 + 1 = now - t - 3 by omega]

/-- An own-scratchpad fill writes the positions reached and not yet written. -/
theorem exec_fillElementWrite_own {s : State} {x : GIssued} {f : Fill} {d : Nat} (hx : theFill (cc s) = some (x, f))
    (hacc : x.acc = none) (hd : x.i.due = some d) :
    exec .fillElementWrite s =
      let n := fillReached x.i.t (curCyc s) f
      let v := fillWrite s x.i.w f f.next (n - f.next)
      .next (setFill (healOver (fun v => (List.range n).map fun e => (ownLoc v.cur (fillVa f e), strmBytes f.m)) v) n) := by
  change execFillElementWrite s = _
  simp only [execFillElementWrite, hx, hacc, fillStep, hd]

/-- A fill that reaches outside the own scratchpad writes all its elements, or asks for them. -/
theorem exec_fillElementWrite_far {s : State} {x : GIssued} {f : Fill} {l : List VAcc} (hx : theFill (cc s) = some (x, f))
    (hacc : x.acc = some l) (hn : f.next < f.count) (hok : x.i.faulted = false) :
    exec .fillElementWrite s = .next (fillRemote s x.i.w f l) := by
  change execFillElementWrite s = _
  simp only [execFillElementWrite, hx, hacc, hn, hok, Bool.not_false, and_self, if_true]

/-- The accesses of a fill with the bytes that they write. -/
def fillBytes (f : Fill) (l : List VAcc) : List VAcc := l.map fun a => { a with data := fillData f a.el }

/-- The bytes that an access writes do not move it. -/
theorem any_isVol_fillBytes (f : Fill) (l : List VAcc) :
    ((fillBytes f l).any fun a => isVol a.loc) = l.any fun a => isVol a.loc := List.any_map

theorem fillRemote_ready {s : State} {w : QWord} {f : Fill} {l : List VAcc}
    (h : volStep s 2 false (lowVa (fillBytes f l)) (fillBytes f l) (fillBytes f l) = .ready) :
    fillRemote s w f l =
      let u := storeOut 2 w (fillBytes f l) (sampleAll s.cur true (fillBytes f l) s)
      if l.any fun a => isVol a.loc then u else setFill u f.count := by
  rw [← any_isVol_fillBytes f l]
  unfold fillBytes at *
  simp only [fillRemote, h]

theorem fillRemote_done {s : State} {w : QWord} {f : Fill} {l : List VAcc}
    (h : volStep s 2 false (lowVa (fillBytes f l)) (fillBytes f l) (fillBytes f l) = .done) :
    fillRemote s w f l = setFill (clearAcks s 2) f.count := by
  unfold fillBytes at h
  simp only [fillRemote, h]

theorem exec_fillComplete {s : State} {x : GIssued} {rest : List GIssued} (hf : (cc s).gen.fly = x :: rest)
    (hover : fillOver (curCyc s) x = true) :
    exec .fillComplete s = .next (completeWord (setGenUnit s { (cc s).gen with fly := rest }) 2 x.i) := by
  change execFillComplete s = _
  simp only [execFillComplete, fillFinish, hf, takeFirst_cons_of_pos rest hover]

/-- A fill word whose elements are written is over from its cycle on. -/
theorem fillOver_of_written {now : Nat} {x : GIssued} {f : Fill} (hx : x.fill = some f) (hn : f.count ≤ f.next)
    (hd : ∀ d, x.i.due = some d → d ≤ now) : fillOver now x = true := by
  cases h : x.i.due with
  | none => simp [fillOver, hx, hn, h]
  | some d => simp [fillOver, hx, hn, h, hd d h]

/-- Settles O37: at issue by its progress record; its elements by the positions reached or by its next step; its completion once
they are written. -/
theorem fillWordsWriteTheirElements : Obligations.FillWordsWriteTheirElements := by
  refine ⟨?_, fun s x f hx => ⟨fun d hacc hd => ?_, fun l hacc hn hok => ?_⟩, fun s x rest f hf hx hn hd => ?_⟩
  · intro s i row w qw s1 l hi t f hm hb hh hpipe hg huse hw hc hrace u v
    rw [exec_fillOfWord hi, fillWord_go hm hb hh hpipe hg huse hw hc hrace]
    exact ⟨fun h0 => congrArg _ (if_pos h0),
      fun h0 hown => congrArg _ ((if_neg h0).trans (if_pos hown)),
      fun h0 hown => congrArg _ ((if_neg h0).trans (if_neg (by simp [u, hown])))⟩
  · rw [exec_fillElementWrite_own hx hacc hd]
    simp only [fillWrite_eq_foldl, fillReached_eq]
    rfl
  · rw [exec_fillElementWrite_far hx hacc hn hok]
    refine ⟨fun hs => ⟨fun hv => ?_, fun hv => ?_⟩, fun hs => ?_⟩
    · exact congrArg _ ((fillRemote_ready hs).trans (if_neg (by simpa using hv)))
    · exact congrArg _ ((fillRemote_ready hs).trans (if_pos (by simpa using hv)))
    · exact congrArg _ (fillRemote_done hs)
  · exact exec_fillComplete hf (fillOver_of_written hx hn hd)

end Sys2Proof.Machine
end

section
/-! SUPPORT. O38: matrix words. A word issues by the checks that `matWord` passes; the queue's events are runs over the words in
flight, which stop where no word is due, and of a core with one word in flight make its one step. -/

namespace Sys2Proof.Machine

open Sys2Proof Sys2Proof.Statements

/-! ### What an access leaves of the matrix engine -/

/-- The same core runs in the same cycle, and its matrix engine is the same. -/
structure SameMat (s t : State) : Prop where
  cur : t.cur = s.cur
  cyc : curCyc t = curCyc s
  mat : (cc t).mat = (cc s).mat

theorem SameMat.refl (s : State) : SameMat s s := ⟨rfl, rfl, rfl⟩

theorem SameMat.trans {s t u : State} (h : SameMat s t) (g : SameMat t u) : SameMat s u :=
  ⟨g.cur.trans h.cur, g.cyc.trans h.cyc, g.mat.trans h.mat⟩

theorem sameMat_foldl {α : Type} {f : State → α → State} (hf : ∀ s a, SameMat s (f s a)) (l : List α) :
    ∀ s, SameMat s (l.foldl f s) := by
  induction l with
  | nil => exact SameMat.refl
  | cons a l ih => exact fun s => (hf s a).trans (ih _)

theorem sameMat_ite {c : Prop} [Decidable c] {s t u : State} (ht : SameMat s t) (hu : SameMat s u) :
    SameMat s (if c then t else u) := by
  split
  · exact ht
  · exact hu

/-- An update of one core that keeps its matrix engine and its cycle offset. -/
theorem sameMat_setCore {s : State} {c : Nat} {k : Core} (hm : k.mat = (getCore s c).mat) (ho : k.off = (getCore s c).off) :
    SameMat s (setCore s c k) := by
  have hk : (cc (setCore s c k)).mat = (cc s).mat ∧ (cc (setCore s c k)).off = (cc s).off := by
    unfold cc
    rw [setCore_cur, getCore_setCore]
    split
    next h => exact ⟨h ▸ hm, h ▸ ho⟩
    next => exact ⟨rfl, rfl⟩
  refine ⟨rfl, ?_, hk.1⟩
  change (if isPrologue s.cur then s.ref.cyc else ((schedCyc s s.cur : Int) + (cc (setCore s c k)).off).toNat) = curCyc s
  rw [hk.2]
  rfl

theorem SameBut.sameMat {s t : State} (h : SameBut s t) : SameMat s t := by
  refine ⟨h.cur, h.curCyc, ?_⟩
  obtain ⟨l, hl⟩ := h.core s.cur
  simp only [cc, h.cur, hl]

theorem sameMat_writeLoc (s : State) (l : Loc) (b : List Byte) : SameMat s (writeLoc s l b) := by
  cases l with
  | scr c o => exact sameMat_setCore rfl rfl
  | named pa => exact sameMat_ite ⟨rfl, rfl, rfl⟩ ⟨rfl, rfl, rfl⟩

/-- A watchpoint that matches notes it, writes a trace record and may ask for a stop. -/
theorem sameMat_portMatch (s : State) (who : Who) (l : List Wrote) (w : Watch) : SameMat s (portMatch s who l w) := by
  have hmark : SameMat s (setCore s w.core { getCore s w.core with
      wpStat := (getCore s w.core).wpStat ||| BitVec.ofNat 64 (2 ^ w.n) }) := sameMat_setCore rfl rfl
  unfold portMatch
  dsimp only
  generalize hu : traceAdd _ _ = u
  have h : SameMat s u := hu ▸ hmark.trans (sameBut_traceAdd ..).sameMat
  exact sameMat_ite (h.trans ⟨rfl, rfl, rfl⟩) h

theorem sameMat_storeMany (s : State) (who : Who) (l : List (Loc × W64 × List Byte)) (precise : Bool) :
    SameMat s (storeMany s who l precise) :=
  (sameMat_foldl (fun s _ => sameMat_writeLoc s _ _) l s).trans (sameMat_foldl (fun s w => sameMat_portMatch s who _ w) _ _)

theorem sameMat_lineCure (s : State) (l : Loc) (k : Nat) : SameMat s (lineCure s l k) := by
  cases l with
  | scr c o => exact sameMat_setCore rfl rfl
  | named pa => exact ⟨rfl, rfl, rfl⟩

theorem sameMat_healOver (acc : State → List (Loc × Nat)) (s : State) : SameMat s (healOver acc s) :=
  sameMat_ite (SameMat.refl s) (sameMat_foldl (fun s _ => sameMat_foldl
    (fun s _ => sameMat_ite (sameMat_lineCure s _ _) (SameMat.refl s)) _ s) _ s)

theorem sameMat_storeAll (c q : Nat) (w : QWord) (precise : Bool) (l : List VAcc) (s : State) :
    SameMat s (storeAll c q w precise l s) :=
  (sameMat_storeMany s _ _ precise).trans (sameMat_healOver _ _)

theorem sameMat_clearAcks (s : State) (q : Nat) : SameMat s (clearAcks s q) := sameMat_setCore rfl rfl

/-- Accesses at this device send nothing. -/
theorem sendPieces_here (q cls : Nat) {l : List VAcc} (s : State) (h : (l.any fun a => isVol a.loc) = false) :
    sendPieces q cls l s = s := by
  have hn : (l.filter fun a => isVol a.loc) = [] := List.filter_eq_nil_iff.mpr (by simpa using h)
  simp only [sendPieces, hn]
  rfl

theorem sameMat_storeOut (q : Nat) (w : QWord) {l : List VAcc} (s : State) (h : (l.any fun a => isVol a.loc) = false) :
    SameMat s (storeOut q w l s) := by
  unfold storeOut
  rw [sendPieces_here q 1 _ h]
  exact (sameMat_storeAll ..).trans (sameMat_clearAcks ..)

/-! ### Accesses to the own scratchpad -/

/-- A location in a scratchpad. -/
def InScratch (l : Loc) : Prop := ∃ c o, l = .scr c o

theorem InScratch.not_isVol {l : Loc} (h : InScratch l) : isVol l = false := by
  obtain ⟨c, o, rfl⟩ := h
  rfl

theorem any_isVol_inScratch {l : List VAcc} (h : ∀ a ∈ l, InScratch a.loc) : (l.any fun a => isVol a.loc) = false := by
  simpa using fun a ha => (h a ha).not_isVol

theorem sampLines_inScratch {l : List VAcc} (h : ∀ a ∈ l, InScratch a.loc) : sampLines l = [] := by
  induction l with
  | nil => rfl
  | cons a l ih =>
    obtain ⟨c, o, ha⟩ := h a List.mem_cons_self
    have hl := ih fun b hb => h b (List.mem_cons_of_mem a hb)
    unfold sampLines at *
    simp only [List.foldl_cons, ha, hl]

/-- Scratchpads are not sampled (R96). -/
theorem sampleAll_inScratch (c : Nat) (wr : Bool) {l : List VAcc} (s : State) (h : ∀ a ∈ l, InScratch a.loc) :
    sampleAll c wr l s = s := by
  unfold sampleAll
  rw [sampLines_inScratch h]
  rfl

/-- At a port of a scratchpad nothing is refused. -/
theorem portFlt_inScratch (s : State) (q low : Nat) {l : List VAcc} (h : ∀ a ∈ l, InScratch a.loc) : portFlt s q low l = none := by
  have he : ∀ err, ∀ a ∈ l, accErr (cc s) q low err a = none := fun err a ha => by simp [accErr, (h a ha).not_isVol]
  have hr : ∀ a ∈ l, retiredFlt s [a] = none := fun a ha => by
    obtain ⟨c, o, hl⟩ := h a ha
    simp [retiredFlt, fltAt, hl]
  unfold portFlt ackErr
  rw [List.findSome?_eq_none_iff.mpr (he 2), Option.orElse_none, List.findSome?_eq_none_iff]
  intro a ha
  rw [he 1 a ha, Option.orElse_none, hr a ha]

/-- A word whose accesses lie in scratchpads, and that has no answer from elsewhere, may perform them. -/
theorem volStep_inScratch {s : State} {q : Nat} (load : Bool) (low : Nat) {chk l : List VAcc} (hl : ∀ a ∈ l, InScratch a.loc)
    (hc : ∀ a ∈ chk, InScratch a.loc) (ha : acksOf (cc s) q = []) : volStep s q load low chk l = .ready := by
  have hp : portFlt s q low (l ++ chk) = none := portFlt_inScratch s q low fun a h => (List.mem_append.mp h).elim (hl a) (hc a)
  have hq : probesOnly (cc s) q = true := by simp [probesOnly, ha]
  simp only [volStep, any_isVol_inScratch hl, any_isVol_inScratch hc, hp, hq, Bool.or_self, Bool.false_and, ite_self, Bool.and_false,
    Bool.or_true, Bool.false_eq_true, if_false, if_true]

/-! ### Words without an address elsewhere -/

theorem inScratch_mLoc (c : Nat) {x : MIssued} (h : x.locs = none) (a : VAcc) : InScratch (mLoc c x a).loc := by
  simp only [mLoc, h]
  exact ⟨c, _, rfl⟩

theorem inScratch_map_mLoc (c : Nat) {x : MIssued} (h : x.locs = none) (l : List (VAcc × Nat)) :
    ∀ a ∈ l.map fun a => mLoc c x a.1, InScratch a.loc :=
  List.forall_mem_map.mpr fun a _ => inScratch_mLoc c h a.1

theorem inScratch_pointLocs (s : State) {x : MIssued} (h : x.locs = none) (q : Nat) :
    ∀ a ∈ (pointLocs s x q).1 ++ (pointLocs s x q).2, InScratch a.loc := fun a ha =>
  (List.mem_append.mp ha).elim (inScratch_map_mLoc s.cur h _ a) (inScratch_map_mLoc s.cur h _ a)

theorem inScratch_storeRow (s : State) {x : MIssued} (h : x.locs = none) (q : Nat) :
    ∀ a ∈ storeRow s x q, InScratch a.loc := by
  unfold storeRow
  split
  · exact List.forall_mem_singleton.mpr (inScratch_mLoc s.cur h _)
  · exact List.forall_mem_map.mpr fun a _ => inScratch_mLoc s.cur h a.1.1
  · exact List.forall_mem_map.mpr fun a _ => inScratch_mLoc s.cur h a.1.1
  · exact fun _ hn => nomatch hn

/-! ### One word in flight -/

theorem cc_setMat (s : State) (m : Mat) : cc (setMat s m) = { cc s with mat := m } := cc_setCC ..

theorem curCyc_setMat (s : State) (m : Mat) : curCyc (setMat s m) = curCyc s := curCyc_setCC_of_off rfl

theorem curCyc_putFly (s : State) (j : Nat) (y : MIssued) : curCyc (putFly s j y) = curCyc s := curCyc_setMat ..

theorem putFly_fly {s : State} {x : MIssued} (hf : (cc s).mat.fly = [x]) (y : MIssued) :
    (cc (putFly s 0 y)).mat.fly = [y] := by
  rw [putFly, cc_setMat, hf]
  rfl

theorem flyFind_one_of_pos {p : Nat → MIssued → Bool} {x : MIssued} (h : p 0 x = true) : flyFind p 0 [x] = some (0, x) := if_pos h

theorem flyFind_one_of_neg {p : Nat → MIssued → Bool} {x : MIssued} (h : p 0 x = false) : flyFind p 0 [x] = none :=
  if_neg (by simp [h])

theorem pointsLeft_one {k : Core} {x : MIssued} (hf : k.mat.fly = [x]) : pointsLeft k = x.cps - x.next := by
  simp [pointsLeft, hf]

section
variable {s : State} {x : MIssued} (hf : (cc s).mat.fly = [x])
include hf

theorem matPoints_idle {now : Nat} (h : pointDue now x = false) (n : Nat) : matPoints now n s = s := by
  cases n with
  | zero => rfl
  | succ n => simp only [matPoints, hf, flyFind_one_of_neg (p := fun _ x => pointDue now x) h]

theorem matPoints_due {now : Nat} (h : pointDue now x = true) (n : Nat) :
    matPoints now (n + 1) s = matPoints now n (passPoint s 0 x) := by
  simp only [matPoints, hf, flyFind_one_of_pos (p := fun _ x => pointDue now x) h]

theorem matRows_idle {far : Bool} (h : rowDue (curCyc s) x = false) (n : Nat) : matRows far n s = s := by
  cases n with
  | zero => rfl
  | succ n =>
    simp only [matRows, hf]
    rw [flyFind_one_of_neg (by rw [h, Bool.false_and])]

theorem matRows_due {far : Bool} (h : rowDue (curCyc s) x = true) (hl : x.locs = none) (n : Nat) :
    matRows far (n + 1) s = matRows far n (writeRow s 0 x) := by
  simp only [matRows, hf]
  rw [flyFind_one_of_pos (by rw [h, hl]; rfl)]

theorem matLandings_idle (h : landReady (cc s) (curCyc s) 0 x = false) (n : Nat) : matLandings n s = s := by
  cases n with
  | zero => rfl
  | succ n => simp only [matLandings, hf, flyFind_one_of_neg (p := fun j x => landReady (cc s) (curCyc s) j x) h]

theorem matLandings_ready (h : landReady (cc s) (curCyc s) 0 x = true) (n : Nat) :
    matLandings (n + 1) s = matLandings n (mComplete s 0 x) := by
  simp only [matLandings, hf, flyFind_one_of_pos (p := fun j x => landReady (cc s) (curCyc s) j x) h]

end

/-! ### Check points (R334) -/

section
variable {s : State} {x : MIssued} (hl : x.locs = none)
include hl

theorem samplePoint_here (q : Nat) : samplePoint s x q = s := by
  unfold samplePoint
  split
  · rfl
  · exact sampleAll_inScratch _ _ _ (inScratch_pointLocs s hl q)

/-- The word after its next check point, which read `l`. -/
def pointPassed (x : MIssued) (l : List Nat) : MIssued := { x with next := x.next + 1, buf := x.buf ++ [l] }

theorem readPoint_here {l : List Nat} (hr : pointRead s x x.next = .ok l) (j : Nat) :
    readPoint s j x = putFly s j (pointPassed x l) := by
  simp only [readPoint, hr, samplePoint_here hl, hl, Option.isSome_none, Bool.and_false, Bool.false_eq_true, if_false, pointPassed]

/-- A check point in the own scratchpad awaits nothing. -/
theorem passPoint_here {l : List Nat} (ha : acksOf (cc s) 1 = []) (hr : pointRead s x x.next = .ok l) (j : Nat) :
    passPoint s j x = putFly s j (pointPassed x l) := by
  have hv : (if x.gen.isSome then VolStep.ready else volStep s 1 true (lowVa ((allAccs x.p).map (·.1))) []
      ((pointLocs s x x.next).1 ++ (pointLocs s x x.next).2)) = .ready := by
    split
    · rfl
    · exact volStep_inScratch _ _ (inScratch_pointLocs s hl _) (fun _ hn => nomatch hn) ha
  simp only [passPoint, hv, ha, List.isEmpty_nil, if_true, readPoint_here hl hr]

end

theorem pointsLeft_pos_of_due {k : Core} {x : MIssued} {now : Nat} (hf : k.mat.fly = [x]) (h : pointDue now x = true) :
    ∃ n, pointsLeft k = n + 1 := by
  simp only [pointDue, Bool.and_eq_true, decide_eq_true_eq] at h
  exact ⟨x.cps - x.next - 1, by rw [pointsLeft_one hf]; omega⟩

theorem exec_checkPoint_one {s : State} {x : MIssued} {l : List Nat} (hf : (cc s).mat.fly = [x]) (hl : x.locs = none)
    (ha : acksOf (cc s) 1 = []) (hd : pointDue (pointLimit (cc s) (curCyc s)) x = true) (hr : pointRead s x x.next = .ok l)
    (hn : pointDue (pointLimit (cc s) (curCyc s)) (pointPassed x l) = false) :
    exec .matrixCheckPoint s = .next (putFly s 0 (pointPassed x l)) := by
  obtain ⟨n, hleft⟩ := pointsLeft_pos_of_due hf hd
  have hany : (cc s).mat.fly.any (pointDue (pointLimit (cc s) (curCyc s))) = true := by simp [hf, hd]
  change execMatrixCheckPoint s = _
  simp only [execMatrixCheckPoint, hany, if_true, hleft, matPoints_due hf hd, passPoint_here hl ha hr]
  rw [matPoints_idle (putFly_fly hf _) hn]

/-! ### Landing (R334, R336) -/

theorem rowDue_of_not_stores {now : Nat} {x : MIssued} (h : mStores x.p.kind = false) : rowDue now x = false := by
  simp [rowDue, h]

theorem exec_matrixLanding_ready {s : State} {x : MIssued} (hf : (cc s).mat.fly = [x]) (hs : mStores x.p.kind = false)
    (hr : landReady (cc s) (curCyc s) 0 x = true) : exec .matrixLanding s = .next (mComplete s 0 x) := by
  change Host.Outcome.next (matSettle true s) = _
  simp only [matSettle, matRows_idle hf (rowDue_of_not_stores hs), hf, List.length_singleton, matLandings_ready hf hr]
  rfl

/-! ### Rows that a word stores (R334) -/

/-- Row `x.next` of a word that stores in the own scratchpad, written. -/
def rowStored (s : State) (x : MIssued) : State :=
  healOver (fun v => rowLocs v x x.next)
    (storeOut 1 x.i.w (storeRow s x x.next) (sampleAll s.cur true (storeRow s x x.next) s))

theorem sameMat_rowStored (s : State) {x : MIssued} (hl : x.locs = none) : SameMat s (rowStored s x) := by
  unfold rowStored
  rw [sampleAll_inScratch _ _ _ (inScratch_storeRow s hl _)]
  exact (sameMat_storeOut _ _ s (any_isVol_inScratch (inScratch_storeRow s hl _))).trans (sameMat_healOver _ _)

/-- A row in the own scratchpad is written at once. -/
theorem writeRow_here {s : State} {x : MIssued} (hl : x.locs = none) (ha : acksOf (cc s) 1 = []) (j : Nat) :
    writeRow s j x = putFly (rowStored s x) j { x with next := x.next + 1 } := by
  have hall := inScratch_map_mLoc s.cur hl (allAccs x.p)
  have hchk : ∀ a ∈ if x.next = 0 then (allAccs x.p).map (fun a => mLoc s.cur x a.1) else [], InScratch a.loc := by
    split
    · exact hall
    · exact fun _ hn => nomatch hn
  have hrow := inScratch_storeRow s hl x.next
  simp only [writeRow, volStep_inScratch false _ hrow hchk ha, any_isVol_inScratch hrow, Bool.false_eq_true, if_false, rowWritten,
    hl, Option.isSome_none, Bool.and_false]
  rfl

theorem rowCycle_next {x : MIssued} (h : ∀ t, x.p.kind ≠ .stat t) : rowCycle { x with next := x.next + 1 } = x.i.t + 3 + x.next := by
  unfold rowCycle
  split
  next t hk => exact absurd hk (h t)
  next => exact (by omega : x.i.t + 2 + (x.next + 1) = x.i.t + 3 + x.next)

/-- The row behind is not due before the next cycle. -/
theorem rowDue_next {now : Nat} {x : MIssued} (hl : x.locs = none) (hk : ∀ t, x.p.kind ≠ .stat t) (h : now < x.i.t + 3 + x.next) :
    rowDue now { x with next := x.next + 1 } = false := by
  unfold rowDue
  rw [rowCycle_next hk]
  simp only [hl, decide_eq_false (Nat.not_le.mpr h), Option.isSome_none, Bool.or_self, Bool.and_false]

/-- A word with rows still to write does not complete. -/
theorem landReady_of_rows_left {k : Core} {now j : Nat} {x : MIssued} (h : x.next < x.cps) : landReady k now j x = false := by
  simp only [landReady, decide_eq_false (Nat.not_le.mpr h), Bool.and_false, Bool.false_and]

theorem exec_matrixLanding_row {s : State} {x : MIssued} (hf : (cc s).mat.fly = [x]) (hl : x.locs = none)
    (ha : acksOf (cc s) 1 = []) (hd : rowDue (curCyc s) x = true) (hn : x.next + 1 < x.cps)
    (hc : curCyc s < x.i.t + 3 + x.next) (hk : ∀ t, x.p.kind ≠ .stat t) :
    exec .matrixLanding s = .next (putFly (rowStored s x) 0 { x with next := x.next + 1 }) := by
  obtain ⟨-, hcyc, hmat⟩ := sameMat_rowStored s hl
  have hfly := putFly_fly ((congrArg Mat.fly hmat).trans hf) { x with next := x.next + 1 }
  have hleft : pointsLeft (cc s) = x.cps - x.next - 1 + 1 := by rw [pointsLeft_one hf]; omega
  have hidle : rowDue (curCyc (putFly (rowStored s x) 0 { x with next := x.next + 1 })) { x with next := x.next + 1 } = false :=
    rowDue_next hl hk (by rwa [curCyc_putFly, hcyc])
  change Host.Outcome.next (matSettle true s) = _
  simp only [matSettle, hleft, matRows_due hf hd hl, writeRow_here hl ha, matRows_idle hfly hidle]
  rw [matLandings_idle hfly (landReady_of_rows_left hn)]

/-! ### Scrub errors (R320) -/

theorem cc_putTile (s : State) (t : Nat) (T : Tile) :
    cc (putTile s t T) = { cc s with mat := { (cc s).mat with a := tput {} (cc s).mat.a t T } } := cc_setMat ..

theorem cc_putBank (s : State) (m b : Nat) (B : Bank) :
    cc (putBank s m b B) = { cc s with mat := { (cc s).mat with b := tput {} (cc s).mat.b (2 * m + b) B } } := cc_setMat ..

theorem getTile_putTile_self (s : State) (t : Nat) (T : Tile) : getTile (cc (putTile s t T)) t = T := by
  rw [cc_putTile]
  exact (tget_tput ..).trans (if_pos rfl)

theorem getBank_putBank_self (s : State) (m b : Nat) (B : Bank) : getBank (cc (putBank s m b B)) m b = B := by
  rw [cc_putBank]
  exact (tget_tput ..).trans (if_pos rfl)

theorem matrixWordsReachTheirLanding : MatrixWordsReachTheirLanding := by
  refine ⟨fun s x l hf hl ha hd hr hn => ?_, fun s x hf hs hr => exec_matrixLanding_ready hf hs hr,
    fun s x hf hl ha hd hn hc hk => exec_matrixLanding_row hf hl ha hd hn hc hk, fun s t r hr => ?_, fun s m b => ?_⟩
  · refine (exec_checkPoint_one hf hl ha hd hr hn).trans ?_
    rw [samplePoint_here hl, putFly, hf]
    rfl
  · refine ⟨_, rfl, fun T hT => ?_⟩
    rw [getTile_putTile_self, ← hT, Nat.mod_eq_of_lt hr]
  · exact ⟨_, rfl, getBank_putBank_self ..⟩

/-! ### Issue (R323 to R336, R341) -/

/-- The row of each matrix word is `matWord` with its plan. -/
theorem exec_matPlan {i : Instr} {h : EHead} {plan : QWord → MPlan} (hi : matPlan i = some (h, plan)) (s : State) :
    exec i s = matWord h plan s := by
  unfold matPlan at hi
  split at hi <;> cases hi <;> rfl

/-- A word of plan `p` may issue from `t`, and its tests pass: they lead to `s1` and locate its accesses. -/
structure MatPasses (h : EHead) (p : MPlan) (w : QWord) (t s1 : State) (l : List VAcc) : Prop where
  issue : MayIssue 1 h t w
  legal : mBad p = false
  unheld : mHolds t p = []
  piped : draws p = true → mShort (cc t) p = false ∧ pipeHolds t (claimOf t 1 w) (fillClaim t) = []
  sound : preFlt (cc t) p = none
  walked : walksAsked t 1 ((allAccs p).map (·.1)) = none
  checked : mChecks p w t = .ok (s1, l)

theorem matWord_go {s s1 : State} {h : EHead} {plan : QWord → MPlan} {w : QWord} {l : List VAcc}
    (hp : MatPasses h (plan w) w (matSettle false (genSettle s)) s1 l) :
    matWord h plan s = .next (mStart (plan w) ((plan w).gn.map (getGen (cc (matSettle false (genSettle s))))) l
      (takeWord s1 1 h w).1 (takeWord s1 1 h w).2) := by
  dsimp only [matWord]
  generalize matSettle false (genSettle s) = t at *
  have hstarve : (if draws (plan w) then
      (if mShort (cc t) (plan w) then [Hold.open_] else pipeHolds t (claimOf t 1 w) (fillClaim t)) else []) = [] := by
    split
    next hd =>
      obtain ⟨hshort, hpipe⟩ := hp.piped hd
      rw [hshort, hpipe]
      rfl
    next => rfl
  rw [issueState_go (s' := s1) (f := mStart (plan w) ((plan w).gn.map (getGen (cc t))) l) hp.issue hp.legal hp.unheld]
  simp only [hstarve, hp.sound, orAsk, hp.walked, hp.checked, List.isEmpty_nil, Bool.not_true, Bool.false_eq_true, if_false]

theorem sameMat_raceNote (c : Nat) (wr : Bool) (l : List VAcc) (s : State) : SameMat s (raceNote c wr l s) := by
  refine sameMat_foldl (fun s a => ?_) l s
  split
  next k o _ =>
    obtain ⟨r, hr⟩ := raceMark_eq (getCore s c).lid wr (linesOf o a.len) (getCore s k)
    rw [hr]
    exact sameMat_setCore rfl rfl
  next => exact SameMat.refl s

/-- The word issues by its passed tests; noting its accesses leaves the core that runs. -/
theorem matrixWordsIssue : MatrixWordsIssue := by
  intro s i h plan w s1 l hi t p hm hb hh hd hp hw hc u per own cps r v
  rw [exec_matPlan hi, matWord_go ⟨hm, hb, hh, hd, hp, hw, hc⟩]
  simp only [mStart, (sameMat_raceNote ..).cur]
  rfl

/-- Settles O38: at issue by what the checks located; in flight by the one step of the word that is due. -/
theorem matrixWordsIssueAndReachTheirLanding : Obligations.MatrixWordsIssueAndReachTheirLanding :=
  ⟨matrixWordsIssue, matrixWordsReachTheirLanding⟩

end Sys2Proof.Machine
end

section
/-! SUPPORT. O40: copy words issue. Past the checks at its queue's head a word does what `copyAct` makes of its plan, which one
lemma for each way of going on says. -/

namespace Sys2Proof.Machine

open Sys2Proof

-- One theorem at a time: many evaluated at once take more threads than the check allows.
set_option Elab.async false

/-! ### Issue (R351, R362, R370, R375) -/

/-- What becomes of the word at the head of queue `q` when its engine's checks have decided. -/
def actDone (q : Nat) (h : EHead) (w : QWord) (s : State) : Act → State
  | .go s' f => f (takeWord s' q h w).1 (takeWord s' q h w).2
  | .wait hs => holdWord s q w hs
  | .ask s' => s'
  | .starve hs => holdWord (noteClaim s q) q w hs
  | .flt f => raise2 { clearAcks s q with fresh := s.fresh + 1 } s.cur q w f false 0

theorem issueState_act {q : Nat} {h : EHead} {bad : QWord → Bool} {holds : State → QWord → List Hold} {act : State → QWord → Act}
    {s : State} {w : QWord} (hm : MayIssue q h s w) (hb : bad w = false) (hh : holds s w = []) :
    issueState q h bad holds act s = actDone q h w s (act s w) := by
  obtain ⟨hhead, hstop, hhold, hqueue, hdue, htok, hrange⟩ := hm
  have hnow : ¬ ((curCyc s : Int) < wordDue (cc s) (getEng (cc s) q) h.idle.toNat) := by split at hdue <;> omega
  have hidle : ((cc s).timed && h.idle == 0) = false := by
    cases ht : (cc s).timed
    · rfl
    · simp only [ht, if_true] at hdue
      exact beq_false_of_ne hdue.2
  have hlate : ((cc s).timed && decide (wordDue (cc s) (getEng (cc s) q) h.idle.toNat < curCyc s)) = false := by
    cases ht : (cc s).timed
    · rfl
    · simp only [ht, if_true] at hdue
      simp [hdue.1]
  simp only [issueState, hhead, hstop, hhold, hqueue, htok, hrange, hb, hh, decide_eq_false hnow, hidle, hlate, List.append_nil,
    List.isEmpty_nil, Bool.not_true, Bool.and_false, Bool.or_self, Bool.false_eq_true, if_false]
  cases act s w <;> rfl

/-- A header is asked for before its word's cycle only. -/
theorem headAhead_of_mayIssue {k : XKind} {w : XC} {s : State} {qw : QWord} (hm : MayIssue 3 w.h s qw) : headAhead k w s = s := by
  obtain ⟨-, -, -, -, hdue, -, -⟩ := hm
  unfold headAhead
  dsimp only
  split
  next =>
    rw [if_neg]
    intro h
    simp only [Bool.and_eq_true, decide_eq_true_eq] at h
    obtain ⟨⟨⟨⟨⟨⟨⟨⟨ht, -⟩, -⟩, -⟩, -⟩, -⟩, hlt⟩, -⟩, -⟩ := h
    simp only [ht, if_true] at hdue
    omega
  next => rfl

/-- Behind an issue, the records of the queue that a fault stopped take their number of pieces. -/
def copyCounted (t : State) : State :=
  if (getEng (cc t) 3).stop then issueProg (if (cc t).cpy.run.isNone then clearAcks t 3 else t) else t

theorem exec_xKindOf {i : Instr} {k : XKind} {w : XC} (hi : xKindOf i = some (k, w)) (s : State) : exec i s = copyWord k w s := by
  unfold xKindOf at hi
  split at hi <;> cases hi <;> rfl

theorem exec_copyWord {s : State} {i : Instr} {k : XKind} {w : XC} {qw : QWord} (hi : xKindOf i = some (k, w))
    (hm : MayIssue 3 w.h s qw) (hg : xGood (xPlan k w qw) = true) :
    exec i s = .next (copyCounted (actDone 3 w.h qw s (copyAct (xPlan k w qw) s))) := by
  have h := issueState_act (bad := fun qw => !xGood (xPlan k w qw)) (holds := fun _ _ => [])
    (act := fun s qw => copyAct (xPlan k w qw) s) hm (by simp [hg]) rfl
  rw [exec_xKindOf hi]
  simp only [copyWord, headAhead_of_mayIssue hm, h]
  rfl

theorem xDet_eq_none {s : State} {p : XPlan}
    (h : ∀ op z a r b, p.kind = .amo op z a r b → op = .fadd → (curTask s).det = false) : xDet s p = none := by
  unfold xDet
  split
  next z a r b hk => simp [h _ _ _ _ _ hk rfl]
  next => rfl

theorem addThen_ok {s s1 : State} {p : XPlan} {n : Int} {f : State → Issued → State} (h : xAdd s p n = .ok s1) :
    addThen s p n f = .go s1 f := by simp only [addThen, h]

theorem addThen_error {s : State} {p : XPlan} {n : Int} {f : State → Issued → State} {v : W64} (h : xAdd s p n = .error v) :
    addThen s p n f = .flt { code := 0x0051, detail := v } := by simp only [addThen, h]

/-- A word of the own scratchpad is performed as it takes its place. -/
theorem startRun_own (head : List Nat) (p : XPlan) (s : State) (i : Issued) :
    startRun true head p s i = ownTurn (xUpd (startRun false head p s i) fun c => { c with own := true }) i p := by
  simp only [startRun, xUpd, cc_setCC, setCC_setCC, if_true, Bool.false_eq_true, if_false]

/-- A kind whose word, having elements, goes from its illegal-word check to its counted add. -/
def startsAtOnce (k : XKind) : Bool :=
  k matches .cpy | .conv _ | .fill | .gath | .scat | .tab _ | .amo _ _ _ _ _ | .cas _ _ | .get _ | .putv _ | .seq

section
variable {s : State} {p : XPlan} (hd : xDet s p = none)
include hd

theorem copyAct_empty (he : xEmpty p = true) : copyAct p s = addThen s p 0 fun s i => completeWord s 3 i := by
  simp only [copyAct, hd, he, if_true]

theorem copyAct_bar (hk : p.kind = .bar) : copyAct p s = addThen s p p.s.base.toInt fun s i => completeWord s 3 i := by
  simp [copyAct, hd, hk, xEmpty]

variable (he : xEmpty p = false)
include he

theorem copyAct_startsAtOnce (hk : startsAtOnce p.kind = true) : copyAct p s = addThen s p (xTotal p) (startRun false [] p) := by
  simp only [copyAct, hd, he, Bool.false_eq_true, if_false]
  split
  case h_6 => rfl
  all_goals simp [startsAtOnce, *] at hk

section
variable {t c0 nc : Nat} (hk : p.kind = .dec t c0 nc) (ha : p.s.base.toNat % 4 = 0) (hv : (tget {} (cc s).cpy.tab t).valid = true)
include hk ha hv

theorem copyAct_dec_done {s0 : State} {l : List Nat} (h : readHead s p c0 nc = .done s0 l) :
    copyAct p s = addThen s0 p (xTotal p) (startRun false l p) := by
  simp [copyAct, hd, he, hk, ha, hv, h]

theorem copyAct_dec_flt {f : Flt} (h : readHead s p c0 nc = .flt f) : copyAct p s = .flt f := by
  simp [copyAct, hd, he, hk, ha, hv, h]

theorem copyAct_dec_far {s0 : State} (h : readHead s p c0 nc = .far s0) (ht : (cc s).timed = false) : copyAct p s = .ask s0 := by
  simp [copyAct, hd, he, hk, ha, hv, h, ht]

end

section
variable (hk : (∃ t, p.kind = .put t ∨ p.kind = .take t) ∨ p.kind = .tclr)
  (hw : walksAsked s 3 ((tagAccs (unitsFrom s p 0)).map (·.a)) = none)
include hk hw

/-- A tagged word of the own scratchpad whose condition fails at `a` waits for that word's tag. -/
theorem copyAct_tagged_held {s0 : State} {a : VAcc} (h : tagPlace s p = .ok (s0, true))
    (hr : ownReady s0 p (unitsFrom s0 p 0) = some a) : copyAct p s = .wait [.flag 1 a.va] := by
  obtain ⟨t, hk | hk⟩ | hk := hk <;>
  simp only [copyAct, hd, he, hk, orAsk, hw, h, hr, Bool.false_eq_true, if_false, if_true]

theorem copyAct_tagged_go {s0 : State} {own : Bool} (h : tagPlace s p = .ok (s0, own))
    (hr : own = true → ownReady s0 p (unitsFrom s0 p 0) = none) :
    copyAct p s = addThen s0 p (xTotal p) (startRun own [] p) := by
  have hready : (if own then ownReady s0 p (unitsFrom s0 p 0) else none) = none := by
    split
    next ho => exact hr ho
    next => rfl
  obtain ⟨t, hk | hk⟩ | hk := hk <;>
  simp only [copyAct, hd, he, hk, orAsk, hw, h, hready, Bool.false_eq_true, if_false]

end

end

/-- Settles O40: past its checks a copy word does what `copyAct` makes of its plan. -/
theorem copyWordsIssue : Obligations.CopyWordsIssue := by
  intro s i k w qw hi p hm hg hrun hdet runs counted overs faults
  have hd : xDet s p = none := xDet_eq_none hdet
  have hact {a : Act} (h : copyAct p s = a) : exec i s = .next (counted (actDone 3 w.h qw s a)) := h ▸ exec_copyWord hi hm hg
  refine ⟨fun he s1 h => hact ((copyAct_empty hd he).trans (addThen_ok h)),
    fun hk s1 h => hact ((copyAct_bar hd hk).trans (addThen_ok h)),
    fun v hk h => hact ((copyAct_bar hd hk).trans (addThen_error h)),
    fun t c0 nc hk he ha hv => ⟨fun s0 l s1 h h1 => ?_, fun f h => ?_, fun s0 h ht => ?_⟩,
    fun hk he hw s0 => ⟨fun h s1 h1 => ?_, fun h => ⟨fun a hr ht => ?_, fun hr s1 h1 => ?_⟩⟩,
    fun hk he s1 h => hact ((copyAct_startsAtOnce hd he hk).trans (addThen_ok h))⟩
  · exact hact ((copyAct_dec_done hd he hk ha hv h).trans (addThen_ok h1))
  · exact hact (copyAct_dec_flt hd he hk ha hv h)
  · exact hact (copyAct_dec_far hd he hk ha hv h ht)
  · exact hact ((copyAct_tagged_go hd he hk hw h nofun).trans (addThen_ok h1))
  · refine (hact (copyAct_tagged_held hd he hk hw h hr)).trans ?_
    simp only [actDone, holdWord, ht, Bool.false_eq_true, if_false]
  · refine (hact ((copyAct_tagged_go hd he hk hw h fun _ => hr).trans (addThen_ok h1))).trans ?_
    simp only [actDone, startRun_own]
    rfl

end Sys2Proof.Machine
end

section
/-! SUPPORT. O41: the copy word in progress. Each event is a turn of its piece, its operation or its slot; a lemma for each branch
of the turn that a statement reaches says the state in which it ends. -/

namespace Sys2Proof.Machine

open Sys2Proof Sys2Proof.Statements

-- One theorem at a time: many evaluated at once take more threads than the check allows.
set_option Elab.async false

/-! ### The copy engine's state in a core -/

theorem cc_xUpd (s : State) (f : Cpy → Cpy) : cc (xUpd s f) = { cc s with cpy := f (cc s).cpy } := cc_setCC ..

/-! ### The elements of a piece -/

/-- A piece consists of elements of its word. -/
theorem exists_of_mem_runFrom {f : Nat → XUnit} {u : XUnit} (n : Nat) :
    ∀ {m : Nat} {l : Option Nat}, u ∈ runFrom f n m l → ∃ j, u = f j := by
  induction n with
  | zero => exact fun h => nomatch h
  | succ n ih =>
    intro m l h
    simp only [runFrom] at h
    split at h
    · cases h with
      | head => exact ⟨m, rfl⟩
      | tail _ h => exact ih h
    · cases h

/-- Only xseq makes a release store. -/
theorem xUnit_act_ne_rel {s : State} {p : XPlan} (hk : p.kind ≠ .seq) (m : Nat) (v : W64) : (xUnit s p m).act ≠ .rel v := by
  cases h : p.kind with
  | seq => exact absurd h hk
  | cpy | gath | scat | get | putv =>
    simp only [xUnit, h]
    repeat' split
    all_goals exact XAct.noConfusion
  | _ => simp [xUnit, h]

theorem pieceAt_act_ne_rel {s : State} {p : XPlan} (hk : p.kind ≠ .seq) (e : Nat) (v : W64) :
    ∀ u ∈ pieceAt s p e, u.act ≠ .rel v := by
  intro u hu
  obtain ⟨j, rfl⟩ := exists_of_mem_runFrom _ hu
  exact xUnit_act_ne_rel hk j v

/-! ### What a piece stores -/

theorem xSend_of_ne_rel {act : XAct} (h : ∀ v, act ≠ .rel v) (i : Issued) (w : List VAcc) (s : State) :
    xSend i act w s = xStore i w s := by
  unfold xSend
  split
  next v a => exact absurd rfl (h v)
  next => rfl

/-- Accesses at this device are one write. -/
theorem xStore_here {w : List VAcc} (h : ∀ a ∈ w, isVol a.loc = false) (i : Issued) (s : State) :
    xStore i w s = healOver (fun _ => hereLocs w)
      (storeMany s (whoWord s.cur 3 i.w 0) (w.map fun a => (a.loc, a.va, a.data)) false) := by
  have hf : (w.filter fun a => !isVol a.loc) = w := List.filter_eq_self.mpr (by simpa using h)
  simp only [xStore, hf]
  exact sendPieces_here 3 _ _ (by simpa using h)

/-! ### Plain pieces (R352 to R355, R502) -/

theorem exec_copyPiecePerformed {s : State} {i : Issued} {p : XPlan} (hr : copyRun (cc s) = some (i, p)) :
    exec .copyPiecePerformed s = .next (pieceTurn s i p) := by
  change execCopyPiecePerformed s = _
  simp only [execCopyPiecePerformed, hr]

/-- A plain piece whose indices are known is performed as a whole. -/
theorem pieceTurn_plain {s : State} {i : Issued} {p : XPlan} (hn : (cc s).cpy.elem < xCount p)
    (hk : ∀ t, p.kind ≠ .tab t) (ho : (cc s).cpy.own = false) (hc : needChunk (cc s).cpy p = none)
    (hm : xMode (pieceAt s p (cc s).cpy.elem) = .plain)
    (ha : ((pieceAt s p (cc s).cpy.elem).findIdx? fun u => u.act == .ask) = none) :
    pieceTurn s i p = plainTurn s i p (pieceAt s p (cc s).cpy.elem) := by
  cases hp : p.kind with
  | tab t => exact absurd hp (hk t)
  | _ => simp only [pieceTurn, hp, ho, hc, hm, ha, Bool.false_and, Bool.false_eq_true, if_false, if_neg (Nat.not_le.mpr hn)]

/-- What the elements of a piece write, their reads taken in `s`. -/
def pieceWrites (s : State) (us : List XUnit) : List VAcc :=
  (us.map (locUnit s)).filterMap fun u => unitWrite u (unitVals s u)

/-- The bytes that the elements of a piece write. -/
def pieceBytes (us : List XUnit) : Nat := (us.map (·.bytes)).sum

theorem foldl_bytes (us : List XUnit) : us.foldl (fun n u => n + u.bytes) 0 = pieceBytes us := by
  rw [pieceBytes, List.sum_eq_foldl, List.foldl_map]

section
variable {s : State} {p : XPlan} {us : List XUnit} (i : Issued)

/-- A piece not yet begun reads, then writes; a word other than xseq awaits its writes to another device and nothing else. -/
theorem plainTurn_done {s1 : State} (hb : (cc s).cpy.begun = false) (hk : p.kind ≠ .seq) (hu : ∀ v, ∀ u ∈ us, u.act ≠ .rel v)
    (hr : xRead p (cc s).cpy.next (us.flatMap (·.accs)) s = .done s1) :
    plainTurn s i p us =
      let v := xStore i (pieceWrites s1 us) (clearAcks (xNote true ((us.map (locUnit s1)).flatMap (·.accs)) s1) 3)
      if (pieceWrites s1 us).any fun a => isVol a.loc then
        xUpd v fun c => { c with begun := true, len := us.length, bytes := pieceBytes (us.map (locUnit s1)) }
      else finishPiece v i p us.length (pieceBytes (us.map (locUnit s1))) := by
  have hact : ∀ v, ((us.map (locUnit s1)).head?.map (·.act)).getD .skip ≠ .rel v := by
    intro v
    cases us with
    | nil => exact nofun
    | cons u us => exact hu v u List.mem_cons_self
  have hseq : (p.kind != .seq) = true := by simpa using hk
  simp only [plainTurn, hb, hr, xSend_of_ne_rel hact, hseq, foldl_bytes, List.length_map, beq_eq_false_iff_ne.mpr hk,
    Bool.false_eq_true, if_false]
  rfl

theorem plainTurn_flt {f : Flt} (hb : (cc s).cpy.begun = false)
    (hr : xRead p (cc s).cpy.next (us.flatMap (·.accs)) s = .flt f) : plainTurn s i p us = xFault s i p f := by
  simp only [plainTurn, hb, hr, Bool.false_eq_true, if_false]

section
variable (hb : (cc s).cpy.begun = true) (hv : volPending s 3 = false)
include hb hv

/-- The last acknowledgement ends a piece written to another device. -/
theorem plainTurn_acked (hk : p.kind ≠ .seq) (h : xFarFlt s (farWrites (us.flatMap fun u => (locUnit s u).accs)) = none) :
    plainTurn s i p us = finishPiece s i p (cc s).cpy.len (cc s).cpy.bytes := by
  simp only [plainTurn, hb, hv, h, beq_eq_false_iff_ne.mpr hk, Bool.false_eq_true, if_false, if_true]

theorem plainTurn_refused {f : Flt} (h : xFarFlt s (farWrites (us.flatMap fun u => (locUnit s u).accs)) = some f) :
    plainTurn s i p us = xFault s i p f := by
  simp only [plainTurn, hb, hv, h, Bool.false_eq_true, if_false, if_true]

end

end

theorem plainPiecesAreReadThenWritten : PlainPiecesAreReadThenWritten := by
  intro s i p hrun c us hn hk hseq hown hchunk hmode hask
  have hexec : exec .copyPiecePerformed s = .next (plainTurn s i p us) := by
    rw [exec_copyPiecePerformed hrun, pieceTurn_plain hn hk hown hchunk hmode hask]
  have hrel : ∀ v, ∀ u ∈ us, u.act ≠ .rel v := pieceAt_act_ne_rel hseq _
  refine ⟨fun hb s1 hr => ⟨fun hv => ?_, fun hv => ?_⟩, fun hb f hr => ?_, fun hb hv => ⟨fun h => ?_, fun f h => ?_⟩⟩
  · rw [hexec, plainTurn_done i hb hseq hrel hr, ← xStore_here hv]
    have hhere : ¬ ((pieceWrites s1 us).any fun a => isVol a.loc) = true := by
      rw [List.any_eq_true]
      exact fun ⟨a, ha, h⟩ => Bool.false_ne_true ((hv a ha).symm.trans h)
    exact congrArg _ (if_neg hhere)
  · rw [hexec, plainTurn_done i hb hseq hrel hr]
    exact congrArg _ (if_pos (List.any_eq_true.mpr hv))
  · rw [hexec, plainTurn_flt i hb hr]
  · rw [hexec, plainTurn_acked i hb hv hseq h]
  · rw [hexec, plainTurn_refused i hb hv h]

/-! ### Atomics one by one (R363, R364, R370, R400) -/

theorem exec_atomicAtPort {s : State} {i : Issued} {p : XPlan} (hr : copyRun (cc s) = some (i, p))
    (hn : (cc s).cpy.elem < xCount p) (hb : (cc s).cpy.begun = true)
    (hm : xMode (pieceAt s p (cc s).cpy.elem) = .atomic) :
    exec .atomicAtPort s = .next (atomicTurn s i p (pieceAt s p (cc s).cpy.elem)) := by
  change execAtomicAtPort s = _
  simp only [execAtomicAtPort, hr, hb, hm, hn, decide_true, BEq.rfl, Bool.and_self, if_true]

section
variable {s : State} {p : XPlan} {us : List XUnit} {u : XUnit} (i : Issued) (hu : us[(cc s).cpy.part]? = some u)
  (hs : (cc s).cpy.sent = none)
include hu hs

theorem atomicTurn_gone {f : Flt} (h : reUnit s u = .error f) : atomicTurn s i p us = xFault s i p f := by
  simp only [atomicTurn, hu, hs, h, Option.isSome_none, Bool.false_eq_true, if_false]

theorem atomicTurn_here {v : XUnit} {op : RemoteOp} (hg : (cc s).cpy.got = none) (h : reUnit s u = .ok v)
    (ho : unitAmo v ((cc s).cpy.vals.getD (cc s).cpy.part []) = some op) (hl : isVol (accAt v 0).loc = false) :
    atomicTurn s i p us =
      let r := atomicHere s (whoWord s.cur 3 i.w (accAt v 0).va) (accAt v 0).loc op
      atomicDone r.1 i p v (BitVec.ofNat 64 r.2) us.length := by
  simp only [atomicTurn, hu, hs, hg, h, ho, hl, Option.isSome_none, Bool.false_eq_true, if_false]

end

/-- A result at this device is written at once. -/
theorem resultTurn_here {u : XUnit} {a : VAcc} (hr : resultAcc u = some a) (hv : isVol a.loc = false) (s : State) (i : Issued)
    (p : XPlan) (old : W64) (b n m : Nat) :
    resultTurn s i p u old b n m =
      let e := { a with data := leBytes a.len old.toNat }
      opDone (xStore i [e] (sampleAll s.cur true [e] s)) i p b n m := by
  simp only [resultTurn, hr, hv, Bool.not_false, if_true]

theorem resultTurn_none {u : XUnit} (hr : resultAcc u = none) (s : State) (i : Issued) (p : XPlan) (old : W64) (b n m : Nat) :
    resultTurn s i p u old b n m = opDone s i p b n m := by
  simp only [resultTurn, hr]

theorem atomicsOfAPieceArePerformedOneByOne : AtomicsOfAPieceArePerformedOneByOne := by
  intro s i p u hrun c us hn hb hm hu hg hs
  have hexec : exec .atomicAtPort s = .next (atomicTurn s i p us) := exec_atomicAtPort hrun hn hb hm
  refine ⟨fun f hf => ?_, fun v op hv ho hl => ?_⟩
  · rw [hexec, atomicTurn_gone i hu hs hf]
  · intro r t hok
    have hturn : exec .atomicAtPort s
        = .next (resultTurn t i p v (BitVec.ofNat 64 r.2) (v.bytes - (accAt v 0).len) us.length us.length) := by
      rw [hexec, atomicTurn_here i hu hs hg hv ho hl]
      exact congrArg _ (if_neg (by rw [hok]; exact Bool.false_ne_true))
    rw [hturn]
    exact ⟨fun hr => congrArg _ (resultTurn_none hr ..), fun a hr ha => congrArg _ (resultTurn_here hr ha ..)⟩

/-! ### Tagged operations arrive (R66, R67, R346, R366) -/

/-- The core `k` after the operation of lid `lid` in `task` has arrived. -/
def noLongerBehind (task lid : Nat) (k : Core) : Core :=
  if k.task = task ∧ k.cpy.behind.contains lid then
    { k with cpy := { k.cpy with behind := k.cpy.behind.filter (· ≠ lid) } }
  else k

/-- Reading a table after a map that keeps the default. -/
theorem tget_map {α : Type} {d : α} {f : α → α} (hf : f d = d) (t : Tbl α) (a : Nat) :
    tget d (t.map fun e => (e.1, f e.2)) a = f (tget d t a) := by
  induction t with
  | nil => exact hf.symm
  | cons e t ih =>
    simp only [List.map_cons, tget, ih]
    split <;> rfl

theorem getCore_noneBehind (s : State) (c : Nat) :
    getCore (noneBehind s) c = noLongerBehind (cc s).task (cc s).lid (getCore s c) :=
  tget_map (f := noLongerBehind (cc s).task (cc s).lid) (if_neg (by simp)) s.cores c

/-- Of a core only the lids that its own operation waits for change. -/
theorem noLongerBehind_eq (task lid : Nat) (k : Core) :
    ∃ b, noLongerBehind task lid k = { k with cpy := { k.cpy with behind := b } } := by
  unfold noLongerBehind
  split
  · exact ⟨_, rfl⟩
  · exact ⟨k.cpy.behind, rfl⟩

theorem exec_taggedOpArrival {s : State} {i : Issued} {p : XPlan} {a : VAcc} {k : TagKind} {v : W64} {d o : Nat}
    (hr : copyRun (cc s) = some (i, p)) (hb : stillBehind s (cc s).task (cc s).cpy.behind = false)
    (hs : (cc s).cpy.sent = some .way) (ho : sentOp s p = some (a, k, v)) (hl : a.loc = .scr d o) :
    exec .taggedOpArrival s = .next (tagArrive s i p a d k v) := by
  change execTaggedOpArrival s = _
  simp only [execTaggedOpArrival, hb, hr, hs, ho, hl, Bool.false_eq_true, if_false]

theorem exec_taggedOpArrival_behind {s : State} (hb : stillBehind s (cc s).task (cc s).cpy.behind = true) :
    exec .taggedOpArrival s = .next s := by
  change execTaggedOpArrival s = _
  simp only [execTaggedOpArrival, hb, if_true]

section
variable {s : State} {p : XPlan} {a : VAcc} {k : TagKind} {d o : Nat} (i : Issued) (v : W64) (hl : a.loc = .scr d o)
include hl

theorem tagArrive_performed (hc : tagCond k (tagFull s d (o / 8)) = true)
    (hu : tagReads k = true → uncorrectable s a.loc 8 = none) :
    tagArrive s i p a d k v =
      let h : Held := { sender := .copy s.cur a.va, word := o / 8, kind := k, val := v }
      let r := tagPerform s (heldWho s h) d (o / 8) k v false
      noneBehind (heldDone r.1 h r.2 (tagSetter s d (o / 8))) := by
  have hok : (tagReads k && (uncorrectable s (.scr d o) 8).isSome) = false := by
    cases hk : tagReads k
    · rfl
    · simp [← hl, hu hk]
  simp only [tagArrive, hl, locOff, hc, hok, Bool.false_eq_true, if_false, if_true]

theorem tagArrive_unreadable (hc : tagCond k (tagFull s d (o / 8)) = true) (hk : tagReads k = true)
    (hu : uncorrectable s a.loc 8 ≠ none) :
    tagArrive s i p a d k v
      = noneBehind (xFault s i p { code := 0x0020, addr := a.va, detail := BitVec.ofNat 64 (cc s).cpy.next }) := by
  have hbad : (tagReads k && (uncorrectable s (.scr d o) 8).isSome) = true := by
    rw [hk, ← hl, Option.isSome_iff_ne_none.mpr hu]
    rfl
  simp only [tagArrive, hl, locOff, hc, hbad, if_true]

theorem tagArrive_refused (hc : tagCond k (tagFull s d (o / 8)) = false) (hn : 32 ≤ (getCore s d).held.length) :
    tagArrive s i p a d k v = xUpd s fun c => { c with sent := some (.refused (curCyc s + 64)) } := by
  simp only [tagArrive, hl, locOff, hc, Bool.false_eq_true, if_false, if_neg (Nat.not_lt.mpr hn)]

end

/-- The cycle of the core that runs depends on its offset and its cluster's count. -/
theorem curCyc_of_off {s t : State} (hu : t.cur = s.cur) (hl : t.clusters = s.clusters) (hr : t.ref = s.ref)
    (ho : (cc t).off = (cc s).off) : curCyc t = curCyc s := by
  unfold cc at ho
  rw [hu] at ho
  simp only [curCyc, cycOf, schedCyc, getCluster, hu, hl, hr, ho]

/-- The state in which the sender's wait is a new one, unless its operation was held before. -/
def heldAnew (s : State) : State := if (cc s).cpy.since.isSome then s else setCC s (unopen (cc s) 8)

/-- The state in which core `d` has the operation `h` in its pending list. -/
def heldAt (s : State) (d : Nat) (h : Held) : State :=
  setCore (heldAnew s) d { getCore (heldAnew s) d with held := (getCore s d).held ++ [h] }

/-- The state in which core `d` holds the operation `h` of the core that runs. -/
def heldArrived (s : State) (d : Nat) (h : Held) : State :=
  noneBehind (xUpd (heldAt s d h) fun c =>
    { c with sent := some .held, since := some (c.since.getD (curCyc (heldAt s d h))) })

theorem tagArrive_held {s : State} {p : XPlan} {a : VAcc} {k : TagKind} {d o : Nat} (i : Issued) (v : W64)
    (hl : a.loc = .scr d o) (hc : tagCond k (tagFull s d (o / 8)) = false) (hn : (getCore s d).held.length < 32) :
    tagArrive s i p a d k v =
      heldArrived s d { sender := .copy s.cur a.va, word := o / 8, kind := k, val := v } := by
  simp only [tagArrive, hl, locOff, hc, Bool.false_eq_true, if_false, if_pos hn]
  rfl

theorem heldAnew_sender (s : State) :
    (heldAnew s).cur = s.cur ∧ (cc (heldAnew s)).cpy = (cc s).cpy ∧ curCyc (heldAnew s) = curCyc s := by
  unfold heldAnew
  split
  · exact ⟨rfl, rfl, rfl⟩
  · exact ⟨rfl, (congrArg Core.cpy (cc_setCC s (unopen (cc s) 8)) :), curCyc_setCC_of_off rfl⟩

/-- At another core's port the sender's own core only notes that its wait is new. -/
theorem heldAt_sender {s : State} {d : Nat} (hd : d ≠ s.cur) (h : Held) :
    (heldAt s d h).cur = s.cur ∧ (cc (heldAt s d h)).cpy = (cc s).cpy ∧ curCyc (heldAt s d h) = curCyc s := by
  obtain ⟨hcur, hcpy, hcyc⟩ := heldAnew_sender s
  have hcc : getCore (heldAt s d h) (heldAnew s).cur = cc (heldAnew s) := getCore_setCore_ne _ _ (hcur ▸ hd.symm)
  have hsame : curCyc (heldAt s d h) = curCyc (heldAnew s) := curCyc_of_off rfl rfl rfl (congrArg Core.off hcc)
  exact ⟨hcur, (congrArg Core.cpy hcc).trans hcpy, hsame.trans hcyc⟩

/-- The sender's operation is held since the cycle of its first arrival, last in the port's list. -/
theorem heldArrived_spec {s : State} {d : Nat} (hd : d ≠ s.cur) (h : Held) :
    (cc (heldArrived s d h)).cpy.sent = some .held
      ∧ (cc (heldArrived s d h)).cpy.since = some ((cc s).cpy.since.getD (curCyc s))
      ∧ (getCore (heldArrived s d h) d).held = (getCore s d).held ++ [h] := by
  obtain ⟨hcur, hcpy, hcyc⟩ := heldAt_sender hd h
  unfold heldArrived
  generalize hu : (xUpd (heldAt s d h) fun c =>
    { c with sent := some .held, since := some (c.since.getD (curCyc (heldAt s d h))) }) = u
  have hcc : cc (noneBehind u) = noLongerBehind (cc u).task (cc u).lid (cc u) := getCore_noneBehind u u.cur
  have hself : (cc u).cpy.sent = some .held ∧ (cc u).cpy.since = some ((cc s).cpy.since.getD (curCyc s)) := by
    rw [← hu, cc_xUpd, hcpy, hcyc]
    exact ⟨rfl, rfl⟩
  have hport : getCore u d = getCore (heldAt s d h) d := hu ▸ getCore_setCC_ne _ _ (hcur ▸ hd)
  obtain ⟨b, hb⟩ := noLongerBehind_eq (cc u).task (cc u).lid (cc u)
  obtain ⟨e, he⟩ := noLongerBehind_eq (cc u).task (cc u).lid (getCore u d)
  refine ⟨?_, ?_, ?_⟩
  · rw [hcc, hb, ← hself.1]
  · rw [hcc, hb, ← hself.2]
  · rw [getCore_noneBehind, he, hport, heldAt, getCore_setCore_self]

theorem exec_taggedResend {s : State} {i : Issued} {p : XPlan} {a : VAcc} {k : TagKind} {v : W64} {c d o : Nat}
    (hr : copyRun (cc s) = some (i, p)) (hs : (cc s).cpy.sent = some (.refused c)) (hc : c ≤ curCyc s)
    (ho : sentOp s p = some (a, k, v)) (hl : a.loc = .scr d o) :
    exec .taggedResend s
      = .next (xUpd s fun c => { c with sent := some .way, to_ := some a.loc, ent := entOf s s.cur a.va }) := by
  have hhere : isVol a.loc = false := by rw [hl]; rfl
  change execTaggedResend s = _
  simp only [execTaggedResend, hs, if_pos hc, sendAgain, hr, Option.bind_some, ho, sendTag, hhere, Bool.false_eq_true, if_false]

theorem taggedOperationsArriveInOrder : TaggedOperationsArriveInOrder := by
  refine ⟨fun s i p a k v d o hrun hb hs ho hl => ?_, fun s i p a k v c d o => exec_taggedResend,
    fun s hb => exec_taggedOpArrival_behind hb⟩
  intro h
  rw [exec_taggedOpArrival hrun hb hs ho hl]
  refine ⟨fun hc => ⟨fun hu => ?_, fun hk hu => ?_⟩, fun hc => ⟨fun hn => ?_, fun hn hd => ?_⟩⟩
  · rw [tagArrive_performed i v hl hc hu]
  · rw [tagArrive_unreadable i v hl hc hk hu]
  · rw [tagArrive_refused i v hl hc hn]
  · exact ⟨_, congrArg _ (tagArrive_held i v hl hc hn), heldArrived_spec hd h⟩

/-! ### Completion (R354, R370, R376) -/

/-- The word in progress leaves the copy engine and completes. -/
def copyGone (s : State) (i : Issued) : State := completeWord (xUpd (clearAcks s 3) fun c => { tab := c.tab }) 3 i

/-- The state in which `n` bytes fewer are left of the word's counted add. -/
def lessLeft (s : State) (n : Nat) : State := xUpd s fun c => { c with left := c.left - n }

section
variable {s : State} {p : XPlan} (i : Issued)

/-- A word whose pieces are performed and whose requests are answered takes what is left off its slot; where that does not stop
it, it completes. -/
theorem exec_copyWordComplete (hr : copyRun (cc s) = some (i, p)) (hn : xCount p ≤ (cc s).cpy.elem)
    (ho : ((cc s).cpy.own && (cc s).cpy.begun) = false) (hv : volPending s 3 = false) :
    exec .copyWordComplete s = .next
      (let t := xSub s i p (cc s).cpy.left
       if (copyRun (cc t)).isNone then t else copyGone t i) := by
  change execCopyWordComplete s = _
  simp only [execCopyWordComplete, hr, ho, hv, decide_eq_false (Nat.not_lt.mpr hn), Bool.or_self, Bool.false_eq_true, if_false]
  split <;> rfl

theorem xSub_none (h : (cc s).cpy.slot = none) (n : Nat) : xSub s i p n = s := by
  simp only [xSub, h]

variable {lvl sl : Nat} (h : (cc s).cpy.slot = some (lvl, sl)) {n : Nat}
include h

theorem xSub_ok {t : State} (ht : slotAdd (lessLeft s n) (lessLeft s n).cur lvl sl (-(n : Int)) = .ok t) : xSub s i p n = t := by
  unfold lessLeft at ht
  simp only [xSub, h, ht]

theorem xSub_error {v : W64} (ht : slotAdd (lessLeft s n) (lessLeft s n).cur lvl sl (-(n : Int)) = .error v) :
    xSub s i p n = xFault (lessLeft s n) i p { code := 0x0051, detail := v } := by
  unfold lessLeft at *
  simp only [xSub, h, ht]

end

theorem copyWordCompletesWithItsSlot : CopyWordCompletesWithItsSlot := by
  intro s i p hrun hn ho hv gone
  rw [exec_copyWordComplete i hrun hn ho hv]
  refine ⟨fun h => ?_, fun lvl sl h => ⟨fun t1 ht hr => ?_, fun v ht => ?_⟩⟩
  · rw [xSub_none i h]
    exact congrArg _ (if_neg (by simp [hrun]))
  · rw [xSub_ok i h ht]
    exact congrArg _ (if_neg (by rwa [Option.isNone_iff_eq_none]))
  · intro t1 hr
    rw [xSub_error i h ht]
    exact congrArg _ (if_pos (by rwa [Option.isNone_iff_eq_none]))

/-- Settles O41: each event is the turn of the word in progress, followed to the state in which it ends. -/
theorem copyWordsArePerformedPieceByPiece : Obligations.CopyWordsArePerformedPieceByPiece :=
  ⟨plainPiecesAreReadThenWritten, atomicsOfAPieceArePerformedOneByOne, taggedOperationsArriveInOrder, copyWordCompletesWithItsSlot⟩

end Sys2Proof.Machine
end

section
/-! SUPPORT. O60: what reset leaves. Nothing is listed after reset, so each clause is a default field; the registers of the hub are
read from those fields one by one. -/

namespace Sys2Proof.Machine

/-- No core is listed after reset. -/
theorem getCore_reset (c : Nat) : getCore State.reset c = {} := rfl

/-- Settles O60: the clauses on lists and cores are default fields; the listed registers are finitely many closed reads. -/
theorem resetLeavesTheStatedValues : Obligations.ResetLeavesTheStatedValues :=
  ⟨rfl, rfl, rfl, rfl, rfl, rfl, rfl, getCore_reset, rfl, by decide⟩

end Sys2Proof.Machine
end

section
/-! SUPPORT. O43: queues and rings. Each write or expiry is its own change of one queue or ring, which then reads back as it was
left. -/

namespace Sys2Proof.Machine

@[simp] theorem getSq_setSq_self (s : State) (q : Nat) (v : Sq) : getSq (setSq s q v) q = v := tget_tset_self ..

@[simp] theorem getRing_setRing_self (s : State) (r : RingId) (v : Ring) : getRing (setRing s r v) r = v := by
  cases r with
  | cq q => exact tget_tset_self ..
  | tr => rfl

@[simp] theorem setRing_msgs (s : State) (r : RingId) (v : Ring) : (setRing s r v).host.msgs = s.host.msgs := by cases r <;> rfl

@[simp] theorem getRing_sendMsix (s : State) (r : RingId) (v : Nat) : getRing (sendMsix s v) r = getRing s r := by cases r <;> rfl

/-- Clearing en in a configuration clears it, whatever the other fields hold. -/
@[simp] theorem ringEn_cleared (cfg : W64) : ringEn (cfg &&& ~~~(1 : W64)) = false := by simp [ringEn]

/-! ### Queues (R475) -/

section
variable {s : State} {q : Nat} (v : W64)

theorem enableSq_enabled (h : ringEn (getSq s q).cfg = true) : enableSq s q v = s := if_pos h

theorem enableSq_fresh (h : ringEn (getSq s q).cfg = false) :
    enableSq s q v = setSq s q { base := (getSq s q).base, cfg := (v ||| 1) &&& sqCfgMask, polled := s.gtc } :=
  if_neg (by simp [h])

theorem getSq_disableSq_enabled (h : ringEn (getSq s q).cfg = true) :
    getSq (disableSq s q v) q = { getSq s q with
      cfg := (getSq s q).cfg &&& ~~~(1 : W64), torn := false, stopped := false, rereads := 0, rereadDue := false
      reread := false, owed := 0 } := by
  simp [disableSq, h]

theorem getSq_disableSq_disabled (h : ringEn (getSq s q).cfg = false) :
    getSq (disableSq s q v) q = { getSq s q with cfg := v &&& 0xFFFF003E } := by
  have hm : v &&& sqCfgMask &&& ~~~(1 : W64) = v &&& 0xFFFF003E := by rw [BitVec.and_assoc]; rfl
  simp only [disableSq, h, hm, Bool.false_eq_true, if_false, getSq_setSq_self]

end

theorem exec_queueEnable {q : Nat} (v : W64) (s : State) (hq : q < 64) : exec (.queueEnable q v) s = .next (enableSq s q v) :=
  if_pos hq

theorem exec_queueDisable {q : Nat} (v : W64) (s : State) (hq : q < 64) : exec (.queueDisable q v) s = .next (disableSq s q v) :=
  if_pos hq

/-! ### Rings (R478 to R480) -/

section
variable {s : State} {r : RingId} (v : W64)

theorem enableRing_enabled (h : ringEn (getRing s r).cfg = true) : enableRing s r v = s := if_pos h

theorem enableRing_fresh (h : ringEn (getRing s r).cfg = false) :
    enableRing s r v = flushRing (setRing s r { getRing s r with cfg := (v ||| 1) &&& ringMask r, head := 0 }) r :=
  if_neg (by simp [h])

theorem getRing_disableRing_enabled (h : ringEn (getRing s r).cfg = true) :
    getRing (disableRing s r v) r = { getRing s r with cfg := (getRing s r).cfg &&& ~~~(1 : W64), heldMsg := false } := by
  simp [disableRing, h]

end

theorem exec_ringEnable {r : RingId} (v : W64) (s : State) (hr : ringOk r = true) :
    exec (.ringEnable r v) s = .next (enableRing s r v) := if_pos hr

theorem exec_ringDisable {r : RingId} (v : W64) (s : State) (hr : ringOk r = true) :
    exec (.ringDisable r v) s = .next (disableRing s r v) := if_pos hr

theorem exec_ringTailWrite {r : RingId} (v : W64) (s : State) (hr : ringOk r = true) :
    exec (.ringTailWrite r v) s = .next (flushRing (setRing s r { getRing s r with tail := v.setWidth 32 }) r) := if_pos hr

theorem exec_msixCoalesceExpiry {r : RingId} {s : State} (h : msgDue s r = true) :
    exec (.msixCoalesceExpiry r) s =
      .next (sendMsix (setRing s r { getRing s r with sentAt := s.gtc, heldMsg := false }) (ringVector r)) := if_pos h

/-- The one record that waits goes to the entry at head of an enabled ring with room. -/
theorem flushRing_one {s : State} {q : Nat} {b : List Byte} (hw : (getRing s (.cq q)).wait = [b])
    (he : ringEn (getRing s (.cq q)).cfg = true)
    (hroom : ((getRing s (.cq q)).head - (getRing s (.cq q)).tail).toNat < ringSlots (getRing s (.cq q)).cfg) :
    flushRing s (.cq q) = ringMsg (setRing (ringPut s (ringLoc (getRing s (.cq q)).cfg)
      ((getRing s (.cq q)).base.toNat + 64 * ((getRing s (.cq q)).head.toNat % ringSlots (getRing s (.cq q)).cfg)) b) (.cq q)
      { getRing s (.cq q) with head := (getRing s (.cq q)).head + 1, wait := [] }) (.cq q) := by
  simp only [flushRing, hw, List.length_cons, List.length_nil, ringFlush, ringSpa, he, decide_eq_true hroom, Bool.and_self, if_true]

/-- Settles O43: what each write and expiry leaves, read back from its queue or ring. -/
theorem queuesAndRingsFollowTheirEnables : Obligations.QueuesAndRingsFollowTheirEnables := by
  refine ⟨fun s q v hq => ?_, fun s r v hr => ?_, fun s q b => flushRing_one⟩
  · dsimp only
    rw [exec_queueEnable v s hq, exec_queueDisable v s hq]
    refine ⟨fun h => by rw [enableSq_enabled v h], fun h => by rw [enableSq_fresh v h]; rfl, fun h => ⟨_, rfl, ?_⟩,
      fun h => ⟨_, rfl, by rw [getSq_disableSq_disabled v h]⟩⟩
    rw [getSq_disableSq_enabled v h]
    exact ⟨ringEn_cleared _, rfl, rfl, rfl⟩
  · dsimp only
    rw [exec_ringEnable v s hr, exec_ringDisable v s hr, exec_ringTailWrite v s hr]
    refine ⟨fun h => by rw [enableRing_enabled v h], fun h => by rw [enableRing_fresh v h], fun h => ⟨_, rfl, ?_⟩, rfl,
      fun h => ⟨_, exec_msixCoalesceExpiry h, ?_, by simp⟩⟩
    · rw [getRing_disableRing_enabled v h]
      exact ⟨ringEn_cleared _, rfl, rfl⟩
    · exact congrArg (ringVector r :: ·) (setRing_msgs ..)

end Sys2Proof.Machine
end

section
/-! SUPPORT. O47: curves, samples, dies and rails. A report changes the bookkeeping of the event ring and nothing else of the
Bursar; with that rule each event is read off from the branch that its conditions choose. -/

namespace Sys2Proof.Machine

open Sys2Proof Sys2Proof.Statements

/-! ### Reports (R470) -/

/-- The Bursar but for the numbering and the ring of its event records. -/
def eventFree (b : Bur) : Bur := { b with evseq := 0, evhead := 0, evtail := 0, evlost := false }

@[simp] theorem eventFree_reportEvent (s : State) (kind grade victims dies detail : Nat) :
    eventFree (reportEvent s kind grade victims dies detail).bur = eventFree s.bur := by
  unfold reportEvent
  extract_lets b cseq msg r n s1 full s2 sbur s4 s5
  have h2 : s2.bur = s1.bur := (sameBut_writeSpa ..).bur
  have h4 : eventFree s4.bur = eventFree s1.bur := by rw [← h2]; rfl
  have h5 : eventFree s5.bur = eventFree s.bur := by
    dsimp only [s5]
    split
    · rfl
    · exact h4
  split
  · split <;> exact h5
  · exact h5

/-! ### Curves (R448 to R452) -/

theorem exec_curveSubmit_taken {s : State} (v : W64) (hd : s.bur.deciding = none) (hl : s.bur.lock = true) :
    exec (.curveSubmit v) s = .next { s with
      bur := { s.bur with deciding := some (v &&& 0xFFFFFFFFFFFF8) }, mg := { s.mg with cinSrc := none } } :=
  if_neg (by simp [hd, hl])

theorem exec_curveSubmit_overrun {s : State} (v : W64) (h : s.bur.deciding ≠ none ∨ s.bur.lock = false) :
    exec (.curveSubmit v) s = .next { s with bur := { s.bur with ovr := true } } :=
  if_pos (by
    rcases h with h | h
    · simp [Option.isSome_iff_ne_none.mpr h]
    · simp [h])

/-- The state in which the record in hand has been taken out of the Bursar's input. -/
def takenIn (s : State) : State := { s with bur := { s.bur with deciding := none }, mg := { s.mg with cinSrc := none } }

section
variable {s : State} {a : W64} (hd : s.bur.deciding = some a) (hm : s.mg.cinSrc = none)
include hd hm

/-- The decision of a record that `bur.cin` gave: refused by its first failing check, else by a failed write of the sequence
record, else accepted. -/
theorem exec_curveDecision :
    let b := readSpaLong s a.toNat 1216
    let r := curveReason s (inHub s a.toNat 1216) b
    let u := putSeqRecord (takenIn s) (curveOf b).seq
    exec .curveDecision s = if r ≠ 0 then .next (refuseCurve (takenIn s) r)
      else if u.2 then .next (acceptCurve u.1 (curveOf b) none) else .next (refuseCurve u.1 7) := by
  change execCurveDecision s = _
  unfold execCurveDecision
  rw [hd, hm]
  rfl

end

theorem putSeqRecord_written {s : State} (q : W64) (h : Config.flashOk s.fresh = true) :
    (putSeqRecord s q).2 = true ∧ (putSeqRecord s q).1.bur = s.bur ∧ (putSeqRecord s q).1.gtc = s.gtc := by
  simp [putSeqRecord, takeFresh, h, writeFlash]

theorem putSeqRecord_failed {s : State} (q : W64) (h : Config.flashOk s.fresh = false) :
    (putSeqRecord s q).2 = false ∧ (putSeqRecord s q).1.bur = s.bur := by
  simp [putSeqRecord, takeFresh, h, writeFlash]

/-- Of the Bursar a refusal changes `last` and the event ring. -/
theorem eventFree_refuseCurve (s : State) (r : Nat) :
    eventFree (refuseCurve s r).bur = eventFree { s.bur with last := BitVec.ofNat 3 r } := eventFree_reportEvent ..

theorem eventFree_acceptCurve_now {s : State} {c : Curve} (src : Option Nat) (h : c.vfrom ≤ s.gtc) :
    eventFree (acceptCurve s c src).bur
      = eventFree (({ s.bur with seq := c.seq, last := 0, pendingC := none } : Bur).changeTo (some c) s.gtc) := by
  simp [acceptCurve, h]

theorem eventFree_acceptCurve_later {s : State} {c : Curve} (src : Option Nat) (h : ¬ c.vfrom ≤ s.gtc) :
    eventFree (acceptCurve s c src).bur = eventFree { s.bur with seq := c.seq, last := 0, pendingC := some c } := by
  simp [acceptCurve, h]

theorem eventFree_takeOver (s : State) (c : Curve) :
    eventFree (takeOver s c).bur = eventFree { s.bur.changeTo (some c) c.vfrom with pendingC := none } := by
  unfold takeOver
  dsimp only
  split
  · exact eventFree_reportEvent ..
  · rfl


theorem exec_curveActivate {s : State} {c : Curve} (hp : s.bur.pendingC = some c) (hv : c.vfrom ≤ s.gtc) :
    exec .curveActivate s = .next (takeOver s c) := by
  change execCurveActivate s = _
  simp only [execCurveActivate, hp, hv, if_true]

theorem exec_curveExpire {s : State} {a : Curve} (ha : s.bur.active = some a) (hv : a.vto ≤ s.gtc) (hp : s.bur.pendingC = none) :
    exec .curveExpire s = .next (reportEvent (setBur s (s.bur.changeTo none a.vto)) 3 0 0 0 fallbackW) := by
  change execCurveExpire s = _
  simp only [execCurveExpire, ha, hv, hp, if_true, Option.filter_none]

/-- What each outcome of a decision leaves, as the Bursar's fields read. -/
theorem curveDecided {s : State} {a : W64} (hd : s.bur.deciding = some a) (hm : s.mg.cinSrc = none) :
    let b := readSpaLong s a.toNat 1216
    let r := curveReason s (inHub s a.toNat 1216) b
    ∃ t, exec .curveDecision s = .next t ∧ t.bur.deciding = none
      ∧ (r ≠ 0 → t.bur.last = BitVec.ofNat 3 r ∧ t.bur.active = s.bur.active ∧ t.bur.pendingC = s.bur.pendingC ∧ t.bur.seq = s.bur.seq)
      ∧ (r = 0 → Config.flashOk s.fresh = true → t.bur.last = 0 ∧ t.bur.seq = (curveOf b).seq
          ∧ (if (curveOf b).vfrom ≤ s.gtc then t.bur.active = some (curveOf b) ∧ t.bur.pendingC = none
             else t.bur.pendingC = some (curveOf b) ∧ t.bur.active = s.bur.active))
      ∧ (r = 0 → Config.flashOk s.fresh = false → t.bur.last = 7 ∧ t.bur.active = s.bur.active) := by
  dsimp only
  rw [exec_curveDecision hd hm]
  generalize readSpaLong s a.toNat 1216 = b
  generalize curveReason s (inHub s a.toNat 1216) b = r
  by_cases hr : r = 0
  · rw [if_neg (not_not_intro hr)]
    cases hf : Config.flashOk s.fresh with
    | true =>
      obtain ⟨hok, hbur, hgtc⟩ := putSeqRecord_written (s := takenIn s) (curveOf b).seq hf
      rw [if_pos hok]
      refine ⟨_, rfl, ?_⟩
      by_cases hv : (curveOf b).vfrom ≤ s.gtc
      · have h := eventFree_acceptCurve_now none (hgtc ▸ hv)
        rw [hbur] at h
        exact ⟨(congrArg Bur.deciding h :), fun h0 => absurd hr h0, fun _ _ => ⟨(congrArg Bur.last h :), (congrArg Bur.seq h :),
          if_pos hv ▸ ⟨(congrArg Bur.active h :), (congrArg Bur.pendingC h :)⟩⟩, fun _ => nofun⟩
      · have h := eventFree_acceptCurve_later none (hgtc ▸ hv)
        rw [hbur] at h
        exact ⟨(congrArg Bur.deciding h :), fun h0 => absurd hr h0, fun _ _ => ⟨(congrArg Bur.last h :), (congrArg Bur.seq h :),
          if_neg hv ▸ ⟨(congrArg Bur.pendingC h :), (congrArg Bur.active h :)⟩⟩, fun _ => nofun⟩
    | false =>
      obtain ⟨hno, hbur⟩ := putSeqRecord_failed (s := takenIn s) (curveOf b).seq hf
      rw [if_neg (by simp [hno])]
      have h := eventFree_refuseCurve (putSeqRecord (takenIn s) (curveOf b).seq).1 7
      rw [hbur] at h
      exact ⟨_, rfl, (congrArg Bur.deciding h :), fun h0 => absurd hr h0, fun _ => nofun,
        fun _ _ => ⟨(congrArg Bur.last h :), (congrArg Bur.active h :)⟩⟩
  · rw [if_pos hr]
    have h := eventFree_refuseCurve (takenIn s) r
    exact ⟨_, rfl, (congrArg Bur.deciding h :),
      fun _ => ⟨(congrArg Bur.last h :), (congrArg Bur.active h :), (congrArg Bur.pendingC h :), (congrArg Bur.seq h :)⟩,
      fun h0 => absurd h0 hr, fun h0 => absurd h0 hr⟩

theorem curvesAreDecidedActivatedAndExpire : CurvesAreDecidedActivatedAndExpire := by
  refine ⟨fun s v => ⟨fun hd hl => ⟨_, exec_curveSubmit_taken v hd hl, rfl, rfl⟩, exec_curveSubmit_overrun v,
    fun hl => if_neg (by simp [hl]), fun hl => if_pos hl, rfl⟩, fun s a => curveDecided, fun s c hp hv => ?_, fun s a ha hv hp => ?_⟩
  · have h := eventFree_takeOver s c
    exact ⟨_, exec_curveActivate hp hv, (congrArg Bur.active h :), (congrArg Bur.pendingC h :), (congrArg Bur.changed h :)⟩
  · have h := eventFree_reportEvent (setBur s (s.bur.changeTo none a.vto)) 3 0 0 0 fallbackW
    exact ⟨_, exec_curveExpire ha hv hp, (congrArg Bur.active h :), (congrArg Bur.changed h :)⟩


/-! ### Samples (R446, R455) -/

theorem exec_bursarSample {s : State} (h : sampleDue s = true) :
    let u := raisePower (declareGrade (judgeBand (clampEvents (takeSample s))))
    exec .bursarSample s = .next (evalSoon { u with bur := { u.bur with budget := budgetB u } }) := if_pos h

/-! ### Dies (R468, R469, R524) -/

@[simp] theorem dieState_setDie_self (s : State) (d : Nat) (v : DieSt) : dieState (setDie s d v) d = v := tget_tset_self ..

/-- Dropping the TLBs of clusters changes nothing of the Bursar. -/
@[simp] theorem dropClusterTlbs_bur (s : State) (cl : List Nat) : (dropClusterTlbs s cl).bur = s.bur :=
  (sameBut_foldAll ..).bur

@[simp] theorem dropClusterTlbs_gtc (s : State) (cl : List Nat) : (dropClusterTlbs s cl).gtc = s.gtc :=
  (sameBut_foldAll ..).gtc

theorem dieState_reportEvent (s : State) (kind grade victims dies detail d : Nat) :
    dieState (reportEvent s kind grade victims dies detail) d = dieState s d := by
  have h : (reportEvent s kind grade victims dies detail).bur.dies = s.bur.dies :=
    (congrArg Bur.dies (eventFree_reportEvent s kind grade victims dies detail) :)
  rw [dieState, h, dieState]

theorem reportEvent_lastGate (s : State) (kind grade victims dies detail : Nat) :
    (reportEvent s kind grade victims dies detail).bur.lastGate = s.bur.lastGate :=
  (congrArg Bur.lastGate (eventFree_reportEvent s kind grade victims dies detail) :)

theorem exec_gatingTurn_idle {s : State} (h : spaced s = false) : exec .gatingTurn s = .next s := if_pos (by simp [h])

theorem exec_gatingTurn_ungates {s : State} {d : Nat} (hs : spaced s = true) (hu : ungateNext s = some d) :
    exec .gatingTurn s = .next (setBur s { s.bur with
      dies := tset s.bur.dies d (.ungating s.gtc), wanted := s.bur.wanted.filter (·.1 ≠ d)
      parkDies := s.bur.parkDies.filter (· ≠ d), lastGate := some s.gtc }) := by
  change execGatingTurn s = _
  simp only [execGatingTurn, hs, hu]
  rfl

/-- Of a gated die the Bursar keeps since when, and the turn. -/
theorem gatingTurn_gates {s : State} {d : Nat} (hs : spaced s = true) (hu : ungateNext s = none) (hg : gateNext s = some d) :
    ∃ t, exec .gatingTurn s = .next t ∧ dieState t d = .gated s.gtc ∧ t.bur.lastGate = some s.gtc := by
  change ∃ t, execGatingTurn s = .next t ∧ _
  simp only [execGatingTurn, hs, hu, hg]
  refine ⟨_, rfl, ?_, ?_⟩
  · rw [dieState_reportEvent]
    change tget _ (dropClusterTlbs (setDie s d _) _).bur.dies d = _
    rw [dropClusterTlbs_bur]
    exact dieState_setDie_self ..
  · rw [reportEvent_lastGate]
    exact congrArg some (dropClusterTlbs_gtc ..)

theorem exec_dieUngated {s : State} {d a : Nat} (h : dieState s d = .ungating a) :
    exec (.dieUngated d) s = .next (allotRestore (reportEvent
      { s with bur := { s.bur with dies := tset s.bur.dies d (.free s.gtc false) } } 8 0 0 (2 ^ d) d)) := by
  change execDieUngated d s = _
  simp only [execDieUngated, h]
  rfl

/-- A die that fails while no task holds a cluster of it is gated and reported, and no task is touched. -/
theorem exec_dieFailure_unused {s : State} {d : Nat} (hd : d < 16) (hf : dieState s d ≠ .failed)
    (ht : ∀ e ∈ s.ref.tasks, e.2.st ≠ .ended → ∀ k ∈ e.2.clusters, k / 2 ≠ d) :
    exec (.dieFailure d) s = .next (reportMc3 (reportEvent (dropClusterTlbs
      { s with bur := { s.bur with
          dies := tset s.bur.dies d .failed, failures := tset s.bur.failures d (tget 0 s.bur.failures d + 1)
          lastGate := some s.gtc, wanted := s.bur.wanted.filter (·.1 ≠ d), parkDies := s.bur.parkDies.filter (· ≠ d) } }
      [2 * d, 2 * d + 1]) 12 0 0 (2 ^ d) d)) := by
  have hit : s.ref.tasks.filter (fun e => e.2.st != .ended && e.2.clusters.any fun k => decide (k / 2 = d)) = [] := by
    rw [List.filter_eq_nil_iff]
    intro e he h
    simp only [Bool.and_eq_true, bne_iff_ne, List.any_eq_true, decide_eq_true_eq] at h
    obtain ⟨hst, k, hk, hkd⟩ := h
    exact ht e he hst k hk hkd
  change execDieFailure d s = _
  unfold execDieFailure
  rw [if_neg (by simp [hf]; omega)]
  simp only [setBur]
  rw [hit]
  rfl

/-! ### Rails (R526) -/

theorem exec_railReading {s : State} {k : Nat} (mw mv : Nat) (hk : k < 23) :
    exec (.railReading k mw mv) s = .next { s with mg := { s.mg with
      rails := tset s.mg.rails k { mw := mw % 2 ^ 32, mv := mv % 2 ^ 16, at_ := s.gtc } } } := if_pos hk

theorem exec_railStale {s : State} {k : Nat} (h : railDue s k = true) :
    exec (.railStale k) s = .next (reportMc3 { s with mg := { s.mg with
      rails := tset s.mg.rails k { (tget {} s.mg.rails k : Rail) with stale := true } } }) := if_pos h

@[simp] theorem reportMc3_mg (s : State) : (reportMc3 s).mg = s.mg := by
  unfold reportMc3
  split <;> rfl

/-- Outside recovery mc3 reports with message 67. -/
theorem reportMc3_msgs {s : State} (h : s.mg.recovery = false) : (reportMc3 s).host.msgs = 67 :: s.host.msgs := by
  simp [reportMc3, h, sendMsix]

theorem samplesDiesAndRailsFollowTheirTimes : SamplesDiesAndRailsFollowTheirTimes := by
  refine ⟨fun s h => ⟨exec_bursarSample h, rfl, rfl⟩, fun s d hs hu => ⟨_, exec_gatingTurn_ungates hs hu, ?_, rfl, ?_⟩,
    fun s d => gatingTurn_gates, fun s => exec_gatingTurn_idle, fun s d a => exec_dieUngated,
    fun s d => exec_dieFailure_unused, fun s k mw mv => exec_railReading mw mv,
    fun s k h => ⟨_, exec_railStale h, ?_, fun hr => reportMc3_msgs hr⟩⟩
  · exact tget_tset_self ..
  · intro e he
    simpa using (List.mem_filter.mp he).2
  · rw [reportMc3_mg, tget_tset_self]

/-- Settles O47: what each event leaves of the Bursar, a report touching the event ring alone. -/
theorem powerFollowsCurvesSamplesAndRails : Obligations.PowerFollowsCurvesSamplesAndRails :=
  ⟨curvesAreDecidedActivatedAndExpire, samplesDiesAndRailsFollowTheirTimes⟩

end Sys2Proof.Machine
end

section
/-! SUPPORT. O50, refuted. A stop first hands the records of the task's last cycle to the hub (`freezeAll`); where that ends the
hold of a core that stood in hold for want of room (R478), the flag waits of its strands begin anew by the cycles of the hold
(R499), so the core's strands are not those from before the stop. -/

namespace Sys2Proof.Machine

open Sys2Proof

/-- The record for which the hub had no room. -/
def roomlessRecord : Trap :=
  { gtc := 0, task := 1, seq := 0, lid := 0, strand := 0, level := 1, code := 0x0060, engine := 0xFF, pc := 0, position := 0
    eseq := 0, tmpl := 0xFFFF, addr := 0, detail := 0 }

/-- A core in hold since cycle 2 for want of room alone: its strand has waited for cycle 100 since cycle 1. -/
def roomlessCore : Core :=
  { run := .on, task := 1, hold := true, holdAt := 2, outRecs := [roomlessRecord]
    strands := [(0, { run := .waiting, wait := some (.cyc 100), flag := some (.cyc 100, 1) })] }

/-- Task 1 runs on cluster 0, in cycle 6, and the hub has room again. -/
def roomAgain : State :=
  { cores := [(0, roomlessCore)], clusters := [(0, { cyc := 6, task := 1 })]
    ref := { tasks := [(1, { st := .running, clusters := [0], nclus := 1, n := 96 })], nextTask := 2 } }

/-- The stop ends the hold: the wait counts as begun in cycle 5, and no longer in cycle 1. -/
theorem stopTask_moves_wait :
    (getStrand (getCore roomAgain 0) 0).flag = some (.cyc 100, 1)
      ∧ (getStrand (getCore (stopTask roomAgain 1 0 false) 0) 0).flag = some (.cyc 100, 5) := by
  decide

/-- Refutes O50: the clause that a stop leaves the strands of the task's cores as they are fails for a core that its stop takes out
of a hold for want of room. -/
theorem not_proctorStopsAndReads : ¬ Obligations.ProctorStopsAndReads := by
  rintro ⟨_, _, _, hstop, _⟩
  have hstrands := (hstop roomAgain 1 0 false 0 (by decide)).2
  obtain ⟨hbefore, hafter⟩ := stopTask_moves_wait
  simp only [getStrand, hstrands] at hafter
  simp only [getStrand] at hbefore
  rw [hbefore] at hafter
  simp at hafter

end Sys2Proof.Machine
end

section
/-! SUPPORT. O51: resets, boots, die self-tests, mailboxes, attestation and datagrams. A boot runs slot `next`, else the other, else
no slot; what each of the three leaves is said once. -/

namespace Sys2Proof.Machine

open Sys2Proof Sys2Proof.Statements

/-! ### Little-endian numbers and lists of bytes -/

@[simp] theorem length_leBytes (n : Nat) : ∀ v, (leBytes n v).length = n := by
  induction n with
  | zero => exact fun _ => rfl
  | succ n ih => intro v; simp [leBytes, ih]

/-- A number that fits reads back from its bytes. -/
theorem leNat_leBytes (n : Nat) : ∀ {v : Nat}, v < 256 ^ n → leNat (leBytes n v) = v := by
  induction n with
  | zero => intro v h; rw [Nat.pow_zero] at h; rw [leBytes, leNat]; omega
  | succ n ih =>
    intro v h
    have hq : v / 256 < 256 ^ n := Nat.div_lt_of_lt_mul (by rwa [← Nat.pow_succ'])
    simp only [leBytes, leNat, ih hq, BitVec.toNat_ofNat]
    omega

/-! ### Boot (R518, R519, R523) -/

/-- The slots that a boot goes by: the one in force before it, the one it tries first, and the bad bits; a trial reverts. -/
def bootOld (s : State) : Bool := if s.mg.trial then !s.mg.act else s.mg.act
def bootNext (s : State) : Bool := if s.mg.trial then !s.mg.act else s.mg.next
def bootBad (s : State) : BitVec 2 := if s.mg.trial then setBad s.mg.bad s.mg.act else s.mg.bad

/-- The device as a boot finds it, before a slot runs. -/
def bootFrom (s : State) (cause : BitVec 3) : State :=
  { blank s with mg := { (blank s).mg with cause := cause, next := bootNext s, bad := bootBad s, act := bootOld s } }

/-- A boot may run a slot: it is not bad and passes ROM's checks. -/
def mayRun (s : State) (k : Bool) : Bool := !(bootBad s).getLsbD (slotNo k) && slotOk (blank s) (slotNo k)

theorem slotOk_bootFrom (s : State) (cause : BitVec 3) (k : Nat) : slotOk (bootFrom s cause) k = slotOk (blank s) k := rfl

section
variable {s : State} (cause : BitVec 3)

theorem boot_eq : boot s cause =
    if mayRun s (bootNext s) then runSlot (bootFrom s cause) (bootNext s) (bootNext s != bootOld s) (bootBad s)
    else if mayRun s (!bootNext s) then runSlot (bootFrom s cause) (!bootNext s) false (setBad (bootBad s) (bootNext s))
    else { bootFrom s cause with mg := { (bootFrom s cause).mg with bad := 3, recovery := true } } := rfl

theorem boot_of_next (h : mayRun s (bootNext s) = true) :
    boot s cause = runSlot (bootFrom s cause) (bootNext s) (bootNext s != bootOld s) (bootBad s) := by
  rw [boot_eq, if_pos h]

theorem boot_of_other (h : mayRun s (bootNext s) = false) (g : mayRun s (!bootNext s) = true) :
    boot s cause = runSlot (bootFrom s cause) (!bootNext s) false (setBad (bootBad s) (bootNext s)) := by
  rw [boot_eq, if_neg (by simp [h]), if_pos g]

theorem boot_of_none (h : mayRun s (bootNext s) = false) (g : mayRun s (!bootNext s) = false) :
    boot s cause = { bootFrom s cause with mg := { (bootFrom s cause).mg with bad := 3, recovery := true } } := by
  rw [boot_eq, if_neg (by simp [h]), if_neg (by simp [g])]

end

theorem reportMc3_frame (s : State) :
    (reportMc3 s).mg = s.mg ∧ (reportMc3 s).ref = s.ref ∧ (reportMc3 s).cores = s.cores ∧ (reportMc3 s).gtc = s.gtc := by
  unfold reportMc3
  split <;> exact ⟨rfl, rfl, rfl, rfl⟩

/-- Restoring the sequence changes the Bursar, or reports. -/
theorem restoreSeq_frame (s : State) :
    (restoreSeq s).mg = s.mg ∧ (restoreSeq s).ref = s.ref ∧ (restoreSeq s).cores = s.cores ∧ (restoreSeq s).gtc = s.gtc := by
  unfold restoreSeq
  generalize BitVec.ofNat 64 (leNat (flashGet s seqRecordAt 8)) = a
  generalize BitVec.ofNat 64 (leNat (flashGet s (seqRecordAt + 8) 8)) = b
  dsimp only
  split
  · exact ⟨rfl, rfl, rfl, rfl⟩
  · exact reportMc3_frame s

/-- What every boot leaves. -/
structure Booted (s t : State) (cause : BitVec 3) : Prop where
  cause : t.mg.cause = cause
  flash : t.mg.flash = s.mg.flash
  next : t.mg.next = bootNext s
  ref : t.ref = {}
  cores : t.cores = []
  gtc : t.gtc = 0

/-- What the slot that runs leaves. -/
structure Runs (t : State) (k trial : Bool) (bad : BitVec 2) : Prop where
  act : t.mg.act = k
  trial : t.mg.trial = trial
  bad : t.mg.bad = bad
  recovery : t.mg.recovery = false

theorem runSlot_runs (s : State) (k trial : Bool) (bad : BitVec 2) : Runs (runSlot s k trial bad) k trial bad := by
  unfold runSlot
  dsimp only
  generalize hu : ({ s with mg := _ } : State) = u
  obtain ⟨hm, _⟩ := restoreSeq_frame u
  constructor <;> rw [hm, ← hu]

theorem runSlot_booted (s : State) (cause : BitVec 3) (k trial : Bool) (bad : BitVec 2) :
    Booted s (runSlot (bootFrom s cause) k trial bad) cause := by
  unfold runSlot
  dsimp only
  generalize hu : ({ bootFrom s cause with mg := _ } : State) = u
  obtain ⟨hm, hr, hc, hg⟩ := restoreSeq_frame u
  constructor
  case ref => rw [hr, ← hu]; rfl
  case cores => rw [hc, ← hu]; rfl
  case gtc => rw [hg, ← hu]; rfl
  all_goals rw [hm, ← hu]; rfl

theorem boot_booted (s : State) (cause : BitVec 3) : Booted s (boot s cause) cause := by
  rw [boot_eq]
  split
  · exact runSlot_booted ..
  · split
    · exact runSlot_booted ..
    · exact ⟨rfl, rfl, rfl, rfl, rfl, rfl⟩


/-- Without a trial a boot goes by the registers. -/
theorem boot_untried {s : State} (ht : s.mg.trial = false) :
    bootOld s = s.mg.act ∧ bootNext s = s.mg.next ∧ bootBad s = s.mg.bad := by
  simp [bootOld, bootNext, bootBad, ht]

/-- In a trial it goes back to the other slot, and marks the slot on trial. -/
theorem boot_tried {s : State} (ht : s.mg.trial = true) :
    bootOld s = !s.mg.act ∧ bootNext s = !s.mg.act ∧ bootBad s = setBad s.mg.bad s.mg.act := by
  simp [bootOld, bootNext, bootBad, ht]

theorem getLsbD_setBad_self (b : BitVec 2) (k : Bool) : (setBad b k).getLsbD (slotNo k) = true := by
  cases k <;> simp [setBad, slotNo]

theorem getLsbD_setBad_other (b : BitVec 2) (k : Bool) : (setBad b k).getLsbD (slotNo !k) = b.getLsbD (slotNo !k) := by
  cases k <;> simp [setBad, slotNo]

/-- No slot runs: recovery, with both slots marked. -/
theorem boot_of_none_recovers {s : State} (cause : BitVec 3) (h : mayRun s (bootNext s) = false)
    (g : mayRun s (!bootNext s) = false) :
    (boot s cause).mg.recovery = true ∧ (boot s cause).mg.bad = 3 ∧ (boot s cause).mg.trial = false := by
  rw [boot_of_none cause h g]
  exact ⟨rfl, rfl, rfl⟩

theorem mayRun_of_bad {s : State} {k : Bool} (h : (bootBad s).getLsbD (slotNo k) = true) : mayRun s k = false := by
  simp [mayRun, h]

theorem mayRun_of_unverified {s : State} {k : Bool} (h : slotOk (blank s) (slotNo k) = false) : mayRun s k = false := by
  simp [mayRun, h]

theorem mayRun_eq_true {s : State} {k : Bool} (hb : (bootBad s).getLsbD (slotNo k) = false)
    (h : slotOk (blank s) (slotNo k) = true) : mayRun s k = true := by
  simp [mayRun, hb, h]

theorem boot_without_trial {s : State} (cause : BitVec 3) (ht : s.mg.trial = false) :
    let t := boot s cause
    t.mg.cause = cause ∧ t.mg.flash = s.mg.flash ∧ t.ref = {} ∧ t.cores = [] ∧ t.gtc = 0
    ∧ (s.mg.bad.getLsbD (slotNo s.mg.next) = false → slotOk (blank s) (slotNo s.mg.next) = true →
        t.mg.act = s.mg.next ∧ t.mg.recovery = false ∧ t.mg.trial = (s.mg.next != s.mg.act))
    ∧ ((∀ k, slotOk (blank s) k = false) → t.mg.recovery = true ∧ t.mg.bad = 3) := by
  obtain ⟨hold, hnext, hbad⟩ := boot_untried ht
  have h := boot_booted s cause
  refine ⟨h.cause, h.flash, h.ref, h.cores, h.gtc, fun hb hok => ?_, fun hno => ?_⟩
  · rw [boot_of_next cause (mayRun_eq_true (by rwa [hbad, hnext]) (by rwa [hnext]))]
    have hr := runSlot_runs (bootFrom s cause) (bootNext s) (bootNext s != bootOld s) (bootBad s)
    rw [← hnext, ← hold]
    exact ⟨hr.act, hr.recovery, hr.trial⟩
  · obtain ⟨hrec, hb, _⟩ := boot_of_none_recovers cause (mayRun_of_unverified (hno _)) (mayRun_of_unverified (hno _))
    exact ⟨hrec, hb⟩

theorem boot_in_trial {s : State} (cause : BitVec 3) (ht : s.mg.trial = true) :
    let t := boot s cause
    let was := s.mg.act
    t.mg.cause = cause ∧ t.mg.trial = false ∧ t.mg.next = !was ∧ t.mg.bad.getLsbD (slotNo was) = true
    ∧ (s.mg.bad.getLsbD (slotNo !was) = false → slotOk (blank s) (slotNo !was) = true →
        t.mg.act = !was ∧ t.mg.recovery = false ∧ t.mg.bad.getLsbD (slotNo !was) = false)
    ∧ (s.mg.bad.getLsbD (slotNo !was) = true ∨ slotOk (blank s) (slotNo !was) = false →
        t.mg.recovery = true ∧ t.mg.bad = 3) := by
  dsimp only
  obtain ⟨hold, hnext, hbad⟩ := boot_tried ht
  have hs := boot_booted s cause
  have hnot : mayRun s (!bootNext s) = false := mayRun_of_bad (by
    rw [hbad, hnext, Bool.not_not]
    exact getLsbD_setBad_self ..)
  have hother : (bootBad s).getLsbD (slotNo !s.mg.act) = s.mg.bad.getLsbD (slotNo !s.mg.act) := by
    rw [hbad]
    exact getLsbD_setBad_other ..
  refine ⟨hs.cause, ?_⟩
  cases hrun : mayRun s (bootNext s) with
  | true =>
    have hr := runSlot_runs (bootFrom s cause) (bootNext s) (bootNext s != bootOld s) (bootBad s)
    rw [← boot_of_next cause hrun] at hr
    have hm := hrun
    rw [mayRun, hnext, hother, Bool.and_eq_true, Bool.not_eq_true'] at hm
    obtain ⟨hb, hok⟩ := hm
    refine ⟨by simp [hr.trial, hnext, hold], by rw [hs.next, hnext], by rw [hr.bad, hbad]; exact getLsbD_setBad_self ..,
      fun _ _ => ⟨by rw [hr.act, hnext], hr.recovery, by rw [hr.bad, hother, hb]⟩, ?_⟩
    rintro (h | h)
    · rw [hb] at h; contradiction
    · rw [hok] at h; contradiction
  | false =>
    obtain ⟨hrec, hb, htr⟩ := boot_of_none_recovers cause hrun hnot
    refine ⟨htr, by rw [hs.next, hnext], ?_, fun hnb hok => ?_, fun _ => ⟨hrec, hb⟩⟩
    · rw [hb]
      cases s.mg.act <;> rfl
    · rw [mayRun_eq_true (by rwa [hnext, hother]) (by rwa [hnext])] at hrun
      contradiction

/-! ### Trial, commit and the slots' flash (R519) -/

theorem trialOver_of_elapsed {s : State} (ht : s.mg.trial = true) (h : s.mg.trialAt + 60000000000 ≤ s.gtc) : trialOver s = true := by
  simp [trialOver, ht, h]

theorem trialOver_of_running {s : State} (h : s.gtc < s.mg.trialAt + 60000000000) : trialOver s = false := by
  simp [trialOver, h]

theorem exec_firmwareCommit {s : State} (ht : s.mg.trial = true) (h : trialOver s = false) :
    exec .firmwareCommit s = .next { s with mg := { s.mg with
      trial := false, floor := BitVec.ofNat 16 (Nat.max (floorOf s) (slotRollback s (slotNo s.mg.act))) } } :=
  if_pos (by simp [ht, h])

section
variable {s : State} (k : Bool) {o : Nat} {b : List Byte}

theorem writeSlot_long (h : slotBytes < o + b.length) : writeSlot s k o b = s := if_pos h

variable (h : o + b.length ≤ slotBytes)
include h

theorem writeSlot_bad :
    (writeSlot s k o b).mg.bad.getLsbD (slotNo k) = false
      ∧ (writeSlot s k o b).mg.bad.getLsbD (slotNo !k) = s.mg.bad.getLsbD (slotNo !k) := by
  rw [writeSlot, if_neg (by omega)]
  cases k <;> simp [slotNo, writeFlash]

theorem flashGet_writeSlot : flashGet (writeSlot s k o b) (slotNo k * slotBytes + o) b.length = b := by
  rw [writeSlot, if_neg (by omega)]
  exact tgets_tputs ..

end

/-- The image in hub SRAM that recovery commits (R518). -/
def recoveryImage (s : State) : List Byte :=
  readLoc s (.named (12 * 2 ^ 47)) (Nat.min (256 + leNat (readLoc s (.named (12 * 2 ^ 47 + 4)) 4)) slotBytes)

/-- It fits its slot. -/
theorem length_recoveryImage (s : State) : 0 + (recoveryImage s).length ≤ slotBytes := by
  unfold recoveryImage
  generalize 256 + leNat _ = n
  have h : Nat.min n slotBytes ≤ slotBytes := Nat.min_le_right ..
  rwa [readLoc, if_neg (by decide), tgets_length, Nat.zero_add]

/-- The device with the image in slot 0, which the commit's reset is to run. -/
def recoveryCommitted (s : State) : State :=
  let u := writeSlot s false 0 (recoveryImage s)
  { u with fresh := u.fresh + 1, mg := { u.mg with next := false, act := false } }

theorem exec_recoveryCommit {s : State} (h : s.mg.recovery = true) :
    exec .recoveryCommit s = .next (boot (recoveryCommitted s)
      (BitVec.ofNat 3 (Config.freeField (writeSlot s false 0 (recoveryImage s)).fresh))) := by
  change execRecoveryCommit s = _
  unfold execRecoveryCommit
  rw [if_pos h]
  unfold recoveryCommitted recoveryImage
  dsimp only [takeFresh]

theorem recoveryCommitted_slots (s : State) :
    (recoveryCommitted s).mg.next = false ∧ (recoveryCommitted s).mg.act = false ∧ (recoveryCommitted s).mg.bad.getLsbD 0 = false := by
  obtain ⟨hbad, _⟩ := writeSlot_bad (s := s) false (length_recoveryImage s)
  dsimp only [recoveryCommitted]
  exact ⟨rfl, rfl, hbad⟩

/-! ### Resets and self-tests of dies (R524) -/

/-- The bitmap of a set of dies below `n`: nothing at or above `n`, and each die its bit. -/
theorem testBit_dieBits (p : Nat → Bool) (n : Nat) :
    dieBits ((List.range n).filter p) < 2 ^ n ∧ ∀ d, (dieBits ((List.range n).filter p)).testBit d = (decide (d < n) && p d) := by
  induction n with
  | zero => simp [dieBits, sumNat]
  | succ n ih =>
    obtain ⟨hlt, hbit⟩ := ih
    cases hp : p n with
    | false =>
      have h : (List.range (n + 1)).filter p = (List.range n).filter p := by simp [List.range_succ, hp]
      rw [h]
      refine ⟨by rw [Nat.pow_succ]; omega, fun d => ?_⟩
      rw [hbit]
      by_cases hd : d = n
      · subst hd; simp [hp]
      · simp [show d < n + 1 ↔ d < n by omega]
    | true =>
      have h : dieBits ((List.range (n + 1)).filter p) = dieBits ((List.range n).filter p) ||| 2 ^ n := by
        have hs : dieBits ((List.range (n + 1)).filter p) = 2 ^ n * 1 + dieBits ((List.range n).filter p) := by
          simp [List.range_succ, hp, dieBits, sumNat, Nat.add_comm]
        rw [hs, Nat.two_pow_add_eq_or_of_lt hlt, Nat.mul_one, Nat.or_comm]
      rw [h]
      refine ⟨Nat.or_lt_two_pow (by rw [Nat.pow_succ]; omega) (by rw [Nat.pow_succ]; omega), fun d => ?_⟩
      rw [Nat.testBit_or, hbit, Nat.testBit_two_pow]
      by_cases hd : d = n
      · subst hd; simp [hp]
      · simp [show ¬ n = d by omega, show d < n + 1 ↔ d < n by omega]

/-- Bit `d` of the dies of a bitmap that satisfy a test. -/
theorem getLsbD_diesOf (b : W16) (f : Nat → Bool) {d : Nat} (hd : d < 16) : (diesOf b f).getLsbD d = (b.getLsbD d && f d) := by
  rw [diesOf, BitVec.getLsbD_ofNat, (testBit_dieBits _ 16).2]
  simp [hd]

theorem diesOf_bne_zero (b : W16) (f : Nat → Bool) :
    (diesOf b f != 0) = (List.range 16).any fun d => b.getLsbD d && f d := by
  rw [Bool.eq_iff_iff, bne_iff_ne, List.any_eq_true]
  constructor
  · intro h
    refine Classical.byContradiction fun hno => h (BitVec.eq_of_getLsbD_eq fun d hd => ?_)
    rw [getLsbD_diesOf b f hd, BitVec.ofNat_eq_ofNat, BitVec.getLsbD_zero]
    exact Bool.eq_false_iff.mpr fun ht => hno ⟨d, List.mem_range.mpr hd, ht⟩
  · rintro ⟨d, hd, ht⟩ h
    rw [← getLsbD_diesOf b f (List.mem_range.mp hd), h, BitVec.ofNat_eq_ofNat, BitVec.getLsbD_zero] at ht
    contradiction

theorem clearDies_mg (s : State) (ds : List Nat) : (clearDies s ds).mg = s.mg := (sameBut_foldAll ..).mg

theorem dieReset_takes (s : State) (dies : W16) : ∃ t, exec (.dieReset dies) s = .next t
    ∧ (∀ d, d < 16 → t.mg.busy.getLsbD d = (s.mg.busy.getLsbD d || (dies.getLsbD d && mayReset s d)))
    ∧ (dies ≠ 0 → t.mg.err = (List.range 16).any fun d => dies.getLsbD d && !mayReset s d) := by
  refine ⟨_, rfl, fun d hd => ?_, fun h0 => ?_⟩
  · change ((clearDies s _).mg.busy ||| diesOf dies (mayReset s)).getLsbD d = _
    rw [clearDies_mg, BitVec.getLsbD_or, getLsbD_diesOf _ _ hd]
  · change (if dies = 0 then _ else diesOf dies (fun d => !mayReset s d) != 0) = _
    rw [if_neg h0, diesOf_bne_zero]

section
variable {s : State} {d : Nat}

theorem exec_dieSelfTestDone_early (b : Bool) (h : s.gtc < tget 0 s.mg.dieAt d + 20000000) :
    exec (.dieSelfTestDone d b) s = .next s := if_pos (.inr (.inr h))

/-- The device once the reset of a die is over, its test passed or not. -/
def tested (s : State) (d : Nat) (pass : Bool) : State :=
  let bit : W16 := BitVec.ofNat 16 (2 ^ d)
  { s with mg := { s.mg with busy := s.mg.busy &&& ~~~bit, pass := if pass then s.mg.pass ||| bit else s.mg.pass } }

theorem tested_busy (pass : Bool) (hd : d < 16) : (tested s d pass).mg.busy.getLsbD d = false := by
  simp only [tested, BitVec.getLsbD_and, BitVec.getLsbD_not, BitVec.getLsbD_ofNat, Nat.testBit_two_pow_self, hd, decide_true,
    Bool.and_self, Bool.not_true, Bool.and_false]

variable (hd : d < 16) (hb : s.mg.busy.getLsbD d = true) (ht : tget 0 s.mg.dieAt d + 20000000 ≤ s.gtc)
include hd hb ht

theorem exec_dieSelfTestDone_failed {pass : Bool} (hf : ¬ (pass = true ∧ tget 0 s.bur.failures d < 2)) :
    exec (.dieSelfTestDone d pass) s = .next (setDie (tested s d pass) d .failed) := by
  change execDieSelfTestDone d pass s = _
  unfold execDieSelfTestDone
  rw [if_neg (by simp [hb]; omega)]
  exact if_neg hf

/-- A die that passes is gated: since before, or since now. -/
theorem dieSelfTestDone_passed (hf : tget 0 s.bur.failures d < 2) :
    ∃ t a, exec (.dieSelfTestDone d true) s = .next t ∧ dieState t d = .gated a := by
  change ∃ t a, execDieSelfTestDone d true s = .next t ∧ _
  unfold execDieSelfTestDone
  rw [if_neg (by simp [hb]; omega)]
  dsimp only
  rw [if_pos ⟨rfl, hf⟩]
  split
  · next a h => exact ⟨_, a, rfl, h⟩
  · exact ⟨_, _, rfl, dieState_setDie_self ..⟩

end

theorem dieSelfTest_ends {s : State} {d : Nat} (hd : d < 16) (hb : s.mg.busy.getLsbD d = true)
    (ht : tget 0 s.mg.dieAt d + 20000000 ≤ s.gtc) :
    ∃ t u, exec (.dieSelfTestDone d true) s = .next t ∧ exec (.dieSelfTestDone d false) s = .next u
      ∧ u.mg.busy.getLsbD d = false ∧ dieState u d = .failed
      ∧ (2 ≤ tget 0 s.bur.failures d → dieState t d = .failed)
      ∧ (tget 0 s.bur.failures d < 2 → ∃ a, dieState t d = .gated a) := by
  have hu := exec_dieSelfTestDone_failed hd hb ht (pass := false) (by simp)
  by_cases hf : tget 0 s.bur.failures d < 2
  · obtain ⟨t, a, hx, hg⟩ := dieSelfTestDone_passed hd hb ht hf
    exact ⟨t, _, hx, hu, tested_busy false hd, dieState_setDie_self .., fun h => absurd hf (by omega), fun _ => ⟨a, hg⟩⟩
  · exact ⟨_, _, exec_dieSelfTestDone_failed hd hb ht (by simpa using hf), hu, tested_busy false hd, dieState_setDie_self ..,
      fun _ => dieState_setDie_self .., fun h => absurd h hf⟩

theorem resetsBootWithTheirCause : ResetsBootWithTheirCause := by
  refine ⟨fun s => ⟨rfl, rfl, rfl, fun _ => rfl, rfl, fun ht h => if_pos (trialOver_of_elapsed ht h),
    fun ht h => ⟨_, exec_firmwareCommit ht (trialOver_of_running h), rfl, rfl⟩,
    fun h => ⟨_, _, exec_recoveryCommit h, recoveryCommitted_slots s⟩, fun k o b hr => ?_, fun k o b hr => if_pos hr⟩,
    fun s cause => boot_without_trial cause, fun s cause => boot_in_trial cause, dieReset_takes,
    fun s d b => exec_dieSelfTestDone_early b, fun s d => dieSelfTest_ends⟩
  have hw : updateSlot s k o b = writeSlot s k o b := if_neg (by simp [hr])
  rw [hw]
  refine ⟨fun h => ?_, writeSlot_long k⟩
  obtain ⟨hbad, hkept⟩ := writeSlot_bad (s := s) k h
  exact ⟨hbad, hkept, flashGet_writeSlot k h⟩


/-! ### Mailboxes (R514) -/

/-- A mailbox with its messages replaced. -/
def putBox (s : State) (b : Nat) (l : List (Nat × List Byte)) : State :=
  { s with mg := { s.mg with mbox := tput [] s.mg.mbox b l } }

theorem exec_mailboxMessage {s : State} {a b : Nat} (m : List Byte) (ha : a < 8) (hb : b < 8) :
    exec (.mailboxMessage a b m) s = .next
      (let q : List (Nat × List Byte) := tget [] s.mg.mbox b
       if m.isEmpty then putBox s b q.tail else if m.length = 64 ∧ q.length < 32 then putBox s b (q ++ [(a, m)]) else s) := by
  change execMailboxMessage a b m s = _
  unfold execMailboxMessage
  dsimp only
  rw [if_neg (by omega)]
  split
  · rfl
  · split <;> rfl

/-! ### Attestation (R521) -/

theorem exec_attestReport {s : State} {a : W64} (h : s.mg.att = some a) :
    let u : State := { s with mg := { s.mg with att := none } }
    let w := writeSpa u (a.toNat + 64) (attestBytes u (readSpa u a.toNat 32))
    exec .attestReport s = if inHub u a.toNat 384 then .next { w with mg := { w.mg with attDone := true } }
      else .next { u with mg := { u.mg with attErr := true } } := by
  change execAttestReport s = _
  unfold execAttestReport
  rw [h]

/-! ### Datagrams (R522) -/

/-- The fields of a datagram: its type, the length of its body, its body. -/
theorem datagram_fields {ty : Nat} {b : List Byte} (ht : ty < 256) (hb : b.length < 2 ^ 32) :
    getN (datagram ty b) 0 1 = ty ∧ getN (datagram ty b) 4 4 = b.length ∧ (datagram ty b).drop 8 = b
      ∧ (datagram ty b).length = 8 + b.length := by
  refine ⟨?_, ?_, rfl, ?_⟩
  · change leNat (leBytes 1 ty) = ty
    exact leNat_leBytes 1 ht
  · change leNat (leBytes 4 b.length) = b.length
    exact leNat_leBytes 4 (by omega)
  · simp [datagram]
    omega

/-- What the module's management core makes of a datagram of a type. -/
def datagramEffect (s : State) (src ty : Nat) (b : List Byte) : State :=
  if ty = 1 ∧ b.length = 1216 then
    if s.bur.deciding.isSome || !s.bur.lock then { s with bur := { s.bur with ovr := true } }
    else { s with bur := { s.bur with deciding := some 0 }, mg := { s.mg with cinSrc := some (src, b) } }
  else if ty = 3 ∧ b.length = 32 then { s with mg := { s.mg with sent := s.mg.sent ++ [(src, datagram 4 (attestBytes s b))] } }
  else s

theorem exec_ethernetDatagram {s : State} {src ty : Nat} {b : List Byte} (hr : s.mg.recovery = false) (ht : ty < 256)
    (hb : b.length < 2 ^ 32) :
    exec (.ethernetDatagram src (datagram ty b)) s = .next (if Config.formM then datagramEffect s src ty b else s) := by
  obtain ⟨hty, hlen, hbody, hsize⟩ := datagram_fields ht hb
  change execEthernetDatagram src (datagram ty b) s = _
  unfold execEthernetDatagram datagramEffect
  dsimp only
  rw [hty, hlen, hbody, hsize, hr]
  cases Config.formM
  · rfl
  · simp only [Bool.not_true, Bool.or_self, show ¬ 8 + b.length < 8 by omega, decide_false, ne_eq, not_true,
      Bool.false_eq_true, if_false, if_true]
    split
    · split <;> rfl
    · split <;> rfl

theorem messagesAndReportsAreServed : MessagesAndReportsAreServed := by
  refine ⟨fun s a b m ha hb => ?_, fun _ _ => rfl, fun s a h => ?_, fun s src b hr => ⟨fun hb hd hl => ?_, fun hb => ?_,
    fun hb ty ht h1 h3 => ?_⟩⟩
  · dsimp only
    rw [exec_mailboxMessage m ha hb]
    dsimp only
    refine ⟨fun hm hq => ?_, fun hm hq => ?_, fun hm => ?_⟩
    · rw [if_neg (by rw [List.isEmpty_iff_length_eq_zero]; omega), if_pos ⟨hm, hq⟩]
      rfl
    · rw [if_neg (by rw [List.isEmpty_iff_length_eq_zero]; omega), if_neg (by omega)]
    · rw [if_pos (by rw [hm]; rfl)]
      rfl
  · dsimp only
    rw [exec_attestReport h]
    exact ⟨fun hi => if_pos hi, fun hi => if_neg (by simp [hi])⟩
  · refine ⟨_, exec_ethernetDatagram hr (by decide) (by omega), ?_⟩
    cases Config.formM
    · rfl
    · simp [datagramEffect, hb, hd, hl]
  · refine ⟨_, exec_ethernetDatagram hr (by decide) (by omega), ?_⟩
    cases Config.formM
    · rfl
    · simp [datagramEffect, hb]
  · rw [exec_ethernetDatagram hr ht hb]
    simp [datagramEffect, h1, h3]

/-- Settles O51: a boot is one of three runs of ROM, and each message is the branch that its fields choose. -/
theorem managementResetsAndReports : Obligations.ManagementResetsAndReports :=
  ⟨resetsBootWithTheirCause, messagesAndReportsAreServed⟩

end Sys2Proof.Machine
end

section
/-! SUPPORT. O46: prologues, launches, their ends, and fabric messages. A launch puts one core in place for each lid, and no two lids
share a core, so each core holds what its lid was given; the other events are read off from the branch that their conditions choose. -/

namespace Sys2Proof.Machine

open Sys2Proof Sys2Proof.Statements

/-! ### Cores in place (R17, R431) -/

theorem coreOfLid_eq_some {t : Task} {lid c : Nat} (h : coreOfLid t lid = some c) :
    t.lbase ≤ lid ∧ t.clusters[(lid - t.lbase) / 96]? = some (c / 96) ∧ (lid - t.lbase) % 96 = c % 96 := by
  unfold coreOfLid at h
  split at h
  · contradiction
  · next hl =>
    split at h
    · next k hk =>
      cases h
      rw [hk, show (96 * k + (lid - t.lbase) % 96) / 96 = k by omega]
      exact ⟨by omega, rfl, by omega⟩
    · contradiction

/-- Two lids of a task whose clusters are distinct lie on two cores. -/
theorem coreOfLid_inj {t : Task} (hn : t.clusters.Nodup) {a b c : Nat} (ha : coreOfLid t a = some c)
    (hb : coreOfLid t b = some c) : a = b := by
  obtain ⟨hla, hka, hra⟩ := coreOfLid_eq_some ha
  obtain ⟨hlb, hkb, hrb⟩ := coreOfLid_eq_some hb
  have hlt : (a - t.lbase) / 96 < t.clusters.length := (List.getElem?_eq_some_iff.mp hka).1
  have hq : (a - t.lbase) / 96 = (b - t.lbase) / 96 := (List.getElem?_inj hlt hn).mp (hka.trans hkb.symm)
  omega

section
variable {t : Task} {f : Nat → Core} {c : Nat}

theorem placeCores_ref (n : Nat) : ∀ (a : Nat) (s : State), (placeCores t f a n s).ref = s.ref := by
  induction n with
  | zero => exact fun _ _ => rfl
  | succ n ih =>
    intro a s
    unfold placeCores
    split <;> exact ih ..

theorem getTask_placeCores (a n k : Nat) (s : State) : getTask (placeCores t f a n s) k = getTask s k :=
  (congrArg (fun r => tget {} r.tasks k) (placeCores_ref n a s) :)

/-- A core of none of the lids stays as it is. -/
theorem getCore_placeCores_of_not (n : Nat) : ∀ (a : Nat) (s : State), (∀ lid, a ≤ lid → coreOfLid t lid ≠ some c) →
    getCore (placeCores t f a n s) c = getCore s c := by
  induction n with
  | zero => exact fun _ _ _ => rfl
  | succ n ih =>
    intro a s h
    unfold placeCores
    split
    · next d hd =>
      rw [ih _ _ fun lid hl => h lid (by omega), getCore_setCore_ne]
      rintro rfl
      exact h a (Nat.le_refl a) hd
    · exact ih _ _ fun lid hl => h lid (by omega)

/-- The core of a lid holds what the lid was given, beside its micro-TLB. -/
theorem getCore_placeCores (hn : t.clusters.Nodup) {lid : Nat} (hc : coreOfLid t lid = some c) (n : Nat) :
    ∀ (a : Nat) (s : State), a ≤ lid → lid < a + n → ∃ l, getCore (placeCores t f a n s) c = { f lid with utlb := l } := by
  induction n with
  | zero => intro a s h h'; omega
  | succ n ih =>
    intro a s h h'
    unfold placeCores
    by_cases ha : a = lid
    · subst ha
      rw [hc]
      refine ⟨(getCore s c).utlb, ?_⟩
      dsimp only
      rw [getCore_placeCores_of_not, getCore_setCore_self]
      intro b hb hbc
      have := coreOfLid_inj hn hc hbc
      omega
    · split <;> exact ih _ _ (by omega) (by omega)

end

/-! ### Launch values in registers (R418, R430) -/

/-- A list of registers put from `x1` up or later reads back entry by entry, and the registers before it stay. -/
theorem xget_putRegs (l : List W64) : ∀ (t : Strand) (r : Nat), 0 < r →
    (∀ i v, l[i]? = some v → xget (putRegs t r l) (r + i) = v) ∧ (∀ q, q < r → xget (putRegs t r l) q = xget t q) := by
  induction l with
  | nil => exact fun t r _ => ⟨fun i v h => by simp at h, fun _ _ => rfl⟩
  | cons w l ih =>
    intro t r hr
    obtain ⟨hin, hout⟩ := ih (xset t r w) (r + 1) (by omega)
    refine ⟨fun i v h => ?_, fun q hq => ?_⟩
    · cases i with
      | zero =>
        cases h
        exact (hout r (by omega)).trans (by rw [xget_xset, if_pos ⟨rfl, by omega⟩])
      | succ i =>
        rw [show r + (i + 1) = r + 1 + i by omega]
        exact hin i v h
    · exact (hout q (by omega)).trans (by rw [xget_xset, if_neg (by omega)])

theorem putRegs_run (l : List W64) : ∀ (t : Strand) (r : Nat), (putRegs t r l).run = t.run := by
  induction l with
  | nil => exact fun _ _ => rfl
  | cons v l ih => intro t r; rw [putRegs, ih, xset_run]

theorem putRegs_pc (l : List W64) : ∀ (t : Strand) (r : Nat), (putRegs t r l).pc = t.pc := by
  induction l with
  | nil => exact fun _ _ => rfl
  | cons v l ih => intro t r; rw [putRegs, ih, xset_pc]

/-- A prologue starts with its record's values in x10 to x15. -/
theorem prologueStrand_values (nd : Node) :
    let u := prologueStrand nd
    u.run = .ready ∧ u.pc = nd.r.pro ∧ xget u 10 = nd.r.args ∧ xget u 11 = nd.r.ext0 ∧ xget u 12 = nd.r.ext1
      ∧ xget u 13 = nd.r.ext2 ∧ xget u 14 = nd.r.gran ∧ xget u 15 = nd.r.deadline := by
  dsimp only [prologueStrand]
  obtain ⟨h, _⟩ := xget_putRegs [nd.r.args, nd.r.ext0, nd.r.ext1, nd.r.ext2, nd.r.gran, nd.r.deadline]
    { run := .ready, pc := nd.r.pro } 10 (by decide)
  exact ⟨putRegs_run .., putRegs_pc .., h 0 _ rfl, h 1 _ rfl, h 2 _ rfl, h 3 _ rfl, h 4 _ rfl, h 5 _ rfl⟩

theorem launchStrand_lid (t : Task) (nd : Node) (lid : Nat) : xget (launchStrand t nd lid) 1 = BitVec.ofNat 64 lid :=
  (xget_putRegs _ _ 1 (by decide)).1 0 _ rfl

/-! ### Prologues start and launches begin (R417, R429, R431) -/

theorem prologueStarts {s : State} {p g i : Nat} {l : List (Nat × Nat)} (hp : freePro s = some p)
    (hr : ranked s (fun nd => nd.st == .prologue && nd.pro.isNone && decide (nd.task ≠ 0)) = (g, i) :: l) :
    ∃ t, exec .prologueStart s = .next t ∧ getCore t (3072 + p) =
      { run := .on, task := (getNode (getGraph s g) i).task, strands := [(0, prologueStrand (getNode (getGraph s g) i))] } := by
  change ∃ t, execPrologueStart s = .next t ∧ _
  unfold execPrologueStart
  rw [hp, hr]
  exact ⟨_, rfl, getCore_setCore_self ..⟩

/-- The task as its launch begins, and what the launch gives a lid. -/
def begun (s : State) (task : Nat) : State := setTask s task { getTask s task with st := .running, saved := [] }
def launched (s : State) (task lid : Nat) : Core :=
  let t := getTask s task
  woken t lid (launchCore task t (getNode (getGraph s t.graph) t.node) lid)

theorem getTask_begun (s : State) (task : Nat) :
    getTask (begun s task) task = { getTask s task with st := .running, saved := [] } := getTask_setTask_self ..

theorem launched_strand (s : State) (task lid : Nat) : getStrand (launched s task lid) 0 =
    launchStrand (getTask s task) (getNode (getGraph s (getTask s task).graph) (getTask s task).node) lid := rfl

theorem launched_values (s : State) (task lid : Nat) :
    let k := launched s task lid
    k.run = .on ∧ k.task = task ∧ k.lid = lid ∧ xget (getStrand k 0) 1 = BitVec.ofNat 64 lid := by
  dsimp only
  rw [launched_strand]
  exact ⟨rfl, rfl, rfl, launchStrand_lid ..⟩

theorem exec_launchStart {s : State} {task : Nat} (hst : (getTask s task).st = .dispatched) (hc : (getTask s task).clusters ≠ [])
    (hm : anyMoving s (getTask s task).clusters = false) (hf : (getTask s task).fabric = false) :
    exec (.launchStart task) s = .next (placeCores (getTask s task) (launched s task) (getTask s task).lbase
      (96 * (getTask s task).clusters.length) (begun s task)) := by
  change execLaunchStart task s = _
  unfold execLaunchStart
  dsimp only
  rw [if_pos (by simp [hst, hm, hc])]
  split
  · next h _ => exact absurd (hf.symm.trans h) (by decide)
  · rfl

theorem launchStarts {s : State} {task : Nat} (hst : (getTask s task).st = .dispatched) (hc : (getTask s task).clusters ≠ [])
    (hm : anyMoving s (getTask s task).clusters = false) (hf : (getTask s task).fabric = false) :
    ∃ t, exec (.launchStart task) s = .next t ∧ (getTask t task).st = .running
      ∧ ∀ lid c, (getTask s task).lbase ≤ lid → lid < (getTask s task).lbase + 96 * (getTask s task).clusters.length →
        coreOfLid (getTask s task) lid = some c → (getTask s task).clusters.Nodup →
        (getCore t c).run = .on ∧ (getCore t c).task = task ∧ (getCore t c).lid = lid
        ∧ xget (getStrand (getCore t c) 0) 1 = BitVec.ofNat 64 lid := by
  refine ⟨_, exec_launchStart hst hc hm hf, ?_, fun lid c hl hu hlc hn => ?_⟩
  · rw [getTask_placeCores, getTask_begun]
  · obtain ⟨l, h⟩ := getCore_placeCores (f := launched s task) hn hlc _ _ (begun s task) hl hu
    rw [h]
    exact launched_values s task lid

/-! ### The end of a launch (R432) -/

theorem exec_launchEnd_finished {s : State} {task : Nat} (hst : (getTask s task).st = .running)
    (hs : (getTask s task).stopped = false) (he : (getTask s task).ending = none) (hne : coresOf s task ≠ [])
    (h : ∀ c ∈ coresOf s task, (getCore s c).run = .finished ∧ recordsOut (getCore s c) = true) :
    exec (.launchEnd task) s = .next (launchOver s task (endStatus (getTask s task)) none false) := by
  have hall : (coresOf s task).all (fun c => (getCore s c).run == .finished && recordsOut (getCore s c)) = true := by
    rw [List.all_eq_true]
    intro c hc
    obtain ⟨hr, ho⟩ := h c hc
    simp [hr, ho]
  change execLaunchEnd task s = _
  unfold execLaunchEnd
  dsimp only
  rw [if_pos (by simp [hst, hs]), he]
  exact if_pos (by simp [hne, hall])

theorem exec_launchEnd_ending {s : State} {task st : Nat} {d : Option W64} (hst : (getTask s task).st = .running)
    (hs : (getTask s task).stopped = false) (he : (getTask s task).ending = some (st, d))
    (h : ∀ c ∈ coresOf s task,
      ((getCore s c).run ≠ .ending ∨ holdQuiet (getCore s c) = true) ∧ recordsOut (getCore s c) = true) :
    exec (.launchEnd task) s = .next (launchOver s task st d false) := by
  change execLaunchEnd task s = _
  unfold execLaunchEnd
  dsimp only
  rw [if_pos (by simp [hst, hs]), he]
  exact if_pos (by simpa [List.all_eq_true] using h)

theorem exec_prologueLimit {s : State} {b : BitVec 2} (hr : (getCore s (3072 + b.toNat)).run = .on)
    (ht : (getStrand (getCore s (3072 + b.toNat)) 0).run = .ready)
    (h : 4096 ≤ (getStrand (getCore s (3072 + b.toNat)) 0).block) :
    exec (.prologueLimit b) s = .next (raise1 s (3072 + b.toNat) 0 { code := 0x0108, detail := 4096 } 0) :=
  if_pos (by simp [hr, ht, h])

theorem exec_vstepTransitionComplete {s : State} {k v : Nat} (h : (getCluster s k).moving = some v) :
    exec (.vstepTransitionComplete k) s = .next (setCluster s k { getCluster s k with vstep := v, moving := none }) := by
  change execVstepTransitionComplete k s = _
  unfold execVstepTransitionComplete
  dsimp only
  rw [h]

theorem exec_agingTick {s : State} (h : agingDue s = true) :
    exec .agingTick s = .next { s with ref := { s.ref with agedAt := s.gtc, agedWith := s.ref.age, again := true } } :=
  congrArg Host.Outcome.next (if_pos h)

theorem launchesStartAndEnd : LaunchesStartAndEnd := by
  refine ⟨fun s p g i l hp hr => ?_, fun s b => exec_prologueLimit, fun s task => launchStarts,
    fun s k v => exec_vstepTransitionComplete, fun s => exec_agingTick,
    fun s task hst hs => ⟨exec_launchEnd_finished hst hs, fun st d => exec_launchEnd_ending hst hs⟩⟩
  obtain ⟨t, hx, hc⟩ := prologueStarts hp hr
  refine ⟨t, hx, ?_⟩
  rw [hc]
  exact ⟨rfl, rfl, prologueStrand_values _⟩

/-! ### Verdicts of prologues (R416, R419, R420) -/

theorem exec_exit_prologue {s : State} (hp : isPrologue s.cur = true) (hn : NotFault s) (hu : Free s (verdictUses (cst s))) :
    exec .exit s = .next (sayVerdict s) :=
  conduct_set (.inl rfl) (.inr hn) (by rwa [if_pos hp]) (if_pos hp)

theorem takeVerdicts_one {s : State} {p : Nat} (h : s.ref.said = [p]) :
    takeVerdicts s = prologueVerdict { s with ref := { s.ref with said := [] } } p := by
  simp [takeVerdicts, h]

/-- The verdict of a prologue is outside the rule, as R419 lists the ways. -/
def verdictBad (t : Strand) : Bool :=
  decide (2 < (xget t 20).toNat) || (decide (xget t 20 = 2) && decide (255 < (xget t 21).toNat))
    || (decide (xget t 20 ≠ 1) && decide (xget t 14 = 0))

section
variable {s : State} {p : Nat}

theorem prologueVerdict_bad (h : verdictBad (getStrand (getCore s (3072 + p)) 0) = true) :
    prologueVerdict s p = raise1 s (3072 + p) 0
      { code := 0x0109, detail := xget (getStrand (getCore s (3072 + p)) 0) 20 } (packJ 0x39 1) := if_pos h

variable {g i : Nat} (hp : (s.ref.pros.find? fun e => e.1 = p) = some (p, g, i))
include hp

theorem prologueVerdict_good (h : verdictBad (getStrand (getCore s (3072 + p)) 0) = false) :
    prologueVerdict s p =
      let t := getStrand (getCore s (3072 + p)) 0
      let nd := getNode (getGraph s g) i
      if xget t 20 = 1 then nodeDone s g i 3 none nd.task
      else evalSoon (setNode (dropPrologue s nd) g i { nd with
        st := .ready, pro := none, args := xget t 10, e0 := xget t 11, e1 := xget t 12, e2 := xget t 13, g0 := xget t 14
        repIndex := 0, repCount := if xget t 20 = 2 then (xget t 21).toNat + 1 else 1 }) := by
  unfold prologueVerdict
  dsimp only
  rw [← verdictBad, if_neg (by simp [h]), hp]

end

theorem prologueExitGivesItsVerdict : PrologueExitGivesItsVerdict := by
  refine ⟨fun s hp hn hu => exec_exit_prologue hp hn hu, fun s p => takeVerdicts_one, fun s p => ?_⟩
  dsimp only
  generalize ht : getStrand (getCore s (3072 + p)) 0 = t
  refine ⟨fun h w hw => ?_, fun g i hp => ⟨fun h => ?_, fun h hg => ?_⟩⟩
  · cases hw
    rw [prologueVerdict_bad (by rw [ht]; simpa [verdictBad, or_assoc] using h), ht]
  · rw [prologueVerdict_good hp (by rw [ht]; simp [verdictBad, h]), ht]
    exact if_pos h
  · have hv : xget t 20 ≠ 1 := by
      rcases h with h | ⟨h, _⟩ <;> rw [h] <;> decide
    have hgood : verdictBad t = false := by
      rcases h with h | ⟨h, h'⟩
      · simpa [verdictBad, h] using hg
      · simpa [verdictBad, h, h'] using hg
    rw [prologueVerdict_good hp (by rw [ht]; exact hgood), ht]
    exact if_neg hv

/-! ### Fabric messages (R433) -/

/-- An arrival that no running part takes is held, 64 for a group. -/
def holdArrival (s : State) (fg slot : Nat) : State :=
  if (s.vol.held.filter fun e => e.1 = fg).length < 64 then { s with vol := { s.vol with held := s.vol.held ++ [(fg, slot % 8)] } } else s

theorem holdArrival_room {s : State} {fg slot : Nat} (hs : slot < 8) (h : (s.vol.held.filter fun e => e.1 = fg).length < 64) :
    holdArrival s fg slot = { s with vol := { s.vol with held := s.vol.held ++ [(fg, slot)] } } := by
  rw [holdArrival, if_pos h, Nat.mod_eq_of_lt hs]

theorem holdArrival_full {s : State} {fg slot : Nat} (h : 64 ≤ (s.vol.held.filter fun e => e.1 = fg).length) :
    holdArrival s fg slot = s := if_neg (by omega)

section
variable {s : State} {fg : Nat} (slot : Nat)

theorem exec_fabricArrivalMessage_absent (h : groupNode s fg = none) :
    exec (.fabricArrivalMessage fg slot) s = .next (holdArrival s fg slot) := by
  change execFabricArrivalMessage fg slot s = _
  unfold execFabricArrivalMessage
  dsimp only
  rw [h]
  rfl

variable {g i : Nat} (h : groupNode s fg = some (g, i))
include h

theorem exec_fabricArrivalMessage_waiting (hst : (getTask s (getNode (getGraph s g) i).task).st ≠ .running) :
    exec (.fabricArrivalMessage fg slot) s = .next (holdArrival s fg slot) := by
  change execFabricArrivalMessage fg slot s = _
  unfold execFabricArrivalMessage
  dsimp only
  rw [h]
  dsimp only
  split
  · next hr _ => exact absurd hr hst
  · rfl

theorem exec_fabricArrivalMessage_running {c : Nat} (hst : (getTask s (getNode (getGraph s g) i).task).st = .running)
    (hc : coreOfLid (getTask s (getNode (getGraph s g) i).task) (getTask s (getNode (getGraph s g) i).task).lbase = some c) :
    exec (.fabricArrivalMessage fg slot) s = .next (applyArrivals s c fg [(fg, slot % 8)]) := by
  change execFabricArrivalMessage fg slot s = _
  unfold execFabricArrivalMessage
  dsimp only
  rw [h]
  dsimp only
  rw [hst, hc]

theorem exec_fabricAbort_early (fidx : Nat) (hn : notDispatched (getNode (getGraph s g) i) = true) :
    exec (.fabricAbort fg fidx) s
      = .next (nodeDone (leaveEarly s g i).1 g i 6 (some (BitVec.ofNat 64 fidx)) (leaveEarly s g i).2) := by
  change execFabricAbort fg fidx s = _
  unfold execFabricAbort
  dsimp only
  rw [h]
  dsimp only
  unfold notDispatched at hn
  split <;> simp_all

theorem exec_fabricAbort_running (fidx : Nat) (hst : (getNode (getGraph s g) i).st = .running) :
    exec (.fabricAbort fg fidx) s = .next (shedTask s (getNode (getGraph s g) i).task 6 (some (BitVec.ofNat 64 fidx))) := by
  change execFabricAbort fg fidx s = _
  unfold execFabricAbort
  dsimp only
  rw [h]
  dsimp only
  rw [hst]

end

theorem applyArrivals_one (s : State) (c fg slot : Nat) :
    applyArrivals s c fg [(fg, slot)]
      = slotCheck (setSlot s c 4 slot { getSlot s c 4 slot with arrived := (getSlot s c 4 slot).arrived + 1 }) c 4 slot := by
  simp [applyArrivals]

theorem fabricMessagesReachTheirPart : FabricMessagesReachTheirPart := by
  intro s fg slot fidx hs
  refine ⟨fun g i c h hst hc => ?_, fun g i h hst => ⟨fun hr => ?_, fun hf => ?_⟩, fun h hr => ?_, fun h hf => ?_,
    fun g i h hn => exec_fabricAbort_early h fidx hn, fun g i h hst => exec_fabricAbort_running h fidx hst⟩
  · rw [exec_fabricArrivalMessage_running slot h hst hc, Nat.mod_eq_of_lt hs, applyArrivals_one]
  · rw [exec_fabricArrivalMessage_waiting slot h hst, holdArrival_room hs hr]
  · rw [exec_fabricArrivalMessage_waiting slot h hst, holdArrival_full hf]
  · rw [exec_fabricArrivalMessage_absent slot h, holdArrival_room hs hr]
  · rw [exec_fabricArrivalMessage_absent slot h, holdArrival_full hf]

/-- Settles O46: each event is the branch that its conditions choose, and a launch gives each core what its lid is due. -/
theorem launchesAndFabricMessagesReachTheirPart : Obligations.LaunchesAndFabricMessagesReachTheirPart :=
  ⟨launchesStartAndEnd, prologueExitGivesItsVerdict, fabricMessagesReachTheirPart⟩

end Sys2Proof.Machine
end

section
/-! SUPPORT. O49: requests of other devices, their acknowledgements, time and links. A request received for the first time in its turn
comes down to what the aperture entry that holds it allows (`atEntry`); the other events are read off from the branch that their
conditions choose. -/

namespace Sys2Proof.Machine

open Sys2Proof Sys2Proof.Statements

/-! ### Requests of other devices (R485 to R487) -/

/-- What a request comes to at the aperture entry that holds its bytes. -/
def atEntry (s : State) (r : RemoteReq) (e : BitVec 256) : State :=
  let pa := regionMap s (expBase e + (r.off - expOff e))
  if remoteNeed (e.getLsbD 1) r.op &&& ~~~(expPerm e) ≠ 0 then respond s r 2 ((expPerm e).setWidth 64)
  else if e.getLsbD 1 then requestScr s r e
  else if !backed s pa ∨ 14 ≤ paTarget pa then respond s r 1 0
  else if paTarget pa = 13 ∧ remoteHostNo s r.op then respond s r 2 ((expPerm e).setWidth 64)
  else remoteDo s r (.named pa)

section
variable {s : State} {r : RemoteReq}

theorem exec_volleyRequest_withdraw {n : Nat} (h : r.op = .withdraw n) :
    exec (.volleyRequest r) s = .next (withdrawReq s r.src n) := by
  change execVolleyRequest r s = _
  unfold execVolleyRequest
  rw [h]

variable (hop : ∀ n, r.op ≠ .withdraw n)
include hop

theorem exec_volleyRequest_seen {m : VolMsg} (h : seenBefore s r = some m) :
    exec (.volleyRequest r) s = .next { s with vol := { s.vol with out := s.vol.out ++ [m] } } := by
  change execVolleyRequest r s = _
  unfold execVolleyRequest
  rw [h]
  split
  next n hn => exact absurd hn (hop n)
  next hm _ => cases hm; rfl
  next hm _ => cases hm

theorem exec_volleyRequest_waits (h : seenBefore s r = none) (hw : heldBefore s r = true ∨ tooEarly s r = true) :
    exec (.volleyRequest r) s = .next s := by
  change execVolleyRequest r s = _
  unfold execVolleyRequest
  rw [h]
  split
  next n hn => exact absurd hn (hop n)
  next hm _ => cases hm
  next => exact if_pos (by simpa using hw)

theorem exec_volleyRequest_first (h : seenBefore s r = none) (hh : heldBefore s r = false) (ht : tooEarly s r = false) :
    exec (.volleyRequest r) s = .next ((expFind s r.off (remoteLen r.op)).elim (respond s r 1 0) (atEntry s r)) := by
  change execVolleyRequest r s = _
  unfold execVolleyRequest
  rw [h]
  split
  next n hn => exact absurd hn (hop n)
  next hm _ => cases hm
  next =>
    rw [if_neg (by simp [hh, ht])]
    cases expFind s r.off (remoteLen r.op) with
    | none => rfl
    | some e =>
      simp only [atEntry, Option.elim_some, apply_ite Host.Outcome.next]

end

section
variable {s : State} {r : RemoteReq} {e : BitVec 256}

theorem atEntry_refused (h : remoteNeed (e.getLsbD 1) r.op &&& ~~~(expPerm e) ≠ 0) :
    atEntry s r e = respond s r 2 ((expPerm e).setWidth 64) := if_pos h

theorem atEntry_scr (h : remoteNeed true r.op &&& ~~~(expPerm e) = 0) (hm : e.getLsbD 1 = true) :
    atEntry s r e = requestScr s r e := by
  rw [atEntry, if_neg (by rw [hm]; exact not_not_intro h), if_pos hm]

variable (h : remoteNeed false r.op &&& ~~~(expPerm e) = 0) (hm : e.getLsbD 1 = false)
include h hm

theorem atEntry_named : atEntry s r e =
    let pa := regionMap s (expBase e + (r.off - expOff e))
    if !backed s pa ∨ 14 ≤ paTarget pa then respond s r 1 0
    else if paTarget pa = 13 ∧ remoteHostNo s r.op then respond s r 2 ((expPerm e).setWidth 64)
    else remoteDo s r (.named pa) := by
  rw [atEntry, if_neg (by rw [hm]; exact not_not_intro h), if_neg (by rw [hm]; exact Bool.false_ne_true)]

end

theorem awaken_awake {s : State} (h : s.mm.sr = 0) (pa : Nat) : awaken s pa = s := if_neg (by simp [h])

/-- A load that finds its bytes readable is answered with them. -/
theorem remoteDo_load {s : State} {r : RemoteReq} {pa n : Nat} (hs : s.mm.sr = 0) (ho : r.op = .load n)
    (hu : uncorrectable s (.named pa) n = none) :
    remoteDo s r (.named pa) = respond s r 0 (BitVec.ofNat 64 (readNat s (.named pa) n)) := by
  unfold remoteDo
  dsimp only
  rw [awaken_awake hs, ho]
  exact if_neg (by simp [remoteLen, hu])

theorem remoteDo_store {s : State} {r : RemoteReq} {pa : Nat} {b : List Byte} (hs : s.mm.sr = 0) (ho : r.op = .store b) :
    remoteDo s r (.named pa) = respond (storeAt s { agent := 0xFE, core := 0, dev := r.src } (.named pa) b false) r 0 0 := by
  unfold remoteDo
  dsimp only
  rw [awaken_awake hs, ho]
  rfl

/-! ### Acknowledgements (R485) -/

section
variable {s : State} {id : Nat} (err : BitVec 3) (v : W64) {r : VolReq}

theorem exec_volleyAck_none (h : ∀ r ∈ s.vol.fly, r.id = id → notFirst s r = true) :
    exec (.volleyAck id err v) s = .next s := by
  have hf : (s.vol.fly.find? fun r => decide (r.id = id) && !notFirst s r) = none := by
    simpa [List.find?_eq_none] using h
  change execVolleyAck id err v s = _
  unfold execVolleyAck
  rw [hf]

/-- The state without the request that an acknowledgement answers. -/
def flown (s : State) (id : Nat) : State := { s with vol := { s.vol with fly := s.vol.fly.filter fun x => x.id ≠ id } }

variable (h : (s.vol.fly.find? fun r => decide (r.id = id) && !notFirst s r) = some r)
include h

theorem exec_volleyAck_strand {c n : Nat} (ho : r.origin = .strand c n) : exec (.volleyAck id err v) s
    = .next { ackToStrand { flown s id with cur := c } n id (err.setWidth 2) v with cur := s.cur } := by
  change execVolleyAck id err v s = _
  unfold execVolleyAck
  rw [h]
  dsimp only
  rw [ho]
  rfl

theorem exec_volleyAck_fetch {c n : Nat} (ho : r.origin = .fetch c n) : exec (.volleyAck id err v) s
    = .next { ackToFetch { flown s id with cur := c } n (err.setWidth 2) v with cur := s.cur } := by
  change execVolleyAck id err v s = _
  unfold execVolleyAck
  rw [h]
  dsimp only
  rw [ho]
  rfl

theorem exec_volleyAck_host {o : Option (Nat × Nat)} (ho : r.origin = .host o) : exec (.volleyAck id err v) s
    = .next (ackToHost (flown s id) o (err.setWidth 2) v) := by
  change execVolleyAck id err v s = _
  unfold execVolleyAck
  rw [h]
  dsimp only
  rw [ho]
  rfl

theorem exec_volleyAck_engine {c : Nat} {q va : Nat} (ho : r.origin = .engine c q va) :
    exec (.volleyAck id err v) s = .next (if 4 ≤ err.toNat then ackUndone (flown s id) c (err = 4) else
      setCore (flown s id) c { getCore s c with acks := (getCore s c).acks ++ [(q, va, err.setWidth 2, v)] }) := by
  change execVolleyAck id err v s = _
  unfold execVolleyAck
  rw [h]
  dsimp only
  rw [ho, apply_ite Host.Outcome.next]
  rfl

end

theorem remoteRequestsAreAnsweredOnce : RemoteRequestsAreAnsweredOnce := by
  intro s
  refine ⟨fun r n => exec_volleyRequest_withdraw, fun r m hop => exec_volleyRequest_seen hop,
    fun r hop => exec_volleyRequest_waits hop,
    fun r hop hs hh ht => ?_, fun id err v r hf => ?_, fun id err v => exec_volleyAck_none err v⟩
  · dsimp only
    rw [exec_volleyRequest_first hop hs hh ht]
    refine ⟨fun he => ?_, fun e he => ?_⟩
    · rw [he]; rfl
    · rw [he, Option.elim_some]
      refine ⟨fun h => ?_, fun h hm => ⟨fun hb => ?_, fun hb hp hn => ?_, fun hb hp hsr => ?_⟩, fun h hm => ?_⟩
      · rw [atEntry_refused h]; rfl
      · rw [atEntry_named h hm, if_pos (by simpa using hb)]; rfl
      · rw [atEntry_named h hm, if_neg (by simp [hb, hp]), if_pos ⟨hp, hn⟩]; rfl
      · rw [atEntry_named h hm, if_neg (by simp [hb]; omega), if_neg (by omega)]
        refine ⟨fun n ho hu => ?_, fun b ho => ?_⟩
        · rw [remoteDo_load hsr ho hu]; rfl
        · rw [remoteDo_store hsr ho]
      · rw [atEntry_scr h hm]
  · refine ⟨fun c n => exec_volleyAck_strand err v hf, fun c n => exec_volleyAck_fetch err v hf,
      fun o => exec_volleyAck_host err v hf, fun c q va ho => ?_⟩
    rw [exec_volleyAck_engine err v hf ho]
    refine ⟨fun he => ⟨_, rfl, ?_⟩, fun he => ⟨_, rfl, ?_⟩⟩
    · rw [if_neg (by omega), getCore_setCore_self]
      exact ⟨rfl, rfl⟩
    · subst he
      rw [if_pos (by decide), ackUndone, getCore_setCore_self]
      exact ⟨rfl, rfl⟩

/-! ### Global time (R490 to R492) -/

section
variable {s : State}

theorem exec_disciplineSend (h : disciplineDue s = true) : exec .disciplineSend s = .next (sendDiscipline s (upPorts s)) :=
  if_pos h

theorem exec_disciplineReceive_master {p : Nat} {o : Int} (h : s.vol.tmaster = true) :
    exec (.disciplineReceive p o) s = .next s := if_pos h

theorem exec_disciplineReceive_follower (p : Nat) (o : Int) (h : s.vol.tmaster = false) :
    exec (.disciplineReceive p o) s = .next { s with vol := { s.vol with
      discAt := s.gtc
      out := s.vol.out ++ [.delay p (BitVec.ofNat 64 s.gtc)]
        ++ ((upPorts s).filter (· ≠ p)).map fun q => .discipline q (BitVec.ofNat 64 s.gtc)
      slew := o, synced := decide (-4 ≤ o ∧ o ≤ 4), late := false } } :=
  if_neg (by simp [h])

theorem disciplineLate_iff : disciplineLate s = true
    ↔ s.vol.tmaster = false ∧ s.vol.late = false ∧ s.vol.discAt + 10000000 ≤ s.gtc := by
  simp [disciplineLate, and_assoc]

theorem reportMc3_eq : reportMc3 s
    = if s.mg.recovery then s else { s with host := { s.host with msgs := 67 :: s.host.msgs } } := rfl

@[simp] theorem reportMc3_vol : (reportMc3 s).vol = s.vol := by
  rw [reportMc3_eq]
  split <;> rfl

theorem reportMc3_hostMsgs : (reportMc3 s).host.msgs = if s.mg.recovery then s.host.msgs else 67 :: s.host.msgs := by
  rw [reportMc3_eq]
  split <;> rfl

theorem exec_disciplineTimeout_late (h : disciplineLate s = true) : exec .disciplineTimeout s
    = .next (reportMc3 { s with vol := { s.vol with synced := false, late := true } }) := if_pos h

theorem exec_disciplineTimeout_else (h : ¬ disciplineLate s = true) : exec .disciplineTimeout s = .next s := if_neg h

theorem stepGtc_refused {v : Nat} (h : s.ref.nextTask ≠ 1 ∨ v < s.gtc ∨ s.mg.recovery = true) : stepGtc s v = s := if_pos h

theorem stepGtc_steps {v : Nat} (hn : s.ref.nextTask = 1) (hv : s.gtc ≤ v) (hr : s.mg.recovery = false) :
    let t := stepGtc s v
    t.gtc = v ∧ t.vol.discAt = s.vol.discAt + (v - s.gtc) ∧ t.vol.slew = s.vol.slew ∧ t.cores = s.cores ∧ t.mem = s.mem := by
  unfold stepGtc
  rw [if_neg (by simp [hn, hr]; omega)]
  exact ⟨rfl, rfl, rfl, rfl, rfl⟩

/-- The slew that an edge asks for leads to a multiple of a second, offset as the firmware says, by the shorter way. -/
theorem ppsError_spec (s : State) : ((s.gtc : Int) + ppsError s - s.vol.ppsoff.toInt) % 1000000000 = 0
    ∧ -500000000 ≤ ppsError s ∧ ppsError s ≤ 500000000 := by
  unfold ppsError
  dsimp only
  split <;> omega

theorem exec_ppsEdge (s : State) : ∃ t, exec .ppsEdge s = .next t ∧ t.vol.ppsSeen = true ∧ t.vol.edgeAt = s.gtc
    ∧ t.vol.slew = if s.vol.tmaster && s.vol.pps then ppsError s else s.vol.slew := by
  refine ⟨_, rfl, ?_⟩
  dsimp only
  split <;> exact ⟨rfl, rfl, rfl⟩

theorem exec_ppsTimeout (h : ppsLate s = true) :
    exec .ppsTimeout s = .next { s with vol := { s.vol with ppsSeen := false } } := if_pos h

end

/-! ### Links and routes (R493) -/

section
variable {s : State} {p : Nat}

theorem setUp_up (b : Bool) (hp : p < 16) :
    (setUp s p b).vol.up = if b then s.vol.up ||| (1#16 <<< p) else s.vol.up &&& ~~~(1#16 <<< p) := by
  rw [setUp, if_neg (by omega)]

theorem getLsbD_oneAt (j : Nat) (hp : p < 16) : (1#16 <<< p).getLsbD j = decide (j = p) := by
  simp only [BitVec.getLsbD_shiftLeft, BitVec.getLsbD_one]
  by_cases hj : j = p
  · simp [hj, hp]
  · simp [hj]
    omega

theorem getLsbD_setUp (b : Bool) (hp : p < 16) (j : Nat) :
    (setUp s p b).vol.up.getLsbD j = if j = p then b else s.vol.up.getLsbD j := by
  rw [setUp_up b hp]
  by_cases hj : j = p
  · cases b <;> simp [hj, hp]
  · cases b
    · simpa [getLsbD_oneAt _ hp, hj] using BitVec.lt_of_getLsbD
    · simp [getLsbD_oneAt _ hp, hj]

theorem exec_reroute_none (h : 16 ≤ p ∨ s.vol.up.getLsbD p = true) : exec (.reroute p) s = .next s := if_pos h

theorem exec_reroute (hp : p < 16) (hu : s.vol.up.getLsbD p = false) : ∃ t, exec (.reroute p) s = .next t
    ∧ t.vol.out = s.vol.out ++ (s.vol.fly.filter fun r => (routeOf s r.dev).1 = p).map fun r => .req r.id r.dev r.off r.op r.cls := by
  change ∃ t, execReroute p s = .next t ∧ _
  unfold execReroute
  rw [if_neg (by simp [hu]; omega)]
  refine ⟨_, rfl, ?_⟩
  dsimp only
  rw [(sameBut_foldl _ (fun s _ => sameBut_writeSpa s _ _) _ s).vol]

theorem unreachable_iff {d : Nat} : unreachable s d = true ↔
    ∀ p, p = (routeOf s d).1 ∨ p = (routeOf s d).2 → s.vol.up.getLsbD p = false
      ∧ tget 0 s.vol.downAt p + s.vol.tmo * 1000000 ≤ s.gtc := by
  simp [unreachable]

theorem exec_destinationUnreachable {d : Nat} (h : unreachable s d = true) : exec (.destinationUnreachable d) s
    = .next ((tasksTo s d).foldl (fun s t => shedRun s 6 t) (reportMc3 s)) := if_pos h

theorem exec_destinationUnreachable_none {d : Nat} (h : ¬ unreachable s d = true) :
    exec (.destinationUnreachable d) s = .next s := if_neg h

theorem shedRun_task {task : Nat} (status : Nat) (h : (getTask s task).nclus ≠ 0) :
    shedRun s status task = shedTask s task status none := by
  simp [shedRun, h]

/-- A prologue's node that holds no image leaves as it is, under its own id. -/
theorem leaveEarly_prologue {g i : Nat} (hi : (getNode (getGraph s g) i).image = none)
    (hst : (getNode (getGraph s g) i).st = .prologue) : leaveEarly s g i = (s, (getNode (getGraph s g) i).task) := by
  simp [leaveEarly, hi, hst]

theorem shedRun_prologue {task : Nat} (status : Nat) (hn : (getTask s task).nclus = 0)
    (hp : (getNode (getGraph s (getTask s task).graph) (getTask s task).node).pro ≠ none)
    (hi : (getNode (getGraph s (getTask s task).graph) (getTask s task).node).image = none)
    (hst : (getNode (getGraph s (getTask s task).graph) (getTask s task).node).st = .prologue) :
    shedRun s status task = nodeDone s (getTask s task).graph (getTask s task).node status none
      (getNode (getGraph s (getTask s task).graph) (getTask s task).node).task := by
  unfold shedRun
  dsimp only
  rw [if_pos (by simpa [hn] using Option.ne_none_iff_isSome.mp hp), leaveEarly_prologue hi hst]

end

/-! ### What the management plane writes (R487, R493) -/

/-- The lowest part of a number in base `B`, and what stands above it. -/
theorem lowPart {B a : Nat} (h : a < B) (m : Nat) : (a + B * m) % B = a ∧ (a + B * m) / B = m := by
  rw [Nat.add_mul_mod_self_left, Nat.mod_eq_of_lt h, Nat.add_mul_div_left _ _ (by omega), Nat.div_eq_of_lt h, Nat.zero_add]
  exact ⟨rfl, rfl⟩

theorem lowPart_lt {B M a m : Nat} (h : a < B) (hm : m < M) : a + B * m < B * M :=
  calc a + B * m < B + B * m := Nat.add_lt_add_right h _
    _ = B * (m + 1) := by rw [Nat.mul_succ, Nat.add_comm]
    _ ≤ B * M := Nat.mul_le_mul_left B hm

/-- Four parts as the digits of one number. -/
def fourParts (B a b c d : Nat) : Nat := a + B * (b + B * (c + B * d))

theorem fourParts_read {B a b c d : Nat} (ha : a < B) (hb : b < B) (hc : c < B) (hd : d < B) :
    let n := fourParts B a b c d
    n < B * (B * (B * B)) ∧ n % B = a ∧ n / B % B = b ∧ n / B / B % B = c ∧ n / B / B / B % B = d := by
  dsimp only [fourParts]
  rw [(lowPart ha _).1, (lowPart ha _).2, (lowPart hb _).1, (lowPart hb _).2, (lowPart hc _).1, (lowPart hc _).2,
    Nat.mod_eq_of_lt hd]
  exact ⟨lowPart_lt ha (lowPart_lt hb (lowPart_lt hc hd)), rfl, rfl, rfl, rfl⟩

/-- What part `i` of an entry holds once part `dw` is replaced. -/
def partOf (e : BitVec 256) (dw : Nat) (v : W64) (i : Nat) : Nat := if i = dw then v.toNat else rtField e (64 * i) 64

theorem partOf_lt (e : BitVec 256) (dw : Nat) (v : W64) (i : Nat) : partOf e dw v i < 2 ^ 64 := by
  unfold partOf
  split
  · exact v.isLt
  · exact (e.extractLsb' _ 64).isLt

theorem foldl_range_four {α : Type} (f : α → Nat → α) (a : α) : (List.range 4).foldl f a = f (f (f (f a 0) 1) 2) 3 := rfl

theorem fourParts_sum (a b c d : Nat) :
    0 + a * 2 ^ (64 * 0) + b * 2 ^ (64 * 1) + c * 2 ^ (64 * 2) + d * 2 ^ (64 * 3) = fourParts (2 ^ 64) a b c d := by
  unfold fourParts
  omega

theorem putDw_eq (e : BitVec 256) (dw : Nat) (v : W64) : putDw e dw v = BitVec.ofNat 256
    (fourParts (2 ^ 64) (partOf e dw v 0) (partOf e dw v 1) (partOf e dw v 2) (partOf e dw v 3)) := by
  rw [putDw, foldl_range_four, ← fourParts_sum]
  unfold partOf
  rfl

/-- The part of an entry that is replaced reads back. -/
theorem dwOf_putDw (e : BitVec 256) {dw : Nat} (v : W64) (h : dw < 4) : dwOf (putDw e dw v) dw = v := by
  obtain ⟨hn, h0, h1, h2, h3⟩ := fourParts_read (partOf_lt e dw v 0) (partOf_lt e dw v 1) (partOf_lt e dw v 2) (partOf_lt e dw v 3)
  have hv : partOf e dw v dw = v.toNat := if_pos rfl
  have hw : 2 ^ 64 * (2 ^ 64 * (2 ^ 64 * 2 ^ 64)) = 2 ^ 256 := by simp only [← Nat.pow_add, Nat.reduceAdd]
  rw [hw] at hn
  apply BitVec.eq_of_toNat_eq
  rw [putDw_eq, dwOf, BitVec.extractLsb'_toNat, BitVec.toNat_ofNat, Nat.mod_eq_of_lt hn]
  generalize fourParts _ _ _ _ _ = n at *
  match dw, h with
  | 0, _ => exact h0.trans hv
  | 1, _ => rw [Nat.shiftRight_eq_div_pow]; exact h1.trans hv
  | 2, _ => rw [Nat.shiftRight_add n 64 64, Nat.shiftRight_eq_div_pow, Nat.shiftRight_eq_div_pow]; exact h2.trans hv
  | 3, _ =>
    rw [Nat.shiftRight_add n 128 64, Nat.shiftRight_add n 64 64]
    simp only [Nat.shiftRight_eq_div_pow]
    exact h3.trans hv

/-- The state with part `dw` of aperture entry `i` written. -/
def exported (s : State) (i dw : Nat) (v : W64) : State :=
  { s with vol := { s.vol with exp := tput 0 s.vol.exp i (putDw (expEntry s i) dw (v &&& expMask dw)) } }

theorem expEntry_exported (s : State) (i dw : Nat) (v : W64) (j : Nat) :
    expEntry (exported s i dw v) j = if j = i then putDw (expEntry s i) dw (v &&& expMask dw) else expEntry s j := tget_tput ..

theorem exec_managementMessage_entry (s : State) {i dw : Nat} (v : W64) (hi : i < 8) (hd : dw < 4) :
    exec (.managementMessage (some (i, dw, v)) none) s = .next (exported s i dw v) :=
  congrArg Host.Outcome.next (if_pos ⟨hi, hd⟩)

theorem exec_managementMessage_route (s : State) {d : Nat} (b : Byte) (hd : d < 16384) :
    exec (.managementMessage none (some (d, b))) s = .next (writeSpa s (s.vol.rtbase.toNat + d) [b]) :=
  congrArg Host.Outcome.next (if_pos hd)

theorem timeAndLinksFollowTheFabric : TimeAndLinksFollowTheFabric := by
  intro s
  refine ⟨fun hm hd => exec_disciplineSend (by simp [disciplineDue, hm, hd]), fun p o => exec_disciplineReceive_master,
    exec_disciplineReceive_follower, fun hm hl hd => ?_, fun h => ?_,
    fun v => ⟨fun hn hv hr => ?_, stepGtc_refused⟩, ?_, fun hp he => exec_ppsTimeout (by simp [ppsLate, hp, he]), fun v => rfl,
    fun p hp => ?_, fun p => exec_reroute_none, fun p => exec_reroute, fun d hd => ?_, fun d hd => ?_,
    fun task => ⟨shedRun_task 6, shedRun_prologue 6⟩, fun i dw v hi hd => ?_, fun d b => exec_managementMessage_route s b⟩
  · exact ⟨_, exec_disciplineTimeout_late (disciplineLate_iff.mpr ⟨hm, hl, hd⟩), reportMc3_vol, reportMc3_hostMsgs⟩
  · refine exec_disciplineTimeout_else fun hl => ?_
    obtain ⟨hm, hl, hd⟩ := disciplineLate_iff.mp hl
    rcases h with h | h | h
    · exact absurd (h.symm.trans hm) (by decide)
    · exact absurd (h.symm.trans hl) (by decide)
    · omega
  · obtain ⟨hg, hd, h⟩ := stepGtc_steps hn hv hr
    exact ⟨hg, by rw [hd]; omega, h⟩
  · obtain ⟨t, hx, hs, he, hw⟩ := exec_ppsEdge s
    refine ⟨t, hx, hs, he, fun hm hp => ?_, fun h => ?_⟩
    · rw [hw, hm, hp]
      exact ppsError_spec s
    · rw [hw, if_neg (by rcases h with h | h <;> simp [h])]
  · refine ⟨_, _, rfl, rfl, ?_, ?_, fun j hj => ⟨?_, ?_⟩⟩
    · rw [getLsbD_setUp false hp, if_pos rfl]
    · rw [getLsbD_setUp true hp, if_pos rfl]
    · rw [getLsbD_setUp false hp, if_neg hj]
    · rw [getLsbD_setUp true hp, if_neg hj]
  · obtain ⟨p, hp, h⟩ := hd
    refine exec_destinationUnreachable_none fun hu => ?_
    obtain ⟨hup, hdown⟩ := unreachable_iff.mp hu p hp
    rcases h with h | h
    · exact absurd (h.symm.trans hup) (by decide)
    · omega
  · exact exec_destinationUnreachable (unreachable_iff.mpr hd)
  · refine ⟨_, exec_managementMessage_entry s v hi hd, ?_, fun j hj => ?_⟩
    · rw [expEntry_exported, if_pos rfl, dwOf_putDw _ _ hd, expMask]
    · rw [expEntry_exported, if_neg hj]

/-- Settles O49: each received request comes down to its entry's answer, and time and links to the branch that holds. -/
theorem volleyAnswersOnceAndKeepsTime : Obligations.VolleyAnswersOnceAndKeepsTime :=
  ⟨remoteRequestsAreAnsweredOnce, timeAndLinksFollowTheFabric⟩


end Sys2Proof.Machine
end

section
/-! SUPPORT. O1 to O6: register instructions, branches, jumps, loops and predicates. Each table of the statements is settled by one
lemma that gives every instruction of it its form (`op2Late`, `branch`, …); the form is then run once. -/

namespace Sys2Proof.Machine

open Sys2Proof Sys2Proof.Statements

/-! ### Register instructions (R167 to R169) -/

/-- A choice made by a comparison as the model writes it and as the statements do. -/
theorem ite_slt {α : Type} (a b : W64) (x y : α) : (if a.slt b then x else y) = if a.toInt < b.toInt then x else y := by
  simp [BitVec.slt]

theorem ite_ult {α : Type} (a b : W64) (x y : α) : (if a.ult b then x else y) = if a.toNat < b.toNat then x else y := by
  simp [BitVec.ult]

theorem not_slt (a b : W64) : (!a.slt b) = decide (b.toInt ≤ a.toInt) := by simp [BitVec.slt, ← decide_not]

theorem not_ult (a b : W64) : (!a.ult b) = decide (b.toNat ≤ a.toNat) := by simp [BitVec.ult, ← decide_not]

/-- Settles O1: each instruction of the table advances with its result written. -/
theorem registerResultIsWrittenAtOnce : Obligations.RegisterResultIsWrittenAtOnce := by
  intro s i d us v h hu
  cases i
  case min_ | max_ =>
    cases h
    rw [← ite_slt]
    exact conduct_adv (.inl rfl) (.inl rfl) hu rfl
  case minu | maxu =>
    cases h
    rw [← ite_ult]
    exact conduct_adv (.inl rfl) (.inl rfl) hu rfl
  case add | sub | and_ | or_ | xor | sll | srl | sra | slt | sltu | clz | ctz | popc | bswap | addi | andi | ori | xori | slli
      | srli | srai | slti | sltiu | lui | lsi | lpc =>
    cases h
    exact conduct_adv (.inl rfl) (.inl rfl) hu rfl
  -- No other instruction is one of the table.
  all_goals cases h

/-! ### Multiplies and divides (R164, R168) -/

theorem lateResultLandsAfterItsLatency : LateResultLandsAfterItsLatency := by
  intro s i d a b lat v h hu
  cases i
  case mul | mulh | mulhu | mulhsu | div | divu | rem | remu =>
    cases h
    exact conduct_adv (.inl rfl) (.inl rfl) hu rfl
  all_goals cases h

theorem dueResultsAreWrittenInOrder : DueResultsAreWrittenInOrder := fun _ _ => rfl

theorem toInt_divS {a b : W64} (hb : b ≠ 0) (h : a ≠ 0x8000000000000000 ∨ b ≠ -1) :
    (divS a b).toInt = a.toInt.tdiv b.toInt := by
  rw [divS, if_neg hb, if_neg (by tauto), BitVec.toInt_ofInt, ← BitVec.toInt_sdiv]
  exact BitVec.toInt_sdiv_of_ne_or_ne a b h

theorem toInt_remS {a b : W64} (hb : b ≠ 0) (h : a ≠ 0x8000000000000000 ∨ b ≠ -1) :
    (remS a b).toInt = a.toInt.tmod b.toInt := by
  rw [remS, if_neg hb, if_neg (by tauto), ← Int.tmod_def, ← BitVec.toInt_srem, BitVec.ofInt_toInt]

theorem toNat_divU {a b : W64} (hb : b ≠ 0) : (divU a b).toNat = a.toNat / b.toNat := by
  rw [divU, if_neg hb, BitVec.toNat_ofNat, Nat.mod_eq_of_lt (Nat.lt_of_le_of_lt (Nat.div_le_self ..) a.isLt)]

theorem toNat_remU {a b : W64} (hb : b ≠ 0) : (remU a b).toNat = a.toNat % b.toNat := by
  rw [remU, if_neg hb, BitVec.toNat_ofNat, Nat.mod_eq_of_lt (Nat.lt_of_le_of_lt (Nat.mod_le ..) a.isLt)]

theorem divisionMeetsItsCorners : DivisionMeetsItsCorners :=
  ⟨fun _ => ⟨rfl, rfl, rfl, rfl⟩, rfl, rfl, fun _ _ hb h => ⟨toInt_divS hb h, toInt_remS hb h⟩,
    fun _ _ hb => ⟨toNat_divU hb, toNat_remU hb⟩⟩

/-- Settles O2: a late result is noted, the due ones are written, and division is that of the integers off its corners. -/
theorem lateResultsLandAndDivisionMeetsItsCorners : Obligations.LateResultsLandAndDivisionMeetsItsCorners :=
  ⟨lateResultLandsAfterItsLatency, dueResultsAreWrittenInOrder, divisionMeetsItsCorners⟩

/-! ### Branches (R184, R190) -/

/-- A transfer that leaves its loop faults, with nothing of the instruction done. -/
theorem conduct_leaves {pro fs : Bool} {w : W32} {uses : List Nat} {f : State → Eff} {s s' : State} {t : W64}
    (hp : pro = true ∨ OnCore s) (hf : fs = false ∨ NotFault s) (hu : Free s uses) (h : f s = .jump s' t)
    (hl : leavesLoop (cst s) t = true) :
    conduct pro fs w uses f s = .next (faults s { code := 0x0102, addr := t, detail := w.setWidth 64 } w) := by
  rw [conduct_eq hp hf hu, h]
  simp [hl]

/-- An instruction of the branches' table is a branch on its condition. -/
theorem exec_branchTaken {s : State} {i : Instr} {t a : Reg} {o : W16} {c : Bool} (h : branchTaken s i = some (t, a, o, c)) :
    ∃ w f, encode i = .cword w ∧ exec i s = branch w t a o f s ∧ f (rx s t) (rx s a) = c := by
  cases i
  case beq | bne =>
    cases h
    exact ⟨_, _, rfl, rfl, by simp [bne, beq_eq_decide]⟩
  case blt | bltu =>
    cases h
    exact ⟨_, _, rfl, rfl, rfl⟩
  case bge t a o =>
    cases h
    exact ⟨_, fun a b => !a.slt b, rfl, rfl, not_slt _ _⟩
  case bgeu t a o =>
    cases h
    exact ⟨_, fun a b => !a.ult b, rfl, rfl, not_ult _ _⟩
  all_goals cases h

/-- Settles O3: a branch advances where its condition fails, and else jumps or leaves its loop. -/
theorem branchGoesWhereItsConditionSays : Obligations.BranchGoesWhereItsConditionSays := by
  intro s i t a o c h hu
  obtain ⟨w, f, hw, he, hc⟩ := exec_branchTaken h
  rw [he, hw]
  refine ⟨fun h0 => ?_, fun h1 hl => ?_, fun h1 hl w' hw' => ?_⟩
  · exact conduct_adv (.inl rfl) (.inl rfl) hu (if_neg (by simp [hc, h0]))
  · exact conduct_jump (.inl rfl) (.inl rfl) hu (if_pos (hc.trans h1)) hl
  · cases hw'
    exact conduct_leaves (.inl rfl) (.inl rfl) hu (if_pos (hc.trans h1)) hl

/-! ### Jumps (R185, R186, R190) -/

/-- An instruction of the jumps' table answers with its jump. -/
theorem exec_jumpTarget {s : State} {i : Instr} {us : List Nat} {s' : State} {dest : W64} (h : jumpTarget s i = some (us, s', dest)) :
    ∃ w f, encode i = .cword w ∧ exec i s = conduct true false w us f s ∧ f s = .jump s' dest := by
  cases i
  case jal =>
    cases h
    exact ⟨_, _, rfl, rfl, rfl⟩
  case jalr =>
    obtain ⟨ht, h⟩ := Option.ite_none_right_eq_some.mp h
    cases h
    exact ⟨_, _, rfl, rfl, if_neg (not_not_intro ht)⟩
  case jtab =>
    obtain ⟨hlen, h⟩ := Option.ite_none_right_eq_some.mp h
    cases h
    exact ⟨_, _, rfl, rfl, if_pos hlen⟩
  all_goals cases h

theorem jumpLinksAndGoesToItsTarget : JumpLinksAndGoesToItsTarget := by
  intro s i us s' dest h hu
  obtain ⟨w, f, hw, he, hf⟩ := exec_jumpTarget h
  rw [he, hw]
  refine ⟨conduct_jump (.inl rfl) (.inl rfl) hu hf, fun hl w' hw' => ?_⟩
  cases hw'
  exact conduct_leaves (.inl rfl) (.inl rfl) hu hf hl

theorem misalignedJumpTargetFaults : MisalignedJumpTargetFaults := by
  intro s d a o w hu hw ht
  cases hw
  exact conduct_flt (.inl rfl) (.inl rfl) hu (if_pos ht)

theorem onlyBodyInstructionsLeaveTheirLoop : OnlyBodyInstructionsLeaveTheirLoop := by
  intro t dest
  simp only [leavesLoop, inBody, Bool.and_eq_true, Bool.not_eq_true', Bool.or_eq_false_iff, decide_eq_true_eq, and_assoc,
    beq_eq_false_iff_ne, ne_eq, ← Bool.decide_and, decide_eq_false_iff_not]

/-! ### Loops (R188, R189, R191) -/

theorem loopInstructionsTakeEffect {s : State} {i : Instr} {us : List Nat} {s' : State} (h : loopEffect s i = some (us, s'))
    (hu : Free s us) : exec i s = .next (goOn s s') := by
  cases i
  case loop a stm len =>
    obtain ⟨hc, h⟩ := Option.ite_none_left_eq_some.mp h
    obtain ⟨ha, hn⟩ := not_or.mp hc
    cases h
    exact conduct_adv (.inl rfl) (.inl rfl) hu ((if_neg ha).trans (if_neg hn))
  case lbrk =>
    obtain ⟨ha, h⟩ := Option.ite_none_right_eq_some.mp h
    cases h
    exact conduct_adv (.inl rfl) (.inl rfl) hu (if_pos ha)
  case rot | lcrd | lcwr =>
    cases h
    exact conduct_adv (.inl rfl) (.inl rfl) hu rfl
  all_goals cases h

theorem loopInstructionsKeepLoopState : LoopInstructionsKeepLoopState := by
  refine ⟨fun s i us s' => loopInstructionsTakeEffect, fun s a stm len w hu hw => ?_, fun s w hu hw ha => ?_⟩
  · cases hw
    refine ⟨fun ha h0 => ?_, fun ha => ?_⟩
    · exact conduct_goto (.inl rfl) (.inl rfl) hu ((if_neg (by simp [ha])).trans (if_pos h0))
    · exact conduct_flt (.inl rfl) (.inl rfl) hu (if_pos ha)
  · cases hw
    exact conduct_flt (.inl rfl) (.inl rfl) hu (if_neg (by simp [ha]))

/-- The registers of a strand are read from its file alone. -/
theorem xget_congr {t u : Strand} (h : t.x = u.x) (r : Nat) : xget t r = xget u r := by simp only [xget, h]

@[simp] theorem rotateAll_x (t : Strand) : (rotateAll t).x = (rotate t).x := rfl
@[simp] theorem rotateAll_p (t : Strand) : (rotateAll t).p = t.p := by simp [rotateAll, rotate]
@[simp] theorem rotateAll_lc (t : Strand) : (rotateAll t).lc = t.lc := by simp [rotateAll, rotate]
@[simp] theorem rotateAll_loop (t : Strand) : (rotateAll t).loop = t.loop := by simp [rotateAll, rotate]

/-- Rotation moves each of x24 to x30 one on and x31 to x24, and keeps the others. -/
theorem xget_rotate (t : Strand) (r : Nat) :
    xget (rotate t) r = if r = 24 then xget t 31 else if 24 < r ∧ r ≤ 31 then xget t (r - 1) else xget t r := by
  simp only [rotate, xget_xset]
  by_cases h : 24 ≤ r ∧ r ≤ 31
  · obtain ⟨hl, hr⟩ := h
    interval_cases r <;> simp
  · grind

theorem getLsbD_pput (f : BitVec 8) (b : Bool) {p j : Nat} (hj : j < 8) :
    (pput f p b).getLsbD j = if p ≠ 0 ∧ j = p then b else f.getLsbD j := by
  unfold pput
  split
  · simp_all
  · split <;> by_cases h : j = p <;> simp_all  <;> omega

/-- The stage predicates after a shift: p[1] is `q`, each other stage its predecessor, and what is no stage stays. -/
theorem getLsbD_shiftStages (q : Bool) {j : Nat} (hj : j < 8) : ∀ (n : Nat) (p : BitVec 8),
    (shiftStages p q n).getLsbD j = if j = 0 ∨ n < j then p.getLsbD j else if j = 1 then q else p.getLsbD (j - 1)
  | 0, p => by
    rw [shiftStages, if_pos (by omega)]
  | 1, p => by
    rw [shiftStages, getLsbD_pput _ _ hj]
    grind
  | n + 2, p => by
    rw [shiftStages, getLsbD_shiftStages q hj (n + 1), getLsbD_pput _ _ hj, getLsbD_pput _ _ (by omega)]
    grind

theorem getLsbD_clearStages {j : Nat} (hj : j < 8) : ∀ (n : Nat) (p : BitVec 8),
    (clearStages p n).getLsbD j = if j = 0 ∨ n < j then p.getLsbD j else false
  | 0, p => by
    rw [clearStages, if_pos (by omega)]
  | n + 1, p => by
    rw [clearStages, getLsbD_clearStages hj n, getLsbD_pput _ _ hj]
    grind

/-- What a pass end does while LC counts: the loop runs again. -/
theorem passEnd_counts {t : Strand} (h : t.lc ≠ 0) : passEnd t =
    { rotateAll t with p := shiftStages t.p t.loop.q t.loop.stm.toNat, lc := t.lc - 1, loop := { t.loop with q := true }
                       pc := t.loop.beg } := by
  rw [← rotateAll_lc] at h
  exact (if_pos h).trans (by simp only [rotateAll_p, rotateAll_lc, rotateAll_loop])

/-- What it does while EC counts: the pipeline empties. -/
theorem passEnd_drains {t : Strand} (h : t.lc = 0) (he : t.loop.ec ≠ 0) : passEnd t =
    { rotateAll t with p := shiftStages t.p t.loop.q t.loop.stm.toNat
                       loop := { t.loop with ec := t.loop.ec - 1, q := false }, pc := t.loop.beg } := by
  rw [← rotateAll_lc] at h
  rw [← rotateAll_loop] at he
  exact (if_neg (not_not_intro h)).trans ((if_pos he).trans (by simp only [rotateAll_p, rotateAll_loop]))

/-- What the last one does: the loop is over. -/
theorem passEnd_ends {t : Strand} (h : t.lc = 0) (he : t.loop.ec = 0) : passEnd t =
    { rotateAll t with p := clearStages (shiftStages t.p t.loop.q t.loop.stm.toNat) t.loop.stm.toNat
                       loop := { t.loop with act := false }, pc := t.loop.fin } := by
  rw [← rotateAll_lc] at h
  rw [← rotateAll_loop] at he
  exact (if_neg (not_not_intro h)).trans ((if_neg (not_not_intro he)).trans (by simp only [rotateAll_p, rotateAll_loop]))

/-- The stage predicates of a pass end that does not end the loop. -/
theorem passEnd_p {t : Strand} (h : t.lc ≠ 0 ∨ t.loop.ec ≠ 0) :
    (passEnd t).p = shiftStages t.p t.loop.q t.loop.stm.toNat := by
  by_cases hl : t.lc = 0
  · rw [passEnd_drains hl (h.resolve_left (not_not_intro hl))]
  · rw [passEnd_counts hl]

theorem passEnd_x (t : Strand) : (passEnd t).x = (rotate t).x := by
  by_cases hl : t.lc = 0
  · by_cases he : t.loop.ec = 0
    · rw [passEnd_ends hl he, rotateAll_x]
    · rw [passEnd_drains hl he, rotateAll_x]
  · rw [passEnd_counts hl, rotateAll_x]

theorem pget_of_pos (t : Strand) {j : Nat} (h : j ≠ 0) : pget t j = t.p.getLsbD j := by simp [pget, h]

theorem passEndRotatesAndCounts : PassEndRotatesAndCounts := by
  intro t
  have hx (r : Nat) : xget (passEnd t) r = xget (rotate t) r := xget_congr (passEnd_x t) r
  have hs : t.loop.stm.toNat < 8 := t.loop.stm.isLt
  refine ⟨fun r h1 h2 => ?_, ?_, fun r h => ?_, fun h => ?_, fun h he => ?_, fun h he => ?_, fun h h1 => ?_⟩
  · rw [hx, xget_rotate, if_neg (by omega), if_pos ⟨h1, h2⟩]
  · rw [hx, xget_rotate, if_pos rfl]
  · rw [hx, xget_rotate, if_neg (by omega), if_neg (by omega)]
  · rw [passEnd_counts h]
    exact ⟨rfl, rfl, rfl⟩
  · rw [passEnd_drains h he]
    exact ⟨(rotateAll_lc t).trans h, rfl, rfl⟩
  · rw [passEnd_ends h he]
    refine ⟨rfl, rfl, fun j h1 h2 => ?_⟩
    rw [pget_of_pos _ (by omega), getLsbD_clearStages (by omega), if_neg (by omega)]
  · rw [pget_of_pos _ (by omega), passEnd_p h, getLsbD_shiftStages _ (by omega), if_neg (by omega), if_pos rfl]
    refine ⟨rfl, fun j hj hj' => ?_⟩
    rw [pget_of_pos _ (by omega), pget_of_pos _ (by omega), passEnd_p h, getLsbD_shiftStages _ (by omega), if_neg (by omega),
      if_neg (by omega), Nat.add_sub_cancel]

/-- Settles O5: each loop instruction takes its effect or its fault, and a pass end is taken by what its counters say. -/
theorem loopsRunTheirPasses : Obligations.LoopsRunTheirPasses :=
  ⟨loopInstructionsKeepLoopState, passEndRotatesAndCounts⟩

/-! ### Predicates (R192) -/

theorem pget_pset (t : Strand) (b : Bool) {p j : Nat} (hj : j < 8) :
    pget (pset t p b) j = if j = 0 then true else if j = p then b else pget t j := by
  by_cases h0 : j = 0
  · simp [h0]
  · rw [if_neg h0, pget_of_pos _ h0, pget_of_pos _ h0, pset, getLsbD_pput _ _ hj]
    grind

/-- Settles O6: a predicate instruction advances with its condition written, and a predicate is read as it was written. -/
theorem predicateTakesItsCondition : Obligations.PredicateTakesItsCondition := by
  intro s i p us b h hu
  refine ⟨?_, fun j hj => pget_pset _ b hj⟩
  cases i
  case psetEq | psetNe =>
    cases h
    exact conduct_adv (.inl rfl) (.inl rfl) hu (by simp [bne, beq_eq_decide])
  case psetLt | psetLtu =>
    cases h
    exact conduct_adv (.inl rfl) (.inl rfl) hu rfl
  case psetGe =>
    cases h
    rw [← not_slt]
    exact conduct_adv (.inl rfl) (.inl rfl) hu rfl
  case psetGeu =>
    cases h
    rw [← not_ult]
    exact conduct_adv (.inl rfl) (.inl rfl) hu rfl
  case pand | por | pxor | pandn | pmov =>
    cases h
    exact conduct_adv (.inl rfl) (.inl rfl) hu rfl
  all_goals cases h

end Sys2Proof.Machine
end

section
/-! SUPPORT. O4, O7 to O12: memory instructions. A request that reaches its place is performed there at once: what its instruction does
is what the port makes of it (`performAt`), one lemma for each operation. -/

namespace Sys2Proof.Machine

open Sys2Proof Sys2Proof.Statements

/-! ### A request at its place -/

theorem sameBut_of_reaches {s s1 : State} {r : Req} {loc : Loc} (h : Reaches s r s1 loc) : SameBut s s1 := by
  obtain ⟨_, _, _, _, _, ⟨p, hr⟩, _, _⟩ := h
  have hb := sameBut_reach s s.cur r.va r.len r.need false r.hostNo
  rwa [hr] at hb

theorem sameStrands_of_reaches {s s1 : State} {r : Req} {loc : Loc} (h : Reaches s r s1 loc) : SameStrands s s1 :=
  (sameBut_of_reaches h).sameStrands

theorem here_of_reaches {s s1 : State} {r : Req} {loc : Loc} (h : Reaches s r s1 loc) : locTarget loc ≠ 14 := by
  obtain ⟨_, _, _, _, hl, _⟩ := h
  exact hl

theorem atIssue_of_now {s : State} (fl : Flight) (h : s.defer = false) : atIssue s fl = true := by
  unfold atIssue
  split <;> simp [h]

/-- An access to the own scratchpad is performed at its issue. -/
theorem atIssue_of_own {s : State} {fl : Flight} {o : Nat} (h : fl.loc = .scr s.cur o) (hw : ∀ n v, fl.op ≠ .watch n v) :
    atIssue s fl = true := by
  unfold atIssue
  split <;> simp_all

/-- An access that nothing holds back and that is performed at once. -/
theorem sendAt_ok {s u : State} {fl : Flight} {t : W64} (hm : mayPerform s fl = true) (ha : atIssue s fl = true)
    (hp : performAt (takeOrd s) (cc s).cs fl = .ok u t) : sendAt s fl = .goto u t := by
  simp [sendAt, hm, ha, hp]

/-- What a conductor's instruction does once its port has answered. -/
def doneEff (n : Nat) (fl : Flight) : Done → Eff
  | .ok s t => .goto s t
  | .flt s f => .flt s f
  | .tagWait s w => .wait s w
  | .sent s id => .set (holdFlight s n { fl with req := some id })

/-- A request at its place is performed at once; a tag wait begins from the state before it took an order number. -/
theorem sendMem_eq {s s1 : State} {r : Req} {loc : Loc} (w : W32) (h : Reaches s r s1 loc) :
    sendMem w r s = match performAt (takeOrd s1) (cc s).cs (r.flight s1 w loc) with
      | .tagWait _ v => .wait s1 v
      | d => doneEff (cc s).cs (r.flight s1 w loc) d := by
  rw [sendMem_reaches w h]
  have hc := (sameStrands_of_reaches h).ccs
  obtain ⟨_, _, _, hd, _, _, _, hm⟩ := h
  have hm' : mayPerform s1 (r.flight s1 w loc) = true := hm
  unfold sendAt
  simp only [hm', atIssue_of_now _ hd, hc, Bool.and_self, Bool.not_true, Bool.false_eq_true, if_false]
  split <;> simp_all [doneEff]

/-- The request has been performed, and its instruction is done. -/
theorem sendMem_ok {s s1 u : State} {r : Req} {loc : Loc} {w : W32} {t : W64} (h : Reaches s r s1 loc)
    (hp : performAt (takeOrd s1) (cc s).cs (r.flight s1 w loc) = .ok u t) : sendMem w r s = .goto u t := by
  rw [sendMem_eq w h, hp]
  rfl

theorem sendMem_flt {s s1 u : State} {r : Req} {loc : Loc} {w : W32} {f : Flt} (h : Reaches s r s1 loc)
    (hp : performAt (takeOrd s1) (cc s).cs (r.flight s1 w loc) = .flt u f) : sendMem w r s = .flt u f := by
  rw [sendMem_eq w h, hp]
  rfl

theorem sendMem_tagWait {s s1 u : State} {r : Req} {loc : Loc} {w : W32} {v : Wait} (h : Reaches s r s1 loc)
    (hp : performAt (takeOrd s1) (cc s).cs (r.flight s1 w loc) = .tagWait u v) : sendMem w r s = .wait s1 v := by
  rw [sendMem_eq w h, hp]

/-- The word of an access plays no part at its port, but for a table jump's, which names it in its fault. -/
theorem performAt_word {s : State} {n : Nat} {fl : Flight} (w : W32) (hj : fl.op ≠ .jtab) :
    performAt s n { fl with word := w } = performAt s n fl := by
  obtain ⟨op⟩ := fl
  cases op
  case jtab => contradiction
  all_goals rfl

/-- An instruction whose request has been performed goes on at the next word. -/
theorem memInstr_ok {pro : Bool} {w : W32} {uses : List Nat} {r : State → Req} {q : Req} {s s1 u : State} {loc : Loc}
    (hp : pro = true ∨ OnCore s) (hu : Free s uses) (hq : r s = q) (h : Reaches s q s1 loc) (hj : q.op ≠ .jtab)
    (hd : performAt (takeOrd s1) (cc s).cs (q.flight s1 0 loc) = .ok u (nextPc s)) :
    memInstr pro w uses r s = .next (goOn s u) :=
  conduct_goto hp (.inl rfl) hu (hq ▸ sendMem_ok h ((performAt_word w hj).trans hd))

theorem memInstr_tagWait {pro : Bool} {w : W32} {uses : List Nat} {r : State → Req} {q : Req} {s s1 u : State} {loc : Loc}
    {v : Wait} (hp : pro = true ∨ OnCore s) (hu : Free s uses) (hq : r s = q) (h : Reaches s q s1 loc) (hj : q.op ≠ .jtab)
    (hd : performAt (takeOrd s1) (cc s).cs (q.flight s1 0 loc) = .tagWait u v) :
    memInstr pro w uses r s = .next (waits s s1 v) :=
  conduct_wait hp (.inl rfl) hu (hq ▸ sendMem_tagWait h ((performAt_word w hj).trans hd))

/-! ### What the port does (R165, R170 to R182) -/

section
variable {s : State} {n : Nat} {fl : Flight}

theorem deliver_load {z : LWidth} {rd v : Nat} (ho : fl.op = .load z rd) :
    deliver s n fl v = .ok (setReg s n rd (loadValue z v)) ((sn s n).pc + 4) := by
  simp only [deliver, ho]

theorem deliver_atomic {z : ASize} {rd v : Nat} (ho : (∃ op x, fl.op = .amo op z rd x) ∨ ∃ x y, fl.op = .cas z rd x y) :
    deliver s n fl v = .ok (setReg s n rd (amoValue z v)) ((sn s n).pc + 4) := by
  obtain ⟨_, _, ho⟩ | ⟨_, _, ho⟩ := ho <;> simp only [deliver, ho]

variable (hl : locTarget fl.loc ≠ 14)
include hl

/-- A load, or the entry load of jtab, delivers what it reads. -/
theorem performAt_load {s2 : State} (ho : (∃ z rd, fl.op = .load z rd) ∨ fl.op = .jtab) (hr : raceStep s fl = .ok s2)
    (hb : badRead s fl = none) :
    performAt s n fl = deliver (noteAccess s2 fl true false) n fl (readNat s fl.loc fl.len) := by
  unfold performAt
  split
  · contradiction
  · obtain ⟨z, rd, ho⟩ | ho := ho <;> simp only [ho, hr, hb]

theorem performAt_store {s2 : State} {m : Nat} {v : W64} (ho : fl.op = .store m v) (hr : raceStep s fl = .ok s2) :
    performAt s n fl = (let u := noteAccess s2 fl false true
      let t := storeAt u (whoAt u n fl.va) fl.loc (leBytes m v.toNat) true
      .ok (if fl.rel then bumpRelease t t.cur else t) ((sn s n).pc + 4)) := by
  unfold performAt
  split
  · contradiction
  · simp only [ho, hr]

theorem performAt_amo {op : AmoOp} {z : ASize} {rd : Nat} {v : W64} (ho : fl.op = .amo op z rd v) (hb : badRead s fl = none) :
    performAt s n fl = (let u := noteAccess s fl true true
      let r := amoAt u (whoAt u n fl.va) fl.loc op z v.toNat true
      deliver (bumpRelease r.1 r.1.cur) n fl r.2) := by
  unfold performAt
  split
  · contradiction
  · simp only [ho, hb]

theorem performAt_cas {z : ASize} {rd : Nat} {c v : W64} (ho : fl.op = .cas z rd c v) (hb : badRead s fl = none) :
    performAt s n fl = (let u := noteAccess s fl true true
      let r := casAt u (whoAt u n fl.va) fl.loc z c.toNat v.toNat true
      deliver (bumpRelease r.1 r.1.cur) n fl r.2) := by
  unfold performAt
  split
  · contradiction
  · simp only [ho, hb]

end

section
variable {s : State} {n c o : Nat} {fl : Flight} {k : TagKind} {rd : Nat} {v : W64}

theorem performAt_tag_acts (hl : fl.loc = .scr c o) (ho : fl.op = .tag k rd v) (ht : tagCond k (tagFull s c (o / 8)) = true)
    (hb : badRead s fl = none) :
    performAt s n fl = (let u := noteAccess s fl (tagReads k) (tagWrites k)
      let r := tagPerform u (whoAt u n fl.va) c (o / 8) k v false
      .ok (if tagReads k then setReg r.1 n rd r.2 else r.1) ((sn s n).pc + 4)) := by
  simp only [performAt, hl, ho, locTarget, ht, hb, if_true]

theorem performAt_tag_waits (hl : fl.loc = .scr c o) (ho : fl.op = .tag k rd v) (ht : tagCond k (tagFull s c (o / 8)) = false) :
    performAt s n fl = .tagWait s (.tag c (o / 8) (curCyc s + 1024) fl.va) := by
  simp [performAt, hl, ho, locTarget, ht]

theorem performAt_tagrd (hl : fl.loc = .scr c o) (ho : fl.op = .tagrd rd) (hb : badRead s fl = none) :
    performAt s n fl = .ok (setReg (noteAccess s fl true false) n rd (if tagFull s c (o / 8) then 1 else 0)) ((sn s n).pc + 4) := by
  simp only [performAt, hl, ho, locTarget, hb]

end

/-! ### What an access leaves of the strands -/

theorem badRead_takeOrd (s : State) (fl : Flight) : badRead (takeOrd s) fl = badRead s fl := by
  simp only [badRead, uncorrectable_takeOrd]

theorem badRead_of_readable {s : State} {fl : Flight} (h : uncorrectable s fl.loc fl.len = none) : badRead s fl = none := by
  simp [badRead, h]

theorem readNat_takeOrd (s : State) (l : Loc) (n : Nat) : readNat (takeOrd s) l n = leNat (readLoc s l n) :=
  congrArg leNat (readLoc_takeOrd s l n)

/-- A strand that the states on the way to the port keep goes on after its own instruction. -/
theorem nextPc_of_sameStrands {s t : State} (h : SameStrands s t) : (sn t (cc s).cs).pc + 4 = nextPc s := by
  rw [h.sn]
  rfl

/-- The writer of an access as the instruction's own state names it. -/
theorem whoAt_of_sameStrands {s t : State} (h : SameStrands s t) (va : W64) :
    whoAt t (cc s).cs va = { agent := (cc s).cs, core := s.cur, pc := (cst s).pc, va := va } := by
  simp only [whoAt, h.cur, h.sn, cst_eq_sn]

theorem sameStrands_writeLoc (s : State) (l : Loc) (b : List Byte) : SameStrands s (writeLoc s l b) := by
  cases l with
  | scr c o => exact sameStrands_setCore rfl rfl
  | named pa =>
    unfold writeLoc
    dsimp only
    split <;> exact ⟨rfl, fun _ => rfl, fun _ => rfl⟩

theorem sameStrands_portMatch (s : State) (who : Who) (l : List Wrote) (w : Watch) : SameStrands s (portMatch s who l w) := by
  have hmark : SameStrands s (setCore s w.core { getCore s w.core with
      wpStat := (getCore s w.core).wpStat ||| BitVec.ofNat 64 (2 ^ w.n) }) := sameStrands_setCore rfl rfl
  unfold portMatch
  dsimp only
  generalize hu : traceAdd _ _ = u
  have h : SameStrands s u := hu ▸ hmark.trans (sameBut_traceAdd ..).sameStrands
  split
  · exact h.trans ⟨rfl, fun _ => rfl, fun _ => rfl⟩
  · exact h

theorem sameStrands_foldl {α : Type} {f : State → α → State} (hf : ∀ s a, SameStrands s (f s a)) (l : List α) :
    ∀ s, SameStrands s (l.foldl f s) := by
  induction l with
  | nil => exact SameStrands.refl
  | cons a l ih => exact fun s => (hf s a).trans (ih _)

theorem sameStrands_storeAt (s : State) (who : Who) (l : Loc) (b : List Byte) (precise : Bool) :
    SameStrands s (storeAt s who l b precise) :=
  (sameStrands_writeLoc s l b).trans (sameStrands_foldl (fun s w => sameStrands_portMatch s who _ w) _ _)

/-- The order number of an access at its place. -/
theorem sameStrands_ordered {s s1 : State} {r : Req} {loc : Loc} (h : Reaches s r s1 loc) : SameStrands s (takeOrd s1) :=
  (sameStrands_of_reaches h).trans (sameStrands_takeOrd s1)

/-! ### The table jump (R186, R190) -/

/-- The address that an entry of a jump table gives. -/
theorem deliver_jtab {s : State} {n : Nat} {fl : Flight} {v : Nat} (ho : fl.op = .jtab) :
    deliver s n fl v = (let t := (sn s n).pc + (BitVec.ofNat 32 v).signExtend 64 * 4
      if leavesLoop (sn s n) t then .flt s { code := 0x0102, addr := t, detail := fl.word.setWidth 64 } else .ok s t) := by
  simp only [deliver, ho]

theorem tableJumpGoesWhereItsEntrySays : TableJumpGoesWhereItsEntrySays := by
  intro s t a len f w s1 s2 loc hu hlen hw r hr hrace hb dest u
  cases hw
  have hs : SameStrands s u := ((sameStrands_ordered hr).trans (sameStrands_raceStep hrace)).trans (sameStrands_noteAccess ..)
  have hp (w : W32) : performAt (takeOrd s1) (cc s).cs (r.flight s1 w loc)
      = if leavesLoop (cst s) dest then .flt u { code := 0x0102, addr := dest, detail := w.setWidth 64 } else .ok u dest := by
    rw [performAt_load (fl := r.flight s1 w loc) (here_of_reaches hr) (.inr rfl) hrace ((badRead_takeOrd ..).trans (badRead_of_readable hb)),
      deliver_jtab rfl, readNat_takeOrd,
      show sn (noteAccess s2 (r.flight s1 w loc) true false) (cc s).cs = cst s from hs.sn _]
    rfl
  have he (w : W32) : (if len.toNat + 1 ≤ (rx s a).toNat then Eff.jump s (target s f) else sendMem w r s) = sendMem w r s :=
    if_neg (by omega)
  refine ⟨fun hl => ?_, fun hl => ?_⟩
  · exact conduct_goto (.inl rfl) (.inl rfl) hu ((he _).trans (sendMem_ok hr ((hp _).trans (if_neg (by simp [hl])))))
  · rw [show exec (.jtab t a len f) s = _ from conduct_eq (.inl rfl) (.inl rfl) hu,
      show (if len.toNat + 1 ≤ (rx s a).toNat then _ else _) = _ from (he _).trans (sendMem_flt hr ((hp _).trans (if_pos hl)))]

/-- Settles O4: a jump answers with its target, a table jump's is in the entry it loads. -/
theorem jumpsGoToTheirTargets : Obligations.JumpsGoToTheirTargets :=
  ⟨jumpLinksAndGoesToItsTarget, misalignedJumpTargetFaults, tableJumpGoesWhereItsEntrySays, onlyBodyInstructionsLeaveTheirLoop⟩

/-! ### Alignment (R173) -/

theorem lwidthBytes_eq (z : LWidth) : lwidthBytes z = loadBytes z := by
  cases z <;> rfl

/-- A misaligned request faults before any other check. -/
theorem memInstr_misaligned {pro : Bool} {w : W32} {uses : List Nat} {r : State → Req} {s : State}
    (hp : pro = true ∨ OnCore s) (hu : Free s uses) (ha : (r s).align = true) (hm : (r s).va.toNat % (r s).len ≠ 0) :
    memInstr pro w uses r s = .next (faults s { code := 0x0101, addr := (r s).va, detail := BitVec.ofNat 64 (r s).len } w) :=
  conduct_flt hp (.inl rfl) hu (if_pos (by simp [ha, hm]))

/-- A load of the statements' table is the memory instruction of its request. -/
theorem exec_loadOf {s : State} {i : Instr} {d a : Reg} {z : LWidth} {acq plain : Bool} {va : W64}
    (h : loadOf s i = some (d, a, z, acq, plain, va)) :
    ∃ w r, encode i = .cword w ∧ exec i s = memInstr true w [d.toNat, a.toNat] r s ∧ r s = loadReq d z acq plain va := by
  cases i
  case ldB | ldH | ldW | ldD | ldBu | ldHu | ldWu =>
    cases h
    exact ⟨_, _, rfl, rfl, rfl⟩
  case ldS | ldAcq =>
    cases h
    exact ⟨_, _, rfl, rfl, by rw [lwidthBytes_eq]; rfl⟩
  all_goals cases h

theorem exec_storeOf {s : State} {i : Instr} {t a : Reg} {n : Nat} {rel plain : Bool} {va : W64}
    (h : storeOf s i = some (t, a, n, rel, plain, va)) :
    ∃ w r, encode i = .cword w ∧ exec i s = memInstr false w [t.toNat, a.toNat] r s ∧ r s = storeReq n (rx s t) rel plain va := by
  cases i
  case stB | stH | stW | stD | stS | stRel =>
    cases h
    exact ⟨_, _, rfl, rfl, rfl⟩
  all_goals cases h

theorem exec_tagOf {s : State} {i : Instr} {k : TagKind} {d a b : Reg} (h : tagOf i = some (k, d, a, b)) :
    ∃ w r, encode i = .cword w ∧ exec i s = memInstr false w [d.toNat, a.toNat, b.toNat] r s ∧ r s = tagReq s k d a b := by
  cases i
  case ldf | ldt | ste | stf | tclr =>
    cases h
    exact ⟨_, _, rfl, rfl, rfl⟩
  all_goals cases h

theorem exec_atomicOf {s : State} {i : Instr} {op : AmoOp} {z : ASize} {o : AOrder} {d a b : Reg}
    (h : atomicOf i = some (op, z, o, d, a, b)) :
    ∃ w r, encode i = .cword w ∧ exec i s = memInstr false w [d.toNat, a.toNat, b.toNat] r s ∧ r s = amoReq s op z o d a b := by
  cases i
  case amoAdd | amoQadd | amoSmin | amoSmax | amoUmin | amoUmax | amoAnd | amoOr | amoXor | amoSwap =>
    cases h
    exact ⟨_, _, rfl, rfl, rfl⟩
  all_goals cases h

theorem exec_cas (s : State) (d a b : Reg) (z : ASize) (o : AOrder) (sc : Scope) :
    ∃ w r, encode (.cas d a b z o sc) = .cword w ∧ exec (.cas d a b z o sc) s = memInstr false w [d.toNat, a.toNat, b.toNat] r s
      ∧ r s = casReq s z o d a b :=
  ⟨_, _, rfl, rfl, rfl⟩

/-- An instruction of the alignment table, as the memory instruction of its request. -/
theorem exec_alignOf {s : State} {i : Instr} {us : List Nat} {va : W64} {n : Nat} (h : alignOf s i = some (us, va, n)) :
    ∃ pro w r, encode i = .cword w ∧ exec i s = memInstr pro w us r s ∧ (r s).align = true ∧ (r s).va = va ∧ (r s).len = n := by
  unfold alignOf at h
  split at h
  next hi =>
    cases h
    obtain ⟨w, r, hw, he, hr⟩ := exec_loadOf hi
    exact ⟨_, w, r, hw, he, hr ▸ ⟨rfl, rfl, rfl⟩⟩
  next hi _ =>
    cases h
    obtain ⟨w, r, hw, he, hr⟩ := exec_storeOf hi
    exact ⟨_, w, r, hw, he, hr ▸ ⟨rfl, rfl, rfl⟩⟩
  next hi _ _ =>
    cases h
    obtain ⟨w, r, hw, he, hr⟩ := exec_tagOf (s := s) hi
    exact ⟨_, w, r, hw, he, hr ▸ ⟨rfl, rfl, rfl⟩⟩
  next hi _ _ _ =>
    cases h
    obtain ⟨w, r, hw, he, hr⟩ := exec_atomicOf (s := s) hi
    exact ⟨_, w, r, hw, he, hr ▸ ⟨rfl, rfl, rfl⟩⟩
  next =>
    cases h
    exact ⟨_, _, _, rfl, rfl, rfl, rfl, rfl⟩
  next =>
    cases h
    exact ⟨_, _, _, rfl, rfl, rfl, rfl, rfl⟩
  next => cases h

/-- Settles O7: each instruction of the table makes its request, whose alignment is checked first. -/
theorem misalignedAccessFaults : Obligations.MisalignedAccessFaults := by
  intro s i us va n w h hw hu hc hm
  obtain ⟨pro, w', r, hw', he, ha, rfl, rfl⟩ := exec_alignOf h
  cases hw.symm.trans hw'
  rw [he]
  exact memInstr_misaligned (.inr hc) hu ha hm

/-! ### Loads and stores (R170, R171) -/

theorem loadValue_eq (z : LWidth) (v : Nat) : loadValue z v = extended z v := by
  cases z <;> simp [loadValue, extended, ← BitVec.toNat_inj]

/-- Settles O8: a load at its place delivers what it reads. -/
theorem loadWritesTheExtendedBytes : Obligations.LoadWritesTheExtendedBytes := by
  intro s i d a z acq plain va s1 s2 loc h hu hr fl hrace hb
  obtain ⟨w, r, -, he, hq⟩ := exec_loadOf h
  have hs := ((sameStrands_ordered hr).trans (sameStrands_raceStep hrace)).trans (sameStrands_noteAccess s2 fl true false)
  rw [he]
  refine memInstr_ok (.inl rfl) hu hq hr nofun ?_
  rw [performAt_load (here_of_reaches hr) (.inl ⟨z, d.toNat, rfl⟩) hrace ((badRead_takeOrd ..).trans (badRead_of_readable hb)),
    deliver_load rfl, readNat_takeOrd, loadValue_eq, nextPc_of_sameStrands hs]
  rfl

/-- Settles O9: a store at its place writes its bytes there, and a release counts. -/
theorem storeWritesTheLowBytes : Obligations.StoreWritesTheLowBytes := by
  intro s i t a n rel plain va s1 s2 loc h hu hc hr fl hrace who s3
  obtain ⟨w, r, -, he, hq⟩ := exec_storeOf h
  have hs := (sameStrands_ordered hr).trans (sameStrands_raceStep hrace)
  have hn := hs.trans (sameStrands_noteAccess s2 fl false true)
  have h3 : s3.cur = s.cur := (sameStrands_storeAt ..).cur.trans hn.cur
  rw [he]
  refine memInstr_ok (.inr hc) hu hq hr nofun ?_
  rw [performAt_store (here_of_reaches hr) rfl hrace, nextPc_of_sameStrands (sameStrands_ordered hr), ← h3]
  dsimp only
  rw [whoAt_of_sameStrands hn]
  rfl

/-! ### Atomics (R69, R181, R182) -/

theorem amoNew_eq (op : AmoOp) (z : ASize) (old v : Nat) : amoNew op z old v = amoStores op z old v := by
  cases op <;> rfl

/-- Settles O10: an atomic at its place stores its operation's result and delivers the old value. -/
theorem atomicStoresItsResultAndReturnsTheOldValue : Obligations.AtomicStoresItsResultAndReturnsTheOldValue := by
  refine ⟨?_, ?_⟩
  · intro s i op z o d a b s1 loc h hu hc hr hb s2 who old
    obtain ⟨w, r, -, he, hq⟩ := exec_atomicOf (s := s) h
    have hn : SameStrands s s2 := (sameStrands_ordered hr).trans (sameStrands_noteAccess ..)
    have hs := hn.trans (sameStrands_storeAt s2 who loc (leBytes (asizeBytes z) (amoStores op z old (rx s b).toNat)) true)
    rw [he, ← hs.cur]
    refine memInstr_ok (.inr hc) hu hq hr nofun ?_
    rw [performAt_amo (here_of_reaches hr) rfl ((badRead_takeOrd ..).trans (badRead_of_readable hb)),
      ← nextPc_of_sameStrands (hs.trans (sameStrands_bumpRelease _ _))]
    simp only [amoAt, amoNew_eq]
    rw [whoAt_of_sameStrands hn, deliver_atomic (.inl ⟨op, _, rfl⟩)]
    rfl
  · intro s z o sc d a b s1 loc hu hc hr hb s2 who old m
    obtain ⟨w, r, -, he, hq⟩ := exec_cas s d a b z o sc
    have hn : SameStrands s s2 := (sameStrands_ordered hr).trans (sameStrands_noteAccess ..)
    have hs := hn.trans (sameStrands_storeAt s2 who loc
      (leBytes (asizeBytes z) (if old = (rx s d).toNat % m then (rx s b).toNat % m else old)) true)
    rw [he, ← hs.cur]
    refine memInstr_ok (.inr hc) hu hq hr nofun ?_
    rw [performAt_cas (here_of_reaches hr) rfl ((badRead_takeOrd ..).trans (badRead_of_readable hb)),
      ← nextPc_of_sameStrands (hs.trans (sameStrands_bumpRelease _ _))]
    simp only [casAt]
    rw [whoAt_of_sameStrands hn, deliver_atomic (.inr ⟨_, _, rfl⟩)]
    rfl

/-! ### Tagged operations (R66, R177 to R179) -/

theorem tagFull_takeOrd (s : State) (c word : Nat) : tagFull (takeOrd s) c word = tagFull s c word := by
  simp only [tagFull, takeOrd, setCC, getCore_setCore]
  split
  · next h => subst h; rfl
  · rfl

theorem curCyc_takeOrd (s : State) : curCyc (takeOrd s) = curCyc s := curCyc_setCC_of_off rfl

theorem badRead_tag {s : State} {fl : Flight} {k : TagKind} {rd : Nat} {v : W64} (ho : fl.op = .tag k rd v)
    (h : tagReads k = true → uncorrectable s fl.loc fl.len = none) : badRead s fl = none := by
  unfold badRead
  rw [ho]
  split
  · next hr => rw [h hr]; rfl
  · rfl

theorem taggedOperationActsOrWaits : TaggedOperationActsOrWaits := by
  refine ⟨?_, ?_⟩
  · intro s i k d a b s1 c o h hu hc hr fl who
    obtain ⟨w, r, -, he, hq⟩ := exec_tagOf (s := s) h
    have ho := sameStrands_ordered hr
    have hn := ho.trans (sameStrands_noteAccess (takeOrd s1) fl (tagReads k) (tagWrites k))
    refine ⟨?_, fun ht => ?_⟩
    · intro ht hb u
      have hp : performAt (takeOrd s1) (cc s).cs fl
          = .ok (if tagReads k then setReg u.1 (cc s).cs d.toNat u.2 else u.1) (nextPc s) := by
        rw [performAt_tag_acts (fl := fl) rfl rfl ((congrArg _ (tagFull_takeOrd ..)).trans ht)
            ((badRead_takeOrd ..).trans (badRead_tag (fl := fl) rfl hb)), nextPc_of_sameStrands ho]
        dsimp only
        rw [whoAt_of_sameStrands hn]
        rfl
      rw [he]
      refine ⟨fun hk => ?_, fun hk => ?_⟩
      · rw [hk] at hp
        exact memInstr_ok (.inr hc) hu hq hr nofun hp
      · rw [hk] at hp
        exact memInstr_ok (.inr hc) hu hq hr nofun hp
    · rw [he]
      refine memInstr_tagWait (.inr hc) hu hq hr nofun (u := takeOrd s1) ?_
      rw [performAt_tag_waits rfl rfl ((congrArg _ (tagFull_takeOrd ..)).trans ht), curCyc_takeOrd, (sameBut_of_reaches hr).curCyc]
      rfl
  · intro s d a s1 c o hu hc r hr hb
    have ho := sameStrands_ordered hr
    refine memInstr_ok (.inr hc) hu rfl hr nofun ?_
    rw [performAt_tagrd rfl rfl ((badRead_takeOrd ..).trans (badRead_of_readable hb)), nextPc_of_sameStrands ho, tagFull_takeOrd]

theorem tagWaitTimesOut : TagWaitTimesOut := by
  intro s b c w limit va hr hf hw hl
  change execTaggedWaitTimeout b s = _
  simp only [execTaggedWaitTimeout, hr, hf, hw, if_pos hl]

/-- Settles O11: a tagged operation is performed or waits as its tag says, and its wait ends with its limit. -/
theorem taggedOperationsActWaitOrTimeOut : Obligations.TaggedOperationsActWaitOrTimeOut :=
  ⟨taggedOperationActsOrWaits, tagWaitTimesOut⟩

/-! ### Fences and accesses in flight (R165, R175, R176, R180) -/

theorem exec_fenceOf {s : State} {i : Instr} {acq rel : Bool} (h : fenceOf i = some (acq, rel)) :
    ∃ w, exec i s = fenceForm w acq rel s := by
  cases i
  case fenceAcq | fenceRel | fenceFull =>
    cases h
    exact ⟨_, rfl⟩
  all_goals cases h

theorem mayPerform_fence {s : State} {fl : Flight} (ho : fl.op = .fence) (hf : flightsBefore (cc s) fl.ord = []) :
    mayPerform s fl = true := by
  simp [mayPerform, hf, ho]

theorem performAt_fence {s : State} {n c o : Nat} {fl : Flight} (hl : fl.loc = .scr c o) (ho : fl.op = .fence) :
    performAt s n fl = .ok (if fl.rel then bumpRelease s s.cur else s) ((sn s n).pc + 4) := by
  simp only [performAt, hl, ho, locTarget]

theorem fenceCompletesWhenNothingIsInFlight : FenceCompletesWhenNothingIsInFlight := by
  intro s i acq rel h hu hc hf
  obtain ⟨w, he⟩ := exec_fenceOf (s := s) h
  rw [he]
  refine conduct_goto (.inr hc) (.inl rfl) hu
    (sendAt_ok (mayPerform_fence rfl hf) (atIssue_of_own (o := 0) rfl fun _ _ => by simp) (performAt_fence (c := s.cur) (o := 0) rfl rfl) |>.trans ?_)
  rw [nextPc_of_sameStrands (sameStrands_takeOrd s)]
  rfl

/-- An access in flight that nothing holds back, whose place is on this device, is performed at its port. -/
theorem exec_memoryAccessPerformed {s u : State} {b : BitVec 2} {fl : Flight} {t : W64} (hf : (sn s b.toNat).flight = some fl)
    (hr : fl.req = none) (hw : fl.walk = none) (hret : retiredLoc s fl.loc = false) (hm : mayPerform s fl = true)
    (hp : performAt s b.toNat fl = .ok u t) :
    exec (.memoryAccessPerformed b) s = .next (finishIssue u b.toNat t false) := by
  change execMemoryAccessPerformed b s = _
  simp [execMemoryAccessPerformed, hf, hr, hw, hret, hm, hp]

theorem flightIsPerformedAtItsPort : FlightIsPerformedAtItsPort := by
  intro s b fl z d s2 hf ho hr hw hret hm hl hrace hb
  refine exec_memoryAccessPerformed hf hr hw hret hm ?_
  rw [performAt_load hl (.inl ⟨z, d, ho⟩) hrace hb, deliver_load ho,
    ((sameStrands_raceStep hrace).trans (sameStrands_noteAccess s2 fl true false)).sn]
  rfl

theorem holdsBack_iff {g fl : Flight} : g.holdsBack fl = true ↔
    g.acq = true ∨ (g.op = .fence ∧ g.rel = true ∧ fl.write = true)
      ∨ (g.op.touches = true ∧ fl.op.touches = true ∧ locMeets g.loc g.len fl.loc fl.len = true)
      ∨ (g.strong = true ∧ fl.strong = true) := by
  simp only [Flight.holdsBack, Bool.or_eq_true, Bool.and_eq_true, beq_iff_eq, or_assoc, and_assoc]

/-- An earlier access that orders an access keeps it from being performed. -/
theorem mayPerform_of_held {s : State} {fl g : Flight} (hg : g ∈ flightsBefore (cc s) fl.ord)
    (h : fl.rel = true ∨ g.holdsBack fl = true) : mayPerform s fl = false := by
  rw [← Bool.not_eq_true]
  intro hm
  simp only [mayPerform, Bool.and_eq_true, Bool.or_eq_true, Bool.not_eq_true', List.isEmpty_iff, List.any_eq_false] at hm
  obtain ⟨⟨hrel, hb⟩, -⟩ := hm
  obtain h | h := h
  · simp [hrel.resolve_left (by simp [h])] at hg
  · exact hb g hg h

theorem accessesInFlightKeepTheirOrder : AccessesInFlightKeepTheirOrder := by
  intro s b fl g hf hg h
  have hm : mayPerform s fl = false := mayPerform_of_held hg (by rw [holdsBack_iff]; tauto)
  change execMemoryAccessPerformed b s = _
  simp [execMemoryAccessPerformed, hf, hm]

/-! ### An access that awaits a walk (R165, R386) -/

/-- Some outstanding request asks for the page of an address. -/
def AsksFor (s : State) (asn : Nat) (va : W64) : Prop := ∃ q ∈ s.mm.walks ++ s.mm.walking, q.serves asn va = true

theorem serves_trans {v w : WalkReq} {asn : Nat} {va : W64} (hv : v.serves w.asn w.va = true) (hw : w.serves asn va = true) :
    v.serves asn va = true := by
  simp only [WalkReq.serves, Bool.and_eq_true, decide_eq_true_eq, beq_iff_eq] at *
  exact ⟨hv.1.trans hw.1, hv.2.trans hw.2⟩

theorem startWalk_eq (s : State) (p : Nat) : ∃ m, startWalk s p = { s with mm := m } := by
  unfold startWalk
  split
  · exact ⟨s.mm, rfl⟩
  · dsimp only
    split
    · exact ⟨_, rfl⟩
    · split
      · exact ⟨_, rfl⟩
      · exact ⟨s.mm, rfl⟩

/-- A page asked for stays asked for when a pool takes a request: it moves to the walks in progress, or joins one. -/
theorem asksFor_startWalk {s : State} {asn : Nat} {va : W64} (h : AsksFor s asn va) (p : Nat) : AsksFor (startWalk s p) asn va := by
  obtain ⟨q, hq, hs⟩ := h
  unfold startWalk
  split
  · exact ⟨q, hq, hs⟩
  next w _ =>
    dsimp only
    have hkeep : q ∈ s.mm.walks → q = w ∨ q ∈ s.mm.walks.erase w := fun hm =>
      (eq_or_ne q w).imp_right fun hne => (List.mem_erase_of_ne hne).mpr hm
    split
    next hj =>
      obtain ⟨v, hv, hvw⟩ := List.any_eq_true.mp hj
      have hwalking {u : WalkReq} (hu : u ∈ s.mm.walking) (hus : u.serves asn va = true) :
          ∃ q ∈ s.mm.walking.map fun v => if v.serves w.asn w.va then v.join w.waiters else v, q.serves asn va = true := by
        refine ⟨_, List.mem_map_of_mem hu, ?_⟩
        split
        · exact hus
        · exact hus
      rcases List.mem_append.mp hq with hm | hm
      · rcases hkeep hm with rfl | he
        · obtain ⟨u, hu, hus⟩ := hwalking hv (serves_trans hvw hs)
          exact ⟨u, List.mem_append_right _ hu, hus⟩
        · exact ⟨q, List.mem_append_left _ he, hs⟩
      · obtain ⟨u, hu, hus⟩ := hwalking hm hs
        exact ⟨u, List.mem_append_right _ hu, hus⟩
    next =>
      split
      · refine ⟨q, ?_, hs⟩
        rcases List.mem_append.mp hq with hm | hm
        · rcases hkeep hm with rfl | he
          · simp
          · exact List.mem_append_left _ he
        · exact List.mem_append_right _ (List.mem_append_left _ hm)
      · exact ⟨q, hq, hs⟩

/-- What every pool's turn keeps is kept when they take what they can. -/
theorem startWalks_induct {P : State → Prop} (hP : ∀ s p, P s → P (startWalk s p)) {s : State} (h : P s) : P (startWalks s) := by
  have hpools (l : List Nat) : ∀ t, P t → P (l.foldl startWalk t) := by
    induction l with
    | nil => exact fun _ ht => ht
    | cons p l ih => exact fun t ht => ih _ (hP t p ht)
  unfold startWalks
  generalize List.range s.mm.walks.length = l
  suffices hall : ∀ t, P t → P (l.foldl (fun s _ => (List.range s.mm.mode).foldl startWalk s) t) from hall s h
  induction l with
  | nil => exact fun _ ht => ht
  | cons _ l ih => exact fun t ht => ih _ (hpools _ t ht)

theorem startWalks_eq (s : State) : ∃ m, startWalks s = { s with mm := m } := by
  refine startWalks_induct (P := fun t => ∃ m, t = { s with mm := m }) (fun t p ht => ?_) ⟨s.mm, rfl⟩
  obtain ⟨m, rfl⟩ := ht
  exact startWalk_eq _ p

theorem asksFor_startWalks {s : State} {asn : Nat} {va : W64} (h : AsksFor s asn va) : AsksFor (startWalks s) asn va :=
  startWalks_induct (P := fun t => AsksFor t asn va) (fun _ p ht => asksFor_startWalk ht p) h

theorem requestWalk_eq (s : State) (n : Nat) (va : W64) : ∃ m, requestWalk s n va = { s with mm := m } := by
  unfold requestWalk
  dsimp only
  split
  · exact ⟨_, rfl⟩
  · split
    · exact ⟨_, rfl⟩
    · exact startWalks_eq _

/-- A miss's request is outstanding, or stands behind the 64 of its cluster. -/
theorem asksFor_requestWalk (s : State) (n : Nat) (va : W64) :
    AsksFor (requestWalk s n va) (curTask s).asn va ∨ (s.cur, n) ∈ (requestWalk s n va).mm.late := by
  unfold requestWalk
  dsimp only
  split
  next h =>
    obtain ⟨w, hw, hmine⟩ := List.any_eq_true.mp h
    refine .inl ⟨w.join [(s.cur, n)], ?_, (Bool.and_eq_true _ _ ▸ hmine).2⟩
    rw [← List.map_append]
    exact List.mem_map.mpr ⟨w, hw, if_pos hmine⟩
  next =>
    split
    · right
      dsimp only
      split
      next hc => exact List.contains_iff_mem.mp hc
      next => simp
    · refine .inl (asksFor_startWalks ⟨_, List.mem_append_left _ (List.mem_append_right _ (List.mem_singleton_self _)), ?_⟩)
      simp [WalkReq.serves, curTask]

/-- An access kept in flight that is no emission: its strand goes on, the issue slot is taken. -/
theorem holdFlight_eq {s : State} {n : Nat} {fl : Flight} (h : ∀ q x, fl.op ≠ .emitt q x) :
    holdFlight s n fl = setCC s { setStrand (cc s) n { sn s n with run := .ready, flight := some fl, block := (sn s n).block + 1 } with
      slotAt := curCyc s + 1 } := by
  unfold holdFlight
  dsimp only
  split
  next ho => exact absurd ho (h _ _)
  next => rfl

theorem getStrand_holdFlight {s : State} {n : Nat} {fl : Flight} (h : ∀ q x, fl.op ≠ .emitt q x) :
    getStrand (cc (holdFlight s n fl)) n = { sn s n with run := .ready, flight := some fl, block := (sn s n).block + 1 } := by
  rw [holdFlight_eq h, cc_setCC]
  exact getStrand_setStrand_self ..

theorem holdFlight_core {s : State} {n : Nat} {fl : Flight} (h : ∀ q x, fl.op ≠ .emitt q x) :
    (cc (holdFlight s n fl)).cs = (cc s).cs ∧ (cc (holdFlight s n fl)).ord = (cc s).ord
      ∧ (cc (holdFlight s n fl)).slotAt = curCyc s + 1 ∧ (holdFlight s n fl).mem = s.mem ∧ (holdFlight s n fl).mm = s.mm := by
  rw [holdFlight_eq h, cc_setCC]
  exact ⟨rfl, rfl, rfl, rfl, rfl⟩

/-- What an instruction leaves whose access awaits its walk. -/
theorem sendWalk_spec {s : State} {r : Req} (w : W32) (hop : ∀ q x, r.op ≠ .emitt q x) :
    let t := sendWalk w r s
    (cst t).flight = some { r.flight s w (walkLoc s r) with walk := some r }
      ∧ (cc t).ord = (cc s).ord + 1 ∧ (cc t).slotAt = curCyc s + 1 ∧ (cst t).pc = (cst s).pc ∧ (cst t).x = (cst s).x ∧ t.mem = s.mem
      ∧ t.mm = (requestWalk s (cc s).cs r.va).mm := by
  obtain ⟨m, hm⟩ := requestWalk_eq s (cc s).cs r.va
  have hq : SameStrands s (requestWalk s (cc s).cs r.va) := hm ▸ ⟨rfl, fun _ => rfl, fun _ => rfl⟩
  have hu := hq.trans (sameStrands_takeOrd _)
  have hord : (cc (takeOrd (requestWalk s (cc s).cs r.va))).ord = (cc s).ord + 1 := by
    rw [hm]
    exact congrArg Core.ord (cc_setCC ..)
  have hcyc : curCyc (takeOrd (requestWalk s (cc s).cs r.va)) = curCyc s := by
    rw [curCyc_takeOrd, hm]
    rfl
  have hmem : (requestWalk s (cc s).cs r.va).mem = s.mem := by rw [hm]
  obtain ⟨hcs, ho, hslot, hmem', hmm⟩ := holdFlight_core (s := takeOrd (requestWalk s (cc s).cs r.va)) (n := (cc s).cs)
    (fl := { r.flight s w (walkLoc s r) with walk := some r }) hop
  have ht := getStrand_holdFlight (s := takeOrd (requestWalk s (cc s).cs r.va)) (n := (cc s).cs)
    (fl := { r.flight s w (walkLoc s r) with walk := some r }) hop
  rw [hu.sn, cst_eq_sn] at ht
  intro t
  have hc : cst t = getStrand (cc t) (cc s).cs := congrArg (getStrand (cc t)) (hcs.trans hu.ccs)
  refine ⟨?_, ho.trans hord, hslot.trans (congrArg (· + 1) hcyc), ?_, ?_, hmem'.trans hmem, hmm⟩
  all_goals rw [hc, show getStrand (cc t) (cc s).cs = _ from ht]

/-- A request that misses both TLBs and whose walk is left to a walker is sent. -/
theorem memInstr_sendWalk {pro : Bool} {w : W32} {uses : List Nat} {r : State → Req} {s : State} (hp : pro = true ∨ OnCore s)
    (hu : Free s uses) (hal : (r s).va.toNat % (r s).len = 0) (hk : asksWalk s s.cur (r s).va = true) :
    memInstr pro w uses r s = .next (sendWalk w (r s) s) :=
  conduct_set hp (.inl rfl) hu ((if_neg (by simp [hal])).trans (if_pos hk))

theorem accessAwaitingAWalkIsInFlight : AccessAwaitingAWalkIsInFlight := by
  intro s i us r w _ hu hi hal hk
  obtain ⟨pro, w', rr, he, hp, hq, hop⟩ : ∃ pro w' rr, exec i s = memInstr pro w' us rr s ∧ (pro = true ∨ OnCore s) ∧ rr s = r
      ∧ ∀ q x, r.op ≠ .emitt q x := by
    obtain ⟨d, a, z, acq, plain, va, h, rfl, rfl⟩ | ⟨hc, x, a, n, rel, plain, va, h, rfl, rfl⟩ := hi
    · obtain ⟨w', rr, -, he, hq⟩ := exec_loadOf h
      exact ⟨true, w', rr, he, .inl rfl, hq, fun _ _ => nofun⟩
    · obtain ⟨w', rr, -, he, hq⟩ := exec_storeOf h
      exact ⟨false, w', rr, he, .inr hc, hq, fun _ _ => nofun⟩
  subst hq
  obtain ⟨hfl, hord, hslot, hpc, hx, hmem, hmm⟩ := sendWalk_spec (s := s) (r := rr s) w' hop
  refine ⟨sendWalk w' (rr s) s, _, he.trans (memInstr_sendWalk hp hu hal hk), hfl, rfl, rfl, rfl, rfl, hord, hslot, hpc, hx, hmem, ?_⟩
  rw [hmm]
  exact asksFor_requestWalk s (cc s).cs (rr s).va

/-- Settles O12: a fence completes with nothing in flight, and an access in flight is performed in its order, or awaits its walk. -/
theorem fencesAndFlightsComplete : Obligations.FencesAndFlightsComplete :=
  ⟨fenceCompletesWhenNothingIsInFlight, flightIsPerformedAtItsPort, accessesInFlightKeepTheirOrder, accessAwaitingAWalkIsInFlight⟩

end Sys2Proof.Machine
end

section
/-! SUPPORT. O14, O15, O18, O20, O21, O22: emissions, tokens and markers, strands, sections and control registers. -/

namespace Sys2Proof.Machine

open Sys2Proof Sys2Proof.Statements

/-! ### Emissions (R28, R197 to R200) -/

theorem deliver_wtmpl {s : State} {n d x v : Nat} {fl : Flight} (ho : fl.op = .wtmpl d x) : deliver s n fl v
    = .ok (setSn s n (wset (sn s n) d { val := BitVec.ofNat 64 v, origin := BitVec.ofNat 16 x })) ((sn s n).pc + 4) := by
  simp only [deliver, ho]

theorem deliver_emitt {s : State} {n q x v : Nat} {fl : Flight} (ho : fl.op = .emitt q x) : deliver s n fl v
    = .ok (appendWord s n q (BitVec.ofNat 64 v) (BitVec.ofNat 16 x)) ((sn s n).pc + 4) := by
  simp only [deliver, ho]

/-- A template load, of wtmpl or emitt, delivers what it reads. -/
theorem performAt_template {s : State} {n : Nat} {fl : Flight} (hl : locTarget fl.loc ≠ 14)
    (ho : (∃ d x, fl.op = .wtmpl d x) ∨ ∃ q x, fl.op = .emitt q x) (hb : badRead s fl = none) :
    performAt s n fl = deliver (noteAccess s fl true false) n fl (readNat s fl.loc fl.len) := by
  unfold performAt
  split
  · contradiction
  · obtain ⟨d, x, ho⟩ | ⟨q, x, ho⟩ := ho <;> simp only [ho, hb]

/-- A template request at its place reads the template. -/
theorem performAt_templateReq {s s1 : State} {op : MemOp} {idx : W16} {loc : Loc}
    (ho : (∃ d x, op = .wtmpl d x) ∨ ∃ q x, op = .emitt q x) (h : Reaches s (templateReq s op idx) s1 loc)
    (hb : uncorrectable s1 loc 8 = none) (w : W32) :
    let fl := (templateReq s op idx).flight s1 0 loc
    performAt (takeOrd s1) (cc s).cs ((templateReq s op idx).flight s1 w loc)
      = deliver (noteAccess (takeOrd s1) fl true false) (cc s).cs fl (leNat (readLoc s1 loc 8)) := by
  intro fl
  have hj : fl.op ≠ .jtab := by obtain ⟨d, x, rfl⟩ | ⟨q, x, rfl⟩ := ho <;> exact nofun
  rw [show (templateReq s op idx).flight s1 w loc = { fl with word := w } from rfl, performAt_word w hj,
    performAt_template (here_of_reaches h) ho ((badRead_takeOrd ..).trans (badRead_of_readable hb)), readNat_takeOrd]
  rfl

theorem sameStrands_templateRead {s s1 : State} {r : Req} {loc : Loc} (h : Reaches s r s1 loc) (fl : Flight) :
    SameStrands s (noteAccess (takeOrd s1) fl true false) :=
  (sameStrands_ordered h).trans (sameStrands_noteAccess ..)

theorem ofNat_index (idx : W16) : BitVec.ofNat 16 idx.toNat = idx := by simp

theorem pastPool_iff {s : State} {idx : W16} : pastPool s idx = true ↔ (curTask s).kernel.poolCount ≤ idx.toNat := by
  simp [pastPool]

theorem templateLoadsFromThePool : TemplateLoadsFromThePool := by
  intro s d idx w hu hc hw
  cases hw
  refine ⟨fun h => conduct_flt (.inr hc) (.inl rfl) hu (if_pos (pastPool_iff.mpr h)), ?_⟩
  intro h s1 loc r hr hb
  have hs := sameStrands_templateRead hr (r.flight s1 0 loc)
  refine conduct_goto (.inr hc) (.inl rfl) hu
    ((if_neg (by simpa [pastPool] using h)).trans (sendMem_ok hr ((performAt_templateReq (.inl ⟨_, _, rfl⟩) hr hb _).trans ?_)))
  rw [deliver_wtmpl rfl, nextPc_of_sameStrands hs, ofNat_index, ← hs.ccs]
  rfl

theorem emissionAppendsOrWaits : EmissionAppendsOrWaits := by
  refine ⟨fun s q p ws hu hc hf => ?_, fun s q p idx hu hc hf hi => ?_, fun s q p idx w hu hc hf hw h => ?_⟩
  · refine ⟨fun hp => conduct_adv (.inr hc) (.inr hf) hu (if_pos (by simp [hp])), fun hp hs => ⟨fun hm => ?_, fun hm => ?_⟩,
      fun hp hs => ?_⟩
    · exact conduct_adv (.inr hc) (.inr hf) hu (by simp [hp, emitWait, hs, hm])
    · exact conduct_wait (.inr hc) (.inr hf) hu (by simp [hp, emitWait, hs, hm])
    · exact conduct_wait (.inr hc) (.inr hf) hu (by simp [hp, emitWait, hs])
  · have hi : pastPool s idx = false := by simpa [pastPool] using hi
    refine ⟨fun hp => conduct_adv (.inr hc) (.inr hf) hu (by simp [hp, hi]), fun hp hs => ⟨fun hm => ?_, fun hm => ?_⟩,
      fun hp hs => ?_⟩
    · intro s1 loc r hr hb
      have hn := sameStrands_templateRead hr (r.flight s1 0 loc)
      refine conduct_goto (.inr hc) (.inr hf) hu (Eq.trans (by simp only [hi, hp, emitWait, hs, hm]; rfl)
        (sendMem_ok hr ((performAt_templateReq (.inr ⟨_, _, rfl⟩) hr hb _).trans ?_)))
      rw [deliver_emitt rfl, nextPc_of_sameStrands hn, ofNat_index]
    · exact conduct_wait (.inr hc) (.inr hf) hu (by simp [hi, hp, emitWait, hs, hm])
    · exact conduct_wait (.inr hc) (.inr hf) hu (by simp [hi, hp, emitWait, hs])
  · cases hw
    exact conduct_flt (.inr hc) (.inr hf) hu (if_pos (pastPool_iff.mpr h))

theorem getEng_dropWaiter_ne (k : Core) {q p : Nat} (n : Nat) (h : p ≠ q) : getEng (dropWaiter k q n) p = getEng k p :=
  getEng_setEng_ne _ _ h

theorem emittedWordCarriesItsProvenance : EmittedWordCarriesItsProvenance := by
  intro s n q bits tix t
  refine ⟨{
    bits := bits, strand := n, pc := (sn s n).pc, eseq := (sn s n).eseq + 1, tmpl := tix, seq := (cc s).ord
    at_ := curCyc s, snaps := snapshot (cc s) q bits }, ?_, rfl, rfl, rfl, rfl, rfl, rfl, rfl, ?_, ?_, rfl, fun p hp => ?_⟩
  · simp only [t, appendWord, cc_setCC, getEng_setStrand, getEng_setEng_self]
    simp only [dropWaiter, getEng_setEng_self]
  · simp only [t, appendWord, sn, cc_setCC, getStrand_setStrand_self]
  · simp only [t, appendWord, cc_setCC]
    rfl
  · simp only [t, appendWord, cc_setCC, getEng_setStrand]
    exact (getEng_setEng_ne _ _ hp).trans (getEng_dropWaiter_ne _ _ hp)

/-- Settles O14: a template is read as a load is, and the word appended is the one of the strand's pc and sequence number. -/
theorem emissionsCarryWordAndProvenance : Obligations.EmissionsCarryWordAndProvenance :=
  ⟨templateLoadsFromThePool, emissionAppendsOrWaits, emittedWordCarriesItsProvenance⟩

/-! ### Tokens and markers of the conductor (R35, R40, R206, R207) -/

theorem conductorTokensMoveOrWait : ConductorTokensMoveOrWait := by
  intro s q hu hc hf
  refine ⟨fun hr ho => ?_, fun hr => ?_, fun t ts ht => ?_, fun ht => ?_⟩
  · exact conduct_adv (.inr hc) (.inr hf) hu (by simp [hr, ho])
  · exact conduct_wait (.inr hc) (.inr hf) hu (if_pos hr)
  · exact conduct_adv (.inr hc) (.inr hf) hu (by simp [ht])
  · exact conduct_wait (.inr hc) (.inr hf) hu (by simp [ht])

theorem addWaiter_q (k : Core) (q n p : Nat) : (getEng (addWaiter k q n) p).q = (getEng k p).q := by
  unfold addWaiter
  dsimp only
  split
  · rfl
  · by_cases hp : p = q
    · subst hp
      rw [getEng_setEng_self]
    · rw [getEng_setEng_ne _ _ hp]

theorem addWaiters_q (p : Nat) (l : List Nat) (k : Core) :
    (getEng (l.foldl (fun k q => addWaiter k q k.cs) k) p).q = (getEng k p).q := by
  induction l generalizing k with
  | nil => rfl
  | cons q l ih => exact (ih _).trans (addWaiter_q k q k.cs p)

theorem markersArePlacedTogetherAndJoined : MarkersArePlacedTogetherAndJoined := by
  intro s qs hu hc hf
  refine ⟨fun h => ?_, fun h => ?_, fun h => ?_, fun h => ?_⟩
  · exact conduct_adv (.inr hc) (.inr hf) hu (if_pos (by simpa using h))
  · refine ⟨_, _, conduct_wait (.inr hc) (.inr hf) hu (if_neg (by simpa using h)), fun q => ?_⟩
    rw [cc_setCC]
    exact addWaiters_q ..
  · exact conduct_adv (.inr hc) (.inr hf) hu (if_neg (by simpa using h))
  · exact conduct_wait (.inr hc) (.inr hf) hu (if_pos (by simpa using h))

/-- Settles O15: each of the four instructions asks one question of the links or queues. -/
theorem tokensAndMarkersMoveOrWait : Obligations.TokensAndMarkersMoveOrWait :=
  ⟨conductorTokensMoveOrWait, markersArePlacedTogetherAndJoined⟩

/-! ### Strands (R41, R211, R212) -/

/-- Registers past a list that is put stay. -/
theorem xget_putRegs_past (l : List W64) : ∀ (t : Strand) (r q : Nat), r + l.length ≤ q → xget (putRegs t r l) q = xget t q := by
  induction l with
  | nil => exact fun _ _ _ _ => rfl
  | cons v l ih =>
    intro t r q hq
    rw [List.length_cons] at hq
    exact (ih _ _ _ (by omega)).trans (by rw [xget_xset, if_neg (by omega)])

theorem xget_spawned_in {old by_ : Strand} {pc : W64} {r : Nat} (h1 : 1 ≤ r) (h2 : r ≤ 10) :
    xget (spawned old by_ pc) r = xget by_ r := by
  obtain ⟨i, rfl⟩ : ∃ i, r = 1 + i := ⟨r - 1, by omega⟩
  refine (xget_putRegs _ _ 1 (by decide)).1 i _ ?_
  rw [List.getElem?_map, List.getElem?_range (by omega), Nat.add_comm 1 i]
  rfl

theorem xget_spawned_past {old by_ : Strand} {pc : W64} {r : Nat} (h : 10 < r) : xget (spawned old by_ pc) r = 0 := by
  refine (xget_putRegs_past _ _ _ _ (show 1 + 10 ≤ r by omega)).trans ?_
  rw [xget, if_neg (by omega)]
  rfl

theorem spawnStartsAStrand : SpawnStartsAStrand := by
  intro s k a w hu hc hf hw
  cases hw
  refine ⟨fun h => conduct_flt (.inr hc) (.inr hf) hu (if_pos (by simpa using h)), fun hl hs => ?_⟩
  refine ⟨fun hm => ?_, fun hm => ⟨_, conduct_adv (.inr hc) (.inr hf) hu (by simp [hl, hs, hm]; rfl), ?_⟩⟩
  · exact conduct_flt (.inr hc) (.inr hf) hu (by simp [hl, hs, hm])
  · refine ⟨rfl, rfl, rfl, rfl, rfl, rfl, rfl, fun r h1 h2 => ?_, fun r h => ?_⟩
    · exact xget_spawned_in h1 h2
    · exact xget_spawned_past h

theorem exitEndsADrainedStrand : ExitEndsADrainedStrand := by
  intro s hu hc hf
  have hu' : Free s (if isPrologue s.cur then verdictUses (cst s) else []) := by simpa [hc] using hu
  refine ⟨fun h => ?_, fun h hw => ?_⟩
  · exact conduct_wait (.inl rfl) (.inr hf) hu' (by simp [hc, h])
  · intro t
    refine ⟨conduct_set (.inl rfl) (.inr hf) hu' (by simp only [hc, h]; rfl), ?_, ?_, fun n hn => ?_⟩
    · simp only [t, stopStrand, closeWait_none (show (sn s (cc s).cs).flag = none from hw)]
      rw [getCore_setCC_cur]
      exact congrArg Strand.run (getStrand_setStrand_self ..)
    · simp only [t, stopStrand, closeWait_none (show (sn s (cc s).cs).flag = none from hw)]
      rfl
    · simp only [t, stopStrand, closeWait_none (show (sn s (cc s).cs).flag = none from hw)]
      rw [getCore_setCC_cur]
      exact getStrand_setStrand_ne _ _ hn

/-- Settles O18: spawn puts ten registers into a new strand; an exit with no wait open stops its strand alone. -/
theorem strandsStartAndEnd : Obligations.StrandsStartAndEnd :=
  ⟨spawnStartsAStrand, exitEndsADrainedStrand⟩

/-! ### Sections (R44, R213) -/

theorem switchSection_base (k : Core) (b : Option Int) {q : Nat} (hq : q < 4) : (getEng (switchSection k b) q).base = b := by
  obtain rfl | rfl | rfl | rfl : q = 0 ∨ q = 1 ∨ q = 2 ∨ q = 3 := by omega
  all_goals simp [getEng, switchSection, tget_tset]

/-- With no earlier switch pending a switch instruction drains the section and then switches. -/
theorem switchForm_first {s : State} {w : W32} {uses : List Nat} {stamp : State → Option Int} (hc : OnCore s) (hf : NotFault s)
    (hu : Free s uses) (hs : (cc s).switching = []) :
    switchForm w uses stamp s = .next (if sectionDrained (cc s)
      then goOn s (setCC s (switchSection { cc s with switching := [(cc s).cs] } (stamp s)))
      else waits s (setCC s { cc s with switching := [(cc s).cs] }) .drain) := by
  have hk : sectionDrained { cc s with switching := [(cc s).cs] } = sectionDrained (cc s) := rfl
  by_cases hd : sectionDrained (cc s) = true
  · rw [if_pos hd]
    exact conduct_adv (.inr hc) (.inr hf) hu (by simp [hs, hk, hd])
  · rw [if_neg hd]
    exact conduct_wait (.inr hc) (.inr hf) hu (by simp [hs, hk, hd])

/-- Settles O20: with no switch pending, start and ilock are the first of their queue. -/
theorem sectionSwitchesWhenDrained : Obligations.SectionSwitchesWhenDrained := by
  intro s hc hf hs
  refine ⟨fun a hu hd => ?_, fun hu hd => ⟨?_, rfl, fun q hq => switchSection_base _ _ hq⟩, fun a hu hd => ?_, fun hu hd => ?_⟩
  · intro at_
    exact ⟨(switchForm_first hc hf hu hs).trans (by rw [if_pos hd]), rfl, fun q hq => switchSection_base _ _ hq⟩
  · exact (switchForm_first hc hf hu hs).trans (by rw [if_pos hd])
  all_goals exact (switchForm_first hc hf hu hs).trans (by rw [if_neg (by simp [hd])])

/-! ### Control registers (R25, R98, R163, R214) -/

theorem prologueCreg_iff {n : Nat} : prologueCreg n = true ↔ n = 0x000 ∨ n = 0x006 ∨ n = 0x00C := by
  simp [prologueCreg, or_assoc]

theorem controlRegisterReads : ControlRegisterReads := by
  intro s d num w hu hw
  cases hw
  refine ⟨fun h => conduct_flt (.inl rfl) (.inl rfl) hu (by simp only [h]), fun v hv => ⟨fun hp => ?_, fun hp h0 h6 hc => ?_⟩⟩
  · have hg : (isPrologue s.cur && !prologueCreg num.toNat) = false := by
      obtain hp | hp := hp
      · simp [hp]
      · simp [prologueCreg_iff.mpr hp]
    exact conduct_adv (.inl rfl) (.inl rfl) hu (by simp [hv, hg])
  · have hg : prologueCreg num.toNat = false := Bool.eq_false_iff.mpr fun h => by
      obtain h | h | h := prologueCreg_iff.mp h <;> contradiction
    exact conduct_flt (.inl rfl) (.inl rfl) hu (by simp [hv, hp, hg])

theorem readCreg_dom (s : State) (c n : Nat) {l : Nat} (hl : l < 5) :
    readCreg s c n (0x040 + l) = some (tget 0 (getCore s c).dom l) := by
  simp only [readCreg]
  rw [if_pos (by omega), Nat.add_sub_cancel_left]

theorem readCreg_verdict {s : State} {c n j : Nat} (h : isFaultStrand s (getCore s c) n = false) (hj : j ≤ 9) :
    readCreg s c n (0x060 + j) = some 0 := by
  by_cases hj' : j ≤ 7
  · simp only [readCreg, h]
    rw [if_neg (by omega), if_pos (by omega)]
    rfl
  · obtain rfl | rfl : j = 8 ∨ j = 9 := by omega
    all_goals simp [readCreg, h]

theorem readCreg_past (s : State) (c n : Nat) {num : Nat} (h : 0x090 < num) : readCreg s c n num = none := by
  simp only [readCreg]
  rw [if_neg (by omega), if_neg (by omega), if_neg (by omega)]
  split
  any_goals omega
  rfl

theorem controlRegistersHoldTheirValues : ControlRegistersHoldTheirValues := by
  intro s c n k t
  refine ⟨rfl, rfl, rfl, rfl, rfl, rfl, rfl, rfl, fun q hq => ?_, fun l hl => readCreg_dom s c n hl, rfl, rfl, rfl,
    fun h j hj => readCreg_verdict h hj, fun num h => readCreg_past s c n h⟩
  obtain rfl | rfl | rfl | rfl : q = 0 ∨ q = 1 ∨ q = 2 ∨ q = 3 := by omega
  all_goals rfl

/-- Settles O21: crr asks whether the register exists and then whether a prologue may read it. -/
theorem controlRegistersReadTheirValues : Obligations.ControlRegistersReadTheirValues :=
  ⟨controlRegisterReads, controlRegistersHoldTheirValues⟩

/-- The taking of a watch that nothing of its core holds back. -/
theorem sendAt_watch {s s1 : State} {fl : Flight} {n : Nat} {v : W64} (hs : SameStrands s s1) (ho : fl.op = .watch n v)
    (hd : s1.defer = false) (hb : flightsBefore (cc s1) fl.ord = []) :
    sendAt s1 fl = .goto (performWatch (takeOrd s1) n v fl.loc) (nextPc s) := by
  have hp : performAt (takeOrd s1) (cc s1).cs fl
      = .ok (performWatch (takeOrd s1) n v fl.loc) ((sn (takeOrd s1) (cc s1).cs).pc + 4) := by
    unfold performAt
    simp only [ho, remoteOp]
    split <;> simp_all
  rw [sendAt_ok (by simp [mayPerform, hb, ho]) (atIssue_of_now fl hd) hp, show (cc s1).cs = (cc s).cs from hs.ccs,
    nextPc_of_sameStrands (hs.trans (sameStrands_takeOrd s1))]

theorem armWatch_goes {s s1 : State} {n : Nat} {v : W64} {w : W32} {loc : Loc} {p : Perm}
    (hr : reach s s.cur (tget 0 (cc s).wpAdr n) 16 0 false false = (s1, .ok loc p)) (hd : s1.defer = false)
    (hb : flightsBefore (cc s1) (cc s1).ord = []) :
    armWatch s n v w = .goto (performWatch (takeOrd s1) n v loc) (nextPc s) := by
  have hs : SameBut s s1 := by
    have h := sameBut_reach s s.cur (tget 0 (cc s).wpAdr n) 16 0 false false
    rwa [hr] at h
  simp only [armWatch, hr]
  exact sendAt_watch hs.sameStrands rfl hd hb

/-- The control of watchpoint `n` is writable and none of the registers with a rule of their own. -/
theorem wpCreg {m n : Nat} (hn : n < 8) (h : m = 0x080 + 2 * n ∨ m = 0x081 + 2 * n) :
    writableCreg m = true ∧ m ≠ 0x048 ∧ m ≠ 0x068 ∧ m ≠ 0x069 ∧ m ≠ 0x090 ∧ (m - 0x080) / 2 = n := by
  refine ⟨?_, by omega, by omega, by omega, by omega, by omega⟩
  simp only [writableCreg, Bool.or_eq_true, Bool.and_eq_true, decide_eq_true_eq]
  omega

theorem exec_crwWatch {s u : State} {a : Reg} {num : BitVec 12} {n : Nat} {w : W32} {t : W64} (hu : Free s [a.toNat])
    (hc : OnCore s) (hw : encode (.crw num a) = .cword w) (hn : n < 8)
    (h : num.toNat = 0x080 + 2 * n ∧ u = (if wpEn (cc s) n then s
        else setCC s { cc s with wpAdr := tput 0 (cc s).wpAdr n (rx s a &&& ~~~(0xF : W64)) }) ∧ t = nextPc s
      ∨ num.toNat = 0x081 + 2 * n ∧ writeWpCtl s n (rx s a) w = .goto u t) :
    exec (.crw num a) s = .next (goTo s u t) := by
  cases hw
  refine conduct_goto (.inl rfl) (.inl rfl) hu ?_
  obtain ⟨h0, h1, h2, h3, h4, h5⟩ := wpCreg hn (h.imp And.left And.left)
  simp only [h0, h1, h2, h3, h4, h5, hc]
  obtain ⟨h, rfl, rfl⟩ | ⟨h, he⟩ := h
  · rw [show num.toNat % 2 = 0 by omega]
    by_cases he : wpEn (cc s) n = true <;> simp [he, adv]
  · rw [show num.toNat % 2 = 1 by omega]
    exact he

/-- Settles O22: each number that may be written has its own branch; the others fault before any of them. -/
theorem controlRegisterWrites : Obligations.ControlRegisterWrites := by
  intro s a num w hu hc hw k
  refine ⟨fun h => ?_, fun h => ?_, fun h hf => ?_, fun h hf => ?_, fun h hf => ?_, fun h => ?_, fun n hn h he => ?_,
    fun n hn h he => ?_, fun n hn h he => ?_, fun n hn h he s1 loc p hr hd hb => ?_⟩
  · cases hw
    exact conduct_flt (.inl rfl) (.inl rfl) hu (by simp [h])
  · exact conduct_adv (.inl rfl) (.inl rfl) hu (by simp [h, hc, writableCreg])
  · have hf : isFaultStrand s (cc s) (cc s).cs = true := hf
    exact conduct_adv (.inl rfl) (.inl rfl) hu (by simp [h, hc, hf, writableCreg, k])
  · have hf : isFaultStrand s (cc s) (cc s).cs = true := hf
    exact conduct_adv (.inl rfl) (.inl rfl) hu (by simp [h, hc, hf, writableCreg, k])
  · have hf : isFaultStrand s (cc s) (cc s).cs = false := hf
    obtain h | h := h
    · exact conduct_adv (.inl rfl) (.inl rfl) hu (by simp [h, hc, hf, writableCreg])
    · exact conduct_adv (.inl rfl) (.inl rfl) hu (by simp [h, hc, hf, writableCreg])
  · exact conduct_adv (.inl rfl) (.inl rfl) hu (by simp [h, hc, writableCreg, k])
  · exact exec_crwWatch hu hc hw hn (.inl ⟨h, by rw [he, if_neg (by decide)], rfl⟩)
  · exact exec_crwWatch hu hc hw hn (.inl ⟨h, by rw [he, if_pos rfl], rfl⟩)
  · exact exec_crwWatch hu hc hw hn (.inr ⟨h, if_neg (he ▸ Bool.false_ne_true)⟩)
  · exact exec_crwWatch hu hc hw hn (.inr ⟨h, (if_pos he).trans (armWatch_goes hr hd hb)⟩)

end Sys2Proof.Machine
end

section
/-! SUPPORT. O24, O26 to O29: records of faults, words that may not run, issue and completion of engine words, schedule misses. -/

namespace Sys2Proof.Machine

open Sys2Proof Sys2Proof.Statements

/-! ### Records of a cycle (R46 to R53) -/

/-- A record put on a core whose fault strand will handle it. -/
theorem getCore_putRecord {s : State} {c : Nat} (t : Trap) (hp : isPrologue c = false) :
    getCore (putRecord s c t) c = addRecord (getCore s c) t := by
  simp [putRecord, hp]

theorem hasFaultStrand_putRecord {s : State} {c : Nat} (t : Trap) (k : Core) (hp : isPrologue c = false) :
    hasFaultStrand (putRecord s c t) k = hasFaultStrand s k := by
  simp only [putRecord, hp, hasFaultStrand]
  rw [if_pos (by rfl), getTask_setCore]
  by_cases h : k.task = (getCore s c).task
  · rw [h, getTask_setTask_self]
  · rw [show getTask (setTask s (getCore s c).task _) k.task = getTask s k.task from tget_tset_ne _ _ _ h]

theorem getCore_afterRecord {s : State} {c : Nat} (p : Pending) (hp : isPrologue c = false)
    (hf : hasFaultStrand s (getCore s c) = true) :
    getCore (afterRecord s c p false) c = { getCore s c with pendRecs := (getCore s c).pendRecs ++ [p] } := by
  simp [afterRecord, hp, hf]

theorem hasFaultStrand_congr {s : State} {k j : Core} (h : k.task = j.task) : hasFaultStrand s k = hasFaultStrand s j := by
  rw [hasFaultStrand, hasFaultStrand, h]

/-- A core on which a record has been put that its fault strand will handle. -/
def withRecord (k : Core) (r : Trap) (word : W64) : Core :=
  { addRecord k r with pendRecs := (addRecord k r).pendRecs ++ [{ trap := r, word := word, prog := 0, issued := false }] }

theorem dropWaiter_eq (k : Core) (q n : Nat) : ∃ e, dropWaiter k q n = { k with eng := e }
    ∧ ∀ p, (tget {} e p : Eng).q = (getEng k p).q := by
  refine ⟨_, rfl, fun p => ?_⟩
  rw [tget_tset]
  split
  · subst p
    rfl
  · rfl

theorem dropWaits_eq (k : Core) (n : Nat) : ∃ e, dropWaits k n = { k with eng := e }
    ∧ ∀ p, (tget {} e p : Eng).q = (getEng k p).q := by
  suffices h : ∀ (l : List Nat) (k : Core), ∃ e, l.foldl (fun k q => dropWaiter k q n) k = { k with eng := e }
      ∧ ∀ p, (tget {} e p : Eng).q = (getEng k p).q from h _ k
  intro l
  induction l with
  | nil => exact fun k => ⟨_, rfl, fun _ => rfl⟩
  | cons q l ih =>
    intro k
    obtain ⟨e, he, hq⟩ := dropWaiter_eq k q n
    obtain ⟨e', he', hq'⟩ := ih (dropWaiter k q n)
    exact ⟨e', by rw [List.foldl_cons, he', he], fun p => (hq' p).trans (by rw [he]; exact hq p)⟩

/-- A level 1 fault that the fault strand will handle puts its record on the core whose strand has stopped. -/
theorem getCore_raise1 {s : State} {c n : Nat} {f : Flt} {w : W32} (hp : isPrologue c = false)
    (hf : hasFaultStrand s (getCore s c) = true) (hn : isFaultStrand s (getCore s c) n = false) :
    let k := getCore s c
    getCore (raise1 s c n f w) c
      = withRecord (dropWaits (setStrand k n { getStrand k n with run := .faulted, flight := none, fetched := none }) n)
          (numbered k (trap1 s c n f)) (w.setWidth 64) := by
  intro k
  simp only [raise1, hn]
  generalize hr : numbered (getCore s c) (trap1 s c n f) = r
  obtain ⟨e, he, -⟩ := dropWaits_eq
    (setStrand (getCore s c) n { getStrand (getCore s c) n with run := .faulted, flight := none, fetched := none }) n
  simp only [k, he]
  generalize hk : ({ setStrand (getCore s c) n _ with eng := e } : Core) = k1
  have ht : k1.task = (getCore s c).task := by subst hk; rfl
  rw [getCore_afterRecord _ hp, getCore_putRecord _ hp, getCore_setCore_self]
  · rfl
  · rw [hasFaultStrand_putRecord _ _ hp, getCore_putRecord _ hp, getCore_setCore_self]
    exact (hasFaultStrand_congr (s := setCore s c k1) (show (addRecord k1 r).task = _ from ht)).trans hf

theorem levelOneFaultRecordsAndStops : LevelOneFaultRecordsAndStops := by
  intro s c n f w hp hf hn k pc r k'
  have ht : trap1 s c n f = r := by simp only [trap1, hp]; rfl
  have hk := getCore_raise1 (f := f) (w := w) hp hf hn
  obtain ⟨e, he, hq⟩ := dropWaits_eq
    (setStrand k n { getStrand k n with run := .faulted, flight := none, fetched := none }) n
  rw [ht] at hk
  simp only [k, he] at hk
  simp only [k', hk]
  exact ⟨rfl, rfl, rfl, rfl, rfl, rfl, rfl, hq⟩

/-- A level 2 fault of a word not issued that the fault strand will handle. -/
theorem getCore_raise2 {s : State} {c q : Nat} {w : QWord} {f : Flt} (hp : isPrologue c = false)
    (hf : hasFaultStrand s (getCore s c) = true) :
    let k := getCore s c
    getCore (raise2 s c q w f false 0) c
      = withRecord { setEng k q { getEng k q with stop := true } with
          hold := true, holdAt := if k.hold then k.holdAt else cycOf s c } (numbered k (trap2 s c q w f)) w.bits := by
  intro k
  simp only [raise2, Bool.false_eq_true, if_false]
  generalize hr : numbered (getCore s c) (trap2 s c q w f) = r
  generalize hk : ({ setEng (getCore s c) q _ with hold := true, holdAt := _ } : Core) = k1
  have ht : k1.task = (getCore s c).task := by subst hk; rfl
  rw [getCore_putRecord _ hp, getCore_setCore_self, if_pos, getCore_setCore_self]
  · rfl
  · rw [hasFaultStrand_putRecord _ _ hp]
    exact (hasFaultStrand_congr (s := setCore s c k1) (show (addRecord k1 r).task = _ from ht)).trans hf

theorem levelTwoFaultStopsItsEngine : LevelTwoFaultStopsItsEngine := by
  intro s c q w f hp hf k k'
  have he (p : Nat) : getEng k' p = getEng (setEng k q { getEng k q with stop := true }) p := by
    simp only [k', getCore_raise2 hp hf]
    rfl
  refine ⟨?_, ?_, ?_⟩
  · rw [he, getEng_setEng_self]
  · rw [he, getEng_setEng_self]
  simp only [k', getCore_raise2 hp hf]
  refine ⟨rfl, fun hh => ?_, rfl, rfl, rfl, rfl, rfl, fun p hpq => ?_⟩
  · exact if_neg (by simp [k, hh])
  · exact getEng_setEng_ne _ _ hpq

/-- Records in order of rank: those that a record of rank `r` goes behind, then those it goes before. -/
theorem filter_laterRecs (r : Nat) {l : List Trap} (hl : l.Pairwise (fun a b => recRank a ≤ recRank b)) :
    l.filter (fun u => !(laterRecs r l).contains u) ++ laterRecs r l = l := by
  have hc : l.filter (fun u => !(laterRecs r l).contains u) = l.filter fun u => decide (recRank u ≤ r) := by
    refine List.filter_congr fun u hu => ?_
    simp [laterRecs, hu, ← decide_not]
  rw [hc, laterRecs]
  clear hc
  induction l with
  | nil => rfl
  | cons a l ih =>
    obtain ⟨ha, hl⟩ := List.pairwise_cons.mp hl
    by_cases h : recRank a ≤ r
    · rw [List.filter_cons_of_pos (by simpa using h), List.filter_cons_of_neg (by simpa using h), List.cons_append, ih hl]
    · rw [List.filter_cons_of_neg (by simpa using h), List.filter_cons_of_pos (by simp; omega),
        List.filter_eq_nil_iff.mpr fun u hu => by have := ha u hu; simp; omega,
        List.filter_eq_self.mpr fun u hu => by have := ha u hu; simp; omega]
      rfl

theorem recRank_bumpRec (later : List Trap) (t : Trap) : recRank (bumpRec later t) = recRank t := by
  unfold bumpRec
  split <;> rfl

theorem bumpRec_seq {later : List Trap} {t : Trap} (h : t ∈ later) : (bumpRec later t).seq = t.seq + 1 := by
  rw [bumpRec, if_pos (by simpa using h)]

/-- A record that is added stands between those of lower and of higher rank. -/
theorem pairwise_addRecord {k : Core} (r : Trap) (hl : k.newRecs.Pairwise (fun a b => recRank a ≤ recRank b)) :
    (addRecord k r).newRecs.Pairwise (fun a b => recRank a ≤ recRank b) := by
  have hs := filter_laterRecs (recRank r) hl
  simp only [addRecord]
  generalize hL : laterRecs (recRank r) k.newRecs = L at hs ⊢
  have hlow : ∀ u ∈ k.newRecs.filter (fun u => !L.contains u), recRank u ≤ recRank r := fun u hu => by
    obtain ⟨hm, hc⟩ := List.mem_filter.mp hu
    simpa [← hL, laterRecs, hm] using hc
  have hhigh : ∀ u ∈ L, recRank r ≤ recRank u := fun u hu => by
    have := (List.mem_filter.mp (hL ▸ hu)).2
    simp at this
    omega
  rw [← hs] at hl
  obtain ⟨hE, hLp, hEL⟩ := List.pairwise_append.mp hl
  refine List.pairwise_append.mpr ⟨hE, List.pairwise_cons.mpr ⟨fun v hv => ?_, ?_⟩, fun u hu v hv => ?_⟩
  · obtain ⟨u, hu, rfl⟩ := List.mem_map.mp hv
    rw [recRank_bumpRec]
    exact hhigh u hu
  · simpa only [List.pairwise_map, recRank_bumpRec] using hLp
  · obtain rfl | hv := List.mem_cons.mp hv
    · exact hlow u hu
    · obtain ⟨x, hx, rfl⟩ := List.mem_map.mp hv
      rw [recRank_bumpRec]
      exact hEL u hu x hx

/-- The records stand numbered on when one is added. -/
theorem seq_addRecord {k : Core} (r : Trap) (hk : NumberedCycle k) {i : Nat} {t : Trap}
    (ht : (addRecord k r).newRecs[i]? = some t) : t.seq = k.recSeq - BitVec.ofNat 32 k.newRecs.length + BitVec.ofNat 32 i := by
  obtain ⟨hl, hn⟩ := hk
  have hs := filter_laterRecs (recRank r) hl
  simp only [addRecord, numbered, recNumber] at ht
  generalize hL : laterRecs (recRank r) k.newRecs = L at hs ht
  generalize k.newRecs.filter (fun u => !L.contains u) = E at hs ht
  rw [← hs] at hn ⊢
  obtain hi | hi | hi := lt_trichotomy i E.length
  · rw [List.getElem?_append_left hi] at ht
    exact hn i t (by rw [List.getElem?_append_left hi]; exact ht)
  · subst hi
    rw [List.getElem?_append_right (le_refl _), Nat.sub_self, List.getElem?_cons_zero] at ht
    cases ht
    cases L with
    | nil => simp
    | cons a L => exact hn _ a (by simp)
  · obtain ⟨j, rfl⟩ : ∃ j, i = E.length + (j + 1) := ⟨i - E.length - 1, by omega⟩
    rw [List.getElem?_append_right (by omega), Nat.add_sub_cancel_left, List.getElem?_cons_succ, List.getElem?_map] at ht
    obtain ⟨u, hu, rfl⟩ := Option.map_eq_some_iff.mp ht
    rw [bumpRec_seq (List.mem_of_getElem? hu), hn (E.length + j) u (by rw [List.getElem?_append_right (by omega), Nat.add_sub_cancel_left, hu])]
    rw [← Nat.add_assoc, BitVec.ofNat_add (E.length + j), BitVec.add_assoc]
    rfl

theorem recordsOfOneCycleAreNumberedInOrder : RecordsOfOneCycleAreNumberedInOrder := by
  intro k r hk
  refine ⟨⟨pairwise_addRecord r hk.1, fun i t ht => ?_⟩, by simp [addRecord]⟩
  have hlen : (addRecord k r).newRecs.length = k.newRecs.length + 1 := by
    rw [← congrArg List.length (filter_laterRecs (recRank r) hk.1)]
    simp [addRecord, Nat.add_assoc]
  have hseq : (addRecord k r).recSeq = k.recSeq + 1 := rfl
  rw [seq_addRecord r hk ht, hlen, hseq, BitVec.ofNat_add]
  bv_omega

/-- Settles O24: a fault's record is put on the core whose strand or engine has stopped, between the records of its cycle. -/
theorem faultsRecordAndStop : Obligations.FaultsRecordAndStop :=
  ⟨levelOneFaultRecordsAndStops, levelTwoFaultStopsItsEngine, recordsOfOneCycleAreNumberedInOrder⟩

/-! ### Words that may not run (R20, R138, R146, R187, R217, R418) -/

theorem reservedWordsFault : ReservedWordsFault :=
  ⟨fun s w hu => conduct_flt (.inl rfl) (.inl rfl) hu rfl,
    fun s q w qw hm hw => congrArg _ ((issueState_bad hm rfl).trans (by rw [hw]))⟩

/-- An instruction that a prologue may not execute makes the check of every instruction first. -/
theorem exec_notInPrologue {s : State} {i : Instr} {w : W32} (hi : notInPrologue i = true) (hw : encode i = .cword w) :
    ∃ fs uses f, exec i s = conduct false fs w uses f s := by
  cases i
  case stB | stH | stW | stD | stS | stRel | ldf | ldt | ste | stf | tclr | tagrd | fenceAcq | fenceRel | fenceFull | cas
      | amoAdd | amoQadd | amoSmin | amoSmax | amoUmin | amoUmax | amoAnd | amoOr | amoXor | amoSwap
      | wins | wmov | wrd | wcpy | wtmpl | emit | emitt | qstat | tkpush | tkpop | sset | sget | scpy | sclr | mark | join
      | bar | waitCyc | waitGtc | spawn | yield | start | ilock | fret =>
    cases hw
    exact ⟨_, _, _, rfl⟩
  all_goals cases hi

theorem exec_notInFaultStrand {s : State} {i : Instr} {w : W32} (hi : notInFaultStrand i = true) (hw : encode i = .cword w) :
    ∃ pro uses f, exec i s = conduct pro true w uses f s := by
  cases i
  case emit | emitt | tkpush | tkpop | mark | join | bar | waitCyc | waitGtc | spawn | exit | yield | start | ilock =>
    cases hw
    exact ⟨_, _, _, rfl⟩
  all_goals cases hi

theorem forbiddenInstructionsFault : ForbiddenInstructionsFault := by
  intro s i w hw
  refine ⟨fun hi hp => ?_, fun hi hc hf => ?_⟩
  · obtain ⟨fs, uses, f, he⟩ := exec_notInPrologue (s := s) hi hw
    exact he.trans (conduct_prologue hp)
  · obtain ⟨pro, uses, f, he⟩ := exec_notInFaultStrand (s := s) hi hw
    exact he.trans (conduct_faultStrand (.inr hc) hf)

theorem fetchFaultStopsTheStrand : FetchFaultStopsTheStrand := by
  intro s s1 f h
  show execInstructionFetchFault s = _
  rw [execInstructionFetchFault, h]

/-- The strand that a full block gives way to. -/
def blockNext (s : State) : Nat :=
  (([1, 2, 3].find? fun i => strandReady s s.cur (((cc s).cs + i) % 4)).map fun i => ((cc s).cs + i) % 4).getD (cc s).cs

theorem exec_blockEnd {s : State} (hc : OnCore s) (h : 1024 ≤ (cst s).block) :
    let k := setStrand (cc s) (cc s).cs { cst s with block := 0 }
    let m := blockNext s
    exec .blockEnd s = .next (setCC s { setStrand k m { getStrand k m with block := 0 } with cs := m, ended := false }) := by
  have h' : ¬ (decide ((cst s).block < 1024) || isPrologue s.cur) = true := by simp [hc, h]
  exact if_neg h'

/-- The first of `1, …, n` that has a property. -/
theorem find?_first {p : Nat → Bool} {n i : Nat} (hi : 1 ≤ i) (hn : i ≤ n) (hp : p i = true)
    (hj : ∀ j, 1 ≤ j → j < i → p j = false) : (List.range' 1 n).find? p = some i :=
  List.find?_range'_eq_some.mpr ⟨hp, List.mem_range'_1.mpr ⟨hi, by omega⟩, fun j h1 h2 => by simp [hj j h1 h2]⟩

theorem findSome?_ite {α β : Type} (p : α → Bool) (f : α → β) (l : List α) :
    l.findSome? (fun a => if p a then some (f a) else none) = (l.find? p).map f := by
  induction l with
  | nil => rfl
  | cons a l ih =>
    rw [List.findSome?_cons, List.find?_cons, ih]
    cases p a <;> rfl

theorem closeWait_cores (s : State) (n : Nat) : (closeWait s n).cores = s.cores := by
  unfold closeWait
  dsimp only
  split
  · rfl
  · split
    · rfl
    · split
      · exact traceAdd_cores ..
      · rfl

theorem closeWait_cur (s : State) (n : Nat) : (closeWait s n).cur = s.cur := by
  unfold closeWait
  dsimp only
  split
  · rfl
  · split
    · rfl
    · split
      · exact (sameBut_traceAdd ..).cur
      · rfl

theorem cc_closeWait (s : State) (n : Nat) : cc (closeWait s n) = cc s := by
  unfold cc getCore
  rw [closeWait_cores, closeWait_cur]

theorem endBlock_ended {k : Core} {n : Nat} (h : n = k.cs) : (endBlock k n).ended = true := by
  rw [endBlock, if_pos h]

/-- A strand that waits ends its block. -/
theorem waitFor_ended (s : State) (w : Wait) : (cc (waitFor s (cc s).cs w)).ended = true := by
  simp only [waitFor, cc_setCC, beginWait]
  split
  · exact endBlock_ended rfl
  · exact endBlock_ended (show (cc s).cs = (cc (closeWait s _)).cs from congrArg Core.cs (cc_closeWait s _).symm)

theorem blockEnd_block {s : State} (hc : OnCore s) (h : 1024 ≤ (cst s).block) : ∃ t, exec .blockEnd s = .next t
    ∧ (cc t).cs = blockNext s ∧ (getStrand (cc t) (cc s).cs).block = 0 := by
  refine ⟨_, exec_blockEnd hc h, by rw [cc_setCC], ?_⟩
  rw [cc_setCC]
  show (getStrand (setStrand _ _ _) _).block = 0
  rw [getStrand_setStrand]
  split
  · rfl
  · rw [getStrand_setStrand_self]

theorem blockEndsAfterItsInstructions : BlockEndsAfterItsInstructions := by
  refine ⟨fun s hc h => ?_, waitFor_ended, fun s c i he h1 h2 hr hj => ?_⟩
  · obtain ⟨t, ht, hcs, hb⟩ := blockEnd_block hc h
    refine ⟨t, ht, hb, fun i h1 h3 hr hj => ?_, fun hn => ?_⟩
    · rw [hcs, blockNext, show [1, 2, 3] = List.range' 1 3 from rfl, find?_first h1 h3 hr hj]
      rfl
    · rw [hcs, blockNext, List.find?_eq_none.mpr]
      · rfl
      · intro i hi
        have : 1 ≤ i ∧ i ≤ 3 := by simp at hi; omega
        simp [hn i this.1 this.2]
  · have hb : (blockLasts (getCore s c) && strandReady s c (getCore s c).cs) = false := by simp [blockLasts, he]
    unfold pickStrand
    simp only [hb]
    rw [if_neg (by decide), findSome?_ite, show [1, 2, 3, 4] = List.range' 1 4 from rfl, find?_first h1 h2 hr hj]
    rfl

/-- Settles O26: reserved and forbidden words fault before anything else; a block's end asks the next strands in turn. -/
theorem wordsThatMayNotRunFault : Obligations.WordsThatMayNotRunFault :=
  ⟨reservedWordsFault, forbiddenInstructionsFault, fetchFaultStopsTheStrand, blockEndsAfterItsInstructions⟩

/-! ### Engine words: issue and completion (R38 to R43, R141, R215) -/

theorem tget_tput_self {α : Type} [DecidableEq α] (d : α) (t : Tbl α) (a : Nat) (v : α) : tget d (tput d t a v) a = v :=
  (tget_tput d t a a v).trans (if_pos rfl)

theorem tget_reserve (k : Core) (l : Nat) : tget 0 (reserve k l).resv l = tget 0 k.resv l + 1 := by
  simp only [reserve, tget_tput_self]

theorem nullWord_go {q : Nat} {h : EHead} {s : State} {w : QWord} (hm : MayIssue q h s w) :
    nullWord q h s = .next (completeWord (takeWord s q h w).1 q (takeWord s q h w).2) :=
  congrArg Host.Outcome.next (issueState_go (f := fun s i => completeWord s q i) hm rfl rfl rfl)

theorem nullWordCompletesAtIssue : NullWordCompletesAtIssue :=
  fun _ _ _ => ⟨nullWord_go, nullWord_go, nullWord_go, nullWord_go⟩

theorem closeEngWait_none {s : State} {q : Nat} {w : QWord} (h : (getEng (cc s) q).wait = none) : closeEngWait s q w = s := by
  simp only [closeEngWait, h]

/-- The core whose word has taken its pop and reserved its push. -/
def tokensTaken (k : Core) (q : Nat) (h : EHead) : Core :=
  let k := match h.pop with
    | some p => popTok k (popLink q p.code.toNat)
    | none => k
  match h.push.map fun p => pushLink q p.code.toNat with
  | some l => reserve k l
  | none => k

/-- A word whose token actions are still to take and whose queue does not wait. -/
theorem takeWord_eq {s : State} {q : Nat} {h : EHead} {w : QWord} (hw : w.held = false) (hq : (getEng (cc s) q).wait = none) :
    let k := tokensTaken (cc s) q h
    let e := getEng k q
    takeWord s q h w = (setCC s (unopen (setEng k q
        { e with q := headWord (fun _ => none) e.q, prev := some (curCyc s), base := none, wait := none, claim := none }) (4 + q)),
      { w := w, t := curCyc s, due := none, push := h.push.map fun p => pushLink q p.code.toNat, gen := s.mm.gen }) := by
  simp only [takeWord, closeEngWait_none hq, hw]
  rfl

section
variable (k : Core) (q : Nat) (h : EHead)

theorem tokensTaken_eq : ∃ l r, tokensTaken k q h = { k with links := l, resv := r } := by
  unfold tokensTaken
  split <;> split <;> exact ⟨_, _, rfl⟩

theorem tokensTaken_links : (tokensTaken k q h).links = match h.pop with
    | some p => (popTok k (popLink q p.code.toNat)).links
    | none => k.links := by
  unfold tokensTaken
  split <;> split <;> rfl

theorem tokensTaken_resv : (tokensTaken k q h).resv = match h.push with
    | some p => (reserve k (pushLink q p.code.toNat)).resv
    | none => k.resv := by
  unfold tokensTaken
  obtain ⟨pop, push, idle⟩ := h
  cases pop <;> cases push <;> rfl

end

theorem issueTakesTheWordAndItsTokens : IssueTakesTheWordAndItsTokens := by
  intro s q h w hw hq t
  have ht := takeWord_eq (h := h) hw hq
  obtain ⟨l, r, hk⟩ := tokensTaken_eq (cc s) q h
  have hl := tokensTaken_links (cc s) q h
  have hr := tokensTaken_resv (cc s) q h
  simp only [hk] at ht hl hr
  simp only [t, ht, cc_setCC]
  refine ⟨?_, ?_, ?_, fun p hp => getEng_setEng_ne _ _ hp, fun p hp => ?_, fun p hp => ?_, fun hp => ?_, fun hp => ?_, rfl, rfl, rfl, trivial⟩
  · exact congrArg Eng.q (getEng_setEng_self _ q _)
  · exact congrArg Eng.prev (getEng_setEng_self _ q _)
  · exact congrArg Eng.base (getEng_setEng_self _ q _)
  · simp only [hp] at hl
    exact (congrArg (tget [] · _) hl).trans (tget_tput_self ..)
  · simp only [hp] at hr
    exact (congrArg (tget 0 · _) hr).trans (tget_reserve ..)
  · simp only [hp] at hl
    exact hl
  · simp only [hp] at hr
    exact hr

theorem flying_retirePush (k : Core) (i : Issued) (q : Nat) : flying (retirePush k i) q = flying k q := by
  unfold retirePush
  split <;> rfl

/-- The engine whose word has been counted. -/
def counted (k : Core) (q : Nat) (i : Issued) : Eng :=
  { getEng k q with cseq := if i.w.skipped then (getEng k q).cseq else (getEng k q).cseq + 1 }

theorem getEng_wordRetired (k : Core) (q : Nat) (i : Issued) : getEng (wordRetired k q i) q
    = { counted k q i with q := dropMarkers ((flying k q).map (·.w)) (getEng k q).q } := by
  have hc : counted (retirePush k i) q i = counted k q i := by simp only [counted, getEng_retirePush]
  have he : getEng { setEng (retirePush k i) q (counted (retirePush k i) q i) with lastDone := q } q = counted k q i :=
    (getEng_setEng_self ..).trans hc
  have hf : flying { setEng (retirePush k i) q (counted (retirePush k i) q i) with lastDone := q } q = flying k q :=
    flying_retirePush k i q
  show getEng (settleMarkers { setEng (retirePush k i) q (counted (retirePush k i) q i) with lastDone := q } q) q = _
  rw [settleMarkers, getEng_setEng_self, he, hf]
  rfl

theorem completionPushesCountsAndFreesMarkers : CompletionPushesCountsAndFreesMarkers := by
  intro s q i t
  obtain ⟨x, hk⟩ : ∃ x, cc t = { wordRetired (cc s) q i with strands := x } :=
    ⟨_, (congrArg cc (completeWord_eq s q i)).trans (cc_setCC ..)⟩
  have he (p : Nat) : getEng (cc t) p = getEng (wordRetired (cc s) q i) p := by rw [hk]; rfl
  have hlinks : (cc t).links = (retirePush (cc s) i).links := by rw [hk]; rfl
  refine ⟨?_, ?_, fun l hl => ?_, fun hn => ?_, fun p hp => ?_, ?_, rfl⟩
  · rw [he, getEng_wordRetired]
    rfl
  · rw [he, getEng_wordRetired]
  · have h : (cc t).links = (pushTok (unreserve (cc s) l) l { strand := i.w.strand, eseq := i.w.eseq }).links := by
      rw [hlinks, retirePush, hl]
    exact (congrArg (tget [] · _) h).trans (tget_tput_self ..)
  · rw [hlinks, retirePush, hn]
  · rw [he, getEng_wordRetired_ne _ _ hp]
  · rw [hk]
    show (retirePush (cc s) i).scr = _
    unfold retirePush
    split <;> rfl

/-- Settles O27: a word's tokens move with its issue and with its completion, each in its own link. -/
theorem engineWordsIssueAndComplete : Obligations.EngineWordsIssueAndComplete :=
  ⟨nullWordCompletesAtIssue, issueTakesTheWordAndItsTokens, completionPushesCountsAndFreesMarkers⟩

/-! ### The schedule miss (R43, R200, R262) -/

/-- Token holds are flag waits: a miss by one is by no number of cycles. -/
theorem missDetail_tokenHolds (k : Core) (q now : Nat) {h : EHead} {w : QWord} (ht : tokenHolds k q h w ≠ []) :
    missDetail now (tokenHolds k q h w) = 0 := by
  refine if_neg fun hall => ht (List.eq_nil_iff_forall_not_mem.mpr fun a ha => ?_)
  have hf := List.all_eq_true.mp hall a ha
  obtain ⟨b, o, rfl⟩ : ∃ b o, a = .flag b o := by
    unfold tokenHolds at ha
    split at ha
    · exact absurd ha List.not_mem_nil
    · obtain ha | ha := List.mem_append.mp ha <;> split at ha
      any_goals exact absurd ha List.not_mem_nil
      all_goals
        split at ha
        · exact ⟨_, _, List.mem_singleton.mp ha⟩
        · exact absurd ha List.not_mem_nil
  cases hf

/-- Settles O28: past the illegal word a word late or held by its link misses its cycle. -/
theorem scheduleMissFaults : Obligations.ScheduleMissFaults := by
  intro s q w h n due hw hh ht hs hi hz
  have hhead : ((wordsOf (getEng (cc s) q.code.toNat).q).head?.bind fun w => (headOf w.bits).map fun h => (w, h)) = some (w, h) := by
    rw [show (wordsOf (getEng (cc s) q.code.toNat).q).head? = some w from hw, Option.bind_some, hh]
    rfl
  have he : exec (.scheduleMiss q) s = if (!(cc s).timed || (getEng (cc s) n).stop || inHold (cc s) (curCyc s)
        || decide ((curCyc s : Int) < due) || wordIdle w.bits == 0 || wordBad q w) = true then .next s
      else if due < curCyc s then
        .next (issueProg (raise2 s s.cur n w { code := 0x0040, detail := lateness (curCyc s) due } false 0))
      else if (tokenHolds (cc s) n h w).isEmpty then .next s
      else .next (issueProg (holdWord s n w (tokenHolds (cc s) n h w))) := by
    show execScheduleMiss q s = _
    simp only [execScheduleMiss, hhead]
    rfl
  rw [he]
  refine ⟨fun hb => if_pos (by simp [hb]), fun hb hl => ?_, fun hb hl hk => ?_⟩
  · rw [if_neg (by simp [ht, hs, hi, hb, hz, le_of_lt hl]), if_pos hl]
    rfl
  · rw [if_neg (by simp [ht, hs, hi, hb, hz, hl]), if_neg (by omega), if_neg (by simpa using hk), holdWord, if_pos ht,
      missDetail_tokenHolds _ _ _ hk]

end Sys2Proof.Machine
end

section
/-! SUPPORT. O29: where the forms that may wait or fault complete; the last arrival at a barrier. -/

namespace Sys2Proof.Machine

open Sys2Proof Sys2Proof.Statements

/-! ### Forms that complete (R20, R43, R138, R146, R187, R197 to R200, R213, R214) -/

/-- A completion changes no queue. -/
theorem getEng_goOn (s t : State) (q : Nat) : getEng (cc (goOn s t)) q = getEng (cc t) q := by
  have h : (cc (goOn s t)).eng = (cc (closeWait t (cc s).cs)).eng := by
    unfold goOn goTo finishIssue
    dsimp only
    rw [cc_setCC]
    rfl
  rw [cc_closeWait] at h
  exact congrArg (tget {} · q) h

theorem wval_setW (s : State) (d : WReg) (v : WComp) : wval (setW s d v) d = v := by
  have h : cst (setW s d v) = wset (cst s) d.toNat v := by
    unfold setW setCst cst
    rw [cc_setCC]
    exact getStrand_setStrand_self ..
  rw [wval, h]
  exact tget_tput_self ..

theorem compositionFormsComplete : CompositionFormsComplete := by
  intro s hu hc hf
  obtain ⟨hemit, hemitt, -⟩ := emissionAppendsOrWaits
  refine ⟨fun q p ws => ⟨fun hp => ?_, fun hp hs hm => ?_⟩, fun q p idx hi hp => ?_, fun q p idx s1 loc hi hp hs hm hr hb => ?_,
    fun d idx s1 loc hi hr hb => ?_⟩
  · exact ⟨_, (hemit s q p ws hu hc hf).1 hp, congrArg Eng.q (getEng_goOn ..)⟩
  · obtain ⟨w, hq, hbits, hn, -, -, htmpl, -⟩ :=
      emittedWordCarriesItsProvenance s (cc s).cs (qn q) (wval s ws).val (wval s ws).origin
    exact ⟨_, w, ((hemit s q p ws hu hc hf).2.1 hp hs).1 hm, (congrArg Eng.q (getEng_goOn ..)).trans hq, hbits, htmpl, hn⟩
  · exact ⟨_, (hemitt s q p idx hu hc hf hi).1 hp, congrArg Eng.q (getEng_goOn ..)⟩
  · exact ⟨_, ((hemitt s q p idx hu hc hf hi).2.1 hp hs).1 hm s1 loc hr hb⟩
  · obtain ⟨-, hgo⟩ := templateLoadsFromThePool s d idx _ hu hc rfl
    exact ⟨_, hgo hi s1 loc hr hb, by rw [wval_setW], by rw [wval_setW]⟩

theorem rx_wx {s : State} {d : Reg} (v : W64) (hd : d ≠ 0) : rx (wx s d v) d = v := by
  have h : cst (wx s d v) = xset (cst s) d.toNat v := by
    unfold wx setCst cst
    rw [cc_setCC]
    exact getStrand_setStrand_self ..
  rw [rx, h, xget_xset, if_pos ⟨rfl, fun h0 => hd (BitVec.eq_of_toNat_eq h0)⟩]

theorem sectionAndRegisterFormsComplete : SectionAndRegisterFormsComplete := by
  intro s hc
  refine ⟨fun d num v hu hv => ?_, fun hf hs hd => ⟨fun a hu => ?_, fun hu => ?_⟩⟩
  · obtain ⟨hgo, -⟩ := (controlRegisterReads s d num _ hu rfl).2 v hv
    exact ⟨_, hgo (.inl hc), fun hd => rx_wx v hd, rfl⟩
  · refine ⟨_, (switchForm_first hc hf hu hs).trans (by rw [if_pos hd]), ?_⟩
    rw [cc_setCC]
    exact ⟨rfl, rfl, fun q hq => switchSection_base _ _ hq⟩
  · refine ⟨_, (switchForm_first hc hf hu hs).trans (by rw [if_pos hd]), ?_⟩
    rw [cc_setCC]
    exact ⟨rfl, rfl, fun q hq => switchSection_base _ _ hq⟩

theorem stoppingFormsHaveTheirEffect : StoppingFormsHaveTheirEffect := by
  intro s
  obtain ⟨hcword, heword⟩ := reservedWordsFault
  refine ⟨fun w hu => ⟨_, hcword s w hu, rfl⟩, fun q w qw hm hw => ⟨_, heword s q w qw hm hw, rfl⟩, ?_,
    fun s1 f h => ⟨_, fetchFaultStopsTheStrand s s1 f h, rfl⟩, fun hc h => ?_⟩
  · intro q w h hw hh ht hs hi hz hb due hdue
    obtain ⟨-, hlate, hheld⟩ := scheduleMissFaults s q w h hw hh ht hs hi hz
    obtain hl | ⟨hl, hk⟩ := hdue
    · exact ⟨_, _, hlate hb hl, rfl, fun _ => rfl⟩
    · exact ⟨_, _, hheld hb hl hk, rfl, fun h => absurd h (by omega)⟩
  · obtain ⟨t, ht, -, hb⟩ := blockEnd_block hc h
    exact ⟨t, ht, hb⟩

/-! ### The last arrival (R75, R76, R208) -/

/-- A slot stands in its core's or its task's table. -/
theorem getSlot_congr {s t : State} {c lvl slot : Nat} (hb : (getCore t c).bars = (getCore s c).bars)
    (hk : (getCore t c).task = (getCore s c).task) (ht : t.ref = s.ref) : getSlot t c lvl slot = getSlot s c lvl slot := by
  unfold getSlot getTask
  dsimp only
  rw [hb, hk, ht]

theorem setSlot_eq (s : State) (c lvl slot : Nat) (v : Slot) : (setSlot s c lvl slot v).cur = s.cur
    ∧ ∃ b, getCore (setSlot s c lvl slot v) c = { getCore s c with bars := b } := by
  unfold setSlot
  dsimp only
  split
  · exact ⟨rfl, _, getCore_setCore_self ..⟩
  · exact ⟨rfl, _, rfl⟩

theorem getSlot_setSlot (s : State) (c lvl slot : Nat) (v : Slot) : getSlot (setSlot s c lvl slot v) c lvl slot = v := by
  unfold getSlot setSlot
  dsimp only
  split
  · rw [getCore_setCore_self]
    exact tget_tput_self ..
  · rw [getCore_setTask, getTask_setTask_self]
    exact tget_tput_self ..

/-- A table all of whose values change as a relation allows. -/
theorem tget_mapKeys {α : Type} {d : α} {R : α → α → Prop} (hd : R d d) {f : Nat → α → α} (hf : ∀ k v, R v (f k v)) (a : Nat)
    (t : Tbl α) : R (tget d t a) (tget d (t.map fun (k, v) => (k, f k v)) a) := by
  induction t with
  | nil => exact hd
  | cons e t ih =>
    obtain ⟨k, v⟩ := e
    rw [List.map_cons, tget, tget]
    split
    · exact hf k v
    · exact ih

/-- A change of every core that leaves its slots and its task. -/
theorem getCore_mapCores {s : State} (f : Nat → Core → Core) (hf : ∀ m k, (f m k).bars = k.bars ∧ (f m k).task = k.task) (c : Nat) :
    (getCore { s with cores := s.cores.map fun (m, k) => (m, f m k) } c).bars = (getCore s c).bars
      ∧ (getCore { s with cores := s.cores.map fun (m, k) => (m, f m k) } c).task = (getCore s c).task :=
  tget_mapKeys (R := fun k j => j.bars = k.bars ∧ j.task = k.task) ⟨rfl, rfl⟩ hf c s.cores

theorem getSlot_slotComplete (s : State) (c lvl slot : Nat) : getSlot (slotComplete s c lvl slot) c lvl slot
    = { getSlot s c lvl slot with phase := (getSlot s c lvl slot).phase + 1, arrived := 0 } := by
  let t := setSlot s c lvl slot { getSlot s c lvl slot with phase := (getSlot s c lvl slot).phase + 1, arrived := 0 }
  let f (m : Nat) (k : Core) : Core := if sameDomain t c lvl m then memberPhase lvl slot (getSlot s c lvl slot).last k else k
  have he : slotComplete s c lvl slot = { t with cores := t.cores.map fun (m, k) => (m, f m k) } := by
    unfold slotComplete
    refine congrArg (fun l => ({ t with cores := l } : State)) (List.map_congr_left fun e _ => ?_)
    simp only [f]
    split <;> rfl
  have hf : ∀ m k, (f m k).bars = k.bars ∧ (f m k).task = k.task := fun m k => by
    simp only [f]
    split <;> exact ⟨rfl, rfl⟩
  obtain ⟨hb, hk⟩ := getCore_mapCores (s := t) f hf c
  rw [he, getSlot_congr hb hk rfl, getSlot_setSlot]

theorem slotComplete_cur (s : State) (c lvl slot : Nat) : (slotComplete s c lvl slot).cur = s.cur :=
  (setSlot_eq s c lvl slot _).1

/-- A slot below the fabric's at which all have arrived and no byte is outstanding completes. -/
theorem slotCheck_completes {s : State} {c lvl slot : Nat} (hl : lvl ≠ 4)
    (ha : (getSlot s c lvl slot).arrived.toNat = domCount (getCore s c) lvl) (hp : (getSlot s c lvl slot).pending = 0)
    (h0 : (getSlot s c lvl slot).arrived ≠ 0) : slotCheck s c lvl slot = slotComplete s c lvl slot := by
  unfold slotCheck
  rw [if_neg hl]
  exact if_pos ⟨ha, hp, h0⟩

/-- The core has not come to the slot in its present phase. -/
def Absent (k : Core) (key ph : Nat) : Prop := ∀ e ∈ k.arrivals, e.1 = key → e.2 ≠ ph

/-- The core, with its arrival noted, before the slot counts it. -/
def arriving (s : State) (key ph : Nat) : State :=
  let t := setCC s { cc s with arrivals := tset (cc s).arrivals key ph }
  bumpRelease t t.cur

theorem arriving_core (s : State) (key ph : Nat) : (arriving s key ph).cur = s.cur ∧ (arriving s key ph).ref = s.ref
    ∧ (getCore (arriving s key ph) s.cur).bars = (cc s).bars ∧ (getCore (arriving s key ph) s.cur).task = (cc s).task
    ∧ (getCore (arriving s key ph) s.cur).dom = (cc s).dom := by
  have h : getCore (arriving s key ph) s.cur = { cc s with
      arrivals := tset (cc s).arrivals key ph, relCount := (cc s).relCount + 1 } := by
    refine (getCore_setCore_self (setCC s { cc s with arrivals := tset (cc s).arrivals key ph }) s.cur _).trans ?_
    rw [show (setCC s { cc s with arrivals := tset (cc s).arrivals key ph }).cur = s.cur from rfl, getCore_setCC_cur]
  rw [h]
  exact ⟨rfl, rfl, rfl, rfl, rfl⟩

theorem tryArrive_counts {s : State} {lvl slot n : Nat} (hl : lvl ≠ 4) (hall : allAtBar s lvl slot = true)
    (hnew : Absent (cc s) (8 * lvl + slot) (getSlot s s.cur lvl slot).phase.toNat) :
    let u := arriving s (8 * lvl + slot) (getSlot s s.cur lvl slot).phase.toNat
    tryArrive s lvl slot n = slotCheck (setSlot u s.cur lvl slot
      { getSlot u s.cur lvl slot with arrived := (getSlot u s.cur lvl slot).arrived + 1, last := (n, (cc s).lid) }) s.cur lvl slot := by
  intro u
  unfold tryArrive
  dsimp only
  rw [if_neg hl, if_pos]
  · rfl
  · rw [hall]
    cases hf : (cc s).arrivals.find? fun e => e.1 = 8 * lvl + slot with
    | none => rfl
    | some e => simpa using hnew e (List.mem_of_find?_eq_some hf) (by simpa using List.find?_some hf)

/-- The arrival that a slot below the fabric's waited for: its phase advances. -/
theorem tryArrive_completes {s : State} {lvl slot n : Nat} (hl : lvl ≠ 4) (hall : allAtBar s lvl slot = true)
    (hnew : Absent (cc s) (8 * lvl + slot) (getSlot s s.cur lvl slot).phase.toNat)
    (ha : ((getSlot s s.cur lvl slot).arrived + 1).toNat = domCount (cc s) lvl) (h0 : (getSlot s s.cur lvl slot).arrived + 1 ≠ 0)
    (hp : (getSlot s s.cur lvl slot).pending = 0) :
    let t := tryArrive s lvl slot n
    (getSlot t t.cur lvl slot).phase = (getSlot s s.cur lvl slot).phase + 1 ∧ (getSlot t t.cur lvl slot).arrived = 0 := by
  intro t
  have ht := tryArrive_counts (n := n) hl hall hnew
  generalize hu : arriving s _ _ = u at ht
  obtain ⟨hcur, href, hb, hk, hd⟩ := arriving_core s (8 * lvl + slot) (getSlot s s.cur lvl slot).phase.toNat
  rw [hu] at hcur href hb hk hd
  have hv : getSlot u s.cur lvl slot = getSlot s s.cur lvl slot := getSlot_congr hb hk href
  simp only [hv] at ht
  generalize hx : setSlot u s.cur lvl slot _ = x at ht
  have hvx : getSlot x s.cur lvl slot = { getSlot s s.cur lvl slot with
      arrived := (getSlot s s.cur lvl slot).arrived + 1, last := (n, (cc s).lid) } := by rw [← hx, getSlot_setSlot]
  obtain ⟨hxc, b, hxk⟩ := setSlot_eq u s.cur lvl slot
    { getSlot s s.cur lvl slot with arrived := (getSlot s s.cur lvl slot).arrived + 1, last := (n, (cc s).lid) }
  rw [hx] at hxc hxk
  have hdx : domCount (getCore x s.cur) lvl = domCount (cc s) lvl := by
    rw [hxk, domCount, domCount, hd]
  have ht' : t = slotComplete x s.cur lvl slot := ht.trans
    (slotCheck_completes hl (by rw [hvx, hdx]; exact ha) (by rw [hvx]; exact hp) (by rw [hvx]; exact h0))
  rw [ht', slotComplete_cur, hxc.trans hcur, getSlot_slotComplete, hvx]
  exact ⟨rfl, rfl⟩

/-- A strand's place at a barrier plays no part in the slots, and leaves the strands that are live. -/
theorem setBarOn_core (s : State) (n : Nat) (b : Option (Nat × Nat × Nat)) (lvl slot : Nat) :
    getSlot (setBarOn s n b) (setBarOn s n b).cur lvl slot = getSlot s s.cur lvl slot
    ∧ liveStrands (setBarOn s n b) (cc (setBarOn s n b)) = liveStrands s (cc s)
    ∧ ∀ m, (getStrand (cc (setBarOn s n b)) m).barOn = if m = n then b else (getStrand (cc s) m).barOn := by
  have hk : getCore (setBarOn s n b) s.cur = setStrand (cc s) n { sn s n with barOn := b } := getCore_setCC_cur ..
  have hs (m : Nat) : getStrand (cc (setBarOn s n b)) m = if m = n then { sn s n with barOn := b } else getStrand (cc s) m := by
    rw [show cc (setBarOn s n b) = _ from hk, getStrand_setStrand]
  refine ⟨getSlot_congr ((congrArg Core.bars hk :)) ((congrArg Core.task hk :)) rfl, List.filter_congr fun m _ => ?_, fun m => ?_⟩
  · have hr : (getStrand (cc (setBarOn s n b)) m).run = (getStrand (cc s) m).run := by
      rw [hs]
      split
      · subst m
        rfl
      · rfl
    have hf : isFaultStrand (setBarOn s n b) (cc (setBarOn s n b)) m = isFaultStrand s (cc s) m := by
      rw [show cc (setBarOn s n b) = _ from hk]
      rfl
    rw [liveStrand, liveStrand, hr, hf]
  · rw [hs]
    split <;> rfl

/-- A bar at which its slot's phase advances goes on. -/
theorem exec_bar_goes {s : State} {l : Scope} {k : BitVec 3} (hu : Free s []) (hc : OnCore s) (hf : NotFault s)
    (hon : (cst s).barOn = none) :
    let lvl := Sys2Proof.Machine.Scope.code l
    let ph := (getSlot s s.cur lvl k.toNat).phase.toNat
    let t := tryArrive (setBarOn s (cc s).cs (some (lvl, k.toNat, ph))) lvl k.toNat (cc s).cs
    (getSlot t t.cur lvl k.toNat).phase.toNat ≠ ph → exec (.bar l k) s = .next (goOn s (setBarOn t (cc s).cs none)) := by
  intro lvl ph t h
  exact conduct_adv (.inr hc) (.inr hf) hu (by simp only [hon]; exact if_pos h)

theorem lastArrivalCompletesItsBar : LastArrivalCompletesItsBar := by
  intro s l k hu hc hf lvl v hfab hon hlive hothers harr ha h0 hp
  obtain ⟨hslot, hls, hbar⟩ := setBarOn_core s (cc s).cs (some (lvl, k.toNat, v.phase.toNat)) lvl k.toNat
  generalize hz : setBarOn s (cc s).cs (some (lvl, k.toNat, v.phase.toNat)) = z at hslot hls hbar
  have hzc : z.cur = s.cur := by rw [← hz]; rfl
  have hzk : (cc z).arrivals = (cc s).arrivals ∧ (cc z).dom = (cc s).dom := by
    rw [← hz, show cc (setBarOn s _ _) = _ from getCore_setCC_cur ..]
    exact ⟨rfl, rfl⟩
  have hl4 : lvl ≠ 4 := by
    cases l
    case fabric => contradiction
    all_goals decide
  have hall : allAtBar z lvl k.toNat = true := by
    rw [allAtBar, hls, hslot]
    refine Bool.and_eq_true_iff.mpr ⟨?_, List.all_eq_true.mpr fun n hn => ?_⟩
    · cases h : liveStrands s (cc s) with
      | nil => simp [h] at hlive
      | cons a l => rfl
    · rw [decide_eq_true_eq, hbar]
      split
      · rfl
      · next h => exact hothers n hn h
  obtain ⟨htp, hta⟩ := tryArrive_completes (n := (cc s).cs) hl4 hall
    (fun e he hk => by rw [hzk.1] at he; rw [hslot]; exact harr e he hk) (by rw [hslot, domCount, hzk.2]; exact ha)
    (by rw [hslot]; exact h0) (by rw [hslot]; exact hp)
  generalize ht : tryArrive z lvl k.toNat (cc s).cs = t at htp hta
  rw [hslot] at htp
  have hgo := exec_bar_goes (l := l) (k := k) hu hc hf hon
  simp only [show setBarOn s (cc s).cs (some (Scope.code l, k.toNat, (getSlot s s.cur (Scope.code l) k.toNat).phase.toNat)) = z from hz,
    show tryArrive z (Scope.code l) k.toNat (cc s).cs = t from ht] at hgo
  refine ⟨_, hgo ?_, ?_, ?_⟩
  · rw [htp]
    exact fun h => absurd (BitVec.eq_of_toNat_eq h : v.phase + 1 = v.phase) (by simp)
  · rw [(setBarOn_core t (cc s).cs none lvl k.toNat).1]
    exact htp
  · rw [(setBarOn_core t (cc s).cs none lvl k.toNat).1]
    exact hta

/-- Settles O29: each form that may wait or fault has its effect where its conditions hold. -/
theorem formsCompleteWhereTheirConditionsHold : Obligations.FormsCompleteWhereTheirConditionsHold :=
  ⟨compositionFormsComplete, lastArrivalCompletesItsBar, sectionAndRegisterFormsComplete, stoppingFormsHaveTheirEffect⟩

end Sys2Proof.Machine
end

section
/-! SUPPORT. O52: the frame of the instructions that write registers only. Each goes on from a state in which it has changed its strand
(or a stream register); the completion itself changes the strand and the bookkeeping of its issue. -/

namespace Sys2Proof.Machine

open Sys2Proof Sys2Proof.Statements

/-! ### Only the strand -/

theorem cur_of_onlyTheStrand {s t : State} (h : OnlyTheStrand s t) : t.cur = s.cur := (congrArg State.cur h.1 :)

theorem cs_of_onlyTheStrand {s t : State} (h : OnlyTheStrand s t) : (cc t).cs = (cc s).cs := (congrArg Core.cs h.2.2.2 :)

theorem onlyTheStrand_trans {s t u : State} (h : OnlyTheStrand s t) (g : OnlyTheStrand t u) : OnlyTheStrand s u := by
  have hcur := cur_of_onlyTheStrand h
  have hcs := cs_of_onlyTheStrand h
  obtain ⟨hd, ho, hn, hk⟩ := h
  obtain ⟨gd, go, gn, gk⟩ := g
  rw [hcur] at go
  rw [hcs] at gn
  exact ⟨gd.trans hd, fun c hc => (go c hc).trans (ho c hc), fun n hne => (gn n hne).trans (hn n hne), gk.trans hk⟩

/-- The current strand alone, and the bookkeeping of its issue. -/
theorem onlyTheStrand_setCC {s : State} {u : Strand} {a : Nat} {o : List Nat} :
    OnlyTheStrand s (setCC s { setStrand (cc s) (cc s).cs u with slotAt := a, opened := o }) := by
  refine ⟨rfl, fun c hc => getCore_setCC_ne _ _ hc, fun n hn => ?_, by rw [cc_setCC]; rfl⟩
  rw [sn, cc_setCC]
  exact getStrand_setStrand_ne _ _ hn

theorem onlyTheStrand_setCst (s : State) (u : Strand) : OnlyTheStrand s (setCst s u) :=
  onlyTheStrand_setCC (a := (cc s).slotAt) (o := (cc s).opened)

theorem cst_setCst (s : State) (u : Strand) : cst (setCst s u) = u := by
  unfold setCst cst
  rw [cc_setCC]
  exact getStrand_setStrand_self ..

theorem untraced_setCst {s : State} {u : Strand} (h : Untraced s) (hf : u.flag = (cst s).flag) : Untraced (setCst s u) := by
  rw [Untraced, cst_setCst, hf]
  exact h

theorem closeWait_untraced {s : State} (h : Untraced s) : closeWait s (cc s).cs = s := by
  obtain h | h := h
  · exact closeWait_none h
  · unfold closeWait
    dsimp only
    split
    · rfl
    · split
      · rfl
      · split
        · exact traceAdd_off _ h
        · rfl

/-- A completion that writes no trace record changes its strand alone. -/
theorem goTo_untraced {s : State} (pc : W64) (h : Untraced s) : OnlyTheStrand s (goTo s s pc)
    ∧ (endsPass (cst s) pc = false → cst (goTo s s pc) = completed (cst s) pc true) := by
  constructor
  · unfold goTo finishIssue
    rw [closeWait_untraced h]
    exact onlyTheStrand_setCC
  · intro he
    unfold goTo finishIssue
    rw [closeWait_untraced h]
    unfold cst
    rw [cc_setCC]
    refine (getStrand_setStrand_self ..).trans ?_
    exact if_neg fun hp => Bool.false_ne_true (he.symm.trans hp)

/-- The frame of an instruction that goes on at `pc` from a state in which it has changed its strand. -/
theorem goTo_frame {s s' : State} (pc : W64) (hs : OnlyTheStrand s s') (h : Untraced s') : OnlyTheStrand s (goTo s s' pc)
    ∧ (endsPass (cst s') pc = false → cst (goTo s s' pc) = completed (cst s') pc true) := by
  have hg : goTo s s' pc = goTo s' s' pc := by rw [goTo, goTo, cs_of_onlyTheStrand hs]
  rw [hg]
  obtain ⟨ho, hc⟩ := goTo_untraced pc h
  exact ⟨onlyTheStrand_trans hs ho, hc⟩

theorem goTo_setCst {s : State} {u : Strand} (pc : W64) (h : Untraced s) (hf : u.flag = (cst s).flag) :
    OnlyTheStrand s (goTo s (setCst s u) pc) ∧ (endsPass u pc = false → cst (goTo s (setCst s u) pc) = completed u pc true) := by
  have hg := goTo_frame pc (onlyTheStrand_setCst s u) (untraced_setCst h hf)
  rwa [cst_setCst] at hg

/-! ### Only registers -/

/-- A strand that completes after it has changed its registers alone. -/
theorem onlyRegisters_of_completed {s t : State} {u : Strand} {pc : W64} {r : List Nat} (ht : cst t = completed u pc true)
    (hu : u = { cst s with x := u.x }) (hr : ∀ j, j ∉ r → xget u j = xget (cst s) j) : OnlyRegisters s t r := by
  refine ⟨?_, fun j hj => (xget_congr (congrArg Strand.x ht :) j).trans (hr j hj)⟩
  rw [ht, hu]
  rfl

theorem xset_eq (t : Strand) (r : Nat) (v : W64) : xset t r v = { t with x := (xset t r v).x } := by
  unfold xset
  split <;> rfl

theorem xget_xset_ne {t : Strand} {r j : Nat} (v : W64) (h : j ≠ r) : xget (xset t r v) j = xget t j := by
  rw [xget_xset, if_neg (fun hj => h hj.1)]

theorem endsPass_congr {t u : Strand} {pc : W64} (hl : u.loop = t.loop) (hp : u.pc = t.pc) : endsPass u pc = endsPass t pc := by
  rw [endsPass, endsPass, hl, hp]

/-- The frame of an instruction that writes one register and goes on at `pc`. -/
theorem goTo_wx {s : State} (d : Reg) (v pc : W64) (h : Untraced s) : OnlyTheStrand s (goTo s (wx s d v) pc)
    ∧ (endsPass (cst s) pc = false → OnlyRegisters s (goTo s (wx s d v) pc) [d.toNat]
      ∧ (cst (goTo s (wx s d v) pc)).pc = pc
      ∧ xget (cst (goTo s (wx s d v) pc)) d.toNat = (if d = 0 then 0 else v)) := by
  have hx := xset_eq (cst s) d.toNat v
  obtain ⟨ho, hc⟩ := goTo_setCst (u := xset (cst s) d.toNat v) pc h (by rw [hx])
  refine ⟨ho, fun he => ?_⟩
  have ht := hc ((endsPass_congr (by rw [hx]) (by rw [hx])).trans he)
  refine ⟨onlyRegisters_of_completed ht hx fun j hj => xget_xset_ne v (by simpa using hj), congrArg Strand.pc ht, ?_⟩
  have hg : xget (cst (goTo s (wx s d v) pc)) d.toNat = xget (xset (cst s) d.toNat v) d.toNat :=
    xget_congr (congrArg Strand.x ht :) _
  rw [hg, xget_xset]
  by_cases hd : d = 0
  · subst hd
    rfl
  · rw [if_neg hd, if_pos ⟨rfl, fun h0 => hd (BitVec.eq_of_toNat_eq h0)⟩]

/-- The frame of an instruction that only goes on at `pc`. -/
theorem goTo_self {s : State} (pc : W64) (h : Untraced s) : OnlyTheStrand s (goTo s s pc)
    ∧ (endsPass (cst s) pc = false → OnlyRegisters s (goTo s s pc) []) := by
  obtain ⟨ho, hc⟩ := goTo_untraced pc h
  exact ⟨ho, fun he => onlyRegisters_of_completed (hc he) rfl fun _ _ => rfl⟩

theorem goTo_wxLate {s : State} (d : Reg) (v : W64) (lat : Nat) (h : Untraced s) :
    OnlyTheStrand s (goOn s (wxLate s d v lat)) ∧ (endsPass (cst s) (nextPc s) = false →
      cst (goOn s (wxLate s d v lat)) = { issuedAs (cst s) (cst (goOn s (wxLate s d v lat))) with
        pend := (cst (goOn s (wxLate s d v lat))).pend }
      ∧ (d = 0 → (cst (goOn s (wxLate s d v lat))).pend = (cst s).pend)) := by
  unfold wxLate
  split
  · next hd =>
    obtain ⟨ho, hc⟩ := goTo_untraced (nextPc s) h
    refine ⟨ho, fun he => ?_⟩
    rw [show cst (goOn s s) = _ from hc he]
    exact ⟨rfl, fun _ => rfl⟩
  · next hd =>
    obtain ⟨ho, hc⟩ := goTo_setCst (u := { cst s with pend := (cst s).pend ++ [(d.toNat, v, curCyc s + lat)] }) (nextPc s) h rfl
    refine ⟨ho, fun he => ?_⟩
    rw [show cst (goOn s _) = _ from hc he]
    exact ⟨rfl, fun h0 => absurd h0 hd⟩

theorem pget_pset_ne (t : Strand) (b : Bool) {p j : Nat} (hj : j < 8) (h : j ≠ p) : pget (pset t p b) j = pget t j := by
  rw [pget_pset t b hj, if_neg h]
  split
  · next h0 => subst h0; rfl
  · rfl

theorem goTo_setPred {s : State} (p : Nat) (b : Bool) (h : Untraced s) :
    OnlyTheStrand s (goOn s (setCst s (pset (cst s) p b))) ∧ (endsPass (cst s) (nextPc s) = false →
      let t := goOn s (setCst s (pset (cst s) p b))
      cst t = { issuedAs (cst s) (cst t) with p := (cst t).p } ∧ ∀ j, j < 8 → j ≠ p → pget (cst t) j = pget (cst s) j) := by
  obtain ⟨ho, hc⟩ := goTo_setCst (u := pset (cst s) p b) (nextPc s) h rfl
  refine ⟨ho, fun he => ?_⟩
  intro t
  rw [show cst t = _ from hc he]
  exact ⟨rfl, fun j hj hp => pget_pset_ne (cst s) b hj hp⟩

/-! ### Composition and stream registers -/

theorem wget_wset_ne (t : Strand) (v : WComp) {n m : Nat} (h : m ≠ n) : wget (wset t n v) m = wget t m := by
  unfold wget wset
  rw [tget_tput, if_neg h]

theorem strmOf_setStrm_ne (s : State) {r m : SReg} (v : Strm) (h : m ≠ r) : strmOf (setStrm s r v) m = strmOf s m := by
  unfold strmOf setStrm
  rw [cc_setCC, tget_tput, if_neg fun hm => h (BitVec.eq_of_toNat_eq hm)]

/-- What a composition instruction changes, before it goes on: a composition register, a register, or a stream register. -/
def ComposeFrame (s s' : State) : Prop :=
  (∃ n v, s' = setCst s (wset (cst s) n v)) ∨ (∃ d v, s' = wx s d v) ∨ ∃ r v, s' = setStrm s r v

theorem composeFrame_of_effect {s s' : State} {i : Instr} {us : List Nat} (h : composeEffect s i = some (us, s')) :
    ComposeFrame s s' := by
  cases i
  case wins | wmov | wcpy =>
    cases h
    exact .inl ⟨_, _, rfl⟩
  case wrd | sget | qstat =>
    cases h
    exact .inr (.inl ⟨_, _, rfl⟩)
  case sset | scpy | sclr =>
    cases h
    exact .inr (.inr ⟨_, _, rfl⟩)
  all_goals cases h

/-- Composition changes of its core the strand and the stream registers, and of the strand two register files. -/
theorem ComposeFrame.core {s s' : State} (h : ComposeFrame s s') : s' = { s with cores := s'.cores }
    ∧ issueFree { cc s' with sreg := [] } = issueFree { cc s with sreg := [] }
    ∧ cst s' = { cst s with x := (cst s').x, w := (cst s').w } := by
  obtain ⟨n, v, rfl⟩ | ⟨d, v, rfl⟩ | ⟨r, v, rfl⟩ := h
  · refine ⟨rfl, ?_, by rw [cst_setCst]; rfl⟩
    rw [setCst, cc_setCC]
    rfl
  · refine ⟨rfl, ?_, ?_⟩
    · rw [wx, setCst, cc_setCC]
      rfl
    · rw [wx, cst_setCst]
      unfold xset
      split <;> rfl
  · have hs : cst (setStrm s r v) = cst s := by
      rw [setStrm, cst, cc_setCC]
      rfl
    refine ⟨rfl, ?_, by rw [hs]⟩
    rw [setStrm, cc_setCC]

theorem composition_frame {s s' t : State} (h : ComposeFrame s s') (hu : Untraced s) (ht : t = goOn s s') :
    OnlyTheStrand { s with cores := s'.cores } t ∧ issueFree { cc t with sreg := [] } = issueFree { cc s with sreg := [] }
    ∧ (cc t).sreg = (cc s').sreg ∧ (endsPass (cst s) (nextPc s) = false →
      cst t = completed (cst s') (nextPc s) true ∧ cst t = { issuedAs (cst s) (cst t) with x := (cst t).x, w := (cst t).w }) := by
  obtain ⟨hd, hk, hs⟩ := h.core
  have hcs : (cc s').cs = (cc s).cs := (congrArg Core.cs hk :)
  have hu' : Untraced s' := by
    rw [Untraced, hs, hd]
    exact hu
  obtain ⟨ho, hc⟩ := goTo_untraced (nextPc s) hu'
  have ht' : t = goTo s' s' (nextPc s) := ht.trans (by rw [goOn, goTo, goTo, hcs])
  rw [← ht'] at ho hc
  refine ⟨hd ▸ ho, ?_, (congrArg Core.sreg ho.2.2.2 :), fun he => ?_⟩
  · exact (congrArg (fun k : Core => { k with sreg := [] }) ho.2.2.2 :).trans hk
  · have hcst := hc ((endsPass_congr (by rw [hs]) (by rw [hs])).trans he)
    refine ⟨hcst, ?_⟩
    rw [hcst, hs]
    rfl

/-- Settles O52: each table's instructions go on from a state in which only their destination has changed. -/
theorem frameOfRegisterInstructions : Obligations.FrameOfRegisterInstructions := by
  refine ⟨?_, ?_, ?_, ?_, ?_, ?_, ?_⟩
  · intro s t i d us v h hu hq ht
    cases (registerResultIsWrittenAtOnce s i d us v h hu).symm.trans ht
    exact goTo_wx d v (nextPc s) hq
  · intro s t i d a b lat v h hu hq ht
    cases (lateResultLandsAfterItsLatency s i d a b lat v h hu).symm.trans ht
    exact goTo_wxLate d v lat hq
  · intro s t i x y o c h dest hu hq hl ht
    obtain ⟨hnot, htaken, -⟩ := branchGoesWhereItsConditionSays s i x y o c h hu
    cases c
    · cases (hnot rfl).symm.trans ht
      exact goTo_self (nextPc s) hq
    · cases (htaken rfl (hl rfl)).symm.trans ht
      exact goTo_self dest hq
  · intro s t o dest hu hq hl ht
    cases ((jumpLinksAndGoesToItsTarget s (.jal o) _ _ _ rfl hu).1 hl).symm.trans ht
    obtain ⟨ho, hr⟩ := goTo_wx 23 (nextPc s) dest hq
    exact ⟨ho, fun he => (hr he).1⟩
  · intro s t d a o dest hu hq hal hl ht
    cases ((jumpLinksAndGoesToItsTarget s (.jalr d a o) _ _ _ (if_pos hal) hu).1 hl).symm.trans ht
    obtain ⟨ho, hr⟩ := goTo_wx d (nextPc s) dest hq
    exact ⟨ho, fun he => (hr he).1⟩
  · intro s t i p us b h hu hq ht
    cases (predicateTakesItsCondition s i p us b h hu).1.symm.trans ht
    exact goTo_setPred p.toNat b hq
  · intro s t i us s' h hu hc hq ht
    have ht' : t = goOn s s' := by
      cases (compositionAndStreamRegistersChange s i us s' h hu hc).symm.trans ht
      rfl
    obtain ⟨ho, hk, hr, hs⟩ := composition_frame (composeFrame_of_effect h) hq ht'
    refine ⟨ho, hk, fun he => ?_, fun sd a f hi m hm => ?_⟩
    · obtain ⟨hcst, hreg⟩ := hs he
      refine ⟨hreg, fun wd a q l hi => ?_, fun d wa hi => ?_⟩
      · subst hi
        cases h
        rw [hcst, show cst (setW s wd _) = _ from cst_setCst ..]
        exact ⟨fun _ => rfl, fun n hn => wget_wset_ne _ _ hn⟩
      · subst hi
        cases h
        rw [hcst, show cst (wx s d _) = _ from cst_setCst ..]
        refine ⟨fun n => ?_, fun j hj => (xget_congr rfl j).trans (xget_xset_ne _ hj)⟩
        rw [xset_eq]
        rfl
    · subst hi
      cases h
      have hstrm : strmOf t m = strmOf (setStrm s sd (strmSet (strmOf s sd) f.toNat (rx s a))) m :=
        congrArg (fun l => (tget {} l m.toNat : Strm)) hr
      rw [hstrm, strmOf_setStrm_ne _ _ hm]

end Sys2Proof.Machine
end

section
/-! SUPPORT. O53: the frame of loads, stores, atomics and tagged operations. A translation at a quiet TLB folds nothing, so that it
changes TLBs, walk caches and host translations only; an access then changes bytes at its place, and what counts it. -/

namespace Sys2Proof.Machine

open Sys2Proof Sys2Proof.Statements

/-! ### What an access changes besides bytes -/

/-- The frame of an access but for the bytes that it stores: of the device, TLBs, walk caches, host translations and samples; of the
current core the current strand and what counts its accesses. -/
structure AccessFrame (s t : State) : Prop where
  cur : t.cur = s.cur
  pro : t.pro = s.pro
  gtc : t.gtc = s.gtc
  mm : mmFree t.mm = mmFree s.mm
  bur : t.bur = s.bur
  vol : t.vol = s.vol
  mg : t.mg = s.mg
  host : ({ t.host with mem := [], atc := [] } : HostLink) = { s.host with mem := [], atc := [] }
  ats : ∀ p, atsPage t p = atsPage s p
  core : ∀ c, accessFree (getCore t c) = accessFree (getCore s c)
  others : ∀ c, c ≠ s.cur → (getCore t c).strands = (getCore s c).strands
  strand : ∀ n, n ≠ (cc s).cs → sn t n = sn s n

theorem AccessFrame.ccs {s t : State} (h : AccessFrame s t) : (cc t).cs = (cc s).cs := by
  rw [cc, cc, h.cur]
  exact (congrArg Core.cs (h.core s.cur) :)

theorem AccessFrame.trans {s t u : State} (h : AccessFrame s t) (g : AccessFrame t u) : AccessFrame s u where
  cur := g.cur.trans h.cur
  pro := g.pro.trans h.pro
  gtc := g.gtc.trans h.gtc
  mm := g.mm.trans h.mm
  bur := g.bur.trans h.bur
  vol := g.vol.trans h.vol
  mg := g.mg.trans h.mg
  host := g.host.trans h.host
  ats p := (g.ats p).trans (h.ats p)
  core c := (g.core c).trans (h.core c)
  others c hc := (g.others c (h.cur ▸ hc)).trans (h.others c hc)
  strand n hn := (g.strand n (h.ccs ▸ hn)).trans (h.strand n hn)

theorem AccessFrame.onlyTheAccess {s t : State} (h : AccessFrame s t) : OnlyTheAccess s t := by
  have hcc : accessFree (cc t) = accessFree (cc s) := by
    rw [cc, h.cur]
    exact h.core s.cur
  exact ⟨h.strand, hcc, fun c hc => ⟨h.core c, h.others c hc⟩, h.gtc, h.mm, h.bur, h.vol, h.mg, h.host⟩

/-- No byte of any memory differs. -/
structure SameBytes (s t : State) : Prop where
  mem : t.mem = s.mem
  host : t.host.mem = s.host.mem
  scr : ∀ c, (getCore t c).scr = (getCore s c).scr

theorem SameBytes.trans {s t u : State} (h : SameBytes s t) (g : SameBytes t u) : SameBytes s u :=
  ⟨g.mem.trans h.mem, g.host.trans h.host, fun c => (g.scr c).trans (h.scr c)⟩

theorem AccessFrame.busOf {s t : State} (h : AccessFrame s t) (o : Nat) : busOf t o = busOf s o := by
  have hb : t.host.hwbase = s.host.hwbase := (congrArg HostLink.hwbase h.host :)
  have he : t.host.compatEn = s.host.compatEn := (congrArg HostLink.compatEn h.host :)
  simp only [Machine.busOf, hb, he, h.ats]

theorem readLoc_of_sameBytes {s t : State} (h : AccessFrame s t) (d : SameBytes s t) (l : Loc) (n : Nat) :
    readLoc t l n = readLoc s l n := by
  have he : t.host.compatEn = s.host.compatEn := (congrArg HostLink.compatEn h.host :)
  cases l with
  | scr c o => simp only [readLoc, d.scr]
  | named pa => simp only [readLoc, hostGets, he, h.busOf, d.mem, d.host]

/-! ### The steps of an access -/

/-- An update of one core's order, releases, races, TLB or scratchpad. -/
theorem accessFrame_setCore {s : State} {c : Nat} {k : Core} (hk : accessFree k = accessFree (getCore s c))
    (hs : k.strands = (getCore s c).strands) : AccessFrame s (setCore s c k) := by
  have hn := sameStrands_setCore hs (congrArg Core.cs hk :)
  refine ⟨rfl, rfl, rfl, rfl, rfl, rfl, rfl, rfl, fun _ => rfl, fun d => ?_, fun d _ => hn.strands d, fun n _ => hn.sn n⟩
  rw [getCore_setCore]
  split
  · next h => rw [hk, h]
  · rfl

theorem sameBytes_setCore {s : State} {c : Nat} {k : Core} (h : k.scr = (getCore s c).scr) : SameBytes s (setCore s c k) := by
  refine ⟨rfl, rfl, fun d => ?_⟩
  rw [getCore_setCore]
  split
  · next hd => rw [h, hd]
  · rfl

theorem accessFrame_takeOrd (s : State) : AccessFrame s (takeOrd s) := accessFrame_setCore rfl rfl
theorem sameBytes_takeOrd (s : State) : SameBytes s (takeOrd s) := sameBytes_setCore rfl
theorem accessFrame_bumpRelease (s : State) (c : Nat) : AccessFrame s (bumpRelease s c) := accessFrame_setCore rfl rfl
theorem sameBytes_bumpRelease (s : State) (c : Nat) : SameBytes s (bumpRelease s c) := sameBytes_setCore rfl

theorem accessFrame_refl (s : State) : AccessFrame s s :=
  ⟨rfl, rfl, rfl, rfl, rfl, rfl, rfl, rfl, fun _ => rfl, fun _ => rfl, fun _ _ => rfl, fun _ _ => rfl⟩
theorem sameBytes_refl (s : State) : SameBytes s s := ⟨rfl, rfl, fun _ => rfl⟩

theorem frame_raceStep {s t : State} {fl : Flight} (h : raceStep s fl = .ok t) : AccessFrame s t ∧ SameBytes s t
    ∧ ∀ c, (getCore t c).utlb = (getCore s c).utlb := by
  obtain rfl | ⟨c, r, rfl⟩ := raceStep_ok h
  · exact ⟨accessFrame_refl _, sameBytes_refl _, fun _ => rfl⟩
  · refine ⟨accessFrame_setCore rfl rfl, sameBytes_setCore rfl, fun d => ?_⟩
    rw [getCore_setCore]
    split
    · next hd => rw [hd]
    · rfl

theorem frame_setReg (s : State) (r : Nat) (v : W64) :
    AccessFrame s (setReg s (cc s).cs r v) ∧ SameBytes s (setReg s (cc s).cs r v) := by
  refine ⟨⟨rfl, rfl, rfl, rfl, rfl, rfl, rfl, rfl, fun _ => rfl, fun d => ?_, fun d hd => ?_, fun n hn => sn_setSn_ne _ _ hn⟩,
    sameBytes_setCore rfl⟩
  · simp only [setReg, setSn, setCC, getCore_setCore]
    split
    · next h => rw [h]; rfl
    · rfl
  · exact congrArg Core.strands (getCore_setCC_ne _ _ hd)

/-- A completion that writes no trace record. -/
theorem frame_onlyTheStrand {s t : State} (h : OnlyTheStrand s t) : AccessFrame s t ∧ SameBytes s t := by
  have hcur := cur_of_onlyTheStrand h
  obtain ⟨hd, ho, hn, hk⟩ := h
  have hcore (c : Nat) : issueFree (getCore t c) = issueFree (getCore s c) := by
    by_cases hc : c = s.cur
    · subst hc
      rw [cc, cc, hcur] at hk
      exact hk
    · rw [ho c hc]
  refine ⟨⟨hcur, (congrArg State.pro hd :), (congrArg State.gtc hd :), (congrArg (fun s => mmFree s.mm) hd :), (congrArg State.bur hd :),
    (congrArg State.vol hd :), (congrArg State.mg hd :), ?_, fun p => (congrArg (fun s => atsPage s p) hd :), fun c => ?_,
    fun c hc => congrArg Core.strands (ho c hc), hn⟩,
    (congrArg State.mem hd :), (congrArg (fun s => s.host.mem) hd :), fun c => (congrArg Core.scr (hcore c) :)⟩
  · exact (congrArg (fun s => ({ s.host with mem := [], atc := [] } : HostLink)) hd :)
  · exact (congrArg (fun k : Core => accessFree k) (hcore c) :)

/-! ### A translation at a quiet TLB -/

/-- What a translation leaves where no entry leaves a micro-TLB: bytes, the trace port, the host but for its translations. -/
structure Unfolded (s t : State) : Prop where
  mem : t.mem = s.mem
  pro : t.pro = s.pro
  host : ({ t.host with atc := [] } : HostLink) = { s.host with atc := [] }
  ats : ∀ p, atsPage t p = atsPage s p

theorem Unfolded.trans {s t u : State} (h : Unfolded s t) (g : Unfolded t u) : Unfolded s u :=
  ⟨g.mem.trans h.mem, g.pro.trans h.pro, g.host.trans h.host, fun p => (g.ats p).trans (h.ats p)⟩

theorem unfolded_of_host {s t : State} (hm : t.mem = s.mem) (hp : t.pro = s.pro) (hh : t.host = s.host) : Unfolded s t :=
  ⟨hm, hp, by rw [hh], fun p => by rw [atsPage, atsPage, hh]⟩

theorem Unfolded.frame {s t : State} (h : Unfolded s t) (b : SameBut s t) : AccessFrame s t ∧ SameBytes s t := by
  have hs := b.sameStrands
  refine ⟨⟨b.cur, h.pro, b.gtc, ?_, b.bur, b.vol, b.mg, ?_, h.ats, fun c => ?_, fun c _ => hs.strands c, fun n _ => hs.sn n⟩,
    h.mem, (congrArg HostLink.mem h.host :), fun c => ?_⟩
  · obtain ⟨w, r, hmm⟩ := b.mm
    rw [hmm]
    rfl
  · exact (congrArg (fun k : HostLink => { k with mem := [] }) h.host :)
  · obtain ⟨l, hl⟩ := b.core c
    rw [hl]
    rfl
  · obtain ⟨l, hl⟩ := b.core c
    rw [hl]

theorem unfolded_awaken (s : State) (pa : Nat) : Unfolded s (awaken s pa) := by
  obtain ⟨r, hr⟩ := awaken_eq s pa
  rw [hr]
  exact unfolded_of_host rfl rfl rfl

theorem awaken_cores (s : State) (pa : Nat) : (awaken s pa).cores = s.cores := by
  obtain ⟨r, hr⟩ := awaken_eq s pa
  rw [hr]

/-- A page of the host that is translated anew reads as it would have (R483). -/
theorem unfolded_atcNote (s : State) (pa : Nat) : Unfolded s (atcNote s pa) ∧ (atcNote s pa).cores = s.cores := by
  have ha := unfolded_awaken s pa
  have hc := awaken_cores s pa
  unfold atcNote
  dsimp only
  split
  · next h =>
    refine ⟨ha.trans ⟨rfl, rfl, rfl, fun p => ?_⟩, hc⟩
    obtain ⟨-, -, hnew⟩ := h
    generalize awaken s pa = u at hnew
    unfold atsPage
    dsimp only
    rw [List.find?_cons]
    split
    · next hp =>
      have hp := of_decide_eq_true hp
      have hnone : u.host.atc.find? (fun e => e.1 = p) = none := by
        refine List.find?_eq_none.mpr fun e he hep => ?_
        have hany : (u.host.atc.any fun e => e.1 = (u.host.hwbase.toNat + paOff pa) / 4096) = false := by simpa using hnew
        exact List.any_eq_false.mp hany e he (by simpa [← hp] using hep)
      rw [hnone, ← hp]
      rfl
    · rfl
  · exact ⟨ha, hc⟩

theorem awakens_frame {α : Type} (f : α → Nat) (l : List α) : ∀ s : State,
    Unfolded s (l.foldl (fun s e => awaken s (f e)) s) ∧ (l.foldl (fun s e => awaken s (f e)) s).cores = s.cores := by
  induction l with
  | nil => exact fun s => ⟨unfolded_of_host rfl rfl rfl, rfl⟩
  | cons a l ih =>
    intro s
    obtain ⟨h, hc⟩ := ih (awaken s (f a))
    exact ⟨(unfolded_awaken s (f a)).trans h, hc.trans (awaken_cores s (f a))⟩

theorem hubWalk_frame (s : State) (asn : Nat) (root va : W64) :
    Unfolded s (hubWalk s asn root va).1 ∧ (hubWalk s asn root va).1.cores = s.cores := by
  unfold hubWalk
  dsimp only
  split
  · exact awakens_frame (fun e : Nat × W64 × Nat => e.1) _ s
  · obtain ⟨h, hc⟩ := awakens_frame (fun e : Nat × W64 × Nat => e.1)
      (walkReads s va (6 - (walkStart s asn root va).2) (walkStart s asn root va).1 (walkStart s asn root va).2) s
    exact ⟨h.trans (unfolded_of_host rfl rfl rfl), hc⟩

/-- A counter of the entry may take one more line without a fold (R392). -/
def Countable (e : TlbE) : Prop := e.rd < 65535 ∧ e.wr < 65535 ∧ e.rem < 65535

theorem countable_mkTlbE (asn : Nat) (va leaf : W64) (lvl : Nat) : Countable (mkTlbE asn va leaf lvl) :=
  ⟨by simp [mkTlbE], by simp [mkTlbE], by simp [mkTlbE]⟩

/-- Filling a micro-TLB with room moves no entry out. -/
theorem utlbFill_room {s : State} {c : Nat} {e : TlbE} (h : (getCore s c).utlb.length < 64) :
    utlbFill s c e = setCore s c { getCore s c with utlb := e :: (getCore s c).utlb } := by
  unfold utlbFill
  dsimp only
  rw [List.drop_eq_nil_of_le (by simpa using h), List.take_of_length_le (by simpa using h)]
  rfl

/-- A micro-TLB holds entries of another and entries that may count on. -/
def GrownTlb (s t : State) (c : Nat) : Prop := ∀ e ∈ (getCore t c).utlb, e ∈ (getCore s c).utlb ∨ Countable e

theorem grownTlb_of_cores {s t : State} (h : t.cores = s.cores) (c : Nat) : GrownTlb s t c := by
  intro e he
  rw [getCore, h] at he
  exact .inl he

theorem utlbFill_frame {s : State} {c : Nat} {e : TlbE} (h : (getCore s c).utlb.length < 64) (hc : Countable e) :
    Unfolded s (utlbFill s c e) ∧ GrownTlb s (utlbFill s c e) c := by
  rw [utlbFill_room h]
  refine ⟨unfolded_of_host rfl rfl rfl, fun e' he => ?_⟩
  rw [getCore_setCore_self] at he
  obtain rfl | he := List.mem_cons.mp he
  · exact .inr hc
  · exact .inl he

/-- A translation that finds room in the micro-TLB adds at most one entry, whose counters are zero. -/
theorem leafOf_frame {s : State} {c : Nat} (va : W64) (h : (getCore s c).utlb.length < 64) :
    Unfolded s (leafOf s c va).1 ∧ GrownTlb s (leafOf s c va).1 c := by
  unfold leafOf
  dsimp only
  split
  · exact ⟨unfolded_of_host rfl rfl rfl, grownTlb_of_cores rfl c⟩
  · split
    · exact utlbFill_frame h (countable_mkTlbE ..)
    · obtain ⟨hw, hc⟩ := hubWalk_frame s (getTask s (getCore s c).task).asn (getTask s (getCore s c).task).root va
      split
      · next u d heq =>
        rw [heq] at hw hc
        exact ⟨hw, grownTlb_of_cores hc c⟩
      · next u leaf lvl heq =>
        rw [heq] at hw hc
        dsimp only at hw hc ⊢
        generalize hv : (if isPrologue c then u else _) = v
        have hf : Unfolded u v ∧ v.cores = u.cores := by
          rw [← hv]
          split
          · exact ⟨unfolded_of_host rfl rfl rfl, rfl⟩
          · exact ⟨unfolded_of_host rfl rfl rfl, rfl⟩
        have hk : getCore v c = getCore s c := by rw [getCore, hf.2, hc, getCore]
        obtain ⟨hu, hg⟩ := utlbFill_frame (s := v) (c := c) (e := mkTlbE (getTask s (getCore s c).task).asn va leaf lvl)
          (by rw [hk]; exact h) (countable_mkTlbE ..)
        exact ⟨(hw.trans hf.1).trans hu, fun e he => hk ▸ hg e he⟩

theorem reach_frame {s : State} {c : Nat} (va : W64) (len : Nat) (need : Perm) (rt hn : Bool)
    (h : (getCore s c).utlb.length < 64) :
    Unfolded s (reach s c va len need rt hn).1 ∧ GrownTlb s (reach s c va len need rt hn).1 c := by
  have hrefl : Unfolded s s ∧ GrownTlb s s c := ⟨unfolded_of_host rfl rfl rfl, grownTlb_of_cores rfl c⟩
  have hl := leafOf_frame va h
  unfold reach
  split
  · exact hrefl
  · split
    · dsimp only
      split
      · exact hrefl
      · split
        · exact hrefl
        · exact hrefl
    · split
      · next u d heq =>
        rw [heq] at hl
        exact hl
      · next u leaf lvl heq =>
        rw [heq] at hl
        dsimp only at hl ⊢
        have hnote (pa : Nat) : Unfolded s (atcNote u pa) ∧ GrownTlb s (atcNote u pa) c := by
          obtain ⟨ha, hc⟩ := unfolded_atcNote u pa
          refine ⟨hl.1.trans ha, fun e he => hl.2 e ?_⟩
          rwa [getCore, hc] at he
        have hnamed (b d : Bool) (f g k : Reach) (pa : Nat) :
            Unfolded s (if b then (u, f) else if d then (u, g) else (atcNote u pa, k)).1
            ∧ GrownTlb s (if b then (u, f) else if d then (u, g) else (atcNote u pa, k)).1 c := by
          cases b
          · cases d
            · exact hnote pa
            · exact hl
          · exact hl
        split
        · split
          · exact hl
          · split
            · exact hl
            · exact hl
        · exact hnamed _ _ _ _ _ _

/-- A request at its place, at a quiet TLB: no byte has changed, and no counter stands where one more line would fold. -/
theorem reaches_frame {s s1 : State} {r : Req} {loc : Loc} (h : Reaches s r s1 loc) (hq : TlbQuiet s) :
    AccessFrame s s1 ∧ SameBytes s s1 ∧ ∀ e ∈ (cc s1).utlb, Countable e := by
  have hb := sameBut_of_reaches h
  obtain ⟨_, _, _, _, _, ⟨p, hr⟩, _, _⟩ := h
  obtain ⟨hu, hg⟩ := reach_frame (c := s.cur) r.va r.len r.need false r.hostNo hq.1
  rw [hr] at hu hg
  obtain ⟨hf, hd⟩ := hu.frame hb
  refine ⟨hf, hd, fun e he => ?_⟩
  rw [cc, hb.cur] at he
  obtain he | he := hg e he
  · exact hq.2 e he
  · exact he

/-! ### Counting and sampling -/

theorem bump_countable (room : Bool) {n : Nat} (h : n < 65535) : bump room n = (n + 1, false) :=
  if_neg (by simp; omega)

theorem countEntry_countable (s : State) {e : TlbE} (rd wr rem : Bool) (h : Countable e) :
    (countEntry s e rd wr rem).1 = s := by
  obtain ⟨h1, h2, h3⟩ := h
  have hc (b : Bool) {n : Nat} (hn : n < 65535) : ((if b then bump (foldRoom s) n else (n, false)).1 : Nat) < 65536 := by
    rw [bump_countable _ hn]
    split
    · show n + 1 < 65536
      omega
    · show n < 65536
      omega
  unfold countEntry
  dsimp only
  rw [if_neg]
  have a1 := hc rd h1
  have a2 := hc wr h2
  have a3 := hc rem h3
  simp only [Bool.and_eq_true, decide_eq_true_eq, not_and]
  omega

/-- A line counted where no counter would fold changes the entry alone. -/
theorem countLine_countable {s : State} {c : Nat} {ent : Option TlbE} {va : W64} {l : Loc} {rd wr : Bool}
    (he : ∀ f, ent = some f → tlbFind (getCore s c).utlb f.asn va = some f) (hc : ∀ e ∈ (getCore s c).utlb, Countable e) :
    countLine s c ent va l rd wr = s ∨ ∃ l', countLine s c ent va l rd wr = setCore s c { getCore s c with utlb := l' } := by
  unfold countLine
  cases ent with
  | none => exact .inl rfl
  | some f =>
    dsimp only
    by_cases hl : leafCnt f.leaf = true
    · have hf : (tlbFind (getCore s c).utlb f.asn va).filter (fun e => leafCnt e.leaf) = some f := by
        rw [he f rfl]
        exact if_pos hl
      rw [if_pos hl, hf]
      dsimp only
      rw [countEntry_countable s rd wr _ (hc f (List.mem_of_find?_eq_some (he f rfl)))]
      exact .inr ⟨_, rfl⟩
    · exact .inl (if_neg hl)

theorem sampleAccess_rest (s : State) (c : Nat) (l : Loc) (n : Nat) (w : Bool) :
    ∃ p r, sampleAccess s c l n w = { s with samp := p, ref := r } := by
  have hline (s : State) (k : Nat) (m : W64) : ∃ p r, sampleLine s c k m w = { s with samp := p, ref := r } := by
    unfold sampleLine
    split
    · exact ⟨_, _, rfl⟩
    · dsimp only
      split
      · exact ⟨_, _, rfl⟩
      · split
        · split
          · exact ⟨_, _, rfl⟩
          · exact ⟨_, _, rfl⟩
        · split
          · exact ⟨_, _, rfl⟩
          · exact ⟨_, _, rfl⟩
  unfold sampleAccess
  split
  · exact ⟨_, _, rfl⟩
  · split
    · exact ⟨_, _, rfl⟩
    · generalize lineParts _ n = ls
      induction ls generalizing s with
      | nil => exact ⟨_, _, rfl⟩
      | cons a ls ih =>
        obtain ⟨p, r, h⟩ := hline s a.1 a.2
        obtain ⟨p', r', h'⟩ := ih (sampleLine s c a.1 a.2 w)
        exact ⟨p', r', by rw [List.foldl_cons, h', h]⟩

/-- Counting and sampling an access of a translation that the micro-TLB still holds. -/
theorem frame_noteAccess {s : State} {fl : Flight} (rd wr : Bool)
    (he : ∀ f, fl.ent = some f → tlbFind (cc s).utlb f.asn fl.va = some f) (hc : ∀ e ∈ (cc s).utlb, Countable e) :
    AccessFrame s (noteAccess s fl rd wr) ∧ SameBytes s (noteAccess s fl rd wr) := by
  have hu : AccessFrame s (countLine s s.cur fl.ent fl.va fl.loc rd wr) ∧ SameBytes s (countLine s s.cur fl.ent fl.va fl.loc rd wr) := by
    obtain h | ⟨l, h⟩ := countLine_countable (s := s) (c := s.cur) (l := fl.loc) (rd := rd) (wr := wr) he hc
    · rw [h]
      exact ⟨accessFrame_refl s, sameBytes_refl s⟩
    · rw [h]
      exact ⟨accessFrame_setCore rfl rfl, sameBytes_setCore rfl⟩
  unfold noteAccess
  dsimp only
  split
  · obtain ⟨p, r, h⟩ := sampleAccess_rest (countLine s s.cur fl.ent fl.va fl.loc rd wr) (countLine s s.cur fl.ent fl.va fl.loc rd wr).cur
      fl.loc fl.len fl.write
    rw [h]
    obtain ⟨h1, h2⟩ := hu
    exact ⟨⟨h1.cur, h1.pro, h1.gtc, h1.mm, h1.bur, h1.vol, h1.mg, h1.host, h1.ats, h1.core, h1.others, h1.strand⟩,
      h2.mem, h2.host, h2.scr⟩
  · exact hu

end Sys2Proof.Machine
end

section
/-! SUPPORT. O53: the bytes that a store changes, and the frame of loads, stores, atomics and tagged operations. -/

namespace Sys2Proof.Machine

open Sys2Proof Sys2Proof.Statements

/-! ### An access from its translation to its count -/

theorem tlbFind_self {l : List TlbE} {asn : Nat} {va : W64} {f : TlbE} (h : tlbFind l asn va = some f) :
    tlbFind l f.asn va = some f := by
  have hf := List.find?_some h
  simp only [tlbHit, Bool.and_eq_true, decide_eq_true_eq] at hf
  rw [hf.1, h]

theorem entOf_find {s : State} {c : Nat} {va : W64} {f : TlbE} (h : entOf s c va = some f) :
    tlbFind (getCore s c).utlb f.asn va = some f := by
  unfold entOf at h
  split at h
  · cases h
  · exact tlbFind_self h

/-- A request that has been translated and counted, from a state in which its core's micro-TLB is as the translation left it. -/
theorem counted_frame {s s1 u : State} {r : Req} {loc : Loc} (rd wr : Bool) (h : Reaches s r s1 loc) (hq : TlbQuiet s)
    (hu : AccessFrame s1 u ∧ SameBytes s1 u) (ht : (cc u).utlb = (cc s1).utlb) :
    AccessFrame s (noteAccess u (r.flight s1 0 loc) rd wr) ∧ SameBytes s (noteAccess u (r.flight s1 0 loc) rd wr) := by
  obtain ⟨hf, hb, hc⟩ := reaches_frame h hq
  obtain ⟨nf, nb⟩ := frame_noteAccess (s := u) (fl := r.flight s1 0 loc) rd wr
    (fun f he => by rw [ht]; exact entOf_find he) (by rw [ht]; exact hc)
  exact ⟨(hf.trans hu.1).trans nf, (hb.trans hu.2).trans nb⟩

theorem utlb_takeOrd (s : State) : (cc (takeOrd s)).utlb = (cc s).utlb := by
  rw [takeOrd, cc_setCC]

theorem counted_takeOrd {s s1 : State} {r : Req} {loc : Loc} (rd wr : Bool) (h : Reaches s r s1 loc) (hq : TlbQuiet s) :
    AccessFrame s (noteAccess (takeOrd s1) (r.flight s1 0 loc) rd wr)
      ∧ SameBytes s (noteAccess (takeOrd s1) (r.flight s1 0 loc) rd wr) :=
  counted_frame rd wr h hq ⟨accessFrame_takeOrd s1, sameBytes_takeOrd s1⟩ (utlb_takeOrd s1)

theorem counted_raceStep {s s1 s2 : State} {r : Req} {loc : Loc} {fl : Flight} (rd wr : Bool) (h : Reaches s r s1 loc)
    (hq : TlbQuiet s) (hr : raceStep (takeOrd s1) fl = .ok s2) :
    AccessFrame s (noteAccess s2 (r.flight s1 0 loc) rd wr) ∧ SameBytes s (noteAccess s2 (r.flight s1 0 loc) rd wr) := by
  obtain ⟨rf, rb, rt⟩ := frame_raceStep hr
  refine counted_frame rd wr h hq ⟨(accessFrame_takeOrd s1).trans rf, (sameBytes_takeOrd s1).trans rb⟩ ?_
  rw [cc, rf.cur, rt]
  exact utlb_takeOrd s1

/-! ### Bytes written -/

/-- Bytes put one by one at addresses of their own. -/
theorem tget_putEach (f : Nat → Nat) (bs : List Byte) : ∀ (k : Nat) (m : Tbl Byte),
    (∀ x, (∀ i, k ≤ i → i < k + bs.length → f i ≠ x) →
      tget 0 ((bs.zipIdx k).foldl (fun m e => tput 0 m (f e.2) e.1) m) x = tget 0 m x)
    ∧ ((∀ i j, k ≤ i → i < j → j < k + bs.length → f i ≠ f j) → ∀ i (hi : i < bs.length),
      tget 0 ((bs.zipIdx k).foldl (fun m e => tput 0 m (f e.2) e.1) m) (f (k + i)) = bs[i]) := by
  induction bs with
  | nil => exact fun k m => ⟨fun _ _ => rfl, fun _ i hi => absurd hi (Nat.not_lt_zero i)⟩
  | cons b bs ih =>
    intro k m
    obtain ⟨hout, hin⟩ := ih (k + 1) (tput 0 m (f k) b)
    simp only [List.zipIdx_cons, List.foldl_cons, List.length_cons]
    refine ⟨fun x hx => ?_, fun hf i hi => ?_⟩
    · rw [hout x fun i h1 h2 => hx i (by omega) (by omega), tget_tput, if_neg (hx k (le_refl _) (by omega)).symm]
    · cases i with
      | zero =>
        rw [show k + 0 = k from rfl, hout (f k) fun i h1 h2 => (hf k i (le_refl _) (by omega) (by omega)).symm, tget_tput, if_pos rfl]
        rfl
      | succ i =>
        rw [show k + (i + 1) = k + 1 + i by omega, hin (fun i j h1 h2 h3 => hf i j (by omega) h2 (by omega)) i (by simpa using hi)]
        rfl

theorem frame_writeLoc (s : State) (l : Loc) (bs : List Byte) : AccessFrame s (writeLoc s l bs) := by
  unfold writeLoc
  split
  · exact accessFrame_setCore rfl rfl
  · split
    · exact ⟨rfl, rfl, rfl, rfl, rfl, rfl, rfl, rfl, fun _ => rfl, fun _ => rfl, fun _ _ => rfl, fun _ _ => rfl⟩
    · exact ⟨rfl, rfl, rfl, rfl, rfl, rfl, rfl, rfl, fun _ => rfl, fun _ => rfl, fun _ _ => rfl, fun _ _ => rfl⟩

/-- Addresses of the host's bus within one span of 4,096 bytes differ (R483). -/
theorem busOf_ne {s : State} {a b : Nat} (h1 : a < b) (h2 : b < a + 4096) : busOf s a ≠ busOf s b := by
  unfold busOf
  dsimp only
  split
  · intro h
    omega
  · omega

/-- The host's memory after a write through its window. -/
def hostWritten (s : State) (off : Nat) (bs : List Byte) : State := { s with host := { s.host with mem := hostPuts s off bs } }

theorem hostGets_hostWritten_outside {s : State} {off p : Nat} {bs : List Byte}
    (h : ∀ i, i < bs.length → busOf s (off + i) ≠ busOf s p) : hostGets (hostWritten s off bs) p 1 = hostGets s p 1 := by
  unfold hostGets
  by_cases hc : s.host.compatEn = true
  · rw [if_pos hc, if_pos (show (hostWritten s off bs).host.compatEn = true from hc)]
    refine congrArg (· :: []) ?_
    have hm : (hostWritten s off bs).host.mem = (bs.zipIdx 0).foldl (fun m e => tput 0 m (busOf s (off + e.2)) e.1) s.host.mem :=
      if_pos hc
    rw [hm]
    exact (tget_putEach (fun i => busOf s (off + i)) bs 0 s.host.mem).1 (busOf s p) fun i _ hi => h i (by omega)
  · rw [if_neg hc, if_neg (show ¬ (hostWritten s off bs).host.compatEn = true from hc)]
    have hbus (o : Nat) : busOf s o = s.host.hwbase.toNat + o := if_neg hc
    have hm : (hostWritten s off bs).host.mem = tputs 0 s.host.mem (busOf s off) bs := if_neg hc
    rw [hm, show busOf (hostWritten s off bs) p = busOf s p from rfl]
    refine tgets_tputs_outside 0 _ _ _ 1 bs ?_
    by_contra hn
    rw [hbus, hbus] at hn
    exact h (p - off) (by omega) (by rw [hbus, hbus]; omega)

theorem hostGets_hostWritten {s : State} {off : Nat} {bs : List Byte} (h : bs.length ≤ 4096) :
    hostGets (hostWritten s off bs) off bs.length = bs := by
  unfold hostGets
  by_cases hc : s.host.compatEn = true
  · rw [if_pos (show (hostWritten s off bs).host.compatEn = true from hc)]
    have hm : (hostWritten s off bs).host.mem = (bs.zipIdx 0).foldl (fun m e => tput 0 m (busOf s (off + e.2)) e.1) s.host.mem :=
      if_pos hc
    refine List.ext_getElem (by simp) fun i h1 h2 => ?_
    rw [List.getElem_map, List.getElem_range, hm]
    have hin := (tget_putEach (fun i => busOf s (off + i)) bs 0 s.host.mem).2
      (fun i j _ hij hj => busOf_ne (by omega) (by omega)) i h2
    rwa [Nat.zero_add] at hin
  · rw [if_neg (show ¬ (hostWritten s off bs).host.compatEn = true from hc)]
    have hm : (hostWritten s off bs).host.mem = tputs 0 s.host.mem (busOf s off) bs := if_neg hc
    rw [hm]
    exact tgets_tputs ..

theorem byteAt_named (s : State) (pa i : Nat) :
    byteAt s (.named pa) i = if paTarget pa = 13 then (1, busOf s (paOff pa + i)) else (0, pa + i) := rfl

/-- A write changes no byte but its own. -/
theorem onlyBytes_writeLoc (s : State) (l : Loc) (bs : List Byte) : OnlyBytes s (writeLoc s l bs) l bs.length := by
  intro b hb
  cases l with
  | scr c o =>
    cases b with
    | scr d p =>
      refine readLoc_writeLoc_scr_outside bs ?_
      by_contra hn
      have hd : d = c := by omega
      refine hb (p - o) (by omega) ?_
      simp only [byteAt]
      rw [hd, show o + (p - o) = p + 0 by omega]
    | named pb => rfl
  | named pa =>
    cases b with
    | scr d p =>
      simp only [writeLoc]
      split <;> rfl
    | named pb =>
      simp only [byteAt_named] at hb
      by_cases ha : paTarget pa = 13
      · simp only [writeLoc, readLoc, if_pos ha]
        by_cases hp : paTarget pb = 13
        · simp only [if_pos ha, if_pos hp] at hb
          rw [if_pos hp, if_pos hp]
          exact hostGets_hostWritten_outside fun i hi h => hb i hi (by rw [h]; rfl)
        · rw [if_neg hp, if_neg hp]
      · simp only [writeLoc, readLoc, if_neg ha]
        by_cases hp : paTarget pb = 13
        · rw [if_pos hp, if_pos hp]
          rfl
        · rw [if_neg hp, if_neg hp]
          refine tgets_tputs_outside 0 s.mem pa pb 1 bs ?_
          by_contra hn
          refine hb (pb - pa) (by omega) ?_
          rw [if_neg ha, if_neg hp, show pa + (pb - pa) = pb + 0 by omega]

/-- A location reads back what was written to it. -/
theorem readLoc_writeLoc (s : State) (l : Loc) {bs : List Byte} (hn : bs.length ≤ 4096) :
    readLoc (writeLoc s l bs) l bs.length = bs := by
  cases l with
  | scr c o => exact readLoc_writeLoc_scr bs
  | named pa =>
    by_cases ha : paTarget pa = 13
    · simp only [writeLoc, readLoc, if_pos ha]
      exact hostGets_hostWritten hn
    · simp only [writeLoc, readLoc, if_neg ha]
      exact tgets_tputs ..

/-- A write that no watch meets only writes its bytes. -/
theorem storeAt_unwatched {s : State} (who : Who) (l : Loc) (bs : List Byte) (p : Bool) (h : s.pro.watches = []) :
    storeAt s who l bs p = writeLoc s l bs := by
  have hw : (writeLoc s l bs).pro.watches = [] := by rw [(frame_writeLoc s l bs).pro, h]
  unfold storeAt portMatches portHits
  rw [hw]
  rfl

/-! ### From a state before an access to one after its bytes -/

theorem byteAt_of_frame {s t : State} (h : AccessFrame s t) (l : Loc) (i : Nat) : byteAt t l i = byteAt s l i := by
  cases l with
  | scr c o => rfl
  | named pa => rw [byteAt_named, byteAt_named, h.busOf]

/-- A write between steps that change no byte. -/
theorem onlyBytes_between {s u v t : State} {l : Loc} {n : Nat} (hf : AccessFrame s u) (hb : SameBytes s u)
    (hw : OnlyBytes u v l n) (gf : AccessFrame v t) (gb : SameBytes v t) : OnlyBytes s t l n := by
  intro b h
  rw [readLoc_of_sameBytes gf gb, hw b fun i hi => by rw [byteAt_of_frame hf, byteAt_of_frame hf]; exact h i hi,
    readLoc_of_sameBytes hf hb]

/-- An instruction that goes on from `u` without a trace record. -/
theorem goOn_frame {s u : State} (hcs : (cc u).cs = (cc s).cs) (hpro : u.pro = s.pro) (hflag : (cst u).flag = (cst s).flag)
    (hu : Untraced s) : AccessFrame u (goOn s u) ∧ SameBytes u (goOn s u)
    ∧ (endsPass (cst u) (nextPc s) = false → cst (goOn s u) = completed (cst u) (nextPc s) true) := by
  have hu' : Untraced u := by
    rw [Untraced, hflag, hpro]
    exact hu
  obtain ⟨ho, hc⟩ := goTo_untraced (nextPc s) hu'
  have hg : goOn s u = goTo u u (nextPc s) := by rw [goOn, goTo, goTo, hcs]
  obtain ⟨gf, gb⟩ := frame_onlyTheStrand ho
  rw [hg]
  exact ⟨gf, gb, hc⟩

theorem cst_setReg {s : State} {r : Nat} {v : W64} : cst (setReg s (cc s).cs r v) = xset (cst s) r v := by
  unfold setReg setSn cst
  rw [cc_setCC]
  exact getStrand_setStrand_self ..

/-- The strand of an instruction that changes no strand before its register and goes on. -/
theorem goOn_onlyRegisters {s u : State} {r : Nat} {v : W64} (hs : SameStrands s u)
    (hc : endsPass (xset (cst u) r v) (nextPc s) = false →
      cst (goOn s (setReg u (cc s).cs r v)) = completed (xset (cst u) r v) (nextPc s) true)
    (he : endsPass (cst s) (nextPc s) = false) : OnlyRegisters s (goOn s (setReg u (cc s).cs r v)) [r] := by
  rw [hs.cst] at hc
  have hx := xset_eq (cst s) r v
  exact onlyRegisters_of_completed (hc ((endsPass_congr (by rw [hx]) (by rw [hx])).trans he)) hx
    fun j hj => xget_xset_ne v (by simpa using hj)

theorem goOn_noRegisters {s u : State} (hs : SameStrands s u)
    (hc : endsPass (cst u) (nextPc s) = false → cst (goOn s u) = completed (cst u) (nextPc s) true)
    (he : endsPass (cst s) (nextPc s) = false) : OnlyRegisters s (goOn s u) [] := by
  rw [hs.cst] at hc
  exact onlyRegisters_of_completed (hc he) rfl fun _ _ => rfl

/-- An access that has left the strands alone writes its register and goes on. -/
theorem goOn_setReg_frame {s u : State} (hf : AccessFrame s u) (hs : SameStrands s u) (hu : Untraced s) (r : Nat) (v : W64) :
    let t := goOn s (setReg u (cc s).cs r v)
    AccessFrame u t ∧ SameBytes u t ∧ (endsPass (cst s) (nextPc s) = false → OnlyRegisters s t [r]) := by
  intro t
  have hcs : (cc u).cs = (cc s).cs := hs.ccs
  obtain ⟨rf, rb⟩ := frame_setReg u r v
  have hr : cst (setReg u (cc u).cs r v) = xset (cst u) r v := cst_setReg
  rw [hcs] at rf rb hr
  obtain ⟨gf, gb, gc⟩ := goOn_frame (hf.trans rf).ccs (hf.trans rf).pro (by rw [hr, xset_eq, hs.cst]) hu
  rw [hr] at gc
  exact ⟨rf.trans gf, rb.trans gb, goOn_onlyRegisters hs gc⟩

theorem goOn_plain_frame {s u : State} (hf : AccessFrame s u) (hs : SameStrands s u) (hu : Untraced s) :
    AccessFrame u (goOn s u) ∧ SameBytes u (goOn s u) ∧ (endsPass (cst s) (nextPc s) = false → OnlyRegisters s (goOn s u) []) := by
  obtain ⟨gf, gb, gc⟩ := goOn_frame hf.ccs hf.pro (by rw [hs.cst]) hu
  exact ⟨gf, gb, goOn_noRegisters hs gc⟩

/-! ### Loads and stores -/

/-- The frame that the statement asks of a load. -/
theorem frameOfLoads (s t : State) (i : Instr) (d a : Reg) (z : LWidth) (acq plain : Bool) (va : W64) (s1 s2 : State) (loc : Loc)
    (h : loadOf s i = some (d, a, z, acq, plain, va)) (hu : Free s [d.toNat, a.toNat]) (hn : Untraced s) (hq : TlbQuiet s)
    (hr : Reaches s (loadReq d z acq plain va) s1 loc)
    (hrace : raceStep (takeOrd s1) ((loadReq d z acq plain va).flight s1 0 loc) = .ok s2)
    (hb : uncorrectable s1 loc (loadBytes z) = none) (ht : exec i s = .next t) :
    (∀ l n, readLoc t l n = readLoc s l n) ∧ OnlyTheAccess s t
      ∧ (endsPass (cst s) (nextPc s) = false → OnlyRegisters s t [d.toNat]) := by
  cases (loadWritesTheExtendedBytes s i d a z acq plain va s1 s2 loc h hu hr hrace hb).symm.trans ht
  obtain ⟨cf, cb⟩ := counted_raceStep true false hr hq hrace
  have hs := ((sameStrands_ordered hr).trans (sameStrands_raceStep hrace)).trans
    (sameStrands_noteAccess s2 ((loadReq d z acq plain va).flight s1 0 loc) true false)
  obtain ⟨gf, gb, gr⟩ := goOn_setReg_frame cf hs hn d.toNat (extended z (leNat (readLoc s1 loc (loadBytes z))))
  exact ⟨readLoc_of_sameBytes (cf.trans gf) (cb.trans gb), (cf.trans gf).onlyTheAccess, gr⟩

theorem storeOf_length {s : State} {i : Instr} {x a : Reg} {n : Nat} {rel plain : Bool} {va : W64}
    (h : storeOf s i = some (x, a, n, rel, plain, va)) : n ≤ 8 := by
  cases i
  case stB | stH | stW | stD =>
    cases h
    decide
  case stS z _ | stRel z _ =>
    cases h
    cases z <;> decide
  all_goals cases h

/-- What a store's release leaves. -/
theorem frame_released (rel : Bool) (s : State) (c : Nat) : AccessFrame s (if rel then bumpRelease s c else s)
    ∧ SameBytes s (if rel then bumpRelease s c else s) ∧ SameStrands s (if rel then bumpRelease s c else s) := by
  cases rel
  · exact ⟨accessFrame_refl s, sameBytes_refl s, SameStrands.refl s⟩
  · exact ⟨accessFrame_bumpRelease s c, sameBytes_bumpRelease s c, sameStrands_bumpRelease s c⟩

theorem frameOfStores (s t : State) (i : Instr) (x a : Reg) (n : Nat) (rel plain : Bool) (va : W64) (s1 s2 : State) (loc : Loc)
    (h : storeOf s i = some (x, a, n, rel, plain, va)) (hu : Free s [x.toNat, a.toNat]) (hc : OnCore s) (hn : Untraced s)
    (hq : TlbQuiet s) (hw : s.pro.watches = []) (hr : Reaches s (storeReq n (rx s x) rel plain va) s1 loc)
    (hrace : raceStep (takeOrd s1) ((storeReq n (rx s x) rel plain va).flight s1 0 loc) = .ok s2) (ht : exec i s = .next t) :
    OnlyBytes s t loc n ∧ readLoc t loc n = leBytes n (rx s x).toNat ∧ OnlyTheAccess s t
      ∧ (endsPass (cst s) (nextPc s) = false → OnlyRegisters s t []) := by
  cases (storeWritesTheLowBytes s i x a n rel plain va s1 s2 loc h hu hc hr hrace).symm.trans ht
  obtain ⟨cf, cb⟩ := counted_raceStep false true hr hq hrace
  have hs := ((sameStrands_ordered hr).trans (sameStrands_raceStep hrace)).trans
    (sameStrands_noteAccess s2 ((storeReq n (rx s x) rel plain va).flight s1 0 loc) false true)
  generalize noteAccess s2 ((storeReq n (rx s x) rel plain va).flight s1 0 loc) false true = u at cf cb hs
  have hst := sameStrands_storeAt u { agent := (cc s).cs, core := s.cur, pc := (cst s).pc, va := va } loc (leBytes n (rx s x).toNat) true
  rw [storeAt_unwatched _ _ _ _ (cf.pro ▸ hw)] at hst ⊢
  have hlen := length_leBytes n (rx s x).toNat
  have hbytes := onlyBytes_writeLoc u loc (leBytes n (rx s x).toNat)
  have hread := readLoc_writeLoc u loc (bs := leBytes n (rx s x).toNat) (by rw [hlen]; have := storeOf_length h; omega)
  rw [hlen] at hbytes hread
  have wf := frame_writeLoc u loc (leBytes n (rx s x).toNat)
  generalize writeLoc u loc (leBytes n (rx s x).toNat) = v at hst hbytes hread wf
  obtain ⟨rf, rb, rs⟩ := frame_released rel v s.cur
  obtain ⟨gf, gb, gr⟩ := goOn_plain_frame ((cf.trans wf).trans rf) ((hs.trans hst).trans rs) hn
  refine ⟨onlyBytes_between cf cb hbytes (rf.trans gf) (rb.trans gb), ?_, (((cf.trans wf).trans rf).trans gf).onlyTheAccess, gr⟩
  rw [readLoc_of_sameBytes (rf.trans gf) (rb.trans gb), hread]

/-! ### Atomics -/

/-- The frame of an atomic that stores `w` at its place and returns `x`. -/
theorem atomic_frame {s s1 : State} {r : Req} {loc : Loc} (hn : Untraced s) (hq : TlbQuiet s) (hw : s.pro.watches = [])
    (hr : Reaches s r s1 loc) (who : Who) (n w d : Nat) (x : W64) :
    let t := goOn s (setReg (bumpRelease (storeAt (noteAccess (takeOrd s1) (r.flight s1 0 loc) true true) who loc (leBytes n w) true)
      s.cur) (cc s).cs d x)
    OnlyBytes s t loc n ∧ OnlyTheAccess s t ∧ (endsPass (cst s) (nextPc s) = false → OnlyRegisters s t [d]) := by
  obtain ⟨cf, cb⟩ := counted_takeOrd true true hr hq
  have hs := (sameStrands_ordered hr).trans (sameStrands_noteAccess (takeOrd s1) (r.flight s1 0 loc) true true)
  generalize noteAccess (takeOrd s1) (r.flight s1 0 loc) true true = u at cf cb hs
  have hst := sameStrands_storeAt u who loc (leBytes n w) true
  rw [storeAt_unwatched _ _ _ _ (cf.pro ▸ hw)] at hst ⊢
  have hbytes := onlyBytes_writeLoc u loc (leBytes n w)
  rw [length_leBytes] at hbytes
  have wf := frame_writeLoc u loc (leBytes n w)
  generalize writeLoc u loc (leBytes n w) = v at hst hbytes wf
  obtain ⟨gf, gb, gr⟩ := goOn_setReg_frame ((cf.trans wf).trans (accessFrame_bumpRelease v s.cur))
    ((hs.trans hst).trans (sameStrands_bumpRelease v s.cur)) hn d x
  have rf := (accessFrame_bumpRelease v s.cur).trans gf
  exact ⟨onlyBytes_between cf cb hbytes rf ((sameBytes_bumpRelease v s.cur).trans gb), ((cf.trans wf).trans rf).onlyTheAccess, gr⟩

/-! ### Tagged operations -/

/-- What setting a tag leaves: every memory, what is held, and the strands but for their run state and the agent that woke them. -/
structure TagFrame (s t : State) : Prop where
  cur : t.cur = s.cur
  pro : t.pro = s.pro
  mem : t.mem = s.mem
  host : t.host = s.host
  scr : ∀ c, (getCore t c).scr = (getCore s c).scr
  held : ∀ c, (getCore t c).held = (getCore s c).held
  cs : ∀ c, (getCore t c).cs = (getCore s c).cs
  strand : ∀ c n, ∃ r b, getStrand (getCore t c) n = { getStrand (getCore s c) n with run := r, by_ := b }

theorem TagFrame.trans {s t u : State} (h : TagFrame s t) (g : TagFrame t u) : TagFrame s u where
  cur := g.cur.trans h.cur
  pro := g.pro.trans h.pro
  mem := g.mem.trans h.mem
  host := g.host.trans h.host
  scr c := (g.scr c).trans (h.scr c)
  held c := (g.held c).trans (h.held c)
  cs c := (g.cs c).trans (h.cs c)
  strand c n := by
    obtain ⟨r, b, hr⟩ := h.strand c n
    obtain ⟨r', b', hr'⟩ := g.strand c n
    exact ⟨r', b', by rw [hr', hr]⟩

theorem tagFrame_refl (s : State) : TagFrame s s :=
  ⟨rfl, rfl, rfl, rfl, fun _ => rfl, fun _ => rfl, fun _ => rfl, fun _ _ => ⟨_, _, rfl⟩⟩

theorem tagFrame_setCore {s : State} {c : Nat} {k : Core} (h1 : k.scr = (getCore s c).scr) (h2 : k.held = (getCore s c).held)
    (h3 : k.cs = (getCore s c).cs) (h4 : k.strands = (getCore s c).strands) : TagFrame s (setCore s c k) := by
  refine ⟨rfl, rfl, rfl, rfl, fun d => ?_, fun d => ?_, fun d => ?_, fun d n => ⟨(getStrand (getCore s d) n).run,
    (getStrand (getCore s d) n).by_, ?_⟩⟩
  all_goals
    by_cases hd : d = c
    · subst hd
      simp only [getCore_setCore_self, getStrand, h1, h2, h3, h4]
    · rw [getCore_setCore_ne _ _ hd]

theorem wakeStrand_eq (c word : Nat) (by_ me : Nat × Nat) (t : Strand) :
    ∃ r b, wakeStrand c word by_ me t = { t with run := r, by_ := b } := by
  unfold wakeStrand
  dsimp only
  split
  · split <;> exact ⟨_, _, rfl⟩
  · split <;> exact ⟨_, _, rfl⟩

theorem getCore_wakeTag (s : State) (c word : Nat) (by_ : Nat × Nat) (d : Nat) : getCore (wakeTag s c word by_) d
    = { getCore s d with strands := (getCore s d).strands.map fun (i, t) => (i, wakeStrand c word by_ (i, (getCore s d).lid) t) } :=
  tget_map (f := fun k : Core => { k with strands := k.strands.map fun (i, t) => (i, wakeStrand c word by_ (i, k.lid) t) })
    rfl s.cores d

theorem tagFrame_wakeTag (s : State) (c word : Nat) (by_ : Nat × Nat) : TagFrame s (wakeTag s c word by_) := by
  have hk := getCore_wakeTag s c word by_
  refine ⟨rfl, rfl, rfl, rfl, fun d => by rw [hk], fun d => by rw [hk], fun d => by rw [hk], fun d n => ?_⟩
  rw [hk]
  exact tget_mapKeys (R := fun t u : Strand => ∃ r b, u = { t with run := r, by_ := b }) ⟨_, _, rfl⟩
    (fun i t => wakeStrand_eq c word by_ (i, (getCore s d).lid) t) n (getCore s d).strands

theorem tagFull_wakeTag (s : State) (c word : Nat) (by_ : Nat × Nat) (d w : Nat) :
    tagFull (wakeTag s c word by_) d w = tagFull s d w := by
  rw [tagFull, getCore_wakeTag]
  rfl

theorem any_tset_ne {α : Type} {t : Tbl α} {a k : Nat} (v : α) (h : k ≠ a) :
    (tset t a v).any (fun e => e.1 = k) = t.any fun e => e.1 = k := by
  induction t with
  | nil => simp [tset, h.symm]
  | cons e t ih =>
    obtain ⟨b, u⟩ := e
    rw [tset]
    split
    · simp [h.symm]
    · split
      · next hb => subst hb; simp [h.symm]
      · rw [List.any_cons, List.any_cons, ih]

theorem member_tset {t : Tbl Unit} {a k : Nat} (h : k ≠ a) : member (tset t a ()) k = member t k := any_tset_ne () h

theorem member_tdel {t : Tbl Unit} {a k : Nat} (h : k ≠ a) : member (tdel t a) k = member t k := by
  induction t with
  | nil => rfl
  | cons e t ih =>
    obtain ⟨b, u⟩ := e
    simp only [tdel, member] at ih ⊢
    split
    · next hb => subst hb; simp [h.symm, ih]
    · rw [List.any_cons, List.any_cons, ih]

/-- Setting a tag changes no other tag. -/
theorem putTag_frame (s : State) (c word : Nat) (full : Bool) (by_ : Nat × Nat) : TagFrame s (putTag s c word full by_)
    ∧ ∀ d w, d ≠ c ∨ w ≠ word → tagFull (putTag s c word full by_) d w = tagFull s d w := by
  unfold putTag
  split
  · exact ⟨tagFrame_refl s, fun _ _ _ => rfl⟩
  · refine ⟨TagFrame.trans (tagFrame_setCore ?_ ?_ ?_ ?_) (tagFrame_wakeTag ..), fun d w h => ?_⟩
    iterate 4 rfl
    rw [tagFull_wakeTag, tagFull, tagFull]
    by_cases hd : d = c
    · subst hd
      have hw : w ≠ word := h.resolve_left (fun h => h rfl)
      rw [getCore_setCore_self]
      cases full
      · exact member_tdel hw
      · exact member_tset hw
    · rw [getCore_setCore_ne _ _ hd]

theorem readLoc_of_tagFrame {s t : State} (h : TagFrame s t) (l : Loc) (n : Nat) : readLoc t l n = readLoc s l n := by
  cases l with
  | scr c o => simp only [readLoc, h.scr]
  | named pa => simp only [readLoc, hostGets, busOf, atsPage, h.host, h.mem]

/-- What one tagged operation stores before it sets its tag. -/
def tagStored (s : State) (c word : Nat) (k : TagKind) (v : W64) : State :=
  if tagWrites k then writeLoc s (.scr c (8 * word)) (leBytes 8 v.toNat) else s

theorem tagStored_frame (s : State) (c word : Nat) (k : TagKind) (v : W64) :
    AccessFrame s (tagStored s c word k v) ∧ SameStrands s (tagStored s c word k v)
    ∧ (tagWrites k = false → tagStored s c word k v = s)
    ∧ (tagWrites k = true → OnlyBytes s (tagStored s c word k v) (.scr c (8 * word)) 8) := by
  unfold tagStored
  cases tagWrites k
  · exact ⟨accessFrame_refl s, SameStrands.refl s, fun _ => rfl, nofun⟩
  · rw [if_pos rfl]
    have hb := onlyBytes_writeLoc s (.scr c (8 * word)) (leBytes 8 v.toNat)
    rw [length_leBytes] at hb
    exact ⟨frame_writeLoc .., sameStrands_writeLoc .., nofun, fun _ => hb⟩

theorem tagFull_setCore {s : State} {c : Nat} {k : Core} (h : k.full = (getCore s c).full) (d w : Nat) :
    tagFull (setCore s c k) d w = tagFull s d w := by
  rw [tagFull, tagFull, getCore_setCore]
  split
  · next hd => rw [h, hd]
  · rfl

theorem tagFull_bumpRelease (s : State) (c d w : Nat) : tagFull (bumpRelease s c) d w = tagFull s d w :=
  tagFull_setCore (k := { getCore s c with relCount := (getCore s c).relCount + 1 }) rfl d w

/-- A tagged operation sets its own tag alone, after what it stores. -/
theorem tagQuiet_frame (s : State) (who : Who) (c word : Nat) (k : TagKind) (v : W64) :
    TagFrame (tagStored s c word k v) (tagQuiet s who c word k v).1
    ∧ ∀ d w, d ≠ c ∨ w ≠ word → tagFull (tagQuiet s who c word k v).1 d w = tagFull (tagStored s c word k v) d w := by
  unfold tagQuiet
  dsimp only
  rw [← tagStored]
  obtain ⟨pf, pt⟩ := putTag_frame (tagStored s c word k v) c word (tagAfter k (tagFull (tagStored s c word k v) c word))
    (whoBy (tagStored s c word k v) who)
  generalize putTag (tagStored s c word k v) c word (tagAfter k (tagFull (tagStored s c word k v) c word))
    (whoBy (tagStored s c word k v) who) = t at pf pt
  have rf : TagFrame t (setCore t c (raceClear (getCore t c) (word / 8))) := tagFrame_setCore rfl rfl rfl rfl
  have rt := tagFull_setCore (s := t) (c := c) (k := raceClear (getCore t c) (word / 8)) rfl
  split
  · exact ⟨(pf.trans rf).trans (tagFrame_setCore rfl rfl rfl rfl),
      fun d w h => (tagFull_bumpRelease _ _ d w).trans ((rt d w).trans (pt d w h))⟩
  · exact ⟨pf.trans rf, fun d w h => (rt d w).trans (pt d w h)⟩

theorem portMatches_unwatched {s : State} (who : Who) (l : List Wrote) (p : Bool) (h : s.pro.watches = []) :
    portMatches s who l p = s := by
  unfold portMatches portHits
  rw [h]
  rfl

/-- Where no watch and no held operation meets it, a tagged operation is performed alone. -/
theorem tagPerform_alone {s : State} (who : Who) (c word : Nat) (k : TagKind) (v : W64) (p : Bool) (hw : s.pro.watches = [])
    (hh : (getCore s c).held = []) : tagPerform s who c word k v p = tagQuiet s who c word k v := by
  obtain ⟨hf, -⟩ := tagQuiet_frame s who c word k v
  obtain ⟨sf, -⟩ := tagStored_frame s c word k v
  have hp : (tagQuiet s who c word k v).1.pro.watches = [] := by rw [hf.pro, sf.pro, hw]
  have hheld : (getCore (tagQuiet s who c word k v).1 c).held = [] :=
    (hf.held c).trans ((congrArg Core.held (sf.core c) :).trans hh)
  unfold tagPerform tagDo
  dsimp only
  rw [portMatches_unwatched _ _ _ hp, ite_self, hheld]
  rfl

/-- A tagged operation writes its register, if any, and goes on. -/
theorem goOn_tag_frame {s u v w : State} {l : List Nat} (hu : Untraced s) (hf : AccessFrame s u) (hs : SameStrands s u)
    (ht : TagFrame u v) (hw : AccessFrame v w) (hx : ∃ x, cst w = { cst v with x := x })
    (hl : ∀ j, j ∉ l → xget (cst w) j = xget (cst v) j) :
    AccessFrame w (goOn s w) ∧ SameBytes w (goOn s w)
    ∧ (endsPass (cst s) (nextPc s) = false → ∀ j, j ∉ l → xget (cst (goOn s w)) j = xget (cst s) j) := by
  obtain ⟨r, b, hv⟩ := ht.strand u.cur (cc u).cs
  obtain ⟨x, hx⟩ := hx
  have hcs : (cc v).cs = (cc u).cs := by rw [cc, cc, ht.cur, ht.cs]
  have hv : cst v = { cst s with run := r, by_ := b } := by
    rw [← hs.cst, cst, hcs, cc, ht.cur]
    exact hv
  have hcw : cst w = { cst s with run := r, by_ := b, x := x } := by rw [hx, hv]
  obtain ⟨gf, gb, gc⟩ := goOn_frame (s := s) (u := w) (hw.ccs.trans (hcs.trans hf.ccs)) (hw.pro.trans (ht.pro.trans hf.pro))
    (by rw [hcw]) hu
  refine ⟨gf, gb, fun he j hj => ?_⟩
  rw [gc ((endsPass_congr (by rw [hcw]) (by rw [hcw])).trans he)]
  calc xget (completed (cst w) (nextPc s) true) j = xget (cst w) j := rfl
    _ = xget (cst v) j := hl j hj
    _ = xget (cst s) j := by rw [hv]; rfl

theorem tagFull_of_frame {s t : State} (h : AccessFrame s t) (d w : Nat) : tagFull t d w = tagFull s d w := by
  have hd : (getCore t d).full = (getCore s d).full := (congrArg Core.full (h.core d) :)
  rw [tagFull, tagFull, hd]

/-- The frame that the statement asks of a tagged operation. -/
theorem frameOfTagged (s t : State) (i : Instr) (k : TagKind) (d a b : Reg) (s1 : State) (c o : Nat)
    (h : tagOf i = some (k, d, a, b)) (hu : Free s [d.toNat, a.toNat, b.toNat]) (hc : OnCore s) (hn : Untraced s)
    (hq : TlbQuiet s) (hw : s.pro.watches = []) (hh : (getCore s c).held = []) (hr : Reaches s (tagReq s k d a b) s1 (.scr c o))
    (ht : tagCond k (tagFull s1 c (o / 8)) = true) (hb : tagReads k = true → uncorrectable s1 (.scr c o) 8 = none)
    (he : exec i s = .next t) :
    (tagWrites k = false → ∀ l n, readLoc t l n = readLoc s l n) ∧ (tagWrites k = true → OnlyBytes s t (.scr c (8 * (o / 8))) 8)
    ∧ (∀ c' w, c' ≠ c ∨ w ≠ o / 8 → tagFull t c' w = tagFull s c' w)
    ∧ (endsPass (cst s) (nextPc s) = false →
      ∀ j, j ∉ (if tagReads k then [d.toNat] else []) → xget (cst t) j = xget (cst s) j) := by
  obtain ⟨hplain, hreads⟩ := (taggedOperationActsOrWaits.1 s i k d a b s1 c o h hu hc hr).1 ht hb
  obtain ⟨cf, cb⟩ := counted_takeOrd (tagReads k) (tagWrites k) hr hq
  have hs := (sameStrands_ordered hr).trans (sameStrands_noteAccess (takeOrd s1) ((tagReq s k d a b).flight s1 0 (.scr c o))
    (tagReads k) (tagWrites k))
  have hheld : ∀ u, AccessFrame s u → (getCore u c).held = [] := fun u hf => (congrArg Core.held (hf.core c) :).trans hh
  generalize noteAccess (takeOrd s1) ((tagReq s k d a b).flight s1 0 (.scr c o)) (tagReads k) (tagWrites k) = u
    at cf cb hs hplain hreads
  rw [tagPerform_alone _ _ _ _ _ _ (cf.pro ▸ hw) (hheld u cf)] at hplain hreads
  obtain ⟨sf, ss, snone, sbytes⟩ := tagStored_frame u c (o / 8) k (rx s b)
  obtain ⟨tf, tt⟩ := tagQuiet_frame u { agent := (cc s).cs, core := s.cur, pc := (cst s).pc, va := rx s a } c (o / 8) k (rx s b)
  generalize tagQuiet u { agent := (cc s).cs, core := s.cur, pc := (cst s).pc, va := rx s a } c (o / 8) k (rx s b) = q
    at hplain hreads tf tt
  obtain ⟨w, hx, wf, wb, hreg, hl⟩ : ∃ w, t = goOn s w ∧ AccessFrame q.1 w ∧ SameBytes q.1 w
      ∧ (∃ x, cst w = { cst q.1 with x := x })
      ∧ ∀ j, j ∉ (if tagReads k then [d.toNat] else []) → xget (cst w) j = xget (cst q.1) j := by
    cases hk : tagReads k with
    | false =>
      cases (hplain hk).symm.trans he
      exact ⟨q.1, rfl, accessFrame_refl _, sameBytes_refl _, ⟨_, rfl⟩, fun _ _ => rfl⟩
    | true =>
      cases (hreads hk).symm.trans he
      have hcs : (cc s).cs = (cc q.1).cs := by
        rw [← (cf.trans sf).ccs, cc, cc, tf.cur, tf.cs]
      rw [hcs]
      obtain ⟨rf, rb⟩ := frame_setReg q.1 d.toNat q.2
      have hr : cst (setReg q.1 (cc q.1).cs d.toNat q.2) = xset (cst q.1) d.toNat q.2 := cst_setReg
      exact ⟨_, rfl, rf, rb, ⟨_, hr.trans (xset_eq ..)⟩, fun j hj => by rw [hr, xget_xset_ne _ (by simpa using hj)]⟩
  subst hx
  obtain ⟨gf, gb, gr⟩ := goOn_tag_frame hn (cf.trans sf) (hs.trans ss) tf wf hreg hl
  have hlate : ∀ l n, readLoc (goOn s w) l n = readLoc (tagStored u c (o / 8) k (rx s b)) l n := fun l n =>
    (readLoc_of_sameBytes (wf.trans gf) (wb.trans gb) l n).trans (readLoc_of_tagFrame tf l n)
  refine ⟨fun hk l n => ?_, fun hk l hl => ?_, fun c' w' hne => ?_, gr⟩
  · rw [hlate, snone hk, readLoc_of_sameBytes cf cb]
  · rw [hlate, sbytes hk l fun i hi => by rw [byteAt_of_frame cf, byteAt_of_frame cf]; exact hl i hi, readLoc_of_sameBytes cf cb]
  · rw [tagFull_of_frame (wf.trans gf), tt c' w' hne, tagFull_of_frame (cf.trans sf)]

/-- Settles O53: each access translates at a quiet TLB, is counted, stores at its place alone and goes on. -/
theorem frameOfLoadsAndStores : Obligations.FrameOfLoadsAndStores := by
  refine ⟨frameOfLoads, frameOfStores, ?_, ?_, frameOfTagged⟩
  · intro s t i op z o d a b s1 loc h hu hc hn hq hw hr hb ht
    cases (atomicStoresItsResultAndReturnsTheOldValue.1 s i op z o d a b s1 loc h hu hc hr hb).symm.trans ht
    exact atomic_frame hn hq hw hr ..
  · intro s t z o sc d a b s1 loc hu hc hn hq hw hr hb ht
    cases (atomicStoresItsResultAndReturnsTheOldValue.2 s z o sc d a b s1 loc hu hc hr hb).symm.trans ht
    exact atomic_frame hn hq hw hr ..

end Sys2Proof.Machine
end

section
/-! SUPPORT. O58: a step runs the instruction, word or event of the turn at the head of its agenda. -/

namespace Sys2Proof.Machine

open Sys2Proof Sys2Proof.Statements

/-! ### The turn at the head of the agenda -/

theorem step_turn {s : State} {t : Turn} {rest : List Turn} (h : s.agenda = t :: rest) :
    step s = runTurn { s with agenda := rest } t := by
  rw [step, h]

theorem settleStops_idle {s : State} (hf : s.pro.freeze = none) (hs : stopDue s = false) : settleStops s = .next s := by
  unfold settleStops
  rw [hf]
  simp only [Option.isSome_none, Bool.false_eq_true, if_false, andThen, hs]

/-! ### The conductor (R19, R20, R187) -/

theorem runFetched_word {s : State} (hf : (cst s).flight = none)
    (hp : isPrologue s.cur = false ∨ (cst s).block < 4096) (hw : asksWalk s s.cur (cst s).pc = false) :
    (∀ x, fetchedWord (cst s) = some x → runFetched s = exec (decodeC x) s)
    ∧ ∀ s' w, fetchedWord (cst s) = none → farFetch s s.cur (cst s).pc = none → fetchAt s s.cur (cst s).pc = (s', .ok w) →
      runFetched s = exec (decodeC w) s' := by
  have hlim : (isPrologue s.cur && decide (4096 ≤ (cst s).block)) = false := by
    rcases hp with h | h
    · rw [h, Bool.false_and]
    · rw [decide_eq_false (by omega), Bool.and_false]
  refine ⟨fun x hx => ?_, fun s' w hx hfar hat => ?_⟩
  · unfold runFetched
    simp [hf, hlim, hw, hx]
  · unfold runFetched
    simp [hf, hlim, hw, hx, hfar, hat]

theorem conductorTurn_runs {s : State} {rest : List Turn} {c n : Nat} {d : Bool} (h : s.agenda = .issue c d :: rest)
    (hc : c < 3076) (hf : s.pro.freeze = none) (hs : stopDue { s with agenda := rest } = false)
    (hr : issueReady { s with agenda := rest } c = true) (hp : pickStrand { s with agenda := rest } c = some n) :
    step s = runFetched (prepIssue { s with agenda := rest } c d n) := by
  rw [step_turn h]
  refine (if_pos hc).trans ?_
  rw [settleStops_idle (s := { s with agenda := rest }) hf hs]
  simp only [andThen, issueTurn, if_pos hr, hp]

/-! ### An engine -/

theorem engineTurn_runs {s : State} {c : Nat} {q : Queue} {w : QWord} {ws : List QWord}
    (hr : engineReady s c q.code.toNat = true) (hq : queued (getCore s c) q.code.toNat = w :: ws)
    (ht : (getCore s c).timed = false ∨ headReads (getCore s c) q = false) :
    engineTurn s c q = exec (decodeE q w.bits) { s with cur := c } := by
  have hb : ((getCore s c).timed && headReads (getCore s c) q) = false := by
    rcases ht with h | h
    · rw [h, Bool.false_and]
    · rw [h, Bool.and_false]
  have hh : headBits (getCore s c) q.code.toNat = w.bits := by
    rw [headBits, hq]
    rfl
  rw [engineTurn, hb, if_neg Bool.false_ne_true, engineRun, if_pos hr, hh]

theorem engineTurn_deferred {s : State} {c : Nat} {q : Queue} {w : QWord} {ws : List QWord} (d : Bool) (hc : c < 3072)
    (hf : s.pro.freeze = none) (hs : stopDue s = false)
    (hr : engineReady s c q.code.toNat = true) (hq : queued (getCore s c) q.code.toNat = w :: ws)
    (ht : (getCore s c).timed = false ∨ headReads (getCore s c) q = false) :
    (if c < 3072 then andThen (settleStops s) fun s => engineTurn { s with defer := d } c q else .fault .noSuchAgent)
      = exec (decodeE q w.bits) { s with cur := c, defer := d } := by
  rw [if_pos hc, settleStops_idle hf hs]
  exact engineTurn_runs (s := { s with defer := d }) hr hq ht

/-! ### Events -/

theorem eventTurn_runs {s : State} {c : Nat} {i : Instr} (hc : coreEvent i = true → (getCore s c).run ≠ .frozen)
    (hb : blockWrite i = true ∨ firmwareAct i = true → s.mg.recovery = false) : eventTurn s c i = exec i { s with cur := c } := by
  unfold eventTurn
  split
  · next h =>
    simp only [Bool.and_eq_true, beq_iff_eq] at h
    exact absurd h.2 (hc h.1)
  · split
    · next h =>
      simp only [Bool.and_eq_true, Bool.or_eq_true] at h
      rw [hb h.1] at h
      exact absurd h.2 Bool.false_ne_true
    · rfl

theorem eventTurn_ignored {s : State} {c : Nat} {i : Instr} (h : (coreEvent i = true ∧ (getCore s c).run = .frozen)
    ∨ ((blockWrite i = true ∨ firmwareAct i = true) ∧ s.mg.recovery = true)) : eventTurn s c i = .next s := by
  unfold eventTurn
  rcases h with h | h
  · rw [if_pos (by simpa using h)]
  · split
    · rfl
    · rw [if_pos (by simpa using h)]

theorem stepRunsTheDecodedInstruction : StepRunsTheDecodedInstruction := by
  refine ⟨?_, ?_, ?_, ?_, ?_⟩
  · intro s rest c n d s' w h hc s0 hf hs hr hp t hb hw hfl
    rw [conductorTurn_runs h hc hf hs hr hp]
    obtain ⟨h1, h2⟩ := runFetched_word (s := t) hfl hb hw
    exact ⟨h1, h2 s' w⟩
  · intro s rest c q w ws _ hc s0 hf hs hr hq ht
    refine ⟨fun h => ?_, fun h => ?_⟩
    · rw [step_turn h]
      exact engineTurn_deferred false hc hf hs hr hq ht
    · rw [step_turn h]
      exact engineTurn_deferred true hc hf hs hr hq ht
  · intro s rest c i hc hrun hrec
    refine ⟨fun h => ?_, fun h => ?_⟩
    · rw [step_turn h]
      exact (if_pos hc).trans (eventTurn_runs (s := { s with agenda := rest, defer := false }) hrun hrec)
    · rw [step_turn h]
      exact (if_pos hc).trans (eventTurn_runs (s := { s with agenda := rest, defer := true }) hrun hrec)
  · exact fun s rest => ⟨fun _ _ h => step_turn h, fun _ _ h => step_turn h, fun _ h => step_turn h, fun _ _ _ h => step_turn h⟩
  · intro s h
    rw [step, h]

/-- Settles O58: each turn runs what it names once nothing stops it. -/
theorem stepRunsItsTurn : Obligations.StepRunsItsTurn := by
  refine ⟨stepRunsTheDecodedInstruction, fun s rest c i h hc hi => ?_⟩
  rw [step_turn h]
  exact (if_pos hc).trans (eventTurn_ignored (s := { s with agenda := rest, defer := false }) hi)

end Sys2Proof.Machine
end

section
/-! SUPPORT. O33: a vector memory word that may issue and passes its checks performs its accesses, owes them, or waits on a tag. -/

namespace Sys2Proof.Machine

open Sys2Proof Sys2Proof.Statements

section
variable {kind : VMemKind} {load : Bool} {w : VWord} {s s1 : State} {qw : QWord} {l : List VAcc}

theorem vmemUses_lat (kind : VMemKind) (load : Bool) (w : VWord) : (vmemUses kind load w).lat = if load then 6 else 1 := by
  cases kind <;> cases load <;> rfl

theorem orAsk_none {t : State} {q : Nat} {m : List VAcc} (a : Act) (h : walksAsked t q m = none) : orAsk t q m a = a := by
  rw [orAsk, h]

/-- The accesses of a word that may issue lie elsewhere: they are owed. -/
theorem vecMem_far (h : vecMemGoes (vecSettle s) kind load w qw s1 l) (ho : ownAcc s1.cur l = false) :
    vecMem kind load w s = .next (vecStart (takeWord s1 0 w.h qw).1
      { i := (takeWord s1 0 w.h qw).2
        dest := if load then vmemDest kind w (snapOf qw (w.va.extractLsb' 0 4)) (cc (vecSettle s)) else .none
        flags := 0, acc := some l, load := load } false) := by
  obtain ⟨hm, hb, hh, hr, ha, hk⟩ := h
  unfold vecMem
  refine congrArg Host.Outcome.next (issueState_go (f := fun t i => vecStart t
    { i := i, dest := if load then vmemDest kind w (snapOf qw (w.va.extractLsb' 0 4)) (cc (vecSettle s)) else .none
      flags := 0, acc := some l, load := load } false) hm hb hh ?_)
  simp only [hr, orAsk_none _ ha, hk, ho]
  rfl

/-- The accesses of a plain word that may issue lie in the own scratchpad: they are performed. -/
theorem vecMem_own (hp : kind = .row none ∨ kind = .index ∨ kind = .mask) (h : vecMemGoes (vecSettle s) kind load w qw s1 l)
    (ho : ownAcc s1.cur l = true) (hc : vmemPortChecks load l s1 = none) :
    let u := takeWord s1 0 w.h qw
    let r := vmemPerform load qw l u.1
    let d : VDest := if load then vmemDest kind w (snapOf qw (w.va.extractLsb' 0 4)) (cc (vecSettle s)) else .none
    vecMem kind load w s = .next (vecStart r.1
      { i := { u.2 with due := some (curCyc s1 + (if load then 6 else 1)) }, dest := destFill d r.2, flags := 0, acc := none } false) := by
  obtain ⟨hm, hb, hh, hr, ha, hk⟩ := h
  intro u r d
  have ht : u.2.t = curCyc s1 := takeWord_t ..
  rw [← ht, ← vmemUses_lat kind load w]
  unfold vecMem
  rcases hp with rfl | rfl | rfl
  all_goals
    refine congrArg Host.Outcome.next (issueState_go (f := fun t i => vecStart (vmemPerform load qw l t).1
      { i := { i with due := some (i.t + (vmemUses _ load w).lat) }, dest := destFill d (vmemPerform load qw l t).2
        flags := 0, acc := none } false) hm hb hh ?_)
    simp only [hr, orAsk_none _ ha, hk, ho, hc]
    rfl

/-- A tagged word whose elements all meet their condition acts on all of them. -/
theorem vecMem_tags {k : TagKind} (h : vecMemGoes (vecSettle s) (.row (some k)) load w qw s1 l)
    (ho : ownAcc s1.cur l = true) (hf : (if load then readFlt s1 0 (lowVa l) l else none) = none)
    (ht : tagFail k (cc s1).full l = none) :
    let u := takeWord s1 0 w.h qw
    let r := tagAll u.1.cur 0 qw k l (noteAll u.1.cur load (!load) false l u.1)
    let d : VDest := if load then vmemDest (.row (some k)) w (snapOf qw (w.va.extractLsb' 0 4)) (cc (vecSettle s)) else .none
    vecMem (.row (some k)) load w s = .next (vecStart r.1
      { i := { u.2 with due := some (curCyc s1 + (if load then 6 else 1)) }, dest := destFill d r.2, flags := 0, acc := none } false) := by
  obtain ⟨hm, hb, hh, hr, ha, hk⟩ := h
  intro u r d
  have hc : u.2.t = curCyc s1 := takeWord_t ..
  rw [← hc, ← vmemUses_lat (.row (some k)) load w]
  unfold vecMem
  refine congrArg Host.Outcome.next (issueState_go
    (f := fun t i => let r := tagAll t.cur 0 qw k l (noteAll t.cur load (!load) false l t)
      vecStart r.1 { i := { i with due := some (i.t + (vmemUses _ load w).lat) }, dest := destFill d r.2
                     flags := 0, acc := none } false) hm hb hh ?_)
  simp only [hr, orAsk_none _ ha, hk, ho, hf, ht]
  rfl

/-- A tagged word with an element that fails its condition waits on it, outside a timed section. -/
theorem vecMem_tagWaits {k : TagKind} {a : VAcc} (h : vecMemGoes (vecSettle s) (.row (some k)) load w qw s1 l)
    (ho : ownAcc s1.cur l = true) (hf : (if load then readFlt s1 0 (lowVa l) l else none) = none)
    (ht : tagFail k (cc s1).full l = some a) (hn : (cc (vecSettle s)).timed = false) :
    vecMem (.row (some k)) load w s = .next (noteWait (vecSettle s) 0 qw [.flag 1 a.va]) := by
  obtain ⟨hm, hb, hh, hr, ha, hk⟩ := h
  unfold vecMem
  refine congrArg Host.Outcome.next ((issueState_wait (hs := [.flag 1 a.va]) hm hb hh ?_).trans ?_)
  · simp only [hr, orAsk_none _ ha, hk, ho, hf, ht]
    rfl
  · rw [holdWord, hn]
    rfl

end

/-- A plain vector memory word of the table, as the shape that it runs. -/
theorem exec_vecMemOf {i : Instr} {kind : VMemKind} {load : Bool} {w : VWord} (h : vecMemOf i = some (kind, load, w)) (s : State) :
    exec i s = vecMem kind load w s ∧ (kind = .row none ∨ kind = .index ∨ kind = .mask) := by
  cases i
  case vld | vst =>
    cases h
    exact ⟨rfl, .inl rfl⟩
  case vgath | vscat =>
    cases h
    exact ⟨rfl, .inr (.inl rfl)⟩
  case vldm | vstm =>
    cases h
    exact ⟨rfl, .inr (.inr rfl)⟩
  all_goals cases h

theorem exec_vecTagOf {i : Instr} {k : TagKind} {load : Bool} {w : VWord} (h : vecTagOf i = some (k, load, w)) (s : State) :
    exec i s = vecMem (.row (some k)) load w s := by
  cases i
  case vldf | vldt | vste | vstf =>
    cases h
    rfl
  all_goals cases h

/-- Settles O33: past its checks a vector memory word accesses, owes its accesses or waits on a tag. -/
theorem vectorMemoryWordsAccessOrWait : Obligations.VectorMemoryWordsAccessOrWait := by
  refine ⟨?_, ?_⟩
  · intro s i kind load w qw s1 l h t hg d
    obtain ⟨he, hp⟩ := exec_vecMemOf h s
    rw [he]
    exact ⟨vecMem_own hp hg, vecMem_far hg⟩
  · intro s i k load w qw s1 l h t hg ho hf d
    rw [exec_vecTagOf h]
    have hf : (if load then readFlt s1 0 (lowVa l) l else none) = none := by
      cases load
      · rfl
      · exact hf rfl
    exact ⟨vecMem_tags hg ho hf, fun a => vecMem_tagWaits hg ho hf⟩

end Sys2Proof.Machine
end

section
/-! SUPPORT. O48: the region table, translations, folds, channels and samples change as their commands and events say. -/

namespace Sys2Proof.Machine

open Sys2Proof Sys2Proof.Statements

/-! ### The region table (R393 to R398) -/

theorem dwOf_ofNat (n i : Nat) : dwOf (BitVec.ofNat 256 n) i = BitVec.ofNat 64 (n % 2 ^ 256 / 2 ^ (64 * i)) := by
  apply BitVec.eq_of_toNat_eq
  simp [dwOf, Nat.shiftRight_eq_div_pow]

/-- Replacing a part of an entry leaves the others. -/
theorem dwOf_putDw_ne (e : BitVec 256) {dw i : Nat} (v : W64) (hi : i < 4) (h : i ≠ dw) : dwOf (putDw e dw v) i = dwOf e i := by
  have hp : partOf e dw v i = (dwOf e i).toNat := if_neg h
  have h0 := partOf_lt e dw v 0
  have h1 := partOf_lt e dw v 1
  have h2 := partOf_lt e dw v 2
  have h3 := partOf_lt e dw v 3
  apply BitVec.eq_of_toNat_eq
  rw [putDw_eq, dwOf_ofNat, BitVec.toNat_ofNat, ← hp, fourParts]
  obtain rfl | rfl | rfl | rfl : i = 0 ∨ i = 1 ∨ i = 2 ∨ i = 3 := by omega
  all_goals
    norm_num at h0 h1 h2 h3 ⊢
    omega

theorem rtShadowWrite_free {s : State} {e dw : Nat} {v : W64} (he : e < 64) (hd : dw < 4) (hb : s.mm.busy = false) :
    exec (.rtShadowWrite e dw v) s
      = .next (setMm s { s.mm with shd := tput 0 s.mm.shd e (putDw (tget 0 s.mm.shd e) dw (v &&& rtMask dw)) }) := by
  change execRtShadowWrite e dw v s = _
  rw [execRtShadowWrite, if_neg (by omega), hb]
  rfl

theorem regionTableSwitchesAndRefuses : RegionTableSwitchesAndRefuses := by
  intro s m refused
  refine ⟨fun hb => ?_, fun hb => ⟨?_, fun i w hf => ?_, fun hf hn ha => ?_, fun hf hn => ?_⟩, fun hb hd => ?_, fun hb hc ho => ?_,
    fun _ _ _ => rfl, fun e dw v he hd => ⟨fun hb => ?_, fun hb => ?_⟩, fun v => ⟨fun hp => ?_, fun hp => ?_⟩⟩
  · exact ⟨if_pos hb, if_pos hb⟩
  · exact if_neg (by simp [m, hb])
  · change execRtSwitch s = _
    simp only [execRtSwitch, m, hb, hf, Bool.false_eq_true, if_false]
    rfl
  · change execRtSwitch s = _
    simp only [execRtSwitch, m, hb, hf, Bool.false_eq_true, if_false]
    exact if_pos ⟨hn, ha⟩
  · change execRtSwitch s = _
    simp only [execRtSwitch, m, hb, hf, Bool.false_eq_true, if_false]
    refine if_neg fun h => ?_
    rcases hn with hn | hn
    · exact h.1 hn
    · exact Bool.false_ne_true (hn.symm.trans h.2)
  · refine if_pos ?_
    rcases hd with h | h
    · simp [m, hb, h]
    · simp [m, hb, h]
  · exact if_neg (by simp [m, hc, ho])
  · change execRtShadowWrite e dw v s = _
    rw [execRtShadowWrite, if_neg (by omega), if_pos hb]
    rfl
  · refine ⟨_, rtShadowWrite_free he hd hb, ?_, fun j hj hne => ?_, fun i hi => ?_⟩
    · rw [setMm, tget_tput_self, dwOf_putDw _ _ hd]
      rfl
    · rw [setMm, tget_tput_self, dwOf_putDw_ne _ _ hj hne]
    · rw [setMm, tget_tput, if_neg hi]
  · exact if_pos (by simpa using hp)
  · exact if_neg (by simpa using hp)

/-! ### Shootdowns (R388, R389) -/

theorem shootdown_refused {s : State} {kind : Nat} (asn : Nat) (h : s.mm.invBusy = true ∨ kind = 2 ∧ (invRange s).2 = 0) :
    shootdown s kind asn = { s with mm := { s.mm with invErr := true } } := by
  refine if_pos ?_
  simp only [Bool.or_eq_true, Bool.and_eq_true, decide_eq_true_eq]
  tauto

theorem shootdown_drops {s : State} {kind : Nat} (asn : Nat) (hk : kind ≤ 2) (h : s.mm.invBusy = false)
    (hn : kind ≠ 2 ∨ (invRange s).2 ≠ 0) :
    shootdown s kind asn =
      let t := dropTlbs s (invKind kind asn (invRange s))
      setMm t { t.mm with invBusy := true, inv := BitVec.ofNat 64 (kind + asn % 4096 * 65536), invAt := invRange s } := by
  refine if_neg ?_
  simp only [Bool.or_eq_true, Bool.and_eq_true, decide_eq_true_eq, h, Bool.false_eq_true, false_or]
  omega

theorem invKind_all (asn : Nat) (r : Nat × Nat) : invKind 0 asn r = fun _ => true := rfl

theorem invKind_asn (asn : Nat) (r : Nat × Nat) : invKind 1 asn r = fun e => decide (e.asn = asn) :=
  funext fun _ => Bool.and_true _

/-! ### Walks (R383, R386) -/

/-- The walk that a pool ends is one of its own. -/
theorem poolOver_walks (s : State) (p : Nat) : let u : State := { s with fresh := s.fresh + 1 }
    ((∀ w ∈ s.mm.walking, poolOf s w.cluster ≠ p) → poolOver s p = u)
    ∧ ((∃ w ∈ s.mm.walking, poolOf s w.cluster = p) → ∃ w ∈ s.mm.walking, poolOf s w.cluster = p ∧ poolOver s p = walkOver u w) := by
  intro u
  have hmem (w : WalkReq) : w ∈ s.mm.walking.filter (fun w => decide (poolOf s w.cluster = p))
      ↔ w ∈ s.mm.walking ∧ poolOf s w.cluster = p := by simp
  unfold poolOver takeFresh
  dsimp only
  generalize s.mm.walking.filter (fun w => decide (poolOf s w.cluster = p)) = l at hmem
  refine ⟨fun h => ?_, fun h => ?_⟩
  · have hl : l = [] := List.eq_nil_iff_forall_not_mem.mpr fun w hw => h w ((hmem w).mp hw).1 ((hmem w).mp hw).2
    rw [hl]
    rfl
  · obtain ⟨w, hw⟩ := h
    have hlen := List.length_pos_of_mem ((hmem w).mpr hw)
    have hi := Nat.mod_lt (Config.freeWalk s.fresh) hlen
    obtain ⟨hin, hpool⟩ := (hmem _).mp (List.getElem_mem hi)
    refine ⟨_, hin, hpool, ?_⟩
    rw [List.getElem?_eq_getElem hi]

/-- A walk that finds its leaf, with nothing standing behind its clusters' requests. -/
theorem walkOver_found {s s1 : State} {w : WalkReq} {leaf : W64} {lvl : Nat} (hl : s.mm.late = [])
    (hw : hubWalk { s with mm := { s.mm with walking := s.mm.walking.erase w } } w.asn w.root w.va = (s1, .ok (leaf, lvl))) :
    walkOver s w = w.waiters.foldl wakeWalk
      ((walkClusters w.waiters).foldl (fun s c => ctlbFill s c (mkTlbE w.asn w.va leaf lvl)) s1) := by
  have hp (f : Nat × Nat → Bool) : s.mm.late.partition f = ([], s.mm.late) := by
    rw [hl]
    rfl
  have hf : fillWalk { s with mm := { s.mm with walking := s.mm.walking.erase w } } w
      = (walkClusters w.waiters).foldl (fun s c => ctlbFill s c (mkTlbE w.asn w.va leaf lvl)) s1 := by rw [fillWalk, hw]
  unfold walkOver
  dsimp only
  rw [hp]
  exact congrArg (w.waiters.foldl wakeWalk) hf

/-- The walks in progress of a pool. -/
def poolBusy (s : State) (p : Nat) : Nat := (s.mm.walking.filter fun v => poolOf s v.cluster = p).length

theorem mem_insKey {α : Type} {k : List Nat} {a : α} {l : List (List Nat × α)} {x : List Nat × α} (h : x ∈ insKey k a l) :
    x = (k, a) ∨ x ∈ l := by
  induction l with
  | nil => simpa [insKey] using h
  | cons e l ih =>
    obtain ⟨k', b⟩ := e
    rw [insKey] at h
    split at h
    · exact List.mem_cons.mp h
    · rcases List.mem_cons.mp h with rfl | h
      · exact .inr List.mem_cons_self
      · exact (ih h).imp_right (List.mem_cons_of_mem _)

theorem mem_of_mem_sortKey {α : Type} {l : List (List Nat × α)} {x : List Nat × α} (h : x ∈ sortKey l) : x ∈ l := by
  induction l with
  | nil => exact h
  | cons e l ih =>
    rcases mem_insKey h with rfl | h
    · exact List.mem_cons_self
    · exact List.mem_cons_of_mem _ (ih h)

/-- The request that a pool takes next is for a cluster that it serves. -/
theorem poolNext_pool {s : State} {p : Nat} {w : WalkReq} (h : poolNext s p = some w) : poolOf s w.cluster = p := by
  unfold poolNext at h
  obtain ⟨⟨k, v⟩, hx, rfl⟩ := Option.map_eq_some_iff.mp h
  obtain ⟨⟨v', i⟩, hv, he⟩ := List.mem_map.mp (mem_of_mem_sortKey (List.mem_of_mem_head? hx))
  cases he
  simpa using (List.mem_filter.mp hv).2

/-- No pool walks more than it has walkers (R397). -/
theorem poolBusy_startWalk {s : State} (h : ∀ p, poolBusy s p ≤ 128 / s.mm.mode) (q p : Nat) :
    poolBusy (startWalk s q) p ≤ 128 / s.mm.mode := by
  unfold startWalk
  split
  · exact h p
  next w hw =>
    dsimp only
    split
    · have hmap : ((s.mm.walking.map fun v => if v.serves w.asn w.va then v.join w.waiters else v).filter
          fun v => poolOf s v.cluster = p).length = poolBusy s p := by
        rw [List.filter_map, List.length_map]
        refine congrArg List.length (List.filter_congr fun v _ => ?_)
        dsimp only [Function.comp]
        split <;> rfl
      exact hmap.trans_le (h p)
    · split
      next hroom =>
        have happ : ((s.mm.walking ++ [w]).filter fun v => poolOf s v.cluster = p).length
            = poolBusy s p + if q = p then 1 else 0 := by
          rw [List.filter_append, List.length_append, poolBusy]
          simp only [List.filter_cons, List.filter_nil, poolNext_pool hw, decide_eq_true_eq]
          split <;> rfl
        refine happ.trans_le ?_
        split
        · next hqp =>
          subst hqp
          exact hroom
        · exact h p
      · exact h p

/-- A miss that finds 64 requests of its cluster outstanding stands behind them (R386). -/
theorem requestWalk_late {s : State} {n : Nat} {va : W64}
    (hn : ∀ w ∈ s.mm.walks ++ s.mm.walking, (w.ofCluster (clusterOf s.cur) && w.serves (getTask s (cc s).task).asn va) = false)
    (hf : 64 ≤ outstanding s (clusterOf s.cur)) :
    (requestWalk s n va).mm.walks = s.mm.walks ∧ (requestWalk s n va).mm.walking = s.mm.walking
      ∧ (s.cur, n) ∈ (requestWalk s n va).mm.late := by
  have hany : ¬ ((s.mm.walks ++ s.mm.walking).any fun w =>
      w.ofCluster (clusterOf s.cur) && w.serves (getTask s (cc s).task).asn va) = true := by
    rw [Bool.not_eq_true, List.any_eq_false]
    exact fun w hw => by rw [hn w hw]; decide
  unfold requestWalk
  dsimp only
  rw [if_neg hany, if_pos hf]
  refine ⟨rfl, rfl, ?_⟩
  split
  · next h => simpa using h
  · exact List.mem_append_right _ List.mem_cons_self

/-! ### Folds (R392, R511) -/

/-- A fold with no record of its own takes the one record that is free. -/
theorem foldApply_new {s : State} {f : Fold} {i : Nat}
    (hf : stFind s (fun w p => w.getLsbD 0 && decide ((w.extractLsb' 2 2).toNat = f.size)
      && decide ((w.extractLsb' 16 12).toNat = f.asn) && p == f.page) 0 s.pro.stsize = none)
    (hi : stFree (awakenSpan s (stAddr s 0) (64 * s.pro.stsize)) 0 (awakenSpan s (stAddr s 0) (64 * s.pro.stsize)).pro.stsize = [i]) :
    foldApply s f = stPut { awakenSpan s (stAddr s 0) (64 * s.pro.stsize) with
        fresh := (awakenSpan s (stAddr s 0) (64 * s.pro.stsize)).fresh + 1 } i
      [(BitVec.ofNat 64 (1 + (if f.lost then 2 else 0) + f.size * 4 + f.asn * 65536)).toNat, f.page.toNat, f.rd, f.wr, f.rem, 0, 0, 0] := by
  unfold foldApply
  dsimp only
  rw [hf]
  dsimp only [Option.map_none, Option.getD_none]
  rw [hi]
  dsimp only [takeFresh, List.length_singleton]
  rw [Nat.mod_one]
  rfl

/-! ### Race samples (R97) -/

theorem any_tset_self {α : Type} (t : Tbl α) (a : Nat) (v : α) : (tset t a v).any (fun e => e.1 = a) = true := by
  induction t with
  | nil => simp [tset]
  | cons e t ih =>
    obtain ⟨b, u⟩ := e
    rw [tset]
    split
    · simp
    · split
      · simp
      · rw [List.any_cons, ih, Bool.or_true]

theorem any_tdel_self {α : Type} (t : Tbl α) (a : Nat) : (tdel t a).any (fun e => e.1 = a) = false := by
  induction t with
  | nil => rfl
  | cons e t ih =>
    obtain ⟨b, u⟩ := e
    rw [tdel]
    split
    · exact ih
    · next hb => simp [ih, Ne.symm hb]

/-- A target outside the device's own keeps no sample (R96). -/
theorem raceSampleReplace_outside (s : State) {target : Nat} (old new : Nat) (h : 12 < target) :
    exec (.raceSampleReplace target old new) s = .next s := by
  have hd : decide (target ≤ 12) = false := decide_eq_false (by omega)
  change execRaceSampleReplace target old new s = _
  simp only [execRaceSampleReplace, hd, Bool.and_false, Bool.false_and, Bool.false_eq_true, if_false]

theorem raceSampleReplace_own {s : State} {target old new : Nat} (ht : target ≤ 12) (ho : paTarget (old * 64) = target)
    (hn : paTarget (new * 64) = target) (hne : old ≠ new)
    (hroom : ((tdel s.samp old).filter fun e => paTarget (e.1 * 64) = target).length < 1024) :
    ∃ t, exec (.raceSampleReplace target old new) s = .next t ∧ t.samp.any (fun e => e.1 = new) = true
      ∧ t.samp.any (fun e => e.1 = old) = false := by
  refine ⟨_, rfl, ?_⟩
  simp only [ho, hn, ht, decide_true, Bool.and_true, hroom, Bool.true_and, if_true]
  split
  · exact ⟨any_tset_self .., (any_tset_ne none hne).trans (any_tdel_self ..)⟩
  · next h => exact ⟨by simpa using h, any_tdel_self ..⟩

theorem hbmRetire_eq (s : State) {k c : Nat} (hk : k < 8) (hc : c < 512) :
    retireChannel s k c = { s with mm := { s.mm with ret := tset s.mm.ret (512 * k + c) () } } := by
  rw [retireChannel, Nat.mod_eq_of_lt hk, Nat.mod_eq_of_lt hc]
  rfl

/-- Bit `k` of the stacks in self-refresh once `k` enters, and once it leaves. -/
theorem getLsbD_selfRefresh (b : Byte) {k : Nat} (h : k < 8) :
    (b ||| (1#8 <<< k)).getLsbD k = true ∧ (b &&& ~~~(1#8 <<< k)).getLsbD k = false := by
  simp [h]

theorem translationsAreFilledAndShotDown : TranslationsAreFilledAndShotDown := by
  refine ⟨fun s asn => ⟨fun hb => ?_, fun hb => ⟨?_, ?_, fun hn => ?_, fun hn => ?_⟩⟩, fun s hb => ⟨fun hw => ?_, fun hw => ?_⟩,
    fun s hw => ?_, poolOver_walks, fun s s1 w leaf lvl => walkOver_found, fun s h => poolBusy_startWalk h,
    fun s n va => requestWalk_late, fun s f r hf hb => ?_, fun s f i hf hi => foldApply_new hf hi,
    fun s k c hk hc => ?_, fun s k hk => ⟨fun hg => ?_, fun hg => ?_, ?_⟩, fun s target old new => raceSampleReplace_outside s old new,
    fun s target old new => raceSampleReplace_own⟩
  · exact ⟨congrArg Host.Outcome.next (shootdown_refused 0 (.inl hb)), congrArg Host.Outcome.next (shootdown_refused asn (.inl hb)),
      congrArg Host.Outcome.next (shootdown_refused asn (.inl hb))⟩
  · refine congrArg Host.Outcome.next ((shootdown_drops 0 (by decide) hb (.inl (by decide))).trans ?_)
    rw [invKind_all]
    rfl
  · refine congrArg Host.Outcome.next ((shootdown_drops asn (by decide) hb (.inl (by decide))).trans ?_)
    rw [invKind_asn]
    rfl
  · exact congrArg Host.Outcome.next (shootdown_refused asn (.inr ⟨rfl, hn⟩))
  · exact congrArg Host.Outcome.next (shootdown_drops asn (by decide) hb (.inr hn))
  · exact if_pos (by rw [hb, hw]; rfl)
  · exact if_neg (by rw [hb, hw]; decide)
  · exact if_neg (by simpa using hw)
  · change execFoldDelivered s = _
    simp only [execFoldDelivered, hf, hb, Bool.false_eq_true, if_false]
  · exact ⟨congrArg Host.Outcome.next (hbmRetire_eq s hk hc), congrArg Host.Outcome.next (hbmRetire_eq s hk hc)⟩
  · exact ⟨_, if_pos ⟨hg, hk⟩, (getLsbD_selfRefresh s.mm.sr hk).1⟩
  · exact if_neg (by simp [hg])
  · exact ⟨_, if_pos hk, (getLsbD_selfRefresh s.mm.sr hk).2⟩

/-- Settles O48: each command and event of the memory manager comes down to the branch that its condition names. -/
theorem regionsAndTranslationsChangeAsCommanded : Obligations.RegionsAndTranslationsChangeAsCommanded :=
  ⟨regionTableSwitchesAndRefuses, translationsAreFilledAndShotDown⟩

end Sys2Proof.Machine
end

section
/-! SUPPORT. O44: host accesses through the BARs, compatibility mode and configuration space, and the registers of the hub that are
written and read back. -/

namespace Sys2Proof.Machine

open Sys2Proof Sys2Proof.Statements

/-! ### Host reads (R472, R473) -/

/-- Pieces of the device's own memory without errors read as they are. -/
theorem barRead_own {s : State} (hs : s.mm.sr = 0) (l : List (Nat × Nat)) : ∀ at_ : Nat,
    (∀ e ∈ l, isVol (.named e.1) = false ∧ uncorrectable s (.named e.1) e.2 = none) →
    barRead s at_ l = (l.flatMap fun e => readLoc s (.named e.1) e.2, s) := by
  induction l with
  | nil => exact fun _ _ => rfl
  | cons e l ih =>
    obtain ⟨pa, n⟩ := e
    intro at_ h
    obtain ⟨hv, hu⟩ := h (pa, n) List.mem_cons_self
    simp only [barRead, awaken_awake hs, hv, hu, Bool.false_eq_true, if_false, Option.isSome_none,
      ih (at_ + n) fun e he => h e (List.mem_cons_of_mem _ he), List.flatMap_cons]

theorem barFar_nothing (pa at_ : Nat) (b : Option (List Byte)) (fuel o : Nat) (s : State) : barFar pa at_ b fuel o 0 s = s := by
  cases fuel <;> rfl

/-- A piece of another device within one unit of 8 bytes is asked for by one request. -/
theorem barFar_one (s : State) {pa m : Nat} (h0 : 0 < m) (h8 : m ≤ 8 - pa % 8) :
    barFar pa 0 none m 0 m s = (sendReq s (.host (some (0, m))) pa (.load m) 1).1 := by
  obtain ⟨k, rfl⟩ : ∃ k, m = k + 1 := ⟨m - 1, by omega⟩
  have hmin : (k + 1).min (8 - pa % 8) = k + 1 := Nat.min_eq_left h8
  rw [barFar, if_neg (Nat.succ_ne_zero k)]
  simp only [Nat.add_zero]
  rw [hmin, Nat.sub_self, barFar_nothing]

theorem barRead_far {s : State} (hs : s.mm.sr = 0) {pa m : Nat} (hv : isVol (.named pa) = true) (h0 : 0 < m)
    (h8 : m ≤ 8 - pa % 8) :
    barRead s 0 [(pa, m)] = (List.replicate m 0, (sendReq s (.host (some (0, m))) pa (.load m) 1).1) := by
  simp only [barRead, awaken_awake hs, hv, if_true, barFar_one s h0 h8, List.append_nil]

/-! ### Waiting records (R478, R482) -/

/-- With nothing waiting or owed, no record leaves the hub buffer. -/
theorem trapFlush_idle {s : State} (hw : s.host.tr.wait = []) (ho : s.host.owed = []) : trapFlush s = s := by
  unfold trapFlush trapWrite
  rw [ho, hw, List.length_nil]
  split <;> rfl

theorem drainOut_idle {s : State} (h : ∀ e ∈ s.cores, e.2.outRecs = []) : drainOut s = s := by
  have hf : (s.cores.filter fun e => !e.2.outRecs.isEmpty) = [] :=
    List.filter_eq_nil_iff.mpr fun e he => by simp [h e he]
  unfold drainOut
  exact congrArg (fun l => List.foldl drainCore s (List.flatMap (fun e => e.2.outRecs.map fun _ => e.1) l)) hf

theorem drained_idle {s : State} (hw : s.host.tr.wait = []) (ho : s.host.owed = []) (h : ∀ e ∈ s.cores, e.2.outRecs = []) :
    drainOut (trapFlush s) = s := by
  rw [trapFlush_idle hw ho, drainOut_idle h]

theorem execCompatEnable_on {s : State} {v : W64} (hw : s.host.tr.wait = []) (ho : s.host.owed = [])
    (h : ∀ e ∈ s.cores, e.2.outRecs = []) (hv : v.getLsbD 0 = true) (hc : s.host.compatEn = false) (hp : s.host.pri = true)
    (ha : s.host.ats = true) :
    execCompatEnable v s = .next { s with host := { s.host with compatEn := true, compatFail := false } } := by
  unfold execCompatEnable
  rw [if_pos hv, if_neg (by simp [hc, hp, ha])]
  exact congrArg Host.Outcome.next (drained_idle hw ho h)

theorem execCompatEnable_kept {s : State} {v : W64} (hv : v.getLsbD 0 = true) (h : s.host.pri = false ∨ s.host.ats = false) :
    execCompatEnable v s = .next s := by
  unfold execCompatEnable
  rw [if_pos hv, if_pos]
  rcases h with h | h <;> simp [h]

theorem execCompatEnable_off {s : State} {v : W64} (hw : s.host.tr.wait = []) (ho : s.host.owed = [])
    (h : ∀ e ∈ s.cores, e.2.outRecs = []) (hv : v.getLsbD 0 = false) :
    execCompatEnable v s = .next { s with host := { s.host with compatEn := false } } := by
  unfold execCompatEnable
  rw [if_neg (by rw [hv]; decide)]
  exact congrArg Host.Outcome.next (drained_idle hw ho h)

/-- A tag that the host releases is free again; nothing waits for it. -/
theorem execPrgResponse_tag {s : State} {tag : Nat} (fail : Bool) (hw : s.host.tr.wait = []) (ho : s.host.owed = [])
    (h : ∀ e ∈ s.cores, e.2.outRecs = []) (ht : s.host.tags.any (fun e => e.1 = tag) = true) :
    execPrgResponse tag fail s = .next { s with host := { s.host with
      tags := tdel s.host.tags tag, pageReqs := s.host.pageReqs.filter fun e => e.1 ≠ tag
      compatFail := s.host.compatFail || fail } } := by
  unfold execPrgResponse
  rw [if_pos ht]
  refine congrArg Host.Outcome.next ?_
  split
  · exact drained_idle hw ho h
  · rfl

/-- One record leaves as a Page Request, or none does. -/
theorem pageFlush_step {s : State} {b : List Byte} {rest : List (List Byte)} {t : Nat} (n : Nat) (hw : s.host.tr.wait = b :: rest)
    (ht : freeTag s.host.tags 0 256 = some t) (hf : s.host.compatFail = false) :
    (s.host.alloc ≤ s.host.tags.length → pageFlush (n + 1) s = s)
    ∧ (s.host.tags.length < s.host.alloc → let u := { s with host := { s.host with
        tr := { s.host.tr with wait := rest }, tags := tset s.host.tags t (trapOfBytes b)
        pageReqs := s.host.pageReqs ++ [(t, (trapOfBytes b).addr &&& ~~~(0xFFF : W64))] } }
      pageFlush (n + 1) s = pageFlush n (sendMsix u 64)) := by
  refine ⟨fun h => ?_, fun h => ?_⟩
  · simp [pageFlush, hw, ht, h]
  · simp only [pageFlush, hw, ht, hf, Bool.false_or]
    rw [if_neg (by simpa using h)]

theorem hostAccessesReachTheDevice : HostAccessesReachTheDevice := by
  refine ⟨fun s a => ?_, fun s v hw ho hr => ⟨execCompatEnable_on hw ho hr, execCompatEnable_kept, execCompatEnable_off hw ho hr,
    fun tag fail => execPrgResponse_tag fail hw ho hr⟩, fun s page => rfl, fun s a t p => ⟨fun h => ?_, fun h => ?_⟩,
    fun s b rest t n => pageFlush_step n⟩
  · intro n l
    have hat (ha : a.atomic = false) : ¬ a.atomic = true := by simp [ha]
    have hin (hi : barInside s a n = true) : ¬ (!barInside s a n) = true := by simp [hi]
    have hbk (hb : barBacked s l = true) : ¬ (!barBacked s l) = true := by simp [hb]
    refine ⟨fun ha => if_pos ha, fun ha hi => (if_neg (hat ha)).trans (if_pos (by rw [hi]; rfl)),
      fun ha hi hb => (if_neg (hat ha)).trans ((if_neg (hin hi)).trans (if_pos (by rw [hb]; rfl))), fun ha hi hb hwr => ?_,
      fun ha hi hb hwr hs hl => ?_, fun pa m ha hi hb hwr hs hl hv h0 h8 => ?_⟩
    · exact (if_neg (hat ha)).trans ((if_neg (hin hi)).trans ((if_neg (hbk hb)).trans (if_neg (by simpa using hwr))))
    · refine (if_neg (hat ha)).trans ((if_neg (hin hi)).trans ((if_neg (hbk hb)).trans ((if_pos (by simp [hwr])).trans ?_)))
      rw [barRead_own hs l 0 hl]
    · refine (if_neg (hat ha)).trans ((if_neg (hin hi)).trans ((if_neg (hbk hb)).trans ((if_pos (by simp [hwr])).trans ?_)))
      have hread : barRead s 0 l = _ := (congrArg (barRead s 0) hl).trans (barRead_far hs hv h0 h8)
      rw [hread]
  · exact congrArg Host.Outcome.next (if_neg (by simp [h]))
  · exact congrArg Host.Outcome.next (if_pos h)

/-! ### Registers of the hub (R515, R518) -/

theorem setWidth_low (v : W64) {n : Nat} (h : n ≤ 64) : (v.setWidth n).setWidth 64 = v &&& BitVec.ofNat 64 (2 ^ n - 1) := by
  have hp : 2 ^ n ≤ 2 ^ 64 := Nat.pow_le_pow_right (by decide) h
  have h1 : 0 < 2 ^ n := Nat.two_pow_pos n
  apply BitVec.eq_of_toNat_eq
  rw [BitVec.toNat_setWidth, BitVec.toNat_setWidth, BitVec.toNat_and, BitVec.toNat_ofNat,
    Nat.mod_eq_of_lt (show 2 ^ n - 1 < 2 ^ 64 by omega), Nat.and_two_pow_sub_one_eq_mod,
    Nat.mod_eq_of_lt ((Nat.mod_lt _ h1).trans_le hp)]

/-- A register kept as a number of its low bits reads back in them. -/
theorem lowBits_ofNat (v : W64) {n : Nat} (h : n ≤ 64) :
    BitVec.ofNat 64 (v.extractLsb' 0 n).toNat = v &&& BitVec.ofNat 64 (2 ^ n - 1) := by
  rw [← setWidth_low v h, BitVec.setWidth_eq_extractLsb' h]
  apply BitVec.eq_of_toNat_eq
  simp

/-- A write outside recovery is its block's. -/
theorem registerWrite_block {s : State} {off : Nat} (v : W64) (hr : s.mg.recovery = false) (ho : off % 8 = 0) :
    exec (.registerWrite off v) s = .next (match off / 0x100000 with
    | 0 => writeMg s (off % 0x100000) v
    | 1 => writeMm s (off % 0x100000) v
    | 2 => writeRef s (off % 0x100000) v
    | 3 => writeBur s (off % 0x100000) v
    | 4 => writeHost s (off % 0x100000) v
    | 5 => writeVol s (off % 0x100000) v
    | 6 => writePro s (off % 0x100000) v
    | 7 => if off % 0x100000 < 16 * 80 then { s with host := { s.host with msix := tput 0 s.host.msix (off % 0x100000 / 8) v } } else s
    | _ => s) :=
  if_neg (by simp [ho, hr])

/-- What a written register of the hub reads. -/
def ReadsBack (s : State) (v : W64) (off : Nat) (mask : W64) : Prop :=
  ∃ t, exec (.registerWrite off v) s = .next t ∧ hubRead t off = v &&& mask ∧ t.cores = s.cores ∧ t.mem = s.mem

section
variable {s : State} (v : W64) (hr : s.mg.recovery = false)
include hr

theorem readsBack_mm : ReadsBack s v 0x101028 0x1FFFFFFFFFF0000 ∧ ReadsBack s v 0x101030 0xFFFFFFFF := by
  refine ⟨⟨setMm s { s.mm with inva := v &&& 0x1FFFFFFFFFF0000 }, registerWrite_block v hr rfl, ?_, rfl, rfl⟩,
    ⟨setMm s { s.mm with invn := v &&& 0xFFFFFFFF }, registerWrite_block v hr rfl, ?_, rfl, rfl⟩⟩
  all_goals simp [hubRead, hr, readMm, setMm]

theorem readsBack_bur : ReadsBack s v 0x300050 0xFFFFFFFFFFFC0 ∧ ReadsBack s v 0x300058 0xFFFF ∧ ReadsBack s v 0x300068 0xFFFF := by
  refine ⟨⟨setBur s { s.bur with evbase := v &&& 0xFFFFFFFFFFFC0 }, registerWrite_block v hr rfl, ?_, rfl, rfl⟩,
    ⟨setBur s { s.bur with evsize := v &&& 0xFFFF }, registerWrite_block v hr rfl, ?_, rfl, rfl⟩,
    ⟨setBur s { s.bur with evtail := v.setWidth 16 }, registerWrite_block v hr rfl, ?_, rfl, rfl⟩⟩
  · simp [hubRead, hr, readBur, setBur]
  · simp [hubRead, hr, readBur, setBur]
  · simpa [hubRead, hr, readBur, setBur] using setWidth_low v (n := 16) (by decide)

theorem readsBack_host : ReadsBack s v 0x401020 0xFFFFFFFFFFFFF000 ∧ ReadsBack s v 0x401028 0x7FFFFFFFF000
    ∧ ReadsBack s v 0x401030 0xFFFFC00000000 := by
  refine ⟨⟨{ s with host := { s.host with hwbase := v &&& 0xFFFFFFFFFFFFF000 } }, registerWrite_block v hr rfl, ?_, rfl, rfl⟩,
    ⟨{ s with host := { s.host with hwsize := v &&& 0x7FFFFFFFF000 } }, registerWrite_block v hr rfl, ?_, rfl, rfl⟩,
    ⟨{ s with host := { s.host with apbase := v &&& 0xFFFFC00000000 } }, registerWrite_block v hr rfl, ?_, rfl, rfl⟩⟩
  all_goals simp [hubRead, hr, readHost]

theorem readsBack_vol : ReadsBack s v 0x500018 0xFFFFFFFF ∧ ReadsBack s v 0x500020 0xFFFFFFFFFC000 := by
  refine ⟨⟨{ s with vol := { s.vol with ppsoff := v.setWidth 32 } }, registerWrite_block v hr rfl, ?_, rfl, rfl⟩,
    ⟨{ s with vol := { s.vol with rtbase := v &&& 0xFFFFFFFFFC000 } }, registerWrite_block v hr rfl, ?_, rfl, rfl⟩⟩
  · simpa [hubRead, hr, readVol] using setWidth_low v (n := 32) (by decide)
  · simp [hubRead, hr, readVol]

/-- The sizes of the trace ring and of the side table, as read. -/
theorem hubRead_sizes : hubRead s 0x600010 = BitVec.ofNat 64 s.pro.size ∧ hubRead s 0x600048 = BitVec.ofNat 64 s.pro.stsize := by
  simp [hubRead, hr, readPro]

theorem readsBack_trace : ReadsBack s v 0x600000 0xF ∧ ReadsBack s v 0x600008 0xFFFFFFFFFFFC0 ∧ ReadsBack s v 0x600010 0xFFFF
    ∧ ReadsBack s v 0x600028 0xFFFFFFFF ∧ ReadsBack s v 0x600030 0xFFFFFFFF := by
  refine ⟨⟨{ s with pro := { s.pro with ctl := v.setWidth 4 } }, registerWrite_block v hr rfl, ?_, rfl, rfl⟩,
    ⟨{ s with pro := { s.pro with base := v &&& 0xFFFFFFFFFFFC0 } }, registerWrite_block v hr rfl, ?_, rfl, rfl⟩,
    ⟨{ s with pro := { s.pro with size := (v.extractLsb' 0 16).toNat } }, registerWrite_block v hr rfl, ?_, rfl, rfl⟩,
    ⟨{ s with pro := { s.pro with thr := v.setWidth 32 } }, registerWrite_block v hr rfl, ?_, rfl, rfl⟩,
    ⟨{ s with pro := { s.pro with open_ := v.setWidth 32 } }, registerWrite_block v hr rfl, ?_, rfl, rfl⟩⟩
  · simpa [hubRead, hr, readPro] using setWidth_low v (n := 4) (by decide)
  · simp [hubRead, hr, readPro]
  · refine (hubRead_sizes ?_).1.trans (lowBits_ofNat v (n := 16) (by decide))
    exact hr
  · simpa [hubRead, hr, readPro] using setWidth_low v (n := 32) (by decide)
  · simpa [hubRead, hr, readPro] using setWidth_low v (n := 32) (by decide)

theorem readsBack_table : ReadsBack s v 0x600040 0xFFFFFFFFFFFC0 ∧ ReadsBack s v 0x600048 0xFFFFF
    ∧ ReadsBack s v 0x600060 0xFFFFFFFFFFFFFFFF ∧ ReadsBack s v 0x600070 0xFFFFFFFFF3FFFF := by
  refine ⟨⟨{ s with pro := { s.pro with stbase := v &&& 0xFFFFFFFFFFFC0 } }, registerWrite_block v hr rfl, ?_, rfl, rfl⟩,
    ⟨{ s with pro := { s.pro with stsize := (v.extractLsb' 0 20).toNat } }, registerWrite_block v hr rfl, ?_, rfl, rfl⟩,
    ⟨{ s with pro := { s.pro with stopcyc := v } }, registerWrite_block v hr rfl, ?_, rfl, rfl⟩,
    ⟨{ s with pro := { s.pro with dsel := v &&& 0xFFFFFFFFF3FFFF } }, registerWrite_block v hr rfl, ?_, rfl, rfl⟩⟩
  · simp [hubRead, hr, readPro]
  · refine (hubRead_sizes ?_).2.trans (lowBits_ofNat v (n := 20) (by decide))
    exact hr
  · simpa [hubRead, hr, readPro] using (BitVec.and_allOnes (x := v)).symm
  · simp [hubRead, hr, readPro]
end

theorem writtenRegistersReadBack : WrittenRegistersReadBack := by
  refine fun s v => ⟨fun hr => ?_, fun hr off ho => ⟨if_pos (.inr ⟨hr, by omega⟩), fun _ => if_pos ?_⟩⟩
  · have h : ∀ e ∈ [(0x101028, 0x1FFFFFFFFFF0000#64), (0x101030, 0xFFFFFFFF), (0x300050, 0xFFFFFFFFFFFC0), (0x300058, 0xFFFF),
        (0x300068, 0xFFFF), (0x401020, 0xFFFFFFFFFFFFF000), (0x401028, 0x7FFFFFFFF000), (0x401030, 0xFFFFC00000000),
        (0x500018, 0xFFFFFFFF), (0x500020, 0xFFFFFFFFFC000), (0x600000, 0xF), (0x600008, 0xFFFFFFFFFFFC0),
        (0x600010, 0xFFFF), (0x600028, 0xFFFFFFFF), (0x600030, 0xFFFFFFFF), (0x600040, 0xFFFFFFFFFFFC0),
        (0x600048, 0xFFFFF), (0x600060, 0xFFFFFFFFFFFFFFFF), (0x600070, 0xFFFFFFFFF3FFFF)], ReadsBack s v e.1 e.2 := by
      obtain ⟨m1, m2⟩ := readsBack_mm v hr
      obtain ⟨b1, b2, b3⟩ := readsBack_bur v hr
      obtain ⟨h1, h2, h3⟩ := readsBack_host v hr
      obtain ⟨v1, v2⟩ := readsBack_vol v hr
      obtain ⟨p1, p2, p3, p4, p5⟩ := readsBack_trace v hr
      obtain ⟨p6, p7, p8, p9⟩ := readsBack_table v hr
      simp only [List.forall_mem_cons, List.not_mem_nil, false_imp_iff, implies_true, and_true]
      exact ⟨m1, m2, b1, b2, b3, h1, h2, h3, v1, v2, p1, p2, p3, p4, p5, p6, p7, p8, p9⟩
    exact h
  · simp [hr, show off / 0x100000 ≠ 0 by omega]

/-- Settles O44: an access of the host is refused, performed or sent by the first test that decides it, and each block of registers
reads back what its writes keep. -/
theorem hostAccessesAndRegistersAreServed : Obligations.HostAccessesAndRegistersAreServed :=
  ⟨hostAccessesReachTheDevice, writtenRegistersReadBack⟩

end Sys2Proof.Machine
end

section
/-! SUPPORT. O42: the fetcher serves the queues in turn and reads the slot at head, and each packet does its work and leaves its
record. -/

namespace Sys2Proof.Machine

open Sys2Proof Sys2Proof.Statements

/-! ### Asking for a read (R99, R475 to R477) -/

theorem setSq_setSq (s : State) (q : Nat) (v w : Sq) : setSq (setSq s q v) q w = setSq s q w :=
  congrArg (fun t => ({ s with host := { s.host with sq := t } } : State)) (tset_tset ..)

/-- A read that is asked for once the queue's state is `x`. -/
theorem askRead_setSq (s : State) (q : Nat) (x : Sq) : askRead (setSq s q x) q
    = if ringEn x.cfg && !x.stopped then setSq s q { x with owed := x.owed + 1 } else setSq s q x := by
  unfold askRead
  rw [getSq_setSq_self]
  dsimp only
  rw [setSq_setSq]

theorem queueIsAsked (s : State) (q : Nat) (hq : q < 64) :
    let v := getSq s q
    let asks (x : Sq) : State := if ringEn x.cfg && !x.stopped then setSq s q { x with owed := x.owed + 1 } else setSq s q x
    (ringEn v.cfg = true → v.stopped = false → exec (.sqDoorbell q) s = .next (asks v))
    ∧ (ringEn v.cfg = false ∨ v.stopped = true → exec (.sqDoorbell q) s = .next s)
    ∧ (pollDue s q = true → v.stopped = false → exec (.sqPoll q) s = .next (asks { v with polled := s.gtc }))
    ∧ (rereadReady s q = true → exec (.packetReread q) s = .next (setSq s q { v with rereadDue := false, reread := true }))
    ∧ (v.torn = true → exec (.tornClear q) s
        = .next (asks { v with torn := false, stopped := false, rereads := 0, rereadDue := false, reread := false })) := by
  intro v asks
  refine ⟨fun he hs => ?_, fun h => ?_, fun hp hs => ?_, fun hr => if_pos ⟨hq, hr⟩, fun ht => ?_⟩
  · have hc : (ringEn v.cfg && !v.stopped) = true := by rw [he, hs]; rfl
    exact (if_pos hq).trans (congrArg Host.Outcome.next ((if_pos hc).trans (if_pos hc).symm))
  · have hc : ¬ (ringEn v.cfg && !v.stopped) = true := by rcases h with h | h <;> simp [h]
    exact (if_pos hq).trans (congrArg Host.Outcome.next (if_neg hc))
  · exact (if_pos ⟨hq, hp⟩).trans (congrArg Host.Outcome.next (askRead_setSq s q { v with polled := s.gtc }))
  · exact (if_pos ⟨hq, ht⟩).trans (congrArg Host.Outcome.next (askRead_setSq s q
      { v with torn := false, stopped := false, rereads := 0, rereadDue := false, reread := false }))

/-! ### The fetcher's turn (R403) -/

theorem lexLt_single (a b : Nat) : lexLt [a] [b] = decide (a < b) := by
  unfold lexLt
  split
  · next h => simp [h]
  · next h => simp [h, lexLt]

theorem insKey_ne_nil {α : Type} (k : List Nat) (a : α) (l : List (List Nat × α)) : insKey k a l ≠ [] := by
  cases l with
  | nil => exact List.cons_ne_nil _ _
  | cons e l =>
    rw [insKey]
    split <;> exact List.cons_ne_nil _ _

/-- The first of a list sorted by one number is one whose number is least. -/
theorem sortKey_head {α β : Type} (f : β → Nat) (g : β → α) (l : List β) : ∀ {k : List Nat} {a : α},
    (sortKey (l.map fun e => ([f e], g e))).head? = some (k, a) → ∃ e ∈ l, k = [f e] ∧ a = g e ∧ ∀ e' ∈ l, f e ≤ f e' := by
  induction l with
  | nil => exact fun h => by cases h
  | cons x l ih =>
    intro k a h
    rw [List.map_cons, sortKey] at h
    cases hs : sortKey (l.map fun e => ([f e], g e)) with
    | nil =>
      have hl : l = [] := by
        cases l with
        | nil => rfl
        | cons y l => exact (insKey_ne_nil _ _ _ hs).elim
      rw [hs] at h
      cases h
      exact ⟨x, List.mem_cons_self, rfl, rfl, by simp [hl]⟩
    | cons y m =>
      obtain ⟨k', b⟩ := y
      rw [hs] at ih h
      obtain ⟨e, he, rfl, rfl, hmin⟩ := ih rfl
      rw [insKey, lexLt_single] at h
      split at h
      next hlt =>
        cases h
        have hlt := of_decide_eq_true hlt
        refine ⟨x, List.mem_cons_self, rfl, rfl, fun e' he' => ?_⟩
        rcases List.mem_cons.mp he' with rfl | he'
        · exact le_refl _
        · exact hlt.le.trans (hmin e' he')
      next hge =>
        cases h
        have hge := of_decide_eq_false (Bool.eq_false_of_not_eq_true hge)
        refine ⟨e, List.mem_cons_of_mem _ he, rfl, rfl, fun e' he' => ?_⟩
        rcases List.mem_cons.mp he' with rfl | he'
        · omega
        · exact hmin e' he'

theorem nextQueue_least {s : State} {q : Nat} (h : nextQueue s = some q) :
    (∃ e ∈ s.host.sq, e.1 = q ∧ q < 64 ∧ e.2.work = true)
    ∧ ∀ e ∈ s.host.sq, e.1 < 64 → e.2.work = true → (q + 127 - s.host.served) % 64 ≤ (e.1 + 127 - s.host.served) % 64 := by
  unfold nextQueue at h
  obtain ⟨⟨k, a⟩, hh, rfl⟩ := Option.map_eq_some_iff.mp h
  obtain ⟨e, he, -, rfl, hmin⟩ := sortKey_head (fun e => (e.1 + 127 - s.host.served) % 64) Prod.fst _ hh
  have hf (e : Nat × Sq) : e ∈ s.host.sq.filter (fun e => e.2.work && decide (e.1 < 64))
      ↔ e ∈ s.host.sq ∧ e.2.work = true ∧ e.1 < 64 := by simp
  obtain ⟨hm, hw, hlt⟩ := (hf e).mp he
  exact ⟨⟨e, hm, rfl, hlt, hw⟩, fun e' he' hlt' hw' => hmin e' ((hf e').mpr ⟨he', hw', hlt'⟩)⟩

theorem fetcherServesInTurn (s : State) : (tablesFull s = true ∨ nextQueue s = none → fetchTurn s = s)
    ∧ ∀ q, nextQueue s = some q →
      (∃ e ∈ s.host.sq, e.1 = q ∧ q < 64 ∧ e.2.work = true)
      ∧ (∀ e ∈ s.host.sq, e.1 < 64 → e.2.work = true → (q + 127 - s.host.served) % 64 ≤ (e.1 + 127 - s.host.served) % 64)
      ∧ (tablesFull s = false →
        let u : State := { s with host := { s.host with served := q } }
        ((getSq s q).reread = true → fetchTurn s = fetchSlot (setSq u q { getSq s q with reread := false }) q true)
        ∧ ((getSq s q).reread = false →
          fetchTurn s = fetchSlot (setSq u q { getSq s q with owed := (getSq s q).owed - 1 }) q false)) := by
  refine ⟨fun h => ?_, fun q hq => ?_⟩
  · have hn : (if tablesFull s then none else nextQueue s) = none := by
      rcases h with h | h
      · exact if_pos h
      · rw [h, ite_self]
    rw [fetchTurn, hn]
  · obtain ⟨he, hmin⟩ := nextQueue_least hq
    refine ⟨he, hmin, fun hf => ?_⟩
    have hn : (if tablesFull s then none else nextQueue s) = some q := by simp [hf, hq]
    unfold fetchTurn
    rw [hn]
    exact ⟨fun hr => if_pos hr, fun hr => if_neg (ne_true_of_eq_false hr)⟩

/-! ### One read of the slot at head (R100, R101) -/

/-- The state in which a slot is read, and what is read. -/
def slotRead (s : State) (q : Nat) : State × List Byte :=
  let v := { getSq s q with readAt := s.gtc }
  let u := if ringLoc v.cfg then awaken s (regionMap s (slotAddr v)) else s
  (u, readSlot u v)

section
variable {s : State} {q : Nat}

theorem fetchSlot_empty (again : Bool) (h : getN (slotRead s q).2 0 4 ≠ ((getSq s q).head + 1).toNat) :
    fetchSlot s q again = setSq (slotRead s q).1 q ({ getSq s q with readAt := s.gtc } : Sq).afresh :=
  if_pos h

variable (hs : getN (slotRead s q).2 0 4 = ((getSq s q).head + 1).toNat)
include hs

theorem fetchSlot_crc (again : Bool) (hc : slotCrcOk (slotRead s q).2 = true) : fetchSlot s q again
    = (let v : Sq := { getSq s q with readAt := s.gtc }
      if heldBack (slotRead s q).1 (slotRead s q).2 then setSq (slotRead s q).1 q { v.afresh with owed := v.owed + 1 }
      else runPacket (setSq (slotRead s q).1 q { v.afresh with head := v.head + 1 }) q (slotRead s q).2) :=
  (if_neg (not_not_intro hs)).trans (if_pos hc)

theorem fetchSlot_badCrc (again : Bool) (hc : slotCrcOk (slotRead s q).2 = false) : fetchSlot s q again
    = (let v : Sq := { getSq s q with readAt := s.gtc }
      let n := if again then v.rereads + 1 else v.rereads
      if 16 ≤ n then tearQueue (slotRead s q).1 q
      else setSq (slotRead s q).1 q { v with rereads := n, rereadDue := true, reread := false }) :=
  (if_neg (not_not_intro hs)).trans (if_neg (ne_true_of_eq_false hc))
end

theorem tearQueue_queue (s : State) (q : Nat) : (getSq (tearQueue s q) q).torn = true ∧ (getSq (tearQueue s q) q).stopped = true
    ∧ (getSq (tearQueue s q) q).head = (getSq s q).head ∧ (tearQueue s q).host.msgs = 66 :: s.host.msgs := by
  have hq : getSq (tearQueue s q) q = { (getSq s q).afresh with torn := true, stopped := true, owed := 0 } := getSq_setSq_self ..
  rw [hq]
  exact ⟨rfl, rfl, rfl, rfl⟩

theorem fetcherReadsThePacketAtHead : FetcherReadsThePacketAtHead := by
  refine ⟨queueIsAsked, fetcherServesInTurn, fun s q again => ⟨fetchSlot_empty again, fun hs hc hb => ?_, fun hs hc hb => ?_,
    fun hs hc => ⟨fun hn => ?_, fun hn => ?_⟩⟩⟩
  · exact (fetchSlot_crc hs again hc).trans (if_neg (ne_true_of_eq_false hb))
  · exact (fetchSlot_crc hs again hc).trans (if_pos hb)
  · exact (fetchSlot_badCrc hs again hc).trans (if_neg (by omega))
  · rw [(fetchSlot_badCrc hs again hc).trans (if_pos hn)]
    exact tearQueue_queue ..

/-! ### Packets (R161, R406, R407, R411, R412, R437) -/

/-- The image of which a packet speaks, as the loader reads it. -/
theorem loadImagePkt_read {s : State} {id : Nat} {vbase : W64} (q addr size : Nat) (hv : vbase.toNat % 65536 = 0)
    (hi : imageUsed s id = false) :
    let u := awakenSpan s addr size
    let b := if 0 < size ∧ spaReadable u addr size = true then readSpaLong u addr size else []
    (loaderStatus b addr size ≠ 0 → loadImagePkt s q id addr size vbase = packetRecord u q 0 13 (some (loaderStatus b addr size)))
    ∧ (loaderStatus b addr size = 0 → loadImagePkt s q id addr size vbase = packetRecord
        { u with ref := { u.ref with images := tset u.ref.images id (imageOfBytes b addr size vbase) } } q 0 13 (some 0)) := by
  intro u b
  have hb : (if decide (0 < size) && spaReadable u addr size then readSpaLong u addr size else []) = b :=
    if_congr (by simp) rfl rfl
  unfold loadImagePkt
  rw [if_neg (not_not_intro hv), if_neg (ne_true_of_eq_false hi)]
  dsimp only
  rw [hb]
  refine ⟨fun h => ?_, fun h => ?_⟩
  · rw [if_neg h]
  · rw [if_pos h, h]

theorem loadImage_packet (s : State) (q : Nat) {id addr size : Nat} {vbase : W64} (hid : id < 256) (hsz : size < 2 ^ 32) :
    exec (.loadImage q id addr size vbase) s = .next (loadImagePkt s q id addr size vbase) := by
  change execLoadImage q id addr size vbase s = _
  rw [execLoadImage, Nat.mod_eq_of_lt hid, Nat.mod_eq_of_lt hsz]

theorem submitGraph_packet {s : State} {p : SubmitPkt} (q : Nat) (hg : p.gflags < 8) (ht : tablesFull s = false)
    (hn : nodesHeld s + p.nodes ≤ 16384) : exec (.submitGraph q p) s = .next (submitPkt s q p) := by
  refine (if_neg (by omega)).trans (if_neg ?_)
  rw [ht]
  simpa using hn

/-- A cancel that is the only one is taken as it was written. -/
theorem cancel_taken {s : State} (q : Nat) (tag : W64) {node : Nat} (hn : node < 65536) (hc : s.ref.cancels = []) :
    ∃ t, exec (.cancel q tag node) s = .next t
      ∧ t = { s with ref := { s.ref with cancels := [(q, tag, node)] } } ∧ takeCancels t = cancelPkt s q tag node := by
  refine ⟨_, ?_, rfl, ?_⟩
  · change execCancel q tag node s = _
    rw [execCancel, hc, Nat.mod_eq_of_lt hn]
    rfl
  · have hs : ({ s with ref := { s.ref with cancels := [] } } : State) = s := by rw [← hc]
    exact congrArg (fun s => cancelPkt s q tag node) hs

theorem cancelPkt_none {s : State} {tag : W64} (q node : Nat) (h : graphsOf s tag = []) :
    cancelPkt s q tag node = packetRecord s q tag 10 (some 0) := by
  rw [cancelPkt, h]
  rfl

theorem cancelPkt_one {s : State} {tag : W64} {g : Nat} (q node : Nat) (h : graphsOf s tag = [g]) :
    cancelPkt s q tag node = packetRecord (cancelGraph s g node).1 q tag 10
      (some ((cancelSet (getGraph s g) node).filter (cancels s g)).length) := by
  rw [cancelPkt, h]
  simp only [List.foldl_cons, List.foldl_nil, Nat.zero_add]
  rfl

theorem wake_packet (s : State) (q : Nat) (tag v : W64) {node lid off : Nat} (hn : node < 65536) (hl : lid < 65536)
    (ho : off < 2 ^ 32) : exec (.wake q tag node lid off v) s = .next (wakePkt s q tag node lid off v) := by
  change execWake q tag node lid off v s = _
  rw [execWake, Nat.mod_eq_of_lt hn, Nat.mod_eq_of_lt hl, Nat.mod_eq_of_lt ho]

theorem wakePkt_bad {s : State} {tag : W64} {node off : Nat} (q lid : Nat) (v : W64)
    (h : off % 8 ≠ 0 ∨ scrSize ≤ off ∨ wakeable s tag node = none) :
    wakePkt s q tag node lid off v = packetRecord s q tag 11 none := by
  unfold wakePkt
  split
  · rfl
  next ha =>
    have hw : wakeable s tag node = none := by tauto
    rw [hw]

theorem wakePkt_done {s t : State} {tag v : W64} {node lid off task : Nat} (q : Nat) (ho : off % 8 = 0) (hs : off < scrSize)
    (hw : wakeable s tag node = some task) (ht : wakeTask s task lid off v = some t) :
    wakePkt s q tag node lid off v = packetRecord t q tag 10 none := by
  unfold wakePkt
  rw [if_neg (by omega), hw]
  dsimp only
  rw [ht]

theorem packetsDoTheirWorkAndLeaveTheirRecord : PacketsDoTheirWorkAndLeaveTheirRecord := by
  refine fun s q tag => ⟨rfl, fun id addr size vbase hid hsz => ⟨fun hv => ?_, fun hv hi => ?_, fun hv hi => ?_⟩,
    fun p hg ht hn => ⟨fun r i h => ?_, fun ns h => ?_⟩, fun node => cancel_taken q tag, fun h node => cancelPkt_none q node h,
    fun g node => cancelPkt_one q node, fun node lid off v hn hl ho => ⟨fun h => ?_, fun task t ho8 hos hw ht => ?_⟩⟩
  · rw [loadImage_packet s q hid hsz, loadImagePkt, if_pos hv]
  · rw [loadImage_packet s q hid hsz, loadImagePkt, if_neg (not_not_intro hv), if_pos hi]
  · rw [loadImage_packet s q hid hsz]
    obtain ⟨hbad, hgood⟩ := loadImagePkt_read q addr size hv hi
    exact ⟨fun h => congrArg _ (hbad h), fun h => congrArg _ (hgood h)⟩
  · rw [submitGraph_packet q hg ht hn, submitPkt, h]
  · rw [submitGraph_packet q hg ht hn, submitPkt, h]
  · rw [wake_packet s q tag v hn hl ho, wakePkt_bad q lid v h]
  · rw [wake_packet s q tag v hn hl ho, wakePkt_done q ho8 hos hw ht]

/-- Settles O42: the fetcher's turn picks the least of a sorted list, and each packet comes down to the branch of its conditions. -/
theorem packetsAreFetchedAndDone : Obligations.PacketsAreFetchedAndDone :=
  ⟨fetcherReadsThePacketAtHead, packetsDoTheirWorkAndLeaveTheirRecord⟩

end Sys2Proof.Machine
end

section
/-! SUPPORT. O45: freezes perform what is in flight, images are saved and restored, halts end, and a record of an absent feature parks
its task again. -/

namespace Sys2Proof.Machine

open Sys2Proof Sys2Proof.Statements

/-! ### The freeze (R221, R286, R345, R462) -/

theorem inCore_next {s t : State} {c : Nat} {f : State → Host.Outcome State Fault Refusal} (h : f { s with cur := c } = .next t) :
    inCore s c f = { t with cur := s.cur } := by
  rw [inCore, h]

/-- A list of steps of which one, and only the first time, changes anything. -/
theorem foldl_once {α β : Type} {f : α → β → α} {s u : α} {b : β} (hb : f s b = u) (l : List β) (hs : ∀ x ∈ l, x ≠ b → f s x = s)
    (hu : ∀ x ∈ l, f u x = u) (h : b ∈ l) : l.foldl f s = u := by
  have hstay (m : List β) : (∀ x ∈ m, f u x = u) → m.foldl f u = u := by
    induction m with
    | nil => exact fun _ => rfl
    | cons x m ih =>
      intro hm
      rw [List.foldl_cons, hm x List.mem_cons_self, ih fun y hy => hm y (List.mem_cons_of_mem _ hy)]
  induction l with
  | nil => cases h
  | cons x l ih =>
    have hu' : ∀ y ∈ l, f u y = u := fun y hy => hu y (List.mem_cons_of_mem _ hy)
    rw [List.foldl_cons]
    by_cases hx : x = b
    · rw [hx, hb, hstay l hu']
    · rw [hs x List.mem_cons_self hx]
      exact ih (fun y hy => hs y (List.mem_cons_of_mem _ hy)) hu' ((List.mem_cons.mp h).resolve_left (Ne.symm hx))

/-- A strand with nothing in flight has nothing performed. -/
theorem memoryAccess_idle {s : State} {c : Nat} {m : BitVec 2} (h : (getStrand (getCore s c) m.toNat).flight = none) :
    inCore s c (execMemoryAccessPerformed m) = s := by
  have hx : execMemoryAccessPerformed m { s with cur := c } = .next { s with cur := c } := by
    have hf : (sn { s with cur := c } m.toNat).flight = none := h
    simp only [execMemoryAccessPerformed, hf]
  rw [inCore_next hx]

theorem flushStrands_one {s t : State} {c : Nat} {n : BitVec 2}
    (hm : ∀ m : BitVec 2, m ≠ n → (getStrand (getCore s c) m.toNat).flight = none)
    (he : exec (.memoryAccessPerformed n) { s with cur := c } = .next t)
    (ht : ∀ m : BitVec 2, (getStrand (getCore t c) m.toNat).flight = none) : flushStrands s c = { t with cur := s.cur } := by
  have hb : inCore s c (execMemoryAccessPerformed (BitVec.ofNat 2 n.toNat)) = { t with cur := s.cur } := by
    rw [BitVec.ofNat_toNat, BitVec.setWidth_eq]
    exact inCore_next he
  refine foldl_once hb _ (fun x hx hne => memoryAccess_idle (hm _ fun h => hne ?_)) (fun x _ => memoryAccess_idle (ht _)) ?_
  · have hx4 : x < 4 := by
      simp only [List.mem_cons, List.not_mem_nil, or_false] at hx
      omega
    rw [← h, BitVec.toNat_ofNat, Nat.mod_eq_of_lt hx4]
  · have hn : n.toNat < 4 := n.isLt
    simp only [List.mem_cons, List.not_mem_nil, or_false]
    omega

/-- Past the vector word, engines with nothing in flight have nothing performed. -/
theorem flushEngines_rest {s : State} {c : Nat} {u : State}
    (hv : (if (holdingWord (getCore s c).vec.fly).isSome then inCore s c execVectorRemoteAccessDone else s) = u)
    (hg : (getCore u c).gen.fly.any genHolding = false) (hf : fillHolding (getCore u c) = false)
    (hs : (getCore u c).cpy.sent = none) (hp : pieceAcked (getCore u c) = false) : flushEngines s c = u := by
  unfold flushEngines
  rw [hv]
  simp only [hg, hf, hp, hs, Bool.false_eq_true, if_false, reduceCtorEq]

theorem flushEngines_vector {s : State} {c : Nat} (hg : (getCore s c).gen.fly.any genHolding = false)
    (hf : fillHolding (getCore s c) = false) (hs : (getCore s c).cpy.sent = none) (hp : pieceAcked (getCore s c) = false) :
    ((holdingWord (getCore s c).vec.fly).isSome = false → flushEngines s c = s)
    ∧ ∀ t, (holdingWord (getCore s c).vec.fly).isSome = true → exec .vectorRemoteAccessDone { s with cur := c } = .next t →
      (getCore t c).gen = (getCore s c).gen → (getCore t c).cpy = (getCore s c).cpy → (getCore t c).acks = [] →
      flushEngines s c = { t with cur := s.cur } := by
  refine ⟨fun hv => flushEngines_rest (if_neg (ne_true_of_eq_false hv)) hg hf hs hp, fun t hv he tg tc ta => ?_⟩
  have hgc : getCore { t with cur := s.cur } c = getCore t c := rfl
  refine flushEngines_rest ((if_pos hv).trans (inCore_next he)) ?_ ?_ ?_ ?_
  · rw [hgc, tg, hg]
  · rw [hgc, ← hf, fillHolding, fillHolding, theFill, theFill, tg]
  · rw [hgc, tc, hs]
  · simp [hgc, pieceAcked, acksOf, ta]

/-! ### Images (R463, R464) -/

theorem freeClusters_ref (shed : Bool) (l : List Nat) : ∀ s : State, (freeClusters s shed l).ref = s.ref := by
  induction l with
  | nil => exact fun _ => rfl
  | cons k l ih =>
    intro s
    unfold freeClusters
    dsimp only
    rw [ih]
    split <;> rfl

/-- The task of an image that has been saved. -/
theorem getTask_saveImage (s : State) (task : Nat) : let f := fillRange s (getTask s task)
    getTask (saveImage s task) task = { getTask s task with
      st := .parked, saved := (coresOf f task).foldl (fun m c => tset m (getCore f c).lid (imageCore f (getTask s task) c)) []
      savedSlots := (getTask s task).slots, clusters := [], wasParked := true, imaged := true } := by
  intro f
  have href (u : State) (l : List Nat) (i : Nat) : getTask (coresOff (freeClusters u false l) l) i = getTask u i :=
    (congrArg (fun r => tget {} r.tasks i) (freeClusters_ref false l u) :)
  unfold saveImage
  dsimp only
  rw [href]
  exact getTask_setTask_self ..

/-! ### Records that a freeze hands over leave the Referee as it is -/

section
variable (s : State) (r : RingId)

theorem setRing_ref (v : Ring) : (setRing s r v).ref = s.ref := by cases r <;> rfl

theorem ringPut_ref (spa : Bool) (a : Nat) (b : List Byte) : (ringPut s spa a b).ref = s.ref := by
  unfold ringPut
  split
  · exact (sameBut_writeSpa ..).ref
  · rfl

theorem ringMsg_ref : (ringMsg s r).ref = s.ref := by
  unfold ringMsg
  dsimp only
  split
  · rfl
  · split
    · exact setRing_ref ..
    · exact setRing_ref ..
end

theorem ringFlush_ref (r : RingId) (n : Nat) : ∀ s : State, (ringFlush r n s).ref = s.ref := by
  induction n with
  | zero => exact fun _ => rfl
  | succ n ih =>
    intro s
    unfold ringFlush
    dsimp only
    split
    · rfl
    · split
      · rw [ih, ringMsg_ref, setRing_ref, ringPut_ref]
      · rfl

theorem pageFlush_ref (n : Nat) : ∀ s : State, (pageFlush n s).ref = s.ref := by
  induction n with
  | zero => exact fun _ => rfl
  | succ n ih =>
    intro s
    unfold pageFlush
    split
    · split
      · rfl
      · exact ih _
    · rfl

theorem trapWrite_ref (s : State) : (trapWrite s).ref = s.ref := by
  unfold trapWrite
  split
  · exact pageFlush_ref ..
  · exact ringFlush_ref ..

theorem takeOwed_ref (n : Nat) : ∀ s : State, (takeOwed n s).ref = s.ref := by
  induction n with
  | zero => exact fun _ => rfl
  | succ n ih => exact fun s => (ih _).trans (trapWrite_ref _)

theorem trapAdd_ref (s : State) (t : Trap) : (trapAdd s t).ref = s.ref := (takeOwed_ref ..).trans (trapWrite_ref _)

theorem drainCore_ref {c : Nat} (h : isPrologue c = false) (s : State) : (drainCore s c).ref = s.ref := by
  unfold drainCore
  split
  · rfl
  · split
    · rw [h]
      exact trapAdd_ref ..
    · rfl

theorem foldl_ref {α : Type} {f : State → α → State} {l : List α} (h : ∀ x ∈ l, ∀ s, (f s x).ref = s.ref) :
    ∀ s : State, (l.foldl f s).ref = s.ref := by
  induction l with
  | nil => exact fun _ => rfl
  | cons x l ih =>
    intro s
    rw [List.foldl_cons, ih fun y hy => h y (List.mem_cons_of_mem _ hy), h x List.mem_cons_self]

theorem deliverRecs_ref {c : Nat} (h : isPrologue c = false) (s : State) : (deliverRecs s c).ref = s.ref := by
  have hd : ∀ (l : List Trap) (s : State), (l.foldl (fun s _ => drainCore s c) s).ref = s.ref :=
    fun l => foldl_ref fun _ _ => drainCore_ref h
  unfold deliverRecs holdForRoom
  dsimp only
  split
  · exact hd ..
  · exact hd ..

theorem isPrologue_of_mem_coresOf {s : State} {task c : Nat} (h : c ∈ coresOf s task) : isPrologue c = false := by
  obtain ⟨⟨c', k⟩, hm, rfl⟩ := List.mem_map.mp h
  have hc := (List.mem_filter.mp hm).2
  simp only [Bool.and_eq_true, Bool.not_eq_true'] at hc
  exact hc.1.2

theorem freezeAll_ref (s : State) (task : Nat) : (freezeAll s task).ref = s.ref :=
  foldl_ref (f := deliverRecs) (fun _ hc => deliverRecs_ref (isPrologue_of_mem_coresOf hc)) s

/-- A task whose park begins. -/
theorem getTask_parkTask (s : State) (task : Nat) : getTask (parkTask s task) task = { getTask s task with st := .freezing } :=
  (congrArg (fun r => tget {} r.tasks task) (freezeAll_ref (setTask s task { getTask s task with st := .freezing }) task) :).trans
    (getTask_setTask_self ..)

/-! ### The events of parks, resumes and halts -/

section
variable {s : State} {task : Nat}

theorem freezeComplete_flushed (h : (getTask s task).st = .freezing) :
    let cores := coresOf s task
    let u := overCores (overCores (overCores (overCores s cores flushWalks) cores flushCopyWalk) cores flushStrands) cores flushEngines
    (cores.any (stillOut u) = true → exec (.freezeComplete task) s = .next u)
    ∧ (cores.any (stillOut u) = false →
      let w := overCores (overCores u cores refuseHeld) cores withdraw
      exec (.freezeComplete task) s = .next (setTask w task { getTask w task with st := .saving })) := by
  have hst : ((getTask s task).st == .freezing) = true := beq_iff_eq.mpr h
  exact ⟨fun ho => (if_pos hst).trans (if_pos ho), fun ho => (if_pos hst).trans (if_neg (ne_true_of_eq_false ho))⟩

theorem imageSaved_waits (h : (getTask s task).st ≠ .saving ∨ firstToSave s task = false ∨ noneFlying s (coresOf s task) = false) :
    exec (.imageSaved task) s = .next s := by
  refine if_neg ?_
  simp only [Bool.and_eq_true, beq_iff_eq]
  rintro ⟨⟨hs, hf⟩, hn⟩
  rcases h with h | h | h
  · exact h hs
  · exact Bool.false_ne_true (h.symm.trans hf)
  · exact Bool.false_ne_true (h.symm.trans hn)

theorem imageSaved_saves (hs : (getTask s task).st = .saving) (hf : firstToSave s task = true)
    (hn : noneFlying s (coresOf s task) = true) (hr : (getTask s task).repark = false) :
    exec (.imageSaved task) s = .next (evalSoon (saveImage s task)) := by
  refine (if_pos ?_).trans ?_
  · rw [hs, hf, hn]
    rfl
  · rw [if_neg (ne_true_of_eq_false hr)]

theorem haltComplete_ends {st : Nat} {d : Option W64} (hs : (getTask s task).st = .halting)
    (he : (getTask s task).ending = some (st, d)) (hr : ∀ c ∈ coresOf s task, recordsOut (getCore s c) = true) :
    exec (.haltComplete task) s = .next (launchOver (shedAccesses s (coresOf s task)) task st d true) := by
  change execHaltComplete task s = _
  unfold execHaltComplete
  dsimp only
  rw [hs, he]
  exact if_pos (List.all_eq_true.mpr hr)

theorem featureAbsentRepark_parks (hs : (getTask s task).st = .running)
    (hp : ∃ c ∈ coresOf s task, ∃ p ∈ (getCore s c).pendRecs, p.trap.code = 0x0003) :
    ∃ t, exec (.featureAbsentRepark task) s = .next t ∧ (getTask t task).st = .freezing ∧ (getTask t task).repark = true := by
  obtain ⟨c, hc, p, hp, hcode⟩ := hp
  refine ⟨_, if_pos ?_, ?_⟩
  · rw [hs]
    exact Bool.and_eq_true_iff.mpr ⟨rfl, List.any_eq_true.mpr ⟨c, hc, List.any_eq_true.mpr ⟨p, hp, decide_eq_true hcode⟩⟩⟩
  · rw [getTask_parkTask, getTask_setTask_self]
    exact ⟨rfl, rfl⟩

end

theorem ite_isEmpty {α β : Type} (l : List α) (a b : β) : (if !l.isEmpty then a else b) = if l = [] then b else a := by
  cases l
  · exact (if_neg Bool.false_ne_true).trans (if_pos rfl).symm
  · exact (if_pos rfl).trans (if_neg (List.cons_ne_nil _ _)).symm

/-- What follows once a task's cores are in place. -/
def runAgain (task : Nat) (placed : State) : State :=
  let s := heldArrivals (parkedDeliver placed task) task
  evalSoon (allotRestore ((coresOf s task).foldl finishCheck s))

theorem restoreComplete_runs {s : State} {task : Nat} (hs : (getTask s task).st = .restoring)
    (hc : (getTask s task).clusters ≠ []) (hm : anyMoving s (getTask s task).clusters = false)
    (hd : ∀ k ∈ (getTask s task).clusters, dieUsable s (k / 2) = true) :
    let t := getTask s task
    let s1 := setNode s t.graph t.node { getNode (getGraph s t.graph) t.node with st := .running, image := none }
    let s2 := { s1 with bur := { s1.bur with
      gradeAt := if s1.bur.releasing.contains task then some s1.gtc else s1.bur.gradeAt
      releasing := s1.bur.releasing.filter (· ≠ task) } }
    let placed := if t.ylds = [] then
        let s3 := t.saved.foldl (fun s e => placeCore s t e.1 e.2) (setTask s2 task { t with st := .running })
        (coresOf s3 task).foldl rearm s3
      else t.ylds.foldl (fun s e => placeYield s t e.1 e.2) (setTask s2 task { t with st := .running, ylds := [] })
    exec (.restoreComplete task) s = .next (runAgain task placed) := by
  intro t s1 s2 placed
  refine (if_pos ?_).trans (congrArg (fun u => Host.Outcome.next (runAgain task u)) (ite_isEmpty t.ylds _ _))
  simp [hs, hc, hm, List.all_eq_true.mpr hd]

/-- Settles O45: what is in flight is performed core by core, and each event of a park, a resume or a halt comes down to its
branch. -/
theorem parksResumeAndHaltsEnd : Obligations.ParksResumeAndHaltsEnd := by
  refine ⟨fun s c n t => flushStrands_one, fun s c => flushEngines_vector, fun s task => ?_⟩
  intro cores
  refine ⟨freezeComplete_flushed, imageSaved_waits, fun hs hf hn hr => ⟨imageSaved_saves hs hf hn hr, ?_, ?_, ?_⟩,
    fun hs hc hm hd => ?_, fun st d => haltComplete_ends, featureAbsentRepark_parks⟩
  · rw [getTask_saveImage]
  · rw [getTask_saveImage]
  · rw [getTask_saveImage]
  · exact restoreComplete_runs hs hc hm hd

end Sys2Proof.Machine
end
